-- ==== Sys2Proof/Word.lean ====
section
/-! DEFINITION. The widths the manual counts in: bytes, 64-bit registers, hall addresses. -/
namespace Sys2Proof

/-- One byte of a stack. -/
abbrev Byte := BitVec 8
/-- A register of the control window (R3). -/
abbrev Reg := BitVec 64
/-- Bytes of this node's stacks, keyed by the local part of a hall address (stack in [47:43],
offset in [42:0], R466), in canonical form: addresses strictly rising, no zero byte listed. -/
abbrev Memory := List (Nat × Byte)

end Sys2Proof
end

