-- ==== Sys2Proof/Syntax.lean ====
section
/-! DEFINITION. The commands of the engine: one constructor for each row of the opcode table, with
the operands the row carries. What a command takes from outside the engine (a measured current, a
failing plot, a flit) is an operand; what the engine knows itself is not. -/
namespace Sys2Proof

/-- One piece of output into a group of a carried record, for the update of R171 on the node that holds the record: step,
format and margin that derive the scale, the extremes gathered (none where every value is a NaN), the saturations, and
the words of a SATURATE event (R174). -/
structure Piece where
  step : BitVec 16
  fmt : BitVec 4
  margin : BitVec 4
  some : Bool
  gmax : BitVec 16
  gmin : BitVec 16
  sats : BitVec 16
  layer : BitVec 16
  opid : BitVec 16
  ubatch : BitVec 16
  node : BitVec 20
  unit : BitVec 4
  slot : BitVec 4
  desc : BitVec 16
  group : Nat
  deriving DecidableEq, Repr

/-- What the node that a store reaches does with its payload: writes it, or writes the bits of one element in a word
(R112, R344), or merges it into the record that stands there (R159, R171, R228, R231, R248). R452 names no flit for
these: the model says it beside the header (log 81). -/
inductive Merge where
  | plain
  | bits (keep : BitVec 32)
  | stat
  | index
  | rows (exps : Bool)
  | carried (p : Piece)
  | block (layer : BitVec 16)
  deriving DecidableEq, Repr

/-- A flit as its header fields (R451) and its payload bytes. `used` says how many payload bytes carry elements, which
LEN gives in 64-byte units only, and `merge` what they are for (log 81). -/
structure Flit where
  typ : BitVec 4 := 0
  vc : Bool := false
  retx : Bool := false
  det : Bool := false
  ddir : Bool := false
  dst : BitVec 12 := 0
  src : BitVec 12 := 0
  sslot : BitVec 4 := 0
  pseq : BitVec 16 := 0
  stamp : BitVec 40 := 0
  addr : BitVec 60 := 0
  eseq : BitVec 32 := 0
  len : BitVec 2 := 0
  lfmt : BitVec 4 := 0
  lw64 : Bool := false
  bfmt : Bool := false
  bexp : BitVec 9 := 0
  cnt : BitVec 8 := 0
  estr : BitVec 24 := 0
  scale : BitVec 16 := 0
  zp : BitVec 8 := 0
  status : BitVec 4 := 0
  sexp : BitVec 9 := 0
  payload : List Byte := []
  used : Nat := 128
  merge : Merge := .plain
  deriving DecidableEq, Repr

/-- The payload bytes that carry elements (R470). -/
def Flit.bytes (f : Flit) : List Byte := f.payload.take (min f.used (64 * f.len.toNat))

/-- A parity check that fails while a gang runs: the member, whether the edge bank failed (R96, R103), and, since twins
run one after the other in dot-product mode, whether its second twin was running (R101). -/
structure ParityHit where
  member : Nat
  edge : Bool
  twin : Bool := false
  deriving DecidableEq, Repr

/-- The sequence tag that one piece of fetched operand data presents at operand assembly (R180, R181): the member
whose stream it is (none: a shared stream, that of the twin where `twin`, or the one operand of another unit), the
descriptor, the piece's coordinate along K, and the tag. -/
structure TagSkew where
  member : Option Nat
  twin : Bool
  desc : BitVec 16
  k : Nat
  found : BitVec 8
  deriving DecidableEq, Repr

/-- What the receiver of one physical lane finds in training (R453, R454): millivolts of P and N,
the sync word (node, port, transmitter lane, inverted), equaliser lock and bit errors. -/
structure LaneObs where
  pmv : Nat
  nmv : Nat
  sync : Option (BitVec 12 × Nat × Nat × Bool)
  locked : Bool
  errors : Nat
  deriving DecidableEq, Repr

/-- What a self-test batch finds in one array: failing plots, and faults outside the plots (R549, R551). -/
structure ArrayFinding where
  array : Nat
  plots : List (Nat × Nat)
  shared : Bool
  deriving DecidableEq, Repr

/-- An image as a node holds it: the node, its length in pages of 4,096 bytes (R514), and its non-zero bytes from 0. -/
structure Image where
  node : BitVec 12
  pages : Nat
  cells : Memory
  deriving DecidableEq, Repr

/-- The commands: one constructor per row of spec/opcode_table.json, in its order. -/
inductive Instr where
  | submit (req : BitVec 128)
  | graphLoadComplete
  | fprod (slot : Fin 16) (node : Nat) (core : Fin 8) (hits : List ParityHit)
  | gdx (slot : Fin 16) (node : Nat) (core : Fin 8) (hits : List ParityHit)
  | gdw (slot : Fin 16) (node : Nat) (core : Fin 8) (hits : List ParityHit)
  | dist (slot : Fin 16) (node : Nat) (core : Fin 8) (hits : List ParityHit)
  | maxidx (slot : Fin 16) (node : Nat) (core : Fin 8)
  | qstat (slot : Fin 16) (node : Nat) (core : Fin 8)
  | qconv (slot : Fin 16) (node : Nat) (core : Fin 8)
  | rescale (slot : Fin 16) (node : Nat) (core : Fin 8)
  | push (slot : Fin 16) (node : Nat)
  | pop (slot : Fin 16) (node : Nat)
  | rowrec (slot : Fin 16) (node : Nat) (core : Fin 8)
  | deriv (slot : Fin 16) (node : Nat) (core : Fin 8)
  | move (slot : Fin 16) (node : Nat)
  | gather (slot : Fin 16) (node : Nat)
  | scatter (slot : Fin 16) (node : Nat)
  | reduce (slot : Fin 16) (node : Nat)
  | update (slot : Fin 16) (node : Nat)
  | snap (slot : Fin 16) (node : Nat)
  | restore (slot : Fin 16) (node : Nat) (images : List Image := [])
  | fence (slot : Fin 16) (node : Nat)
  | stopat (slot : Fin 16) (node : Nat)
  | step (slot : Fin 16) (node : Nat)
  | ctxsave (slot : Fin 16) (node : Nat) (stops : List (Nat × Nat))
  | ctxload (slot : Fin 16) (node : Nat) (cores : List (Nat × Fin 8))
  | nop (slot : Fin 16) (node : Nat)
  | operandFetch (slot : Fin 16) (node : Nat) (core : Fin 8) (skew : Option TagSkew)
  | gangStreamStart (slot : Fin 16) (node : Nat) (hits : List ParityHit := [])
  | instructionRetire (slot : Fin 16) (node : Nat)
  | stashMove (slot : Fin 16)
  | stashReturn (slot : Fin 16)
  | go
  | abort (mask : BitVec 16)
  | eventClear (bits : BitVec 26)
  | maskWrite (mask : BitVec 26)
  | counterSample (bank : BitVec 4) (cmdid : BitVec 16)
  | counterReset (bank : BitVec 4) (cmdid : BitVec 16)
  | sampleAndReset (bank : BitVec 4) (cmdid : BitVec 16)
  | cntTagRead (half : Option Bool := none)
  | traceLostRead (half : Option Bool := none)
  | traceRdWrite (ridx : BitVec 40)
  | stopAtWrite (t : BitVec 64)
  | resume
  | keySel (kport : BitVec 3) (kdir : Bool)
  | stage
  | kword (w : BitVec 64)
  | salt (w : BitVec 32)
  | svcLoad (v : BitVec 64)
  | start
  | portEnable (port : Fin 6)
  | portDisable (port : Fin 6)
  | retrain (port : Fin 6)
  | targetRun
  | targetNap
  | targetDeep
  | nodeIdWrite (v : BitVec 64)
  | hallTopoWrite (v : BitVec 64)
  | verBaseWrite (v : BitVec 64)
  | snapConfigWrite (which : Fin 3) (v : BitVec 64)
  | ackFlash (snum : BitVec 32) (fail : Bool)
  | ackStore (snum : BitVec 32) (fail : Bool)
  | ackLoad (snum : BitVec 32) (buf : Bool) (fail : Bool)
  | registerWrite (offset : BitVec 16) (half : Option Bool) (v : BitVec 64)
  | badAccess (offset : BitVec 16) (size : Nat) (write : Bool)
  | coldReset
  | warmReset
  | scanRequest
  | startupPhaseEnd
  | selftestBatchEnd (found : List ArrayFinding)
  | selftestRunEnd
  | activeClkCrossing
  | autoidle
  | napEnter
  | deepEnter
  | napWakeDone
  | deepWakeDone (errors : List (Fin 6 × Nat) := []) (dark : List (Fin 6) := [])
  | currentSample (ma : List Nat) (mv : List Nat)
  | sensorRead (temps : List (BitVec 16))
  | throttleLevelUpdate
  | forecast
  | governorTelemetry
  | automaticSample
  | positionSample
  | hang (slot : Fin 16)
  | snapdue
  | timeFlitSend (port : Fin 6) (sixteenth : Fin 16 := 0)
  | timeFlit (port : Fin 6) (send recv farRecv echoed : Nat) (hops : BitVec 5)
  | trainStepEnd (port : Fin 6) (lanes : List LaneObs)
  | trainingRetry (port : Fin 6)
  | laneSignalLoss (port : Fin 6) (lane : Nat)
  | laneRetrainDone (port : Fin 6) (lane : Nat) (pass : Bool)
  | laneRecoveryTimeout (port : Fin 6) (transmit : Bool)
  | keyReady (port : Fin 6)
  | keySwitch (port : Fin 6) (tagOk : Bool)
  | readRequest (port : Fin 6) (f : Flit) (tagOk : Bool)
  | store (port : Fin 6) (f : Flit) (tagOk : Bool)
  | accumulateWrite (port : Fin 6) (f : Flit) (tagOk : Bool)
  | accumulateWriteCompressed (port : Fin 6) (f : Flit) (tagOk : Bool)
  | readResponse (port : Fin 6) (f : Flit) (tagOk : Bool)
  | endToEndAck (port : Fin 6) (f : Flit) (tagOk : Bool)
  | negativeResponse (port : Fin 6) (f : Flit) (tagOk : Bool)
  | flitForward (port : Fin 6) (f : Flit) (tagOk : Bool)
  | replayRequest (port : Fin 6) (pseq : BitVec 16)
  | linkAcknowledgement (port : Fin 6) (pseq : BitVec 16)
  | creditReturn (port : Fin 6) (queue : Fin 4) (n : Nat)
  | telemetryFlit (src : BitVec 12) (body : BitVec 106)
  | portStateNotice (node : BitVec 12) (port : Fin 6) (state : BitVec 3)
  | wakeRequest (port : Fin 6)
  | stopCommand (port : Fin 6) (t : BitVec 64)
  | stopTick
  | cutLocalDone
  | cutDoneNotice (node : BitVec 12) (late : Bool)
  | resumeNotice (node : BitVec 12)
  | stepReady (node : BitVec 12) (merges : List (BitVec 16 × BitVec 384))
  | stepDone (blocks : List (BitVec 16 × BitVec 384 × BitVec 256))
  | endMarker (src : BitVec 12) (layer opid ubatch step : BitVec 16)
  | snapReady (node : BitVec 12) (snum : BitVec 32) (depth : BitVec 2) (check : BitVec 8)
  | captureDone (node : BitVec 12) (snum : BitVec 32)
  | snapCaptureEnd (overflow : Memory)
  | parityComplete (role : Fin 2) (images : List Image)
  | parityNotice (node : BitVec 12) (snum : BitVec 32)
  | liveSetChange (set : List (BitVec 12)) (acked : List (BitVec 12) := [])
  | partitionEvaluation (contNear : Bool := false)
  | lossDeclaration (lost : List (BitVec 12))
  | rebuildDone (images : List Image)
  | rejoin (count : BitVec 64) (lost : List (BitVec 12) := [])
  | laneRemovalNotice (port : Fin 6) (lane : Nat)
  | stashReturnEnd (slot : Fin 16)
  | restoreWriteEnd (images : List Image := [])
  | copyReport (node : BitVec 12) (store : Bool) (snum : BitVec 32) (ok : Bool)
  | backupHistoryUpdate (costs : List Nat) (intervals : List Nat)
  deriving DecidableEq, Repr

end Sys2Proof
end

