-- ==== Sys2Proof/Decode.lean ====
section
/-! DEFINITION. Words that spell commands: no row of spec/opcode_table.json gives any bits, so there are
none. -/
namespace Sys2Proof

/-- The command a word of the table spells. -/
def decodeTableWord (_nbits _w : Nat) : Option Instr := none

end Sys2Proof
end

