-- ==== Sys2Proof/Config.lean ====
section
/-! DEFINITION. What an implementation fixes and the free values: constants with no body, so that
nothing can be proved about the number they hold. `freeBits` is drawn with the counter `free` of State
(notes/assumptions/1.md). -/
namespace Sys2Proof.Config

/-- A fresh 64-bit value for each number of the draw (log 1). -/
opaque freeBits : Nat → BitVec 64

/-- Where within its stated bound an approximated function lands, by the function and its operand:
0 the exponential, 1 the reciprocal square root, 16 + DFN the derivatives of R300 (log 4). -/
opaque approx : Nat → Nat → BitVec 64

/-- What a byte of node memory reads that nothing has written (log 2). -/
def unwritten : Byte := 0

end Sys2Proof.Config
end

