-- ==== Sys2Proof/Machine/Bits.lean ====
section
/-! DEFINITION. Bit fields, sign extension and lists: the plain helpers every unit uses. Fields of
records are taken from a natural number that holds the record little-endian (R363). -/
namespace Sys2Proof.Machine

/-- Field of `w` bits at bit `lo` of the record `x`. -/
def fld (x lo w : Nat) : Nat := (x >>> lo) % 2 ^ w

/-- `v` cut to `w` bits and placed at bit `lo`. -/
def put (lo w v : Nat) : Nat := (v % 2 ^ w) <<< lo

/-- Two's complement reading of a `w`-bit field. -/
def sgn (w v : Nat) : Int := if 2 * v < 2 ^ w then (v : Int) else (v : Int) - 2 ^ w

/-- Two's complement code of an integer in `w` bits. -/
def unsgn (w : Nat) (i : Int) : Nat := (i % (2 ^ w : Int)).toNat

/-- Bit `i` of `x`. -/
def bit (x i : Nat) : Bool := fld x i 1 == 1

/-- 1 for true. -/
def b2n (b : Bool) : Nat := if b then 1 else 0

/-- Smallest whole number of `b`s that covers `a`. -/
def cdiv (a b : Nat) : Nat := if b = 0 then 0 else (a + b - 1) / b

/-- Element `i` of a list, or `d` beyond its end. -/
def nth {α : Type} (l : List α) (i : Nat) (d : α) : α := l.getD i d

/-- The list with `x` put first and any later equal entry dropped. -/
def insertNew [DecidableEq α] (x : α) (l : List α) : List α := if x ∈ l then l else x :: l

/-- Sum of a list. -/
def sumN (l : List Nat) : Nat := l.foldl (· + ·) 0

/-- Number of one bits among the low `w` bits. -/
def popCount (x w : Nat) : Nat := (List.range w).foldl (fun a i => a + b2n (bit x i)) 0

/-- A count that stops at `top`. -/
def satAdd (top a b : Nat) : Nat := min top (a + b)

end Sys2Proof.Machine
end

