-- ==== Sys2Proof/Machine/Num.lean ====
section
/-! DEFINITION. The number formats of 03_formats and the scaled conversions of 04_scaling: exact dyadic
values, decoding of codes, the one rounding rule (R127 to R131), code units (R151) and the derivation
of scales (R161, R162). -/
namespace Sys2Proof.Machine

/-- The twelve operand formats of R104, in code order. -/
inductive Fmt where
  | int2 | int3 | int4 | int8 | e2m1 | e2m3 | e3m2 | e4m3 | e5m2 | bf16 | fp16 | fp32
  deriving DecidableEq, Repr

/-- An element format: an operand format, A16, or W64 with its exponent X (R118, R120). -/
inductive EFmt where
  | op (f : Fmt)
  | a16
  | w64 (x : Int)
  deriving DecidableEq, Repr

/-- The format of a 4-bit code; 0xC to 0xF are reserved (R105). -/
def Fmt.ofCode : Nat → Option Fmt
  | 0 => some .int2 | 1 => some .int3 | 2 => some .int4 | 3 => some .int8
  | 4 => some .e2m1 | 5 => some .e2m3 | 6 => some .e3m2 | 7 => some .e4m3
  | 8 => some .e5m2 | 9 => some .bf16 | 10 => some .fp16 | 11 => some .fp32
  | _ => none

/-- The 4-bit code of R104. -/
def Fmt.code : Fmt → Nat
  | .int2 => 0 | .int3 => 1 | .int4 => 2 | .int8 => 3 | .e2m1 => 4 | .e2m3 => 5
  | .e3m2 => 6 | .e4m3 => 7 | .e5m2 => 8 | .bf16 => 9 | .fp16 => 10 | .fp32 => 11

/-- Bits per element (R104). -/
def Fmt.bits : Fmt → Nat
  | .int2 => 2 | .int3 => 3 | .int4 => 4 | .int8 => 8 | .e2m1 => 4 | .e2m3 => 6
  | .e3m2 => 6 | .e4m3 => 8 | .e5m2 => 8 | .bf16 => 16 | .fp16 => 16 | .fp32 => 32

/-- Whether the format is an integer code (R104). -/
def Fmt.isInt : Fmt → Bool
  | .int2 | .int3 | .int4 | .int8 => true
  | _ => false

/-- Elements per 32-bit word (R109). -/
def Fmt.perWord : Fmt → Nat
  | .int2 => 16 | .int3 => 10 | .int4 => 8 | .int8 => 4 | .e2m1 => 8 | .e2m3 => 5
  | .e3m2 => 5 | .e4m3 => 4 | .e5m2 => 4 | .bf16 => 2 | .fp16 => 2 | .fp32 => 1

/-- Fusion class as the number f of nibbles: 1, 2, 3 or 6 (R104, R113). -/
def Fmt.cls : Fmt → Nat
  | .int8 | .bf16 => 2
  | .fp16 => 3
  | .fp32 => 6
  | _ => 1

/-- Exponent bits, mantissa bits and bias of a float format (R107); zeros for integers (R113). -/
def Fmt.lay : Fmt → Nat × Nat × Nat
  | .e2m1 => (2, 1, 1) | .e2m3 => (2, 3, 1) | .e3m2 => (3, 2, 3) | .e4m3 => (4, 3, 7)
  | .e5m2 => (5, 2, 15) | .bf16 => (8, 7, 127) | .fp16 => (5, 10, 15) | .fp32 => (8, 23, 127)
  | _ => (0, 0, 0)

/-- Code of the largest finite magnitude (R107); 2ⁿ − 1 for integers. -/
def Fmt.maxCode : Fmt → Nat
  | .int2 => 3 | .int3 => 7 | .int4 => 15 | .int8 => 255
  | .e2m1 => 7 | .e2m3 => 0x1F | .e3m2 => 0x1F | .e4m3 => 0x7E | .e5m2 => 0x7B
  | .bf16 => 0x7F7F | .fp16 => 0x7BFF | .fp32 => 0x7F7FFFFF

/-- Width of the significand g (R113). -/
def Fmt.gBits : Fmt → Nat
  | .int2 => 2 | .int3 => 3 | .int4 => 4 | .int8 => 8 | .e2m1 => 2 | .e2m3 => 4
  | .e3m2 => 3 | .e4m3 => 4 | .e5m2 => 3 | .bf16 => 8 | .fp16 => 11 | .fp32 => 24

/-- The magnitude code of the positive canonical NaN, where the format has one (R132). -/
def Fmt.nanCode : Fmt → Option Nat
  | .e4m3 | .e5m2 => some 0x7F
  | .bf16 => some 0x7FC0
  | .fp16 => some 0x7E00
  | .fp32 => some 0x7FC00000
  | _ => none

/-- Bits of an element of any format (R104, R118, R120). -/
def EFmt.bits : EFmt → Nat
  | .op f => f.bits | .a16 => 16 | .w64 _ => 64

/-- The operand format whose layout the bits have; W64 has none (R118, R122). -/
def EFmt.layout : EFmt → Fmt
  | .op f => f | .a16 => .bf16 | .w64 _ => .fp32

/-- Integer operand format. -/
def EFmt.isInt : EFmt → Bool
  | .op f => f.isInt | _ => false

/-- Elements per 32-bit word; W64 takes two words (R109, R323). -/
def EFmt.perWord : EFmt → Nat
  | .op f => f.perWord | .a16 => 2 | .w64 _ => 1

/-- An exact dyadic number m × 2^e. -/
structure Dy where
  m : Int
  e : Int
  deriving DecidableEq, Repr

/-- Shift a whole number left by `k`, for an exponent difference that is not negative. -/
def shl (m : Int) (k : Int) : Int := m * (2 ^ k.toNat : Nat)

def Dy.zero : Dy := ⟨0, 0⟩
def Dy.ofInt (i : Int) : Dy := ⟨i, 0⟩
def Dy.neg (a : Dy) : Dy := ⟨-a.m, a.e⟩
def Dy.mul (a b : Dy) : Dy := ⟨a.m * b.m, a.e + b.e⟩
/-- Exact sum, over the smaller exponent. -/
def Dy.add (a b : Dy) : Dy :=
  let e := min a.e b.e
  ⟨shl a.m (a.e - e) + shl b.m (b.e - e), e⟩
def Dy.sub (a b : Dy) : Dy := a.add b.neg
def Dy.lt (a b : Dy) : Bool := (a.sub b).m < 0
def Dy.le (a b : Dy) : Bool := (a.sub b).m ≤ 0
def Dy.abs (a : Dy) : Dy := ⟨a.m.natAbs, a.e⟩
def Dy.max (a b : Dy) : Dy := if a.lt b then b else a
def Dy.min (a b : Dy) : Dy := if b.lt a then b else a

/-- A value: a NaN, an infinity, or a finite ± mag × 2^e with its sign of zero (R107, R131). -/
inductive Val where
  | nan (neg : Bool)
  | inf (neg : Bool)
  | num (neg : Bool) (mag : Nat) (e : Int)
  deriving DecidableEq, Repr

def Val.zero : Val := .num false 0 0
def Val.sign : Val → Bool
  | .nan n | .inf n | .num n _ _ => n
def Val.isNan : Val → Bool
  | .nan _ => true | _ => false
def Val.isInf : Val → Bool
  | .inf _ => true | _ => false
/-- The value as an exact number; a NaN or infinity, which callers replace first, gives zero. -/
def Val.dy : Val → Dy
  | .num n m e => ⟨if n then -(m : Int) else m, e⟩
  | _ => Dy.zero
/-- Zero magnitude. -/
def Val.isZero : Val → Bool
  | .num _ m _ => m == 0 | _ => false
/-- A finite value; zero takes the given sign. -/
def Dy.val (d : Dy) (zneg : Bool := false) : Val :=
  if d.m = 0 then .num zneg 0 0 else .num (d.m < 0) d.m.natAbs d.e
def Val.neg : Val → Val
  | .nan n => .nan !n | .inf n => .inf !n | .num n m e => .num (!n) m e

/-- How a conversion is counted (R128, R130, R140). -/
inductive Conv where
  | none | nan | sat | uflow
  deriving DecidableEq, Repr

/-- The counts of R139. -/
structure Counts where
  nan : Nat := 0
  sat : Nat := 0
  uflow : Nat := 0
  deriving DecidableEq, Repr

def Counts.add1 (c : Counts) : Conv → Counts
  | .none => c
  | .nan => { c with nan := c.nan + 1 }
  | .sat => { c with sat := c.sat + 1 }
  | .uflow => { c with uflow := c.uflow + 1 }
def Counts.plus (a b : Counts) : Counts := ⟨a.nan + b.nan, a.sat + b.sat, a.uflow + b.uflow⟩

/-- Value of a code of an operand format, read without scale; an integer code reads as itself (R106, R107). -/
def Fmt.decode (f : Fmt) (c : Nat) : Val :=
  let (e, w, bias) := f.lay
  if f.isInt then .num false (c % 2 ^ f.bits) 0
  else
    let neg := bit c (e + w)
    let ex := fld c w e
    let m := fld c 0 w
    let top := ex == 2 ^ e - 1
    match f with
    | .e4m3 => if top && m == 7 then .nan neg else
        if ex = 0 then .num neg m (1 - bias - w) else .num neg (2 ^ w + m) (ex - bias - w)
    | .e5m2 | .bf16 | .fp16 | .fp32 =>
        if top && m == 0 then .inf neg
        else if top then .nan neg
        else if ex = 0 then .num neg m (1 - bias - w) else .num neg (2 ^ w + m) (ex - bias - w)
    | _ => if ex = 0 then .num neg m (1 - bias - w) else .num neg (2 ^ w + m) (ex - bias - w)

/-- Value of a code of any element format (R118, R120). -/
def EFmt.decode (f : EFmt) (c : Nat) : Val :=
  match f with
  | .op g => g.decode c
  | .a16 => Fmt.bf16.decode c
  | .w64 x => Dy.val ⟨sgn 64 (c % 2 ^ 64), x⟩

/-- Nearest whole number of num/den × 2^s, ties away from zero, for a magnitude (R127). -/
def roundQ (num den : Nat) (s : Int) : Nat :=
  let a := num * 2 ^ s.toNat
  let b := den * 2 ^ (-s).toNat
  if b = 0 then 0 else (2 * a + b) / (2 * b)

/-- Floor of log₂(num/den) for a positive quotient. -/
def log2Q (num den : Nat) : Int :=
  let l : Int := (Nat.log2 num : Int) - Nat.log2 den
  if num * 2 ^ (-l).toNat < den * 2 ^ l.toNat then l - 1 else l

/-- Magnitude code of the nearest representable value of a float format to num/den × 2^ex (R127). -/
def Fmt.encMag (f : Fmt) (num den : Nat) (ex : Int) : Nat :=
  let (_, w, bias) := f.lay
  if num = 0 then 0
  else
    let l := max (log2Q num den + ex) (1 - (bias : Int))
    let n := roundQ num den (ex - (l - w))
    ((l + bias - 1).toNat) * 2 ^ w + n

/-- Sign bit of a float code. -/
def Fmt.signed (f : Fmt) (neg : Bool) (mag : Nat) : Nat :=
  let (e, w, _) := f.lay
  mag + (if neg then 2 ^ (e + w) else 0)

/-- Largest finite magnitude of a float format. -/
def Fmt.maxDy (f : Fmt) : Dy := (f.decode f.maxCode).dy

/-- The conversion of R128 of ± num/den × 2^ex to a float format. -/
def Fmt.encQuot (f : Fmt) (neg : Bool) (num den : Nat) (ex : Int) : Nat × Conv :=
  let mx := f.maxDy
  -- num/den·2^ex > max ⇔ num·2^ex > max·den
  if (mx.mul (Dy.ofInt den)).lt ⟨num, ex⟩ then (f.signed neg f.maxCode, .sat)
  else
    let m := f.encMag num den ex
    (f.signed neg m, if m = 0 && num != 0 then .uflow else .none)

/-- Conversion to a float operand format, R128 and R132. -/
def Fmt.encode (f : Fmt) (v : Val) : Nat × Conv :=
  match v with
  | .nan n => match f.nanCode with
    | some c => (f.signed n c, .nan)
    | none => (0, .nan)
  | .inf n => (f.signed n f.maxCode, .sat)
  | .num n m e => f.encQuot n m 1 e

/-- Largest magnitude of a W64 code the engine writes (R121). -/
def w64Max : Int := 2 ^ 63 - 1

/-- Conversion to W64 with exponent X (R129). -/
def encW64 (x : Int) (v : Val) : Nat × Conv :=
  match v with
  | .nan _ => (0, .nan)
  | .inf n => (unsgn 64 (if n then -w64Max else w64Max), .sat)
  | .num n m e =>
    if Dy.lt ⟨w64Max, x⟩ ⟨m, e⟩ then (unsgn 64 (if n then -w64Max else w64Max), .sat)
    else
      let q := roundQ m 1 (e - x)
      (unsgn 64 (if n then -(q : Int) else q), if q = 0 && m != 0 then .uflow else .none)

/-- Conversion without scale to a float or accumulator format (R128, R129); A16 has no NaN (R132). -/
def EFmt.encode (f : EFmt) (v : Val) : Nat × Conv :=
  match f with
  | .op g => g.encode v
  | .a16 => match v with
    | .nan _ => (0, .nan)
    | _ => Fmt.bf16.encode v
  | .w64 x => encW64 x v

/-- The value in code units of v under a non-zero finite scale s (R151). -/
def codeUnits (v s : Dy) : Dy :=
  let ms := s.m.natAbs
  let lg := Nat.log2 ms
  let t : Nat := if 2 ^ lg = ms then 31 + lg else 32 + lg
  let mu0 := (2 * 2 ^ t + ms) / (2 * ms)
  let q0 : Int := t + s.e
  let (mu, q) := if mu0 = 2 ^ 32 then (2 ^ 31, q0 - 1) else (mu0, q0)
  ⟨(if s.m < 0 then -v.m else v.m) * mu, v.e - q⟩

/-- Nearest whole number of an exact value, ties away from zero (R127). -/
def Dy.round (d : Dy) : Int :=
  let r := roundQ d.m.natAbs 1 d.e
  if d.m < 0 then -(r : Int) else r

/-- Conversion of a value in code units to an n-bit code with zero point z (R130). -/
def encInt (n : Nat) (z : Nat) (u : Dy) : Nat × Conv :=
  let r := u.round
  let t := r + z
  let top : Int := 2 ^ n - 1
  let c := max 0 (min top t)
  (c.toNat, if c ≠ t then .sat else if r = 0 && u.m != 0 then .uflow else .none)

/-- A scale read from memory, with the replacements of R124. -/
def readScale (c : Nat) : Dy × Conv :=
  match Fmt.bf16.decode c with
  | .nan _ => (Dy.zero, .nan)
  | .inf n => ((Fmt.bf16.decode (Fmt.bf16.signed n Fmt.bf16.maxCode)).dy, .sat)
  | v => (v.dy, .none)

/-- The scaled conversion of R152 and R153 to an operand format under scale s and zero point z; a zero keeps its sign
in a float target (R131). -/
def Fmt.encScaled (f : Fmt) (v : Val) (s : Dy) (z : Nat) : Nat × Conv :=
  if f.isInt then
    match v with
    | .nan _ => (z, .nan)
    | .inf n =>
      let pos := if s.m = 0 then !n else (n == decide (s.m < 0))
      (if pos then f.maxCode else 0, .sat)
    | .num .. => if s.m = 0 then (z, .none) else encInt f.bits z (codeUnits v.dy s)
  else
    match v with
    | .nan n => if s.m = 0 then (0, .nan) else f.encode (.nan n)
    | .inf n => f.encode (.inf (if s.m < 0 then !n else n))
    | .num n .. => if s.m = 0 then (0, .none) else f.encode ((codeUnits v.dy s).val n)

/-- The exact value of a stored code under its group's scale and zero point (R106, R154); a zero keeps its code's sign
(R131). -/
def Fmt.value (f : Fmt) (c : Nat) (s : Dy) (z : Nat) : Val :=
  if f.isInt then Dy.val (s.mul (Dy.ofInt ((c % 2 ^ f.bits : Nat) - (z : Int))))
  else
    match f.decode c with
    | .nan n => .nan n
    | .inf n => if s.m = 0 then .zero else .inf (if s.m < 0 then !n else n)
    | .num n m e => (Dy.mul s (Val.num n m e).dy).val n

/-- Smallest code in (lo, hi] that meets `p`, which holds from some code on; `hi` is known to. -/
def bsearch (p : Nat → Bool) : Nat → Nat → Nat → Nat
  | 0, _, hi => hi
  | k + 1, lo, hi =>
    if hi ≤ lo + 1 then hi
    else
      let mid := (lo + hi) / 2
      if p mid then bsearch p k lo mid else bsearch p k mid hi

/-- Code of the smallest positive S16 scale under which r is at most `bound` code units, or of the
largest finite one when none is; the flag says whether one qualified (R161, R162). -/
def smallestScale (r bound : Dy) : Nat × Bool :=
  let p := fun c => (codeUnits r (Fmt.bf16.decode c).dy).le bound
  let top := Fmt.bf16.maxCode
  if p top then (bsearch p 16 0 top, true) else (top, false)

/-- derive_int of R161: scale code and zero point. -/
def deriveInt (smax smin : Dy) (n : Nat) : Nat × Nat :=
  let hi := smax.max Dy.zero
  let lo := smin.min Dy.zero
  let r := hi.sub lo
  if r.m = 0 then (0, 0)
  else
    let (c, _) := smallestScale r (Dy.ofInt (2 ^ n - 2))
    let z := (codeUnits lo.neg (Fmt.bf16.decode c).dy).round
    (c, (min z (2 ^ n - 1)).toNat)

/-- derive_float of R162: scale code. -/
def deriveFloat (smax smin : Dy) (f : Fmt) : Nat :=
  let a := smax.abs.max smin.abs
  if a.m = 0 then 0 else (smallestScale a f.maxDy).1

/-- Scale and zero point of a target format from the extremes of its values (R161, R162). -/
def derive (smax smin : Dy) (f : Fmt) : Nat × Nat :=
  if f.isInt then deriveInt smax smin f.bits else (deriveFloat smax smin f, 0)

/-- The scale QCONV derives for an INTn target without zero-point tensor (R165). -/
def deriveNoZp (smax : Dy) (n : Nat) : Nat :=
  let hi := smax.max Dy.zero
  if hi.m = 0 then 0 else (smallestScale hi (Dy.ofInt (2 ^ n - 1))).1

/-- Exact sum with the sign of zero of R131. -/
def addVal (a b : Val) : Val :=
  match a, b with
  | .num na ma ea, .num nb mb eb =>
    if ma = 0 ∧ mb = 0 then .num (na && nb) 0 0
    else (Dy.add (Val.num na ma ea).dy (Val.num nb mb eb).dy).val
  | .nan n, _ => .nan n
  | _, .nan n => .nan n
  | .inf n, _ => .inf n
  | _, .inf n => .inf n

/-- FP32 sum of an accumulator code and an exact value, rounded once, saturating (R119, R200). -/
def accAdd (f : Fmt) (acc : Nat) (v : Dy) : Nat × Conv :=
  match f.encode (addVal (f.decode acc) v.val) with
  | (c, .sat) => (c, .sat)
  | (c, _) => (c, .none)

/-- Largest finite magnitude of the FP32 format as a code. -/
def fp32Max : Nat := 0x7F7FFFFF
/-- The same with the sign set. -/
def fp32MinCode : Nat := 0xFF7FFFFF

/-- One rounding to FP32 (R127); the conversion is reported for those that count it. -/
def toFp32 (v : Val) : Nat × Conv := Fmt.fp32.encode v
def ofFp32 (c : Nat) : Val := Fmt.fp32.decode c

end Sys2Proof.Machine
end

