-- ==== Sys2Proof/Machine/State.lean ====
section
/-! DEFINITION. The engine's state as plain data, unit by unit, and its value under cold reset. Widths
and reset values are those of the register map (16_registers) and of the rule each field cites. -/
namespace Sys2Proof.Machine

/-- Start-up phase, R544. -/
inductive Phase where
  | power | fuse | init | selftest | ready | scan
  deriving DecidableEq, Repr

/-- State of a graph slot, R423. -/
inductive SlotSt where
  | free | load | run | halt | saved
  deriving DecidableEq, Repr

/-- State of a port, R460. -/
inductive PortSt where
  | down | train | trained | up | keepalive | unused | miswired
  deriving DecidableEq, Repr

/-- Power state, R558 with the codes of `FGE_PWR_STATUS`. -/
inductive PwrSt where
  | run | idle | nap | deep | waking | entering
  deriving DecidableEq, Repr

/-- State of a cut, R492. -/
inductive CutSt where
  | run | scheduled | stopping | localDone | committed | abandoned | partFrozen
  deriving DecidableEq, Repr

/-- State of an image buffer, R524. -/
inductive BufSt where
  | empty | capture | parity | copy | held | rebuild | load
  deriving DecidableEq, Repr

/-- Rebuild state, R524. -/
inductive RbSt where
  | idle | running | done | fallback | lost
  deriving DecidableEq, Repr

/-- The error an instruction or a SUBMIT fails with (R372, R419). -/
inductive Err where
  | format | range | aliasing | version | tagskew | stashtag | align
  deriving DecidableEq, Repr

/-- The fields of a graph header (R413), copied into the slot at load (R416). -/
structure Hdr where
  gver : Nat := 0
  prio : Nat := 0
  onfail : Bool := false
  twCount : Nat := 0
  twBase : Nat := 0
  succBase : Nat := 0
  succLen : Nat := 0
  descCount : Nat := 0
  compBase : Nat := 0
  descBase : Nat := 0
  allocBase : Nat := 0
  allocCount : Nat := 0
  smapLen : Nat := 0
  smapBase : Nat := 0
  stashBase : Nat := 0
  stashSize : Nat := 0
  ovfBase : Nat := 0
  ovfSize : Nat := 0
  workBase : Nat := 0
  deriving DecidableEq, Repr

/-- The stash controller's pointers for one slot (R275, R276): the ring's bottom, entries as (offset, size)
in their region, oldest first; the return in progress (R289); whether the oldest entry of the ring is being moved to
the overflow stack (R287); the PUSHes for which STASHFULL was raised (R288). -/
structure Stash where
  bottom : Nat := 0
  ring : List (Nat × Nat) := []
  ovf : List (Nat × Nat) := []
  pushCount : BitVec 32 := 0
  returning : Option (Nat × Nat) := none
  moving : Bool := false
  fullRaised : List Nat := []
  deriving DecidableEq, Repr

/-- A gang saved by CTXSAVE (R434). -/
structure SavedGang where
  node : Nat
  entry : Nat
  deriving DecidableEq, Repr

/-- One element of an operand in the nibble form, with its group's scale code (R113, R178). -/
structure Elem where
  neg : Bool
  g : Nat
  e : Nat
  sc : Nat
  deriving DecidableEq, Repr

/-- One element of the accumulator plane (R233): accumulator code and run sum. -/
structure Cell where
  acc : Nat := 0
  run : Int := 0
  deriving DecidableEq, Repr

/-- What an instruction gathers for the steward (R245 to R247): extremes as FP32 codes, counts, bins. -/
structure Gather where
  lmax : Nat := fp32MinCode
  lmin : Nat := fp32Max
  nconv : Nat := 0
  nsat : Nat := 0
  nufl : Nat := 0
  hist : List Nat := [0, 0, 0, 0, 0, 0, 0, 0]
  deriving DecidableEq, Repr

/-- What one instruction's conversions into one group amount to (R171, R183, R247). -/
structure Group where
  ix : Nat
  gc : List Nat
  elems : Nat := 0
  zeros : Nat := 0
  srcNonzero : Bool := false
  nonNan : Nat := 0
  sats : Nat := 0
  vmax : Dy := Dy.zero
  vmin : Dy := Dy.zero
  amax : Dy := Dy.zero
  amin : Dy := Dy.zero
  deriving DecidableEq, Repr

/-- What an instruction's conversions gather as they go; `last` is the value last written. -/
structure Tally where
  counts : Counts := {}
  gather : Gather := {}
  groups : List Group := []
  last : Val := .zero
  deriving DecidableEq, Repr

/-- The outcome so far of one task word in flight: STATUS, the flags F_LAPSE … F_SAT of R371 as bits
0 to 6, DETAIL, the steward's gather, and core-counter additions (index, amount) for retirement. -/
structure Result where
  node : Nat
  status : Nat := 1
  flags : Nat := 0
  detail : Nat := 0xFFFF
  gather : Gather := {}
  counts : List (Nat × Nat) := []
  deriving DecidableEq, Repr

/-- A product member captured at dispatch: its node, task word and member descriptor, its class, the two
operands assembled over K (by output row and by output column), the exponent of the unit of a product
(R195), the run ends over K (R150), the spill sums and the K offset at whose promotion they join (R190,
R192), its dot-product state, the output's format in force, the array it runs on, its place among the members
(a twin has the place of its partner), its part (R38), the widths of its vectors (R34) and whether its passes are still
to be charged to the counters (R571).
Array 32 is no array: the member waits for a usable one (R103). -/
structure Job where
  node : Nat
  word : Nat
  cls : Nat := 1
  outer : Bool := false
  direct : Bool := false
  fBits : Nat := 0
  uBase : Int := 0
  dist : Option Nat := none
  a16 : Bool := false
  rows : List (List Elem) := []
  cols : List (List Elem) := []
  ends : List Bool := []
  spill : List (List Nat) := []
  joinAt : Option Nat := none
  dot : Bool := false
  out : EFmt := .op .fp32
  array : Nat := 0
  twin : Bool := false
  member : Nat := 0
  part : Nat := 0
  bits5 : Nat := 0
  shared5 : Nat := 0
  due : Bool := true
  deriving DecidableEq, Repr

/-- The plane of a member over its tile, row by row, with the uniform counters of R235: steps entered,
additions in the current segment, additions in all, segments ended, whether the spill sum joined. `drained` rows have
left the tile already (a finished band, R99, or all of a finished member), with what their conversions gathered; `lapsed`
says that LAPSE was raised (R221). Inside a K-block of the stationary mode, `entered` steps have entered and the rows
`ahead`, the first of those left, have taken the block while those of `cells` have not (R24, R234); `aheadSpill` is what
the ahead rows spilled at its end. -/
structure Plane where
  cells : List (List Cell) := []
  next : Nat := 0
  nadd : Nat := 0
  total : Nat := 0
  seg : Nat := 0
  joined : Bool := false
  sats : Nat := 0
  clips : Nat := 0
  proms : Nat := 0
  spills : List (List (List Nat)) := []
  drained : Nat := 0
  tally : Tally := {}
  lapsed : Bool := false
  entered : Nat := 0
  ahead : List (List Cell) := []
  aheadSpill : List (List Nat) := []
  deriving DecidableEq, Repr

/-- A pass of an array over the steps of a part that a failure of its edge bank ended or came behind, not yet charged:
its steps, and its streaming clk with the vectors of the members that ran then (R33, R99, R103). -/
structure Pass where
  part : Nat
  array : Nat
  steps : Nat
  clk : Nat
  deriving DecidableEq, Repr

/-- Where a dispatched instruction stands. -/
inductive FPhase where
  | dispatched   -- dispatched, its stream not yet started or its work pending
  | streaming    -- a gang whose first step has entered (R80)
  | draining     -- a gang whose last step has entered (R36)
  | effected     -- every read and write made; only retirement is left
  | waiting (n : Nat)   -- a collective instruction in phase n of its rule (R264, R478, R519)
  deriving DecidableEq, Repr

/-- A dispatched and unretired instruction; a gang or twin pair is one entry (R429). `marked` are the
participants that a REDUCE has sent its end marker (R478); `fence` are the nodes whose remote writes a FENCE waits
for (R407); `bufB` is the buffer that an UPDATE named at its dispatch (R310); `fixed` are the carried records as
dispatch read them, by hall address (R170); `images` are those that a RESTORE reads of other nodes (R534); `lost` are the passes of an array before a failure of its edge bank that are
still to be charged (R103, R571); `onlyEnds` says that a REDUCE waits for end markers alone, which a cut
leaves unretired (R491). -/
structure Flight where
  slot : Fin 16
  node : Nat
  opc : Nat
  core : Fin 8 := 0
  onCore : Bool := false
  word : Nat := 0
  dstamp : BitVec 64 := 0
  stepNo : BitVec 32 := 0
  phase : FPhase := .dispatched
  results : List Result := []
  jobs : List Job := []
  planes : List Plane := []
  preempted : Bool := false
  marked : List (BitVec 12) := []
  fence : List Nat := []
  bufB : Bool := false
  fixed : List (Nat × Nat) := []
  lost : List Pass := []
  images : List Image := []
  onlyEnds : Bool := false
  deriving DecidableEq, Repr

/-- Operands resident in a core's operand store (R77), with a skew met at assembly (R181); `spill` says that a spill
plane is held for them, `waits` that they hold room and wait for one, and `clk` is the spillway's time for it (R191). -/
structure Resident where
  slot : Fin 16
  node : Nat
  core : Fin 8
  bytes : Nat
  skew : Option TagSkew
  spill : Bool := false
  waits : Bool := false
  clk : Nat := 0
  deriving DecidableEq, Repr

/-- One graph slot (R423). -/
structure Slot where
  st : SlotSt := .free
  hdr : Hdr := {}
  tag : BitVec 16 := 0
  retired : Nat := 0
  ending : Bool := false
  saveBase : Nat := 0
  saved : List SavedGang := []
  stash : Stash := {}
  lastProg : BitVec 64 := 0
  hung : Bool := false
  deriving DecidableEq, Repr

/-- The SUBMIT being loaded (R420). -/
structure Loading where
  slot : Fin 16
  tag : BitVec 16
  hdrAddr : Nat
  deriving DecidableEq, Repr

/-- The headgate. `turn` and `fetchTurn` are the slots that dispatched, or fetched, in the current turn (R430, R431);
`rowLast` holds how long each core's row unit took for its last instruction (R567), `resWait` the ready gangs that wait for
their operands, each with the core that counts its wait, and `resFrom` the tick up to which waits are counted (R571). -/
structure Headgate where
  slots : Vector Slot 16 := Vector.replicate 16 {}
  loading : Option Loading := none
  flight : List Flight := []
  resident : List Resident := []
  slotEn : BitVec 16 := 0xFFFF
  stepNo : BitVec 32 := 0
  verBase : BitVec 60 := 0
  aen : BitVec 32 := 0xFFFFFFFF
  held : List (BitVec 16 × BitVec 64) := []
  turn : List (Fin 16) := []
  fetchTurn : List (Fin 16) := []
  rowLast : Vector Nat 8 := Vector.replicate 8 0
  resWait : List ((Fin 16 × Nat) × Fin 8) := []
  resFrom : BitVec 64 := 0
  deriving DecidableEq, Repr

/-- The steward's shadowed registers as one set (R439, R611). -/
structure StwRegs where
  base : BitVec 60 := 0
  en : Bool := false
  freeze : Bool := false
  slim : BitVec 16 := 0
  deriving DecidableEq, Repr

/-- What a STEP's evaluation of a layer is to report at its retirement: TROUBLE, or a move between two rungs (R486). -/
structure StewardNews where
  layer : BitVec 16
  trouble : Bool
  old : BitVec 2
  rung : BitVec 2
  cur : BitVec 4
  deriving DecidableEq, Repr

/-- The steward: live and pending copies, the committed set that waits for its STEP (R597), CERR, the layers
whose LIVE block received a merge in the step (R257), those for which FORMAT was raised in it (R242), the
nodes whose step-ready the acting manager holds (R264), and the carried records, by hall address, that raised SATURATE
in the step (R174), and what the STEP reports at its retirement (R486). -/
structure Steward where
  live : StwRegs := {}
  pend : StwRegs := {}
  set : Option StwRegs := none
  cerr : Bool := false
  merged : List (BitVec 16) := []
  formatted : List (BitVec 16) := []
  ready : List (BitVec 12) := []
  saturated : List Nat := []
  news : List StewardNews := []
  deriving DecidableEq, Repr

/-- The trace registers as one shadowed set (R578, R613). -/
structure TraceRegs where
  base : BitVec 43 := 0
  size : BitVec 20 := 0
  en : Bool := false
  stopFull : Bool := false
  evt : Bool := true
  inst : Bool := true
  stw : Bool := true
  telem : Bool := true
  cper : BitVec 16 := 0
  pper : BitVec 16 := 0
  hangt : BitVec 16 := 0
  deriving DecidableEq, Repr

/-- The trace ring's state (R579, R584). -/
structure Trace where
  live : TraceRegs := {}
  pend : TraceRegs := {}
  wr : BitVec 40 := 0
  rd : BitVec 40 := 0
  lost : BitVec 32 := 0
  lostSince : Nat := 0
  winId : Nat := 0
  winCount : Nat := 0
  deriving DecidableEq, Repr

/-- One array: configuration (R62), dot-product mode (R97), unusable mark (R103), the streaming time of
its last instruction (R567). -/
structure Arr where
  cls : Nat := 1
  a16 : Bool := false
  op : Nat := 0
  dot : Bool := false
  unuse : Bool := false
  lastStream : Nat := 0
  deriving DecidableEq, Repr

/-- The event registers (R603). -/
structure Events where
  pend : BitVec 26 := 0
  mask : BitVec 26 := 0x3FFFFFF
  deriving DecidableEq, Repr

/-- The time unit (R479 to R485). `slew` is what is left to correct, in 1/16 tk (child ahead positive), `good` and
`bad` count consecutive exchanges, `joining` until the count is loaded from the parent; the last three fields hold
what each port's time flits said. -/
structure TimeUnit where
  tick : BitVec 64 := 0
  lock : Bool := false
  root : Bool := false
  parent : BitVec 3 := 7
  hops : BitVec 5 := 0x1F
  stepped : Bool := false
  offset : BitVec 16 := 0
  good : Nat := 0
  bad : Nat := 0
  slew : Int := 0
  sinceSlew : Nat := 0
  joining : Bool := true
  nbHops : Vector (BitVec 5) 6 := Vector.replicate 6 0x1F
  lastRecv : Vector Nat 6 := Vector.replicate 6 0
  lastSend : Vector Nat 6 := Vector.replicate 6 0
  deriving DecidableEq, Repr

/-- Stops and cuts (R488 to R495): `broken` once a live node is lost before the cut commits. -/
structure Cut where
  st : CutSt := .run
  stopT : BitVec 64 := 0
  late : Bool := false
  myLate : Bool := false
  stopErr : Bool := false
  lastCut : BitVec 40 := 0
  done : List (BitVec 12) := []
  anyLate : Bool := false
  broken : Bool := false
  forwarded : List (BitVec 64) := []
  deriving DecidableEq, Repr

/-- The hall as this node knows it: managers and live set (R497, R498), node ID and torus (R605), the
port states reported or known, by node and port (R469; one never reported is DOWN, R500), and the reachable part at the
last partition evaluation (R500); and a live set that is offered and not yet in effect, none by an empty list, with the
nodes known to have acknowledged it (R498). -/
structure Hall where
  mgr : BitVec 12 := 0
  backup : BitVec 12 := 0
  actMgr : BitVec 12 := 0
  cont : Bool := false
  live : List (BitVec 12) := []
  nid : BitVec 12 := 0
  xdim : BitVec 5 := 1
  ydim : BitVec 5 := 1
  zdim : BitVec 5 := 1
  topoErr : Bool := false
  portSts : List ((BitVec 12 × Nat) × PortSt) := []
  evald : List (BitVec 12) := []
  offer : List (BitVec 12) := []
  acks : List (BitVec 12) := []
  deriving DecidableEq, Repr

/-- Power state and its registers (R558 to R563). -/
structure Power where
  target : BitVec 2 := 0
  autoIdle : Bool := true
  st : PwrSt := .run
  pending : Bool := false
  wakeFrom : PwrSt := .run
  startAfter : Bool := false
  deriving DecidableEq, Repr

/-- The governor (R564 to R569). Powers are in milliwatts; `hist` holds the samples of the last 1 ms. -/
structure Governor where
  tlim : BitVec 8 := 0x5F
  tcrit : BitVec 8 := 0x6E
  stage : BitVec 4 := 4
  tmax : BitVec 4 := 0xC
  plim : BitVec 16 := 0x04E2
  level : BitVec 4 := 0
  hot : Bool := false
  crit : Bool := false
  hsens : BitVec 4 := 0
  temp : BitVec 16 := 0
  power : BitVec 16 := 0
  temps : List (BitVec 16) := List.replicate 16 0
  hist : List (List Nat) := []
  calm : Nat := 0
  forecasts : List (List (BitVec 64)) := []
  deriving DecidableEq, Repr

/-- Repair and test record of one array (`FGE_ST_DIAG`, R554) with its fuses (R544, R552). -/
structure Diag where
  srow : Option Nat := none
  scol : Option Nat := none
  frow : Option Nat := none
  fcol : Option Nat := none
  fuseOff : Bool := false
  unrep : Bool := false
  nfail : Nat := 0
  retFail : Bool := false
  deriving DecidableEq, Repr

/-- The self-test controller (R548 to R554): batches done, arrays that wait for their retest, arrays that failed, and
arrays whose fuses are to be programmed. -/
structure SelfTest where
  warmSt : Bool := true
  busy : Bool := false
  stErr : Bool := false
  mode : BitVec 2 := 1
  pass : BitVec 32 := 0
  tested : BitVec 32 := 0
  asel : BitVec 5 := 0
  diag : Vector Diag 32 := Vector.replicate 32 {}
  batch : Nat := 0
  retest : List Nat := []
  failed : List Nat := []
  toFuse : List Nat := []
  deriving DecidableEq, Repr

/-- A session key and salt (R463). -/
structure Key where
  key : BitVec 256
  salt : BitVec 32
  deriving DecidableEq, Repr

/-- Lanes of one direction of a port: logical lanes as physical lane numbers in order, the spare
(R456), and, for the receiver, lanes removed and training again (R458). -/
structure Dir where
  lanes : List Nat := []
  spare : Option Nat := none
  away : List Nat := []
  deriving DecidableEq, Repr

/-- A REDUCE end marker (R478). -/
structure Marker where
  src : BitVec 12
  layer : BitVec 16
  opid : BitVec 16
  ubatch : BitVec 16
  step : BitVec 16
  deriving DecidableEq, Repr

/-- A snap-ready as it was received or sent (R519). -/
structure Ready where
  node : BitVec 12
  snum : BitVec 32
  depth : BitVec 2
  check : BitVec 8
  deriving DecidableEq, Repr

/-- What the engine sends in the sluice (R447). -/
inductive Sluice where
  | stop (t : BitVec 64)
  | time (send recv far : Nat) (hops : BitVec 5)
  | linkAck (pseq : BitVec 16)
  | replayReq (pseq : BitVec 16)
  | credit (queue : Fin 4) (n : Nat)
  | portNotice (node : BitVec 12) (port : Nat) (st : PortSt)
  | endMarker (m : Marker) (dst : BitVec 12)
  | wake
  | keyReady
  | keySwitch
  | telemetry (dst : BitVec 12) (body : BitVec 106)
  | cutDone (node : BitVec 12) (late : Bool)
  | resumed (node : BitVec 12)
  | stepReady (node : BitVec 12) (merges : List (BitVec 16 × BitVec 384))
  | stepDone (blocks : List (BitVec 16 × BitVec 384 × BitVec 256))
  | snapReady (r : Ready)
  | captureDone (node : BitVec 12) (snum : BitVec 32)
  | parityDone (node : BitVec 12) (snum : BitVec 32)
  | copyDone (node : BitVec 12) (store : Bool) (snum : BitVec 32)
  | history (dst : BitVec 12) (costs intervals : List Nat)
  | laneRemoved (lane : Nat)
  | liveSet (set : List (BitVec 12))
  | liveAck (node : BitVec 12)
  | lost (set : List (BitVec 12))
  deriving DecidableEq, Repr

/-- A flit as the replay buffer keeps it: its `PSEQ` and the data or sluice flit (R450). -/
structure Kept where
  pseq : BitVec 16
  what : Flit ⊕ Sluice
  stamp : BitVec 40 := 0
  deriving DecidableEq, Repr

/-- A data flit that waits for its output port; `came` is the receive queue it still occupies (R449), none for a flit
of this node. -/
structure Held where
  f : Flit
  came : Option (Fin 6 × Fin 4)
  via : Option (Fin 6 × Bool) := none
  deriving DecidableEq, Repr

/-- One link port (R445 to R465): `laneOf` pairs transmitter and receive lanes; `faults` are lanes fenced in training
and not yet raised (R457); `awaiting` is the flit a replay was asked from (R450); `owed` are kept data flits that a replay
could not send yet (R459, R461); `fails` are the tag failures of the receive lanes, each with the lane's slot (R458);
`farDeep` says that the node at the other end keeps the cable on its lane 0 (R462); `txOut` that the first flit under a new
key is not yet acknowledged, `txOld` how many flits of the replay buffer, from its front, are under the old one, and
`lastAck` what the last link acknowledgement named (R465); `telAt` and `telSent` count the telemetry flits of a frame (R585). -/
structure Port where
  st : PortSt := .down
  tx : Dir := {}
  rx : Dir := {}
  fenced : BitVec 9 := 0
  invert : BitVec 9 := 0
  laneOf : List (Nat × Nat) := []
  tstep : Nat := 0
  faults : List (Nat × Nat) := []
  awaiting : Option (BitVec 16) := none
  trained : BitVec 9 := 0
  synced : Bool := false
  stalled : Bool := false
  txCount : BitVec 64 := 0
  rxCount : BitVec 64 := 0
  replay : List Kept := []
  hold : List Held := []
  credits : Vector Nat 4 := Vector.replicate 4 64
  telem : List (BitVec 106) := []
  keyTx : Option Key := none
  keyRx : Option Key := none
  stTx : Option Key := none
  stRx : Option Key := none
  farReady : Bool := false
  txNew : Bool := false
  rxNew : Bool := false
  owed : List Kept := []
  fails : List (Nat × Nat) := []
  farDeep : Bool := false
  txOut : Bool := false
  txOld : Nat := 0
  lastAck : Option (BitVec 16) := none
  telAt : Nat := 0
  telSent : Nat := 0
  deriving DecidableEq, Repr

/-- The key port (R608): held words, salt and the snapshot integrity key. -/
structure KeyPort where
  kport : BitVec 3 := 0
  kdir : Bool := false
  keyErr : Bool := false
  words : List (BitVec 64) := []
  salt : BitVec 32 := 0
  snapKey : Option Key := none
  deriving DecidableEq, Repr

/-- A remote request sent and not yet answered, with the task word it serves (R470). -/
structure Req where
  f : Flit
  slot : Fin 16
  node : Nat
  deriving DecidableEq, Repr

/-- What a destination keeps of one source's requests (R471): every ESEQ below `base` is applied, and
those of `win` above it. -/
structure Applied where
  src : BitVec 12
  base : Nat
  win : List Nat
  deriving DecidableEq, Repr

/-- The remote side of the engine: sequence numbers, unacknowledged and held requests, outstanding
reads, the bytes remote reads returned by hall address (`got` says which units for which instruction, `old` which of them
were asked for before the current step), end markers, those that REDUCEs which retired still owe, with their destinations
(R478), and the nodes that answered as frozen (R494). -/
structure Remote where
  eseq : List (BitVec 12 × Nat) := []
  unacked : List Req := []
  heldReq : List Req := []
  reads : List Req := []
  got : List (Nat × Nat × Nat) := []
  old : List (Nat × Nat × Nat) := []
  data : Memory := []
  applied : List Applied := []
  markers : List Marker := []
  owedEnds : List (Marker × BitVec 12) := []
  frozen : List (BitVec 12) := []
  deriving DecidableEq, Repr

/-- The snapshot unit (R506 to R539): configuration, durable snapshots, buffers with the snapshot and depth they
hold (and, for the parity buffers of both roles, their snapshots), the greatest and the first number captured, the newest
image held with its capture tick, the newest snapshots for which SNAPDUE was raised (R526), collective messages received, copies reported and (in `copying`, by buffer and
layer) asked for, the cadence history (costs in tk; measured loss intervals in seconds, of at most sixteen), the
lost nodes and snapshot of a rebuild, and the layers of a load still to try (the first is asked for) with its
buffer and the image a RESTORE reads. -/
structure Snap where
  sbase : BitVec 60 := 0
  pbase : BitVec 60 := 0
  imgpg : BitVec 28 := 0
  pgcnt : BitVec 12 := 0
  drain : BitVec 4 := 4
  minit : BitVec 20 := 0x2A30
  durPar : BitVec 32 := 0
  durFlash : BitVec 32 := 0
  durStore : BitVec 32 := 0
  rb : RbSt := .idle
  cfgErr : Bool := false
  buf : Vector BufSt 2 := Vector.replicate 2 .empty
  bufSnum : Vector (BitVec 32) 2 := Vector.replicate 2 0
  bufDepth : Vector (BitVec 2) 2 := Vector.replicate 2 0
  parSnum : Vector (BitVec 32) 4 := Vector.replicate 4 0
  maxSnum : BitVec 32 := 0
  first : BitVec 32 := 0
  newest : BitVec 32 := 0
  newestTick : BitVec 64 := 0
  capTick : BitVec 64 := 0
  dueFor : List (BitVec 32) := []
  readies : List Ready := []
  dones : List (BitVec 12) := []
  notices : List (BitVec 12 × BitVec 32) := []
  flashOk : List (BitVec 12 × BitVec 32) := []
  storeOk : List (BitVec 12 × BitVec 32) := []
  copying : List (Fin 2 × Nat) := []
  costs : List Nat := List.replicate 8 0
  intervals : List Nat := []
  lastLoss : BitVec 64 := 0
  interval : BitVec 20 := 0x1E
  meanM : BitVec 20 := 0x2A30
  costC : BitVec 24 := 0
  lost : List (BitVec 12) := []
  target : BitVec 32 := 0
  loads : List Nat := []
  loadBuf : Fin 2 := 0
  ownImage : Option (Fin 2) := none
  deriving DecidableEq, Repr

/-- A bank's latch: values, tags and the sample's stamp (R576). -/
structure Latch where
  vals : List Nat := List.replicate 32 0
  tags : List Nat := List.replicate 32 0
  stamp : BitVec 40 := 0
  deriving DecidableEq, Repr

/-- A counter bank (R570). -/
structure Bank where
  vals : List Nat := List.replicate 32 0
  tags : List Nat := List.replicate 32 0
  latch : Latch := {}
  deriving DecidableEq, Repr

/-- The observation unit's counters (R570 to R576). -/
structure Observe where
  banks : Vector Bank 15 := Vector.replicate 15 {}
  rbank : BitVec 4 := 0
  ridx : BitVec 5 := 0
  hold : BitVec 64 := 0
  deriving DecidableEq, Repr

/-- The service record (R15 to R17, R556): counts since reset and loaded values kept apart. Counters 128
to 143 are signed peak temperatures. -/
structure Service where
  sel : BitVec 8 := 0
  count : List Int := List.replicate 204 0
  load : List Int := List.replicate 204 0
  loaded : List Nat := []
  active : List Nat := List.replicate 32 0
  deriving DecidableEq, Repr

/-- The last management response (R4): whether it completed normally, and the data of a read. -/
structure Mgmt where
  ok : Bool := true
  data : BitVec 64 := 0
  deriving DecidableEq, Repr

/-- One transmission on a port: a data flit or a sluice flit. -/
inductive Sent where
  | data (port : Fin 6) (f : Flit)
  | sluice (port : Fin 6) (m : Sluice) (stamp : BitVec 40 := 0)
  deriving DecidableEq, Repr

/-- What the engine has put on its interfaces, oldest first. -/
structure Out where
  resp : List (BitVec 128) := []
  links : List Sent := []
  mgmt : Mgmt := {}
  fused : List Nat := []
  deriving DecidableEq, Repr

/-- The engine. `scanAsked` is a scan request that came in cold reset (R555); `free` numbers the draws of free values
and is the model's own (log 1). -/
structure State where
  pending : List Instr := []
  mem : Memory := []
  phase : Phase := .power
  loadOpen : Bool := true
  warm : Bool := false
  scanAsked : Bool := false
  present : BitVec 32 := 0xFFFFFFFF
  grade : BitVec 4 := 3
  hg : Headgate := {}
  stw : Steward := {}
  tr : Trace := {}
  arrs : Vector Arr 32 := Vector.replicate 32 {}
  evt : Events := {}
  tm : TimeUnit := {}
  cut : Cut := {}
  hall : Hall := {}
  pwr : Power := {}
  gov : Governor := {}
  st : SelfTest := {}
  pen : BitVec 6 := 0
  -- every dimension of the reset torus has size 1, so every port is UNUSED (R443, R607)
  ports : Vector Port 6 := Vector.replicate 6 { st := .unused }
  key : KeyPort := {}
  rem : Remote := {}
  snap : Snap := {}
  obs : Observe := {}
  svc : Service := {}
  out : Out := {}
  free : Nat := 0
  deriving DecidableEq, Repr

/-- The engine under cold reset, every register at its reset value (R589) and no command waiting. -/
def State.reset : State := {}

/-- Why a step would stop with a fault. Nothing in the engine stops it: every failure the spec names is
a next state (a STATUS, a refusal CODE, an error bit, an event). -/
inductive Fault where
  /-- Raised by no meaning of this model; safe, because it stops nothing that runs. -/
  | none
  deriving DecidableEq, Repr

/-- Why a step would have no meaning. -/
inductive Refusal where
  /-- Raised by the arm of a command without a meaning, by its mnemonic; safe: the model stops. -/
  | notModelled (mnemonic : String)
  deriving DecidableEq, Repr

end Sys2Proof.Machine
end

