-- ==== Sys2Proof/Machine/Ops.lean ====
section
/-! DEFINITION. Node memory and the small accessors of State: canonical byte cells (log 2), wide
accesses (little-endian, R363), hall addresses (R466), slots, arrays, ports and task words. -/
namespace Sys2Proof.Machine

/-- A byte of memory; an address nothing lists reads `Config.unwritten`. -/
def Mem.get : Memory → Nat → Byte
  | [], _ => Config.unwritten
  | (b, v) :: r, a => if a = b then v else if a < b then Config.unwritten else Mem.get r a

/-- Write one byte; writing the unlisted value removes the entry. -/
def Mem.set : Memory → Nat → Byte → Memory
  | [], a, v => if v = Config.unwritten then [] else [(a, v)]
  | (b, w) :: r, a, v =>
    if a = b then (if v = Config.unwritten then r else (a, v) :: r)
    else if a < b then (if v = Config.unwritten then (b, w) :: r else (a, v) :: (b, w) :: r)
    else (b, w) :: Mem.set r a v

/-- The canonical form: addresses strictly rising, no entry equal to what an unlisted address reads as. -/
def Memory.wf : Memory → Bool
  | [] => true
  | [(_, v)] => v != Config.unwritten
  | (a, v) :: (b, w) :: r => v != Config.unwritten && decide (a < b) && Memory.wf ((b, w) :: r)

/-- `n` bytes from `a`, least significant first (R363). -/
def Mem.getN (m : Memory) (a : Nat) : Nat → Nat
  | 0 => 0
  | n + 1 => (Mem.get m a).toNat + 256 * Mem.getN m (a + 1) n

/-- Write the `n` low bytes of `v` from `a`, least significant first. -/
def Mem.setN (m : Memory) (a : Nat) : Nat → Nat → Memory
  | 0, _ => m
  | n + 1, v => Mem.setN (Mem.set m a (BitVec.ofNat 8 v)) (a + 1) n (v / 256)

/-- The listed bytes of [a, a + n), with addresses counted from a. -/
def Mem.slice (m : Memory) (a n : Nat) : Memory :=
  (m.filter fun c => a ≤ c.1 && c.1 < a + n).map fun c => (c.1 - a, c.2)

/-- Memory with the listed bytes of a slice written from `a` over `n` bytes, the others of the range
cleared. -/
def Mem.paste (m : Memory) (a n : Nat) (cells : Memory) : Memory :=
  cells.foldl (fun m c => if c.1 < n then Mem.set m (a + c.1) c.2 else m)
    (m.filter fun c => !(a ≤ c.1 && c.1 < a + n))

/-- Bytes of one stack, 48 GiB. -/
def stackBytes : Nat := 48 * 2 ^ 30

/-- Node field of a hall address (R466). -/
def hallNode (h : Nat) : Nat := fld h 48 12
/-- Stack field of a hall address. -/
def hallStack (h : Nat) : Nat := fld h 43 5
/-- Offset field of a hall address. -/
def hallOff (h : Nat) : Nat := fld h 0 43
/-- Stack and offset together: the key of node memory. -/
def hallLoc (h : Nat) : Nat := fld h 0 48
/-- Hall address of a place on a node. -/
def hallAddr (node loc : Nat) : Nat := put 48 12 node + put 0 48 loc

/-- Whether `n` bytes from a hall address lie wholly in this node's stacks. -/
def State.mine (s : State) (h n : Nat) : Bool :=
  hallNode h == s.hall.nid.toNat && decide (hallOff h + n ≤ stackBytes)

/-- A byte at a hall address: of this node's stacks, or as a remote read returned it. -/
def State.byteAt (s : State) (h : Nat) : Byte :=
  if hallNode h = s.hall.nid.toNat then Mem.get s.mem (hallLoc h) else Mem.get s.rem.data h

/-- `n` bytes from a hall address. -/
def State.rdN (s : State) (h : Nat) : Nat → Nat
  | 0 => 0
  | n + 1 => (s.byteAt h).toNat + 256 * s.rdN (h + 1) n

/-- Write `n` bytes to this node's stacks. -/
def State.wrN (s : State) (h n v : Nat) : State := { s with mem := Mem.setN s.mem (hallLoc h) n v }

/-- A draw of a free value (log 1): the value and the state with the counter advanced. -/
def State.draw (s : State) : BitVec 64 × State := (Config.freeBits s.free, { s with free := s.free + 1 })

/-- A normal completion of a management access, with its data (R4). -/
def State.answer (s : State) (data : BitVec 64) : State := { s with out := { s.out with mgmt := ⟨true, data⟩ } }

/-- The low 40 bits of the tick: a stamp (R480). -/
def State.stamp (s : State) : BitVec 40 := s.tm.tick.setWidth 40

/-- Stamp a precedes stamp b, modulo 2⁴⁰ (R480). -/
def stampBefore (a b : BitVec 40) : Bool :=
  let d := (b - a).toNat
  decide (1 ≤ d) && decide (d < 2 ^ 39)

/-- Difference of stamps modulo 2⁴⁰. -/
def stampDiff (a b : BitVec 40) : Nat := (b - a).toNat

def State.slot (s : State) (i : Fin 16) : Slot := s.hg.slots[i]
def State.setSlot (s : State) (i : Fin 16) (x : Slot) : State :=
  { s with hg := { s.hg with slots := s.hg.slots.set i x } }
def State.port (s : State) (p : Fin 6) : Port := s.ports[p]
def State.setPort (s : State) (p : Fin 6) (x : Port) : State := { s with ports := s.ports.set p x }
def State.arr (s : State) (n : Nat) : Arr := s.arrs.toList.getD n {}
def State.setArr (s : State) (n : Nat) (x : Arr) : State :=
  if h : n < 32 then { s with arrs := s.arrs.set n x } else s
def State.diagOf (s : State) (n : Nat) : Diag := s.st.diag.toList.getD n {}
def State.setDiag (s : State) (n : Nat) (x : Diag) : State :=
  if h : n < 32 then { s with st := { s.st with diag := s.st.diag.set n x } } else s

/-- Address of task word `n` of a slot's graph. -/
def Hdr.twAddr (h : Hdr) (n : Nat) : Nat := h.twBase + 64 * n
/-- Address of the dependence word of node `n` (R414). -/
def Hdr.depAddr (h : Hdr) (n : Nat) : Nat := h.workBase + 8 * n
/-- Address of the completion record of node `n` (R371). -/
def Hdr.compAddr (h : Hdr) (n : Nat) : Nat := h.compBase + 16 * n

/-- The 512-bit task word of a node, as it stands in memory (R369). -/
def State.taskWord (s : State) (i : Fin 16) (n : Nat) : Nat := s.rdN ((s.slot i).hdr.twAddr n) 64

-- The common header of a task word, R364.
def twOpc (w : Nat) : Nat := fld w 0 8
def twAcc (w : Nat) : Bool := bit w 8
def twVen (w : Nat) : Bool := bit w 9
def twScope (w : Nat) : Bool := bit w 10
def twTrc (w : Nat) : Bool := bit w 11
def twLayer (w : Nat) : Nat := fld w 16 16
def twOpid (w : Nat) : Nat := fld w 32 16
def twUbatch (w : Nat) : Nat := fld w 48 16
def twVtag (w : Nat) : Nat := fld w 64 16
def twVrec (w : Nat) : Nat := fld w 80 16
def twPred (w : Nat) : Nat := fld w 96 12
def twScnt (w : Nat) : Nat := fld w 108 12
def twSidx (w : Nat) : Nat := fld w 128 28

/-- The opcodes of the opcode table (R378). -/
def isOpcode (c : Nat) : Bool :=
  c ∈ [0x01, 0x02, 0x03, 0x04, 0x05, 0x10, 0x11, 0x12, 0x20, 0x21, 0x22, 0x23, 0x30, 0x31, 0x32,
       0x40, 0x41, 0x42, 0x43, 0x50, 0x51, 0x52, 0x53, 0x54, 0x5F]

/-- GDX, GDW, FPROD and DIST: the opcodes that form gangs. -/
def isProduct (c : Nat) : Bool := decide (1 ≤ c) && decide (c ≤ 4)

/-- Opcodes that run on a core's arrays, row unit or operand store (R378). -/
def isCoreOp (c : Nat) : Bool := c ∈ [0x01, 0x02, 0x03, 0x04, 0x05, 0x10, 0x11, 0x12, 0x22, 0x23]

/-- A dependence word's fields of R587. -/
def depRem (w : Nat) : Nat := fld w 0 12
def depSt (w : Nat) : Nat := fld w 12 3
def depWait (w : Nat) : Nat := fld w 15 5
def mkDep (rem st wait waux wpeer : Nat) : Nat :=
  put 0 12 rem + put 12 3 st + put 15 5 wait + put 20 20 waux + put 40 12 wpeer

def State.depWord (s : State) (i : Fin 16) (n : Nat) : Nat := s.rdN ((s.slot i).hdr.depAddr n) 8
def State.setDep (s : State) (i : Fin 16) (n w : Nat) : State :=
  s.wrN ((s.slot i).hdr.depAddr n) 8 w

/-- `WAIT` of a node that becomes ready: its slot may be disabled (R600). -/
def State.readyWait (s : State) (i : Fin 16) (st : Nat) : Nat :=
  if st = 1 ∧ s.hg.slotEn.getLsbD i.val = false then 0x08 else 0

/-- Shows why a ready node has not moved on (R587). -/
def State.setWait (s : State) (i : Fin 16) (n st wait waux wpeer : Nat) : State :=
  s.setDep i n (mkDep (depRem (s.depWord i n)) st wait waux wpeer)

/-- `CSTATE`: a scheduled stop whose tick has passed is a stop at work (R490). -/
def State.cstate (s : State) : CutSt :=
  if s.cut.st = .scheduled ∧ s.cut.stopT.toNat < s.tm.tick.toNat then .stopping else s.cut.st

/-- Neither a cut nor a frozen partition stops dispatch and refuses SUBMIT (R490, R502). -/
def State.cutOpen (s : State) : Bool := s.cstate == .run || s.cstate == .scheduled

/-- Index fold over 0 … n − 1. -/
def forN {α : Type} (n : Nat) (a : α) (f : α → Nat → α) : α := (List.range n).foldl f a

/-- The six ports. -/
def allPorts : List (Fin 6) := [0, 1, 2, 3, 4, 5]
/-- The sixteen slots. -/
def allSlots : List (Fin 16) := [0, 1, 2, 3, 4, 5, 6, 7, 8, 9, 10, 11, 12, 13, 14, 15]

/-- The flight entry whose first node is `n` of slot `i`. -/
def State.flightOf (s : State) (i : Fin 16) (n : Nat) : Option Flight :=
  s.hg.flight.find? fun f => f.slot == i && f.node == n
/-- Replace that entry. -/
def State.setFlight (s : State) (f : Flight) : State :=
  { s with hg := { s.hg with
      flight := s.hg.flight.map fun g => if g.slot == f.slot && g.node == f.node then f else g } }
def State.addFlight (s : State) (f : Flight) : State :=
  { s with hg := { s.hg with flight := s.hg.flight ++ [f] } }
def State.dropFlight (s : State) (i : Fin 16) (n : Nat) : State :=
  { s with hg := { s.hg with flight := s.hg.flight.filter fun f => !(f.slot == i && f.node == n) } }

/-- A gang saved by CTXSAVE and not yet restarted (R433, R436). -/
def Flight.parked (f : Flight) : Bool := f.phase == .waiting 9

/-- Whether any instruction of the opcode is in flight. -/
def State.flying (s : State) (opc : Nat) : Bool := s.hg.flight.any fun f => f.opc == opc

end Sys2Proof.Machine
end

