-- ==== Sys2Proof/Machine/Flags.lean ====
section
/-! DEFINITION. Flags and records of observation: counters (R570 to R573), the service record (R15), the
trace ring (R577 to R584), the raising of events (R583, R603) and the event interrupt (R7). -/
namespace Sys2Proof.Machine

/-- Value at which a counter stays (R15, R570). -/
def ctrMax : Nat := 2 ^ 64 - 1

/-- Add to counter `i` of a bank's list. -/
def addAt (l : List Nat) (i n : Nat) : List Nat := l.set i (satAdd ctrMax (nth l i 0) n)

/-- Add `n` to counter `i` of bank `b` (R570). -/
def State.bump (s : State) (b i n : Nat) : State :=
  if h : b < 15 then
    let k := s.obs.banks[b]
    { s with obs := { s.obs with banks := s.obs.banks.set b { k with vals := addAt k.vals i n } } }
  else s

/-- Add the counts of R139 to a core's bank. -/
def State.bumpCounts (s : State) (core : Nat) (c : Counts) : State :=
  ((s.bump core 10 c.nan).bump core 11 c.sat).bump core 12 c.uflow

/-- Raise counter `i` of the service record by `n`; it stays at 2⁶⁴ − 1 (R15). -/
def State.svcAdd (s : State) (i n : Nat) : State :=
  let v := min (ctrMax : Int) (s.svc.count.getD i 0 + n)
  { s with svc := { s.svc with count := s.svc.count.set i v } }

/-- A service-record counter as it reads: the sum of the two parts, held at 2⁶⁴ − 1, or the larger of the
two for a peak temperature (R15, R17). -/
def State.svcVal (s : State) (i : Nat) : Int :=
  let c := s.svc.count.getD i 0
  let l := s.svc.load.getD i 0
  if 204 ≤ i then 0
  else if 128 ≤ i ∧ i < 144 then max c l
  else min ctrMax (c + l)

/-- Records of the ring (R614). -/
def TraceRegs.records (t : TraceRegs) : Nat := 2048 * t.size.toNat

/-- Local address of ring record `r` (R577). -/
def TraceRegs.recLoc (t : TraceRegs) (r : Nat) : Nat :=
  let p := r / 64
  put 43 5 (p % 32) + t.base.toNat + p / 32 * 4096 + 64 * (r % 64)

/-- Write one 64-byte record at the write index and advance it (R579). -/
def State.putRec (s : State) (r : Nat) : State :=
  let t := s.tr
  let k := t.live.records
  if k = 0 then s
  else { s with
    mem := Mem.setN s.mem (t.live.recLoc (t.wr.toNat % k)) 64 r
    tr := { t with wr := t.wr + 1, winCount := t.winCount + 1 } }

/-- Who a trace record is about (R580). -/
structure Who where
  unit : Nat
  slot : Nat := 0
  layer : Nat := 0
  opid : Nat := 0
  ubatch : Nat := 0
  node : Nat := 0xFFFFF
  deriving DecidableEq, Repr

/-- The header of R580 of a record by an instruction, with the body bits above it. -/
def recHeader (rtype rmore : Nat) (stamp : BitVec 40) (w : Who) (ecode : Nat) : Nat :=
  put 0 8 rtype + put 8 4 rmore + put 12 4 w.unit + put 16 4 w.slot + put 20 40 stamp.toNat
    + put 64 16 w.layer + put 80 16 w.opid + put 96 16 w.ubatch + put 112 20 w.node + put 132 8 ecode

/-- Write the records of one happening together, or drop and count them together: when the window of
1 µs is spent (R584), or when the ring is full under STOPFULL (R579). After a drop, the next record
written is a lost record. -/
def State.trace (s : State) (recs : List Nat) : State :=
  if s.tr.live.en = false then s
  else
    let id := s.tm.tick.toNat / 4000
    let t := if s.tr.winId = id then s.tr else { s.tr with winId := id, winCount := 0 }
    let s := { s with tr := t }
    let all := if t.lostSince = 0 then recs else
      (recHeader 0x08 0 s.stamp { unit := 13 } 0 + put 144 32 t.lostSince) :: recs
    let full := t.live.stopFull && decide (t.live.records < t.wr.toNat - t.rd.toNat + all.length)
    if full || decide (18000 < t.winCount + all.length) then
      { s with tr := { t with
          lost := BitVec.ofNat 32 (satAdd 0xFFFFFFFF t.lost.toNat recs.length)
          lostSince := t.lostSince + recs.length } }
    else all.foldl State.putRec { s with tr := { t with lostSince := 0 } }

/-- The event codes of R583. -/
inductive Ev where
  | format | range | aliasing | version | tagskew | stashtag | stashfull | lapse | saturate | allzero
  | allsat | outlierOverflow | trouble | lanefault | linkdown | partition | rebuild | slotend
  | timeslip | cutdone | snapcopy | snapdue | selftest | throttle | thermal | hang
  deriving DecidableEq, Repr

/-- Bit of an event in `FGE_EVT_PEND` (R583). -/
def Ev.code : Ev → Nat
  | .format => 0 | .range => 1 | .aliasing => 2 | .version => 3 | .tagskew => 4 | .stashtag => 5
  | .stashfull => 6 | .lapse => 7 | .saturate => 8 | .allzero => 9 | .allsat => 10
  | .outlierOverflow => 11 | .trouble => 12 | .lanefault => 13 | .linkdown => 14 | .partition => 15
  | .rebuild => 16 | .slotend => 17 | .timeslip => 18 | .cutdone => 19 | .snapcopy => 20
  | .snapdue => 21 | .selftest => 22 | .throttle => 23 | .thermal => 24 | .hang => 25

/-- Raise an event: set its pending bit and, with EVT set, write its record (R583, R603). -/
def State.raise (s : State) (e : Ev) (w : Who) (w0 w1 w2 : Nat) : State :=
  let s := { s with evt := { s.evt with pend := s.evt.pend ||| BitVec.ofNat 26 (2 ^ e.code) } }
  if s.tr.live.evt then
    s.trace [recHeader 0x03 0 s.stamp w e.code + put 144 32 w0 + put 176 32 w1 + put 208 64 w2]
  else s

/-- The event interrupt output: at least one pending event is unmasked (R7). -/
def State.irq (s : State) : Bool := s.evt.pend &&& ~~~s.evt.mask != 0

/-- The unit code of R580 for an opcode: the core, or the unit of R378. -/
def unitOf (opc : Nat) (core : Nat) : Nat :=
  if isCoreOp opc then core
  else if opc = 0x20 ∨ opc = 0x21 then 11
  else if opc = 0x40 then 9
  else if opc = 0x41 then 10
  else if opc = 0x42 ∨ opc = 0x43 then 12
  else if opc = 0x51 then 13
  else 8

/-- Who, for a task word (R370). -/
def whoOf (i : Fin 16) (n w core : Nat) : Who :=
  { unit := unitOf (twOpc w) core, slot := i.val, layer := twLayer w, opid := twOpid w,
    ubatch := twUbatch w, node := n }

/-- A record of type `rtype` with body bits `body` placed from bit 144, under trace enable. -/
def State.traceInst (s : State) (rtype : Nat) (w : Who) (body : Nat) : State :=
  if s.tr.live.inst then s.trace [recHeader rtype 0 s.stamp w 0 + (body <<< 144)] else s

/-- Copy a bank into its latch with its tags and stamp, and write the counter-sample records (R576,
R581). -/
def State.sampleBank (s : State) (b : Nat) : State :=
  if h : b < 15 then
    let k := s.obs.banks[b]
    let s := { s with obs := { s.obs with
      banks := s.obs.banks.set b { k with latch := ⟨k.vals, k.tags, s.stamp⟩ } } }
    let rec8 := fun j => forN 8 0 fun a i => a + put (64 * i) 64 (nth k.vals (8 * j + i) 0)
    let tags := forN 32 0 fun a i => a + put (16 * i) 16 (nth k.tags i 0)
    s.trace [recHeader 0x04 5 s.stamp { unit := if b < 8 then b else if b = 8 then 9 else 15 } 0
        + put 144 4 b, rec8 0, rec8 1, rec8 2, rec8 3, tags]
  else s

/-- Zero a bank's counters and set their tags (R575). -/
def State.resetBank (s : State) (b : Nat) (cmdid : BitVec 16) : State :=
  if h : b < 15 then
    let k := s.obs.banks[b]
    let z := { k with vals := List.replicate 32 0, tags := List.replicate 32 cmdid.toNat }
    { s with obs := { s.obs with banks := s.obs.banks.set b z } }
  else s

/-- The banks a command names; 0xF names all (R574). -/
def banksOf (b : BitVec 4) : List Nat := if b.toNat = 15 then List.range 15 else [b.toNat]

end Sys2Proof.Machine
end

