-- ==== Sys2Proof/Machine/LinkOps.lean ====
section
/-! DEFINITION. What every unit needs of the links: the torus and routing (R441, R467, R468), sending of
data and sluice flits (R447, R449, R450), remote requests with their sequence numbers (R470, R472), ports
going DOWN (R607) and the choice of the time parent (R481). -/
namespace Sys2Proof.Machine

/-- Size of dimension 0 (x), 1 (y) or 2 (z) of the torus (R605). -/
def Hall.dim (h : Hall) (d : Nat) : Nat :=
  if d = 0 then h.xdim.toNat else if d = 1 then h.ydim.toNat else h.zdim.toNat

/-- Coordinate of a node ID (R441). -/
def coord (n : Nat) (d : Nat) : Nat := fld n (4 * d) 4

/-- Node ID from a node with one coordinate replaced. -/
def withCoord (n d c : Nat) : Nat := n - put (4 * d) 4 (coord n d) + put (4 * d) 4 c

/-- Dimension of a port (R442). -/
def portDim (p : Nat) : Nat := p / 2

/-- The node that a node's port is cabled to (R442). -/
def Hall.neighbour (h : Hall) (n p : Nat) : Nat :=
  let d := portDim p
  let size := h.dim d
  if size = 0 then n
  else withCoord n d ((coord n d + (if p % 2 = 0 then 1 else size - 1)) % size)

/-- The neighbour's port on the same cable (R442). -/
def farPort (p : Nat) : Nat := if p % 2 = 0 then p + 1 else p - 1

/-- Every dimension is 1 (R485, R499). -/
def Hall.single (h : Hall) : Bool := h.xdim == 1 && h.ydim == 1 && h.zdim == 1

/-- A port that carries data, at once or after a wake (R462). -/
def PortSt.usable : PortSt → Bool
  | .up | .keepalive => true
  | _ => false

/-- The code of R460. -/
def PortSt.code : PortSt → Nat
  | .down => 0 | .train => 1 | .trained => 2 | .up => 3 | .keepalive => 4 | .unused => 5 | .miswired => 6

def PortSt.ofCode : Nat → PortSt
  | 1 => .train | 2 => .trained | 3 => .up | 4 => .keepalive | 5 => .unused | 6 => .miswired
  | _ => .down

/-- Where a flit goes next (R467). -/
inductive Hop where
  | here
  | out (p : Fin 6) (f : Flit)
  | unreachable
  deriving DecidableEq, Repr

/-- One dimension of the routing of R467: the flit unchanged where the dimension is finished, or the hop. -/
def State.routeDim (s : State) (f : Flit) (d : Nat) : Flit ⊕ Hop :=
  let size := s.hall.dim d
  let dd := (coord f.dst.toNat d + size - coord s.hall.nid.toNat d) % size
  if dd = 0 then .inl { f with det := false }
  else
    let neg := if f.det then f.ddir else decide (size - dd < dd)
    let port := fun n : Bool => (⟨(2 * d + b2n n) % 6, Nat.mod_lt _ (by decide)⟩ : Fin 6)
    if (s.port (port neg)).st.usable then .inr (.out (port neg) f)
    else if f.det || !(s.port (port !neg)).st.usable then .inr .unreachable
    else .inr (.out (port !neg) { f with det := true, ddir := !neg })

/-- The routing of R467, dimension by dimension. -/
def State.route (s : State) (f : Flit) : Hop :=
  match s.routeDim f 0 with
  | .inr h => h
  | .inl f => match s.routeDim f 1 with
    | .inr h => h
    | .inl f => match s.routeDim f 2 with
      | .inr h => h
      | .inl _ => .here

/-- The virtual channel of a flit on a hop (R468): channel 0 in a new dimension, channel 1 once the wrap
is crossed. -/
def State.channel (s : State) (inPort : Option (Fin 6)) (p : Fin 6) (f : Flit) : Bool :=
  let d := portDim p.val
  let c := coord s.hall.nid.toNat d
  let wrap := if p.val % 2 = 0 then c + 1 == s.hall.dim d else c == 0
  let same := match inPort with
    | some q => portDim q.val == d
    | none => false
  (same && f.vc) || wrap

/-- Receive queue of a flit at the far end (R449): request or response class, by virtual channel. -/
def queueOf (f : Flit) : Fin 4 :=
  match decide (5 ≤ f.typ.toNat), f.vc with
  | false, false => 0
  | false, true => 1
  | true, false => 2
  | true, true => 3

/-- No counter value is left under the port's key (R463). -/
def Port.exhausted (q : Port) : Bool := q.txCount.toNat == 2 ^ 64 - 1

/-- A flit takes the next counter value and a place in the replay buffer of 512 (R449, R450); a sluice flit, which its
stamp stands beside (R451, R486), goes without one where it finds the buffer full (log 71). -/
def Port.took (q : Port) (w : Flit ⊕ Sluice) (stamp : BitVec 40 := 0) : Port :=
  { q with
    txCount := q.txCount + 1
    replay := if q.replay.length < 512 then q.replay ++ [⟨q.txCount.setWidth 16, w, stamp⟩] else q.replay }

/-- Put a sluice flit on a port's lanes. -/
def State.putSluice (s : State) (p : Fin 6) (m : Sluice) : State :=
  let s := (s.setPort p ((s.port p).took (.inr m) s.stamp)).bump (9 + p.val) 5 1
  { s with out := { s.out with links := s.out.links ++ [.sluice p m s.stamp] } }

/-- Send a sluice flit on a port that carries sluice flits (R447, R448). -/
def State.sluiceOn (s : State) (p : Fin 6) (m : Sluice) : State :=
  let q := s.port p
  if q.st.usable ∧ !q.exhausted then s.putSluice p m else s

/-- Send a sluice flit on every port that carries them, except those of `but`. -/
def State.sluiceAll (s : State) (m : Sluice) (but : List (Fin 6) := []) : State :=
  allPorts.foldl (fun s p => if p ∈ but then s else s.sluiceOn p m) s

/-- A flit leaves the receive queue it came in: the far end gets the credit back (R449). -/
def State.freeQueue (s : State) (came : Option (Fin 6 × Fin 4)) : State :=
  match came with
  | some (p, k) => s.sluiceOn p (.credit k 1)
  | none => s

/-- The flit with its payload filled up with zero bytes (R452). -/
def padded (f : Flit) : Flit := { f with payload := f.payload ++ List.replicate (128 - f.payload.length) 0 }

/-- Data flits may go out on the port (R459, R461). -/
def Port.carries (q : Port) : Bool := q.st == .up && !q.exhausted && !q.stalled

/-- Give a data flit to a port: it takes a credit, the next counter value and a place in the replay buffer, and leaves
its receive queue; or it is held at the port until it can (R449, R450, R459, R462), with the port and the channel it came
in by. A flit of this node is stamped as it goes (R451, R486). A port that keeps one lane alive sends a wake request (R462),
unless `wake` leaves that to the caller. -/
def State.transmit (s : State) (p : Fin 6) (f : Flit) (came : Option (Fin 6 × Fin 4))
    (via : Option (Fin 6 × Bool) := none) (wake : Bool := true) : State :=
  let q := s.port p
  let k := queueOf f
  if q.carries ∧ q.credits[k] ≠ 0 ∧ q.replay.length < 512 then
    let own := came.isNone && f.src == s.hall.nid
    let f := { padded f with pseq := q.txCount.setWidth 16, stamp := if own then s.stamp else f.stamp }
    let s := (s.setPort p { q.took (.inl f) with credits := q.credits.set k (q.credits[k] - 1) }).bump (9 + p.val) 3 1
    ({ s with out := { s.out with links := s.out.links ++ [Sent.data p f] } }).freeQueue came
  else
    let s := s.setPort p { q with hold := q.hold ++ [⟨f, came, via⟩] }
    if q.st = .keepalive ∧ wake then s.sluiceOn p .wake else s

/-- A kept flit goes out again on its port, as it was (R450). -/
def State.sendKept (s : State) (p : Fin 6) (k : Kept) : State :=
  match k.what with
  | .inl f => { s.bump (9 + p.val) 3 1 with out := { s.out with links := s.out.links ++ [.data p f] } }
  | .inr (.linkAck n) => { s with out := { s.out with links := s.out.links ++ [.sluice p (.linkAck n) k.stamp] } }
  | .inr m => { s.bump (9 + p.val) 5 1 with out := { s.out with links := s.out.links ++ [.sluice p m k.stamp] } }

/-- Kept flits go out again; data flits wait while the port carries none (R459, R461). -/
def State.sendAgain (s : State) (p : Fin 6) (l : List Kept) : State :=
  let goes := fun k : Kept => k.what.isRight || (s.port p).carries
  (l.filter goes).foldl (fun s k => s.sendKept p k) (s.setPort p { s.port p with
    owed := (l.filter fun k => !goes k) })

/-- Offer a port what waits at it again, in order: first the data flits that a replay owes. -/
def State.release (s : State) (p : Fin 6) : State :=
  let s := s.sendAgain p (s.port p).owed
  let held := (s.port p).hold
  held.foldl (fun s h => s.transmit p h.f h.came h.via) (s.setPort p { s.port p with hold := [] })

/-- Put an own flit on its way; the flag says whether a route was found (R467, R469). -/
def State.launch (s : State) (f : Flit) (wake : Bool := true) : State × Bool :=
  match s.route f with
  | .out p f => (s.transmit p { f with vc := s.channel none p f } none none wake, true)
  | _ => (s, false)

/-- A negative response to a request (R474). -/
def State.nak (s : State) (f : Flit) (status : Nat) (wake : Bool := true) : State :=
  (s.launch (wake := wake) {
    typ := 7, dst := f.src, src := s.hall.nid, sslot := f.sslot, stamp := s.stamp, addr := f.addr
    eseq := f.eseq, status := BitVec.ofNat 4 status }).1

/-- Next ESEQ for a destination (R470). -/
def Remote.nextEseq (r : Remote) (dst : BitVec 12) : Nat :=
  match r.eseq.find? fun e => e.1 == dst with
  | some e => e.2
  | none => 0

def Remote.bumpEseq (r : Remote) (dst : BitVec 12) : Remote :=
  { r with eseq := (dst, r.nextEseq dst + 1) :: r.eseq.filter fun e => e.1 != dst }

/-- Whether a destination's 1,024 unacknowledged requests are used up (R470). -/
def Remote.windowFull (r : Remote) (dst : BitVec 12) : Bool :=
  decide (1024 ≤ (r.unacked.filter fun q => q.f.dst == dst).length)

/-- From this node number on stand the requests of instructions whose graph has left its slot. -/
def pastNode : Nat := 0x200000

/-- A held request shows in the dependence word of the dispatched instruction that it serves, and of a FENCE that waits
for it (R587). -/
def State.showHeld (s : State) (q : Req) : State :=
  if 0x100000 ≤ q.node ∧ q.node < pastNode then s
  else (s.hg.flight.filter fun f => f.slot == q.slot && !f.parked).foldl (fun s f =>
    if f.results.any fun r => r.node == q.node then s.setWait q.slot q.node 2 0x0A 0 q.f.dst.toNat
    else if f.opc == 0x50 && f.fence.contains q.node then s.setWait q.slot f.node 2 0x0A 0 q.f.dst.toNat
    else s) s

/-- A request is held (R469, R470). -/
def State.hold (s : State) (q : Req) : State :=
  ({ s with rem := { s.rem with heldReq := s.rem.heldReq ++ [q] } }).showHeld q

/-- A dispatched instruction shows a request of its own that is held. -/
def State.showNode (s : State) (i : Fin 16) (n : Nat) : State :=
  match s.rem.heldReq.find? fun q => q.slot == i && q.node == n with
  | some q => s.showHeld q
  | none => s

/-- Send a store or accumulate-write to another node, or hold it while its window is full or no route
exists (R469, R470). -/
def State.sendWrite (s : State) (i : Fin 16) (n : Nat) (f : Flit) : State :=
  if s.rem.windowFull f.dst then s.hold (Req.mk f i n)
  else
    let f := { f with
      src := s.hall.nid, sslot := BitVec.ofNat 4 i.val, stamp := s.stamp
      eseq := BitVec.ofNat 32 (s.rem.nextEseq f.dst) }
    let s := { s with rem := s.rem.bumpEseq f.dst }
    let s := { s with rem := { s.rem with unacked := s.rem.unacked ++ [Req.mk f i n] } }
    let (s, ok) := s.launch f
    if ok then s else s.hold (Req.mk f i n)

/-- Whether a byte of another node lies in a unit that this node read for an instruction. -/
def Remote.fetched (r : Remote) (a : Nat) : Bool := r.got.any fun g => decide (g.2.2 ≤ a) && decide (a < g.2.2 + 64)

/-- Bytes stored on another node; units this node read for its own instructions follow the store, so that no element of
one word undoes another (R344). -/
def State.follow (s : State) (a : Nat) (bytes : List Byte) : State :=
  { s with rem := { s.rem with
    data := forN bytes.length s.rem.data fun m k =>
      if s.rem.fetched (a + k) then Mem.set m (a + k) (nth bytes k 0) else m } }

/-- Send a remote read of up to 128 bytes (R470). -/
def State.sendRead (s : State) (i : Fin 16) (n : Nat) (h : Nat) : State :=
  let f : Flit := {
    typ := 1, dst := BitVec.ofNat 12 (hallNode h), src := s.hall.nid
    sslot := BitVec.ofNat 4 i.val, stamp := s.stamp, addr := BitVec.ofNat 60 h, len := 1 }
  let s := { s with rem := { s.rem with reads := s.rem.reads ++ [Req.mk f i n] } }
  let (s, ok) := s.launch f
  if ok then s else s.hold (Req.mk f i n)

/-- A request as it is kept gives way to another. -/
def Remote.swap (r : Remote) (q q' : Req) : Remote :=
  let f := fun x : Req => if x = q then q' else x
  { r with unacked := r.unacked.map f, reads := r.reads.map f, heldReq := r.heldReq.map f }

/-- Hold a request that was sent: its next sending is one end to end again (R451, R469). -/
def State.holdReq (s : State) (q : Req) : State :=
  let q' := { q with f := { q.f with retx := true } }
  let s := { s with rem := s.rem.swap q q' }
  if q' ∈ s.rem.heldReq then s else s.hold q'

/-- Send a kept request, with the tick of this sending (R451); without a route it is held. -/
def State.sendReq (s : State) (q : Req) : State :=
  let q' := { q with f := { q.f with stamp := s.stamp } }
  let (s, ok) := { s with rem := s.rem.swap q q' }.launch q'.f
  if ok then s else s.hold q'

/-- Send again the held requests that `p` picks; a request already counted keeps its ESEQ. -/
def State.resend (s : State) (pick : Req → Bool) : State :=
  let go := s.rem.heldReq.filter pick
  let s := { s with rem := { s.rem with heldReq := s.rem.heldReq.filter fun q => !pick q } }
  go.foldl (fun s q =>
    if q ∈ s.rem.reads ∨ q ∈ s.rem.unacked then s.sendReq q else s.sendWrite q.slot q.node q.f) s

/-- Send every unacknowledged request and outstanding read that was sent again with RETX (R472). -/
def State.retransmit (s : State) : State :=
  let again := fun q : Req => if q ∈ s.rem.heldReq then q else { q with f := { q.f with retx := true } }
  let s := { s with rem := { s.rem with unacked := s.rem.unacked.map again, reads := s.rem.reads.map again } }
  (s.rem.unacked ++ s.rem.reads).foldl (fun s q => if q ∈ s.rem.heldReq then s else s.sendReq q) s

/-- The parent port of R481: the UP port whose neighbour reports the fewest hops, ties to the lower. -/
def State.bestParent (s : State) : Option (Fin 6) :=
  allPorts.foldl (fun b p =>
    if (s.port p).st.usable && s.tm.nbHops[p] != 0x1F then
      match b with
      | none => some p
      | some q => if s.tm.nbHops[p].toNat < s.tm.nbHops[q].toNat then some p else b
    else b) none

/-- Choose the parent and the hop count again; the root has none (R481). -/
def State.chooseParent (s : State) : State :=
  if s.tm.root then { s with tm := { s.tm with parent := 7, hops := 0 } }
  else match s.bestParent with
    | some p => { s with tm := { s.tm with
        parent := BitVec.ofNat 3 p.val, hops := s.tm.nbHops[p] + 1 } }
    | none => { s with tm := { s.tm with parent := 7, hops := 0x1F } }

/-- The state of a node's port as this node was last told; DOWN where it never was (R469). -/
def Hall.stOf (h : Hall) (n : BitVec 12) (p : Nat) : PortSt :=
  ((h.portSts.find? fun x => x.1 == (n, p)).map (·.2)).getD .down

/-- A node's port is in a state from now on. -/
def Hall.told (h : Hall) (n : BitVec 12) (p : Nat) (st : PortSt) : Hall :=
  { h with portSts := ((n, p), st) :: h.portSts.filter fun x => x.1 != (n, p) }

/-- This node's own ports as the hall's notices show them (R469). -/
def State.noteOwnPort (s : State) (p : Fin 6) : State :=
  { s with hall := s.hall.told s.hall.nid p.val (s.port p).st }

/-- The engine is in DEEP, or on its way from it. -/
def State.asleep (s : State) : Bool := s.pwr.st == .deep || (s.pwr.st == .waking && s.pwr.wakeFrom == .deep)

/-- A port keeps its lane 0 alive, for this node or for the one at the far end (R461, R462): data flits that no link
acknowledgement covers go out again when all lanes run. -/
def Port.keepAlive (q : Port) (far : Bool) : Port :=
  { q with st := .keepalive, farDeep := far, owed := q.replay.filter fun k => k.what.isLeft }

/-- A change of a port's state is sent through the hall (R469). -/
def State.announce (s : State) (p : Fin 6) : State :=
  (s.noteOwnPort p).sluiceAll (.portNotice s.hall.nid p.val (s.port p).st)

/-- A port at rest in state `st`: lanes out of use, its keys in use erased (R465), and its counters with them (R463). -/
def Port.rest (q : Port) (st : PortSt) : Port :=
  { q with
    st := st, tx := {}, rx := {}, laneOf := [], tstep := 0, faults := [], awaiting := none, synced := false, stalled := false
    replay := [], credits := Vector.replicate 4 64, keyTx := none, keyRx := none, farReady := false
    txNew := false, rxNew := false, telem := [], owed := [], fails := [], farDeep := false, txOut := false, txOld := 0
    lastAck := none
    txCount := 0, rxCount := 0 }

/-- Wake requests go out on the ports that keep one lane alive and have come to hold flits since `s0` (R462). -/
def State.wakesSince (s s0 : State) : State :=
  allPorts.foldl (fun s p =>
    if (s.port p).st = .keepalive ∧ (s0.port p).hold.length < (s.port p).hold.length then s.sluiceOn p .wake else s) s

/-- Flits of other sources that waited at a port take another one, or go back to their source (R468, R469). -/
def State.reroute (s : State) (held : List Held) : State :=
  held.foldl (fun s h =>
    if h.f.src = s.hall.nid then s
    else
      let g := match h.via with
        | some v => { h.f with vc := v.2 }
        | none => h.f
      match s.route g with
      | .out o g => s.transmit o { g with vc := s.channel (h.via.map (·.1)) o g } h.came h.via false
      | _ => (s.freeQueue h.came).nak h.f 1 false) s

/-- A port leaves its state for `st` and loses its session: its data flits are sent again on another
route by their sources (R472), the parent is chosen again (R481) and the hall is told (R469), after the credits of the
flits that take another port and before the wakes that they ask for (R447). LINKDOWN is raised when `ev` is set (R457, R607). -/
def State.portDown (s : State) (p : Fin 6) (st : PortSt) (ev : Bool) : State :=
  let q := s.port p
  let s := s.setPort p { q.rest st with hold := [] }
  -- flits that came in by this port and wait elsewhere have no queue of it any more
  let s := allPorts.foldl (fun s o => s.setPort o { s.port o with
    hold := (s.port o).hold.map fun h => if (h.came.map (·.1)) = some p then { h with came := none } else h }) s
  let s := if ev then s.raise .linkdown { unit := 15 } p.val st.code 0 else s
  (((s.reroute q.hold).chooseParent.announce p).wakesSince s).retransmit

/-- A port that carries flits and has no counter value left goes DOWN (R463). -/
def State.downExhausted (s : State) (p : Fin 6) : State :=
  let q := s.port p
  if (q.st.usable || q.st == .trained) && q.exhausted then s.portDown p .down true else s

/-- Ports without a counter value left go DOWN before anything else is sent (R463). -/
def State.sweep (s : State) : State := allPorts.foldl (fun s p => s.downExhausted p) s

/-- A port with a session, or with the training for one: sluice flits pass (R453, R465). -/
def Port.linked (q : Port) : Bool := q.st.usable || q.st == .trained

/-- A sluice flit comes in by a port: it acts, unless it came after one that failed its tag and is awaited (R450). -/
def State.sluiceIn (s : State) (p : Fin 6) (act : State → State) : State :=
  let s := s.sweep
  if (s.port p).linked && (s.port p).awaiting.isNone then act s else s

/-- The frame, or the run of 64 slots of a keep-alive lane, that a tick falls in, and the telemetry flits that it takes
(R446, R461, R585): 49,152 symbol times at 112 GBd are 12,288/7 tk, and 64 slots of 1,536 at 7 GBd 393,216/7 tk. -/
def Port.telemWindow (q : Port) (tick : Nat) : Nat × Nat :=
  if q.st = .keepalive then (7 * tick / 393216, 1)
  else (7 * tick / 12288, if q.tx.lanes.length < 8 then 8 else 10)

/-- Telemetry flits that wait at a port go out, as many as its frame takes (R585). -/
def State.drainTelem (s : State) (p : Fin 6) : State :=
  let q := s.port p
  if !q.st.usable || q.exhausted then s
  else
    let (w, cap) := q.telemWindow s.tm.tick.toNat
    let used := if q.telAt = w then q.telSent else 0
    let n := min (cap - used) q.telem.length
    (q.telem.take n).foldl (fun s b => s.sluiceOn p (.telemetry s.hall.actMgr b))
      (s.setPort p { q with telem := q.telem.drop n, telAt := w, telSent := used + n })

/-- A telemetry flit takes its place in a port's queue of 64, whose oldest gives way, and goes out when the frame takes it
(R585). -/
def State.telemetryOn (s : State) (p : Fin 6) (b : BitVec 106) : State :=
  let q := s.port p
  let s := if q.telem.length < 64 then s.setPort p { q with telem := q.telem ++ [b] }
    else (s.setPort p { q with telem := q.telem.tail ++ [b] }).bump (9 + p.val) 6 1
  s.drainTelem p

/-- Whether a port may train: not of a dimension of size 1 (R443). -/
def State.portUnused (s : State) (p : Fin 6) : Bool := s.hall.dim (portDim p.val) == 1

/-- Start the training of a port from step 1 (R453). -/
def State.train (s : State) (p : Fin 6) : State :=
  if s.portUnused p then s
  else s.setPort p { (s.port p).rest .train with tstep := 1, fenced := 0, invert := 0 }

end Sys2Proof.Machine
end

