-- ==== Sys2Proof/Machine/Operands.lean ====
section
/-! DEFINITION. Operand forms: descriptors (R321), allocations (R327), shard maps (R332), element places
(R335), window views (R356), groups and scales (R143 to R148), reading and writing of elements, carried
records (R166 to R171), feedback (R268) and the statistics a conversion gathers (R183, R245 to R247). -/
namespace Sys2Proof.Machine

/-- A tensor: its descriptor index and the 512-bit descriptor. -/
structure Tensor where
  ix : Nat
  d : Nat
  deriving DecidableEq, Repr

-- Fields of a descriptor of kind 0, 2 or 3 (R321).
def Tensor.offset (t : Tensor) : Nat := fld t.d 0 48
def Tensor.node (t : Tensor) : Nat := fld t.d 48 12
def Tensor.fmtCode (t : Tensor) : Nat := fld t.d 60 4
def Tensor.ndimRaw (t : Tensor) : Nat := fld t.d 64 3
def Tensor.blk (t : Tensor) : Bool := bit t.d 67
def Tensor.use (t : Tensor) : Nat := fld t.d 68 2
def Tensor.accf (t : Tensor) : Nat := fld t.d 70 2
def Tensor.gsizeCode (t : Tensor) : Nat := fld t.d 72 2
def Tensor.square (t : Tensor) : Bool := bit t.d 74
def Tensor.gdim (t : Tensor) : Nat := fld t.d 75 3
def Tensor.carried (t : Tensor) : Bool := bit t.d 78
def Tensor.margin (t : Tensor) : Nat := fld t.d 79 4
def Tensor.steer (t : Tensor) : Bool := bit t.d 83
def Tensor.wexp (t : Tensor) : Int := sgn 9 (fld t.d 84 9)
def Tensor.kind (t : Tensor) : Nat := fld t.d 93 2
def Tensor.localCopy (t : Tensor) : Bool := bit t.d 95
def Tensor.slayer (t : Tensor) : Nat := fld t.d 96 16
def Tensor.alloc (t : Tensor) : Nat := fld t.d 112 16
def Tensor.smap (t : Tensor) : Nat := fld t.d 128 16
def Tensor.scaleIx (t : Tensor) : Nat := fld t.d 144 16
def Tensor.zpIx (t : Tensor) : Nat := fld t.d 160 16
def Tensor.olIx (t : Tensor) : Nat := fld t.d 176 16
def Tensor.ovIx (t : Tensor) : Nat := fld t.d 192 16
def Tensor.resIx (t : Tensor) : Nat := fld t.d 208 16
def Tensor.extRaw (t : Tensor) (i : Nat) : Nat := fld t.d (20 * i + 224) 20
/-- Stride of dimension 0 in elements or blocks, of the others in 64-byte units. -/
def Tensor.str (t : Tensor) (i : Nat) : Int :=
  if i = 0 then sgn 24 (fld t.d 344 24) else sgn 28 (fld t.d (28 * i + 340) 28)

-- Fields of a window view (R354).
def Tensor.wsrc (t : Tensor) : Nat := fld t.d 0 16
def Tensor.wdw (t : Tensor) : Nat := fld t.d 16 3
def Tensor.wdh (t : Tensor) : Nat := fld t.d 19 3
def Tensor.wdn (t : Tensor) : Nat := fld t.d 22 3
def Tensor.kw (t : Tensor) : Nat := fld t.d 28 4
def Tensor.kh (t : Tensor) : Nat := fld t.d 32 4
def Tensor.sw (t : Tensor) : Nat := fld t.d 36 4
def Tensor.sh (t : Tensor) : Nat := fld t.d 40 4
def Tensor.dw (t : Tensor) : Nat := fld t.d 44 4
def Tensor.dh (t : Tensor) : Nat := fld t.d 48 4
def Tensor.pl (t : Tensor) : Nat := fld t.d 52 4
def Tensor.pt (t : Tensor) : Nat := fld t.d 56 4
def Tensor.ow (t : Tensor) : Nat := fld t.d 64 16
def Tensor.wrap (t : Tensor) : Bool := bit t.d 95
def Tensor.oh (t : Tensor) : Nat := fld t.d 96 16

def Tensor.isView (t : Tensor) : Bool := t.kind == 1
/-- A descriptor that takes part (R319). -/
def Tensor.used (t : Tensor) : Bool := t.isView || t.ndimRaw != 0

/-- Group size g (R143). -/
def Tensor.gsize (t : Tensor) : Nat := 32 * 2 ^ t.gsizeCode

/-- Extents of a tensor that is no view, dimension 0 first. -/
def Tensor.exts (t : Tensor) : List Nat := (List.range t.ndimRaw).map t.extRaw

/-- The element format of the descriptor itself (R323). -/
def Tensor.ownFmt (t : Tensor) : Option EFmt :=
  if t.accf = 1 then some .a16
  else if t.accf = 2 then some (.w64 t.wexp)
  else (Fmt.ofCode t.fmtCode).map .op

/-- Bytes of a record of a record tensor (R325). -/
def Tensor.recBytes (t : Tensor) : Nat := if t.fmtCode = 0 then 8 else 16

/-- The descriptor of an index, as it stands in the slot's table; none beyond the table. -/
def State.descAt (s : State) (i : Fin 16) (n : Nat) : Option Tensor :=
  let h := (s.slot i).hdr
  if n < h.descCount then some ⟨n, s.rdN (h.descBase + 64 * n) 64⟩ else none

/-- A used descriptor (R320). -/
def State.tensor (s : State) (i : Fin 16) (n : Nat) : Option Tensor :=
  match s.descAt i n with
  | some t => if t.used then some t else none
  | none => none

/-- A side tensor: none when the field names its own descriptor (R144). -/
def State.side (s : State) (i : Fin 16) (t : Tensor) (n : Nat) : Option Tensor :=
  if n = t.ix then none else s.tensor i n

/-- The allocation entry of a tensor (R327). -/
def State.allocOf (s : State) (i : Fin 16) (t : Tensor) : Nat :=
  s.rdN ((s.slot i).hdr.allocBase + 16 * t.alloc) 16

/-- Extents of any tensor; a view has two dimensions (R356). -/
def State.extents (s : State) (i : Fin 16) (t : Tensor) : List Nat :=
  if t.isView then
    match s.descAt i t.wsrc with
    | some src =>
      let n := if t.wdn = 7 then 1 else src.extRaw t.wdn
      [t.kh * t.kw * src.extRaw 0, n * t.oh * t.ow]
    | none => [0, 0]
  else t.exts

/-- Equal shapes: a dimension at or above NDIM has extent 1 (R322). -/
def sameShape (a b : List Nat) : Bool := (List.range 6).all fun k => nth a k 1 == nth b k 1

/-- Product of extents. -/
def prodN (l : List Nat) : Nat := l.foldl (· * ·) 1

/-- All coordinate tuples of the extents, dimension 0 fastest. -/
def coordsOf : List Nat → List (List Nat)
  | [] => [[]]
  | e :: r => (coordsOf r).flatMap fun c => (List.range e).map fun x => x :: c

/-- Linear index of coordinates, dimension 0 fastest (R615). -/
def linear : List Nat → List Nat → Nat
  | e :: es, c :: cs => c + e * linear es cs
  | _, _ => 0

/-- Coordinates of a linear index. -/
def unlinear : List Nat → Nat → List Nat
  | [], _ => []
  | e :: es, n => if e = 0 then 0 :: unlinear es n else n % e :: unlinear es (n / e)

/-- Shard map header and entries (R332). -/
def State.smapOf (s : State) (i : Fin 16) (t : Tensor) : Nat :=
  (s.slot i).hdr.smapBase + 64 * t.smap

/-- Shard index and local coordinate along a sharded dimension (R334). -/
def shardOf (cyclic : Bool) (e k c : Nat) : Nat × Nat :=
  if k = 0 then (0, c)
  else if cyclic then (c % k, c / k)
  else
    let p := cdiv e k
    if p = 0 then (0, c) else (c / p, c % p)

/-- Largest local extents: those of shard 0 (R334). -/
def shardExt (cyclic : Bool) (e k : Nat) : Nat := if cyclic then cdiv e k else min e (cdiv e k)

/-- The node an element lies on and its local coordinates (R330, R334), with the shard map read at `a` through
`rd` and `me` the node of a local copy. -/
def ownerVia (rd : Nat → Nat → Nat) (me a : Nat) (t : Tensor) (c : List Nat) : Nat × List Nat :=
  if t.localCopy then (me, c)
  else if t.smap = 0xFFFF then (t.node, c)
  else
    let h := rd a 8
    let sd0 := fld h 0 3
    let (j0, l0) := shardOf (bit h 3) (t.extRaw sd0) (fld h 4 13) (nth c sd0 0)
    let sd1 := fld h 17 3
    let k1 := fld h 21 13
    let two := bit h 34
    let (j1, l1) := if two then shardOf (bit h 20) (t.extRaw sd1) k1 (nth c sd1 0) else (0, 0)
    let sh := j0 * (if two then k1 else 1) + j1
    let c := c.set sd0 l0
    let c := if two then c.set sd1 l1 else c
    (fld (rd (a + 8 + 2 * sh) 2) 0 12, c)

/-- The same under a slot's shard maps. -/
def State.owner (s : State) (i : Fin 16) (t : Tensor) (c : List Nat) : Nat × List Nat :=
  ownerVia (fun a n => s.rdN a n) s.hall.nid.toNat (s.smapOf i t) t c

/-- Local extent along a sharded dimension of shard `j` (R334). -/
def shardLen (cyclic : Bool) (e k j : Nat) : Nat :=
  if k = 0 then e else if cyclic then cdiv (e - j) k else min (cdiv e k) (e - j * cdiv e k)

/-- Extent of dimension 0 as the node of an element holds it. -/
def State.rowLen (s : State) (i : Fin 16) (t : Tensor) (c : List Nat) : Nat :=
  let e := t.extRaw 0
  if t.localCopy || t.smap == 0xFFFF then e
  else
    let h := s.rdN (s.smapOf i t) 8
    let part := fun (cyclic : Bool) (k : Nat) => shardLen cyclic e k (shardOf cyclic e k (nth c 0 0)).1
    if fld h 0 3 = 0 then part (bit h 3) (fld h 4 13)
    else if bit h 34 && fld h 17 3 == 0 then part (bit h 20) (fld h 21 13)
    else e

/-- Local extents of shard 0. -/
def State.localExts (s : State) (i : Fin 16) (t : Tensor) : List Nat :=
  if t.localCopy || t.smap == 0xFFFF then t.exts
  else
    let h := s.rdN (s.smapOf i t) 8
    let sd0 := fld h 0 3
    let e := t.exts.set sd0 (shardExt (bit h 3) (t.extRaw sd0) (fld h 4 13))
    if bit h 34 then
      let sd1 := fld h 17 3
      e.set sd1 (shardExt (bit h 20) (t.extRaw sd1) (fld h 21 13))
    else e

/-- Byte L of an allocation as the local part of a hall address (R329). -/
def allocByte (entry l : Nat) : Nat :=
  let n := 2 ^ fld entry 48 3
  let p := l / 4096
  put 43 5 (fld entry 43 5 + p % n) + (fld entry 0 43 + p / n * 4096 + l % 4096)

/-- Bytes of one 32 × 32 block (R111, R336). -/
def EFmt.blockBytes (f : EFmt) : Nat :=
  match f with
  | .w64 _ => 8192
  | f => cdiv (4 * cdiv 1024 f.perWord) 64 * 64

/-- Where an element lies: hall address of its word, bit of the word, width, the mask of the word's bits that a write
leaves standing (R112), and the bytes of whole pad words that follow the last word of a block (R111). -/
structure Place where
  addr : Nat
  sh : Nat
  w : Nat
  keep : Nat
  tail : Nat := 0
  deriving DecidableEq, Repr

/-- Bits of the word's slots that hold positions for which `inside` holds, other than slot `j`. -/
def keepMask (f : EFmt) (j : Nat) (inside : Nat → Bool) : Nat :=
  forN f.perWord 0 fun a k =>
    if k != j && inside k then a + ((2 ^ f.bits - 1) <<< (f.bits * k)) else a

/-- Logical byte, bit, keep mask and pad bytes of an element within its allocation (R335), packed in format f in rows
of `len` elements. -/
def locateElem (t : Tensor) (f : EFmt) (len : Nat) (c : List Nat) : Int × Nat × Nat × Nat :=
  let outer : Int := (t.offset : Int) +
    forN (t.ndimRaw - 2) 0 fun (a : Int) k => a + 64 * ((nth c (k + 2) 0 : Nat) * t.str (k + 2))
  let c0 := nth c 0 0
  let c1 := if t.ndimRaw < 2 then 0 else nth c 1 0
  let e : Int := f.perWord
  if t.blk then
    let b := outer + 64 * ((c0 / 32 : Nat) * t.str 0 + (c1 / 32 : Nat) * t.str 1)
    let k := 32 * (c1 % 32) + c0 % 32
    if f.bits = 64 then (b + 8 * (k : Int), 0, 0, 0)
    else
      let wd := k / f.perWord
      (b + 4 * (wd : Int), f.bits * (k % f.perWord),
        keepMask f (k % f.perWord) fun j => decide (wd * f.perWord + j < 1024),
        if wd + 1 = cdiv 1024 f.perWord then f.blockBytes - 4 * (wd + 1) else 0)
  else
    let row := outer + (if t.ndimRaw < 2 then 0 else 64 * ((c1 : Nat) * t.str 1))
    let pos : Int := (c0 : Int) * t.str 0
    if f.bits = 64 then (row + 8 * pos, 0, 0, 0)
    else
      let wd := pos / e
      let j := (pos % e).toNat
      let far : Int := ((len : Int) - 1) * t.str 0
      (row + 4 * wd, f.bits * j, (keepMask f j fun k =>
        let q := wd * e + k
        decide (min 0 far ≤ q) && decide (q ≤ max 0 far)), 0)

/-- The place of an element of a tensor that is no view. -/
def State.place (s : State) (i : Fin 16) (t : Tensor) (f : EFmt) (c : List Nat) : Place :=
  let (n, l) := s.owner i t c
  let (b, sh, keep, tail) := locateElem t f (s.rowLen i t c) l
  ⟨hallAddr n (allocByte (s.allocOf i t) b.toNat), sh, f.bits, keep, tail⟩

/-- Whether an element lies in this node's stacks (R377). -/
def State.isMine (s : State) (i : Fin 16) (t : Tensor) (c : List Nat) : Bool :=
  (s.owner i t c).1 == s.hall.nid.toNat

/-- The source element a view element stands for; none for zero padding (R356). A dimension above 0
that the view does not name is at coordinate 0, which R356 does not say (DESIGN CHOICE, log 142). -/
def State.viewElem (s : State) (i : Fin 16) (t : Tensor) (c : List Nat) : Option (Tensor × List Nat) :=
  match s.descAt i t.wsrc with
  | none => none
  | some src =>
    let ch := src.extRaw 0
    let k := nth c 0 0
    let r := nth c 1 0
    if ch = 0 ∨ t.kw = 0 ∨ t.ow = 0 ∨ t.oh = 0 then none
    else
      let x := k % ch
      let kw := k / ch % t.kw
      let kh := k / ch / t.kw
      let ow := r % t.ow
      let oh := r / t.ow % t.oh
      let n := r / t.ow / t.oh
      let h : Int := if t.wdh = 7 then 0 else (oh * t.sh + kh * t.dh : Nat) - (t.pt : Int)
      let w : Int := (ow * t.sw + kw * t.dw : Nat) - (t.pl : Int)
      let he : Int := if t.wdh = 7 then 1 else src.extRaw t.wdh
      let we : Int := if t.wdw = 7 then 1 else src.extRaw t.wdw
      let inside := decide (0 ≤ h) && decide (h < he) && decide (0 ≤ w) && decide (w < we)
      if !inside && (!t.wrap || he == 0 || we == 0) then none
      else
        let z := (List.replicate src.ndimRaw 0).set 0 x
        let z := if t.wdw = 7 then z else z.set t.wdw (w % we).toNat
        let z := if t.wdh = 7 then z else z.set t.wdh (h % he).toNat
        some (src, if t.wdn = 7 then z else z.set t.wdn n)

/-- An element with views resolved; none is an element of value zero that lies nowhere. -/
def State.resolve (s : State) (i : Fin 16) (t : Tensor) (c : List Nat) : Option (Tensor × List Nat) :=
  if t.isView then s.viewElem i t c else some (t, c)

/-- Read the code at a place. -/
def State.readPlace (s : State) (p : Place) : Nat :=
  fld (s.rdN p.addr (if p.w = 64 then 8 else 4)) p.sh p.w

/-- The low `k` bytes of a number. -/
def bytesOf (k v : Nat) : List Byte := (List.range k).map fun j => BitVec.ofNat 8 (v >>> (8 * j))

/-- A store of `k` bytes to another node (R470), or what is to be done there with them (log 81). -/
def storeFlit (h k v : Nat) (m : Merge := .plain) : Flit :=
  { typ := 2, dst := BitVec.ofNat 12 (hallNode h), addr := BitVec.ofNat 60 h, len := BitVec.ofNat 2 (cdiv k 64)
    payload := bytesOf k v, used := k, merge := m }

/-- Write `k` bytes at a hall address, here or by a remote store (R470). -/
def State.wrAny (s : State) (i : Fin 16) (n h k v : Nat) : State :=
  if hallNode h = s.hall.nid.toNat then s.wrN h k v
  else (s.follow h (bytesOf k v)).sendWrite i n (storeFlit h k v)

/-- Merge `k` bytes into a record in the basin of the stack that holds it (R159, R228, R231): here, or on its node, where
the kind of merge says how (log 81). -/
def State.mergeAt (s : State) (i : Fin 16) (n h k v : Nat) (m : Merge) (new : Nat → Nat) : State :=
  if hallNode h = s.hall.nid.toNat then s.wrN h k (new (s.rdN h k)) else s.sendWrite i n (storeFlit h k v m)

/-- The pad bytes of a word, beside the element in it: their bits stand in neither (R112). -/
def Place.pads (p : Place) : List Nat :=
  if p.w = 64 then []
  else (List.range 4).filter fun b =>
    !(decide (p.sh / 8 ≤ b) && decide (b < (p.sh + p.w) / 8)) && fld p.keep (8 * b) 8 == 0

/-- Write a code at a place of this node, or send it by remote stores: whole bytes of the element and its word's pads,
or, when the element is narrower than a byte, its bits of the word, which the stack adapter of its node puts into it
(R112, R344, R470). -/
def State.writePlace (s : State) (i : Fin 16) (n : Nat) (p : Place) (v : Nat) : State :=
  let bytes := if p.w = 64 then 8 else 4
  let new := (s.rdN p.addr bytes &&& p.keep) ||| put p.sh p.w v
  let s :=
    if hallNode p.addr = s.hall.nid.toNat then s.wrN p.addr bytes new
    else if p.w % 8 = 0 then
      p.pads.foldl (fun s b => s.wrAny i n (p.addr + b) 1 0) (s.wrAny i n (p.addr + p.sh / 8) (p.w / 8) v)
    else (s.follow p.addr (bytesOf bytes new)).sendWrite i n
      (storeFlit p.addr bytes (put p.sh p.w v) (.bits (BitVec.ofNat 32 p.keep)))
  if p.tail = 0 then s else s.wrAny i n (p.addr + 4) p.tail 0

/-- Address of record `c` of a record tensor. -/
def State.recPlace (s : State) (i : Fin 16) (t : Tensor) (c : List Nat) : Nat :=
  let (n, l) := s.owner i t c
  let b : Int := (t.offset : Int) + (nth l 0 0 : Nat) * t.str 0 * t.recBytes +
    forN (t.ndimRaw - 1) 0 fun (a : Int) k => a + 64 * ((nth l (k + 1) 0 : Nat) * t.str (k + 1))
  hallAddr n (allocByte (s.allocOf i t) b.toNat)

/-- Entry `j` of an index tensor: a signed 32-bit integer (R324). -/
def State.indexAt (s : State) (i : Fin 16) (t : Tensor) (j : Nat) : Int :=
  let p := s.place i t (.op .fp32) [j]
  sgn 32 (s.readPlace p)

/-- The groups' extents over a tensor's shape (R146): also the shape of its scale tensor. -/
def groupExts (t : Tensor) (e : List Nat) : List Nat :=
  if t.square then (e.set 0 (cdiv (nth e 0 0) t.gsize)).set 1 (cdiv (nth e 1 0) t.gsize)
  else e.set t.gdim (cdiv (nth e t.gdim 0) t.gsize)

/-- The group of an element (R145). -/
def groupCoord (t : Tensor) (c : List Nat) : List Nat :=
  if t.square then (c.set 0 (nth c 0 0 / t.gsize)).set 1 (nth c 1 0 / t.gsize)
  else c.set t.gdim (nth c t.gdim 0 / t.gsize)

/-- The scale tensor or carried records of a tensor (R143, R144). -/
def State.scaleTensor (s : State) (i : Fin 16) (t : Tensor) : Option Tensor :=
  if t.isView ∨ t.accf ≠ 0 then none else s.side i t t.scaleIx
def State.zpTensor (s : State) (i : Fin 16) (t : Tensor) : Option Tensor :=
  if t.isView ∨ t.accf ≠ 0 ∨ t.carried then none else s.side i t t.zpIx

/-- The raw 128-bit carried record of a group (R166). -/
def State.carriedRec (s : State) (i : Fin 16) (t : Tensor) (gc : List Nat) : Nat :=
  match s.scaleTensor i t with
  | some r => s.rdN (s.recPlace i r gc) 16
  | none => 0

/-- Scale code and zero point stored for a group (R106, R148, R166). -/
def State.scaleAt (s : State) (i : Fin 16) (t : Tensor) (gc : List Nat) : Nat × Nat :=
  if t.carried then
    let r := s.carriedRec i t gc
    (fld r 0 16, fld r 16 8)
  else
    let sc := match s.scaleTensor i t with
      | some q => s.readPlace (s.place i q (.op .bf16) gc)
      | none => 0x3F80
    let z := match s.zpTensor i t with
      | some q => s.readPlace (s.place i q (.op .int8) gc)
      | none => 0
    (sc, z)

/-- The exact value of an element (R154), with the replacement of its scale counted (R124), and the code. -/
def State.elemVal (s : State) (i : Fin 16) (t : Tensor) (f : EFmt) (c : List Nat) : Val × Conv :=
  match s.resolve i t c with
  | none => (.zero, .none)
  | some (t, c) =>
    let code := s.readPlace (s.place i t f c)
    match f with
    | .op g =>
      let (sc, z) := s.scaleAt i t (groupCoord t c)
      let (sv, cv) := readScale sc
      (g.value code sv z, cv)
    | f => (f.decode code, .none)

/-- The stored code of an element. -/
def State.elemCode (s : State) (i : Fin 16) (t : Tensor) (f : EFmt) (c : List Nat) : Nat :=
  match s.resolve i t c with
  | none => 0
  | some (t, c) => s.readPlace (s.place i t f c)

-- The steward's records (R239 to R243), by layer.
def State.stwAddr (s : State) (l : Nat) : Nat := s.stw.live.base.toNat + 256 * l
/-- The node whose ladder records and layer states steer: in a hall of more than one live node the acting manager
(R263). -/
def State.stwHome (s : State) : Nat := if 1 < s.hall.live.length then s.hall.actMgr.toNat else s.hall.nid.toNat
/-- A layer's entry in that node's table, at the same stack and offset as in this node's. -/
def State.homeEntry (s : State) (l : Nat) : Nat := hallAddr s.stwHome (hallLoc (s.stwAddr l))
def State.ladder (s : State) (l : Nat) : Nat := s.rdN (s.homeEntry l) 64
/-- The position block that steers a layer: that node's (R263). -/
def State.posBlock (s : State) (l : Nat) : Nat := s.rdN (s.homeEntry l + 160) 32
def posValid (p : Nat) : Bool := bit p 0
def posMoved (p : Nat) : Bool := bit p 1
def posOwn (p : Nat) : Bool := bit p 2
def posCur (p : Nat) : Nat := fld p 8 4

/-- Format code of a rung (R241). -/
def rungFmt (ld r : Nat) : Nat := fld ld (8 + 4 * r) 4

/-- A threshold that may stand in a ladder: finite and not negative (R242); −0 counts as zero. -/
def goodThreshold (c : Nat) : Bool :=
  match ofFp32 c with
  | .num n m _ => !n || m == 0
  | _ => false

/-- A ladder record with EN set that breaks a rule of R242. -/
def ladderInvalid (ld : Nat) : Bool :=
  let top := fld ld 2 2
  let fs := (List.range (top + 1)).map fun r => Fmt.ofCode (rungFmt ld r)
  let bits := fs.map fun f => (f.map Fmt.bits).getD 0
  bit ld 0 && (decide (top < fld ld 4 2) || fs.any (·.isNone)
    || (List.range top).any (fun r => decide (nth bits (r + 1) (0 : Nat) ≤ nth bits r 0))
    || (fs.any (fun f => (f.map Fmt.isInt).getD false) && fs.any (fun f => !((f.map Fmt.isInt).getD false)))
    || !goodThreshold (fld ld 64 32) || !goodThreshold (fld ld 96 32)
    || !goodThreshold (fld ld 128 32) || !goodThreshold (fld ld 160 32))

/-- The empty statistics block (R243). -/
def emptyBlock : Nat := fp32MinCode + (fp32Max <<< 32)

/-- FORMAT for an invalid ladder record, at most once per layer per step, and in a hall of more than one live
node by the acting manager alone (R242, R264). -/
def State.ladderFormat (s : State) (l : Nat) : State :=
  let k := BitVec.ofNat 16 l
  if !ladderInvalid (s.ladder l) || s.stw.formatted.contains k
      || (decide (1 < s.hall.live.length) && s.hall.actMgr != s.hall.nid) then s
  else { s.raise .format { unit := 8, layer := l } l 0 0 with
    stw := { s.stw with formatted := k :: s.stw.formatted } }

/-- The position block that R251 sets up for a layer from its ladder record, with MSTEP the current step. -/
def State.freshPos (s : State) (l : Nat) : Nat :=
  let ld := s.ladder l
  let own := ladderInvalid ld || !bit ld 0
  let init := fld ld 4 2
  let old := s.posBlock l
  1 + put 1 1 1 + put 2 1 (b2n own) + put 3 1 (fld old 3 1) + put 4 2 init + put 8 4 (rungFmt ld init)
    + put 32 16 s.hg.stepNo.toNat + put 48 16 (fld old 48 16)

/-- Node numbers beyond the task words of any slot, for the requests of the stash and of the steward (R264, R274). -/
def stashNode : Nat := 0x100000
def stewardNode : Nat := 0x100001

/-- Initialise a state record that is first used (R251). The acting manager's is initialised by its basin, on a merge of
an empty block; the node that read it takes it as initialised from now on (R263, log 72). -/
def State.initLayer (s : State) (l : Nat) : State :=
  if s.stw.live.en = false ∨ posValid (s.posBlock l) then s
  else if s.stwHome = s.hall.nid.toNat then
    let s := s.ladderFormat l
    let p := s.freshPos l
    ((s.wrN (s.stwAddr l + 64) 48 emptyBlock).wrN (s.stwAddr l + 112) 48 emptyBlock).wrN (s.stwAddr l + 160) 32 p
  else
    (s.follow (s.homeEntry l + 160) (bytesOf 32 (s.freshPos l))).sendWrite 0 stewardNode
      (storeFlit (s.homeEntry l + 64) 48 emptyBlock (.block (BitVec.ofNat 16 l)))

/-- The source of a view, or the tensor itself. -/
def State.under (s : State) (i : Fin 16) (t : Tensor) : Tensor := if t.isView then (s.descAt i t.wsrc).getD t else t

/-- A stand-in for a layer's ladder, for an instruction that is steered without a steered tensor (R476). -/
def layerTensor (l : Nat) : Tensor := ⟨0xFFFF, put 83 1 1 + put 96 16 l⟩

/-- Units of the acting manager's table that another node reads before it dispatches an instruction that names steered
tensors (R250, R263). -/
def State.stewardUnits (s : State) (i : Fin 16) (ts : List Tensor) : List Nat :=
  if s.stw.live.en = false ∨ s.stwHome = s.hall.nid.toNat then []
  else ts.foldl (fun us t =>
    let q := s.under i t
    if q.steer && q.accf == 0 && q.kind == 0 then
      [0, 64, 128].foldl (fun us k => insertNew (s.homeEntry q.slayer + k) us) us
    else us) []

/-- The format in force of a descriptor (R249, R250); none is a reserved code. A view has its source's. -/
def State.fmtOf (s : State) (i : Fin 16) (t : Tensor) : Option EFmt :=
  let t := if t.isView then (s.descAt i t.wsrc).getD t else t
  if t.steer && s.stw.live.en && t.accf == 0 then
    let p := s.posBlock t.slayer
    if posOwn p then t.ownFmt else (Fmt.ofCode (posCur p)).map .op
  else t.ownFmt

/-- Whether the residuals of a tensor are taken as zero: the first step after a move (R268, R269). -/
def State.movedFor (s : State) (t : Tensor) : Bool :=
  t.steer && s.stw.live.en && posMoved (s.posBlock t.slayer)

/-- A BF16 field read as R124 reads a scale (R167, R268). -/
def readBf16 (c : Nat) : Dy × Conv := readScale c

/-- Code of the largest finite BF16 magnitude, negated. -/
def bf16Low : Nat := 0xFF7F
def bf16High : Nat := 0x7F7F

/-- Scale and zero point an instruction of step `step` converts with under a carried record (R170), with
the replacements of R167 counted. -/
def carriedFix (margin : Nat) (f : Fmt) (r step : Nat) : Nat × Nat × Counts :=
  if fld r 32 16 = step % 2 ^ 16 then (fld r 0 16, fld r 16 8, {})
  else
    let (gx, c1) := readBf16 (fld r 64 16)
    let (gn, c2) := readBf16 (fld r 80 16)
    let cs := (Counts.add1 {} c1).add1 c2
    let hi := (Fmt.bf16.decode bf16High).dy
    if (gx.sub hi.neg).m == 0 && (gn.sub hi).m == 0 then
      (fld r 0 16, fld r 16 8, cs)
    else
      let k : Dy := ⟨16 + margin, -4⟩
      let wide := fun x : Dy => (ofFp32 (toFp32 (x.mul k).val).1).dy
      let (sc, z) := derive (wide gx) (wide gn) f
      (sc, z, cs)

/-- Hall addresses of the carried records of a tensor. -/
def State.carriedAddrs (s : State) (i : Fin 16) (t : Tensor) : List Nat :=
  match (if t.carried then s.scaleTensor i t else none) with
  | none => []
  | some q => (coordsOf q.exts).map fun c => s.recPlace i q c

/-- The carried records of a tensor by hall address, as dispatch reads them: those of this node as they stand, and those
of other nodes that were read for node `n` (R170). -/
def State.carriedCells (s : State) (i : Fin 16) (n : Nat) (t : Tensor) : List (Nat × Nat) :=
  (s.carriedAddrs i t).filterMap fun a =>
    if hallNode a = s.hall.nid.toNat ∨ s.rem.got.contains (i.val, n, a / 64 * 64) then some (a, s.rdN a 16) else none

/-- Where the conversions of an instruction go: the target, its format in force, the task word they
belong to, the residual tensor when feedback applies, whether residuals read as zero, the extents, and the carried
records as the dispatch read them. -/
structure Sink where
  i : Fin 16
  n : Nat
  t : Tensor
  f : EFmt
  res : Option Tensor
  moved : Bool
  exts : List Nat
  fixed : List (Nat × Nat) := []
  deriving DecidableEq, Repr

/-- The sink of a target tensor. -/
def State.sink (s : State) (i : Fin 16) (n : Nat) (t : Tensor) (f : EFmt) (fixed : List (Nat × Nat) := []) : Sink :=
  let narrow := match f with
    | .op g => decide (g.bits ≤ 4)
    | _ => false
  { i := i, n := n, t := t, f := f, res := if narrow then s.side i t t.resIx else none
    moved := s.movedFor t, exts := s.extents i t, fixed := fixed }

/-- Groups of R183: the target's scale groups, or runs of 128 of dimension 0 without a scale tensor. -/
def State.classExts (s : State) (k : Sink) : List Nat :=
  if (s.scaleTensor k.i k.t).isSome then groupExts k.t k.exts else k.exts.set 0 (cdiv (nth k.exts 0 0) 128)
def State.classCoord (s : State) (k : Sink) (c : List Nat) : List Nat :=
  if (s.scaleTensor k.i k.t).isSome then groupCoord k.t c else c.set 0 (nth c 0 0 / 128)

/-- FP32 code of the larger, or of the smaller, of two FP32 codes by value. -/
def maxFp (a b : Nat) : Nat := if (ofFp32 a).dy.lt (ofFp32 b).dy then b else a
def minFp (a b : Nat) : Nat := if (ofFp32 b).dy.lt (ofFp32 a).dy then b else a

/-- Add one conversion of value `w` to the gathered statistics (R245, R246). -/
def Gather.add (g : Gather) (w : Val) (c : Conv) : Gather :=
  if c = .nan then g
  else
    let x := (toFp32 w).1
    { g with
      lmax := maxFp g.lmax x, lmin := minFp g.lmin x, nconv := g.nconv + 1
      nsat := g.nsat + b2n (c == .sat), nufl := g.nufl + b2n (c == .uflow) }

/-- A finite stand-in for a value in the extremes of a group: an infinity enters as the largest finite
FP32 magnitude (R616). -/
def Val.extreme : Val → Dy
  | .inf n => if n then (Fmt.fp32.maxDy).neg else Fmt.fp32.maxDy
  | v => v.dy

/-- Add one conversion to a group's record. -/
def Group.add (g : Group) (src w : Val) (outZero : Bool) (c : Conv) : Group :=
  let x := w.extreme
  let a := x.abs
  let first := g.nonNan == 0
  let nan := w.isNan
  { g with
    elems := g.elems + 1
    zeros := g.zeros + b2n outZero
    srcNonzero := g.srcNonzero || (!src.isNan && !src.isZero)
    nonNan := g.nonNan + b2n (!nan)
    sats := g.sats + b2n (c == .sat)
    vmax := if nan then g.vmax else if first then x else g.vmax.max x
    vmin := if nan then g.vmin else if first then x else g.vmin.min x
    amax := if nan then g.amax else g.amax.max a
    amin := if nan || a.m == 0 then g.amin else if g.amin.m == 0 then a else g.amin.min a }

/-- Add an element that is written as zero while its value goes to an outlier slot (R187). -/
def Group.addZero (g : Group) (src : Val) : Group :=
  { g with
    elems := g.elems + 1, zeros := g.zeros + 1
    srcNonzero := g.srcNonzero || (!src.isNan && !src.isZero)
    nonNan := g.nonNan + b2n (!src.isNan) }

def addGroup (gs : List Group) (ix : Nat) (gc : List Nat) (f : Group → Group) : List Group :=
  if gs.any (·.ix == ix) then gs.map fun g => if g.ix == ix then f g else g
  else gs ++ [f { ix := ix, gc := gc }]

/-- Residual read for an element: zero after a move or without feedback; special values replaced (R268). -/
def State.residual (s : State) (k : Sink) (c : List Nat) : Dy × Conv :=
  match k.res with
  | none => (Dy.zero, .none)
  | some r =>
    if k.moved then (Dy.zero, .none)
    else readBf16 (s.readPlace (s.place k.i r (.op .bf16) c))

/-- A value with its residual added, exactly (R268). -/
def withResidual (v : Val) (e : Dy) : Val :=
  match v with
  | .num n m x => if e.m = 0 then .num n m x else addVal (.num n m x) e.val
  | v => v

/-- Convert a value to a format under a scale code and zero point, or without scale where `sc` is none
(R128, R129, R152). -/
def convertTo (f : EFmt) (sc : Option (Dy × Nat)) (v : Val) : Nat × Conv :=
  match f, sc with
  | .op g, some (s, z) => g.encScaled v s z
  | .op g, none => if g.isInt then g.encScaled v ⟨1, 0⟩ 0 else g.encode v
  | f, _ => f.encode v

/-- One conversion of an element for the sink, with feedback (R268): the code that is to be written; the
residual is kept, and counts, statistics and group record are brought up to date. -/
def State.convCode (s : State) (k : Sink) (y : Tally) (c : List Nat) (v : Val)
    (sc : Option (Dy × Nat)) : Nat × State × Tally :=
  let (e, rc) := s.residual k c
  let w := withResidual v e
  let (code, cv) := convertTo k.f sc w
  let back := match k.f, sc with
    | .op g, some (d, z) => g.value code d z
    | f, _ => f.decode code
  let (s, ec) : State × Conv := match k.res with
    | none => (s, .none)
    | some r =>
      let (ecode, ec) : Nat × Conv := if cv = .sat ∨ v.isNan then (0, .none)
        else Fmt.bf16.encode ((w.dy.sub back.dy).val)
      (s.writePlace k.i k.n (s.place k.i r (.op .bf16) c) ecode, if ec = .sat then .sat else .none)
  let operand := match k.f with
    | .op _ => true
    | _ => false
  let zero := match k.f, sc with
    | .op g, some (d, z) => if g.isInt then code == z || d.m == 0 else back.isZero
    | _, _ => back.isZero
  let gc := s.classCoord k c
  (code, s, { counts := ((y.counts.add1 cv).add1 rc).add1 ec
              gather := if operand then y.gather.add w cv else y.gather
              groups := addGroup y.groups (linear (s.classExts k) gc) gc fun g => g.add v w zero cv
              last := back })

/-- One conversion of an element, written into the sink's target. -/
def State.convWrite (s : State) (k : Sink) (y : Tally) (c : List Nat) (v : Val)
    (sc : Option (Dy × Nat)) : State × Tally :=
  let (code, s, y) := s.convCode k y c v sc
  (s.writePlace k.i k.n (s.place k.i k.t k.f c) code, y)

/-- Bin of the range histogram (R247). -/
def histBin (amax amin : Dy) : Nat :=
  let lg := fun d : Dy => (Nat.log2 d.m.natAbs : Int) + d.e
  min 7 ((lg amax - lg amin) / 2).toNat

/-- Pack a carried record (R166). -/
def mkCarried (sc z stamp sat gmax gmin : Nat) : Nat :=
  put 0 16 sc + put 16 8 z + put 32 16 stamp + put 48 16 sat + put 64 16 gmax + put 80 16 gmin

/-- The BF16 code of an exact number (R171). -/
def bf16Of (d : Dy) : Nat := (Fmt.bf16.encode d.val).1

/-- The update of R171: the record, its saturation counts before and after. -/
def pieceUpdate (p : Piece) (r : Nat) : Nat × Nat × Nat :=
  let (sc, z, _) := carriedFix p.margin.toNat ((Fmt.ofCode p.fmt.toNat).getD .int8) r p.step.toNat
  let fresh := fld r 32 16 != p.step.toNat
  let sat0 := if fresh then 0 else fld r 48 16
  let gx := if fresh then (Fmt.bf16.decode bf16Low).dy else (readBf16 (fld r 64 16)).1
  let gn := if fresh then (Fmt.bf16.decode bf16High).dy else (readBf16 (fld r 80 16)).1
  let nx := if p.some then gx.max (Fmt.bf16.decode p.gmax.toNat).dy else gx
  let nn := if p.some then gn.min (Fmt.bf16.decode p.gmin.toNat).dy else gn
  let sat1 := min 0xFFFF (sat0 + p.sats.toNat)
  (mkCarried sc z p.step.toNat sat1 (bf16Of nx) (bf16Of nn), sat0, sat1)

/-- Who a piece's SATURATE is about (R174). -/
def pieceWho (p : Piece) : Who :=
  { unit := p.unit.toNat, slot := p.slot.toNat, layer := p.layer.toNat, opid := p.opid.toNat, ubatch := p.ubatch.toNat
    node := p.node.toNat }

/-- The basin that holds a carried record updates it by one piece (R171), with SATURATE, once for each record and step
(R174). The flag says whether it was raised. -/
def State.takePiece (s : State) (a : Nat) (p : Piece) : State × Bool :=
  let (r, sat0, sat1) := pieceUpdate p (s.rdN a 16)
  let s := s.wrN a 16 r
  let lim := s.stw.live.slim.toNat
  if lim ≠ 0 ∧ sat0 < lim ∧ lim ≤ sat1 ∧ a ∉ s.stw.saturated then
    (({ s with stw := { s.stw with saturated := a :: s.stw.saturated } }).raise .saturate (pieceWho p) p.desc.toNat 0 p.group, true)
  else (s, false)

/-- The replacements that an update's read of a record counts (R167). -/
def updateCounts (margin : Nat) (f : Fmt) (r step : Nat) : Counts :=
  if fld r 32 16 ≠ step % 2 ^ 16 then (carriedFix margin f r step).2.2
  else (({} : Counts).add1 (readBf16 (fld r 64 16)).2).add1 (readBf16 (fld r 80 16)).2

/-- The piece that an instruction's conversions into one group of a carried target make. -/
def Group.piece (g : Group) (k : Sink) (f : Fmt) (step : Nat) (who : Who) : Piece where
  step := BitVec.ofNat 16 step
  fmt := BitVec.ofNat 4 f.code
  margin := BitVec.ofNat 4 k.t.margin
  some := g.nonNan != 0
  gmax := BitVec.ofNat 16 (bf16Of g.vmax)
  gmin := BitVec.ofNat 16 (bf16Of g.vmin)
  sats := BitVec.ofNat 16 (min 0xFFFF g.sats)
  layer := BitVec.ofNat 16 who.layer
  opid := BitVec.ofNat 16 who.opid
  ubatch := BitVec.ofNat 16 who.ubatch
  node := BitVec.ofNat 20 who.node
  unit := BitVec.ofNat 4 who.unit
  slot := BitVec.ofNat 4 who.slot
  desc := BitVec.ofNat 16 k.t.ix
  group := g.ix

/-- The update of a group's carried record by one piece (R171), here or in the basin of the node that holds it. The flag
says whether SATURATE was raised here; the counts are those of the record's read (R167), of another node's record as the
dispatch read it. -/
def State.carriedUpdate (s : State) (k : Sink) (g : Group) (step : Nat) (who : Who) : State × Bool × Counts :=
  match s.scaleTensor k.i k.t, k.f with
  | some q, .op fm =>
    let a := s.recPlace k.i q g.gc
    let p := g.piece k fm step who
    if hallNode a = s.hall.nid.toNat then
      let (t, up) := s.takePiece a p
      (t, up, updateCounts k.t.margin fm (s.rdN a 16) step)
    else
      (s.sendWrite k.i k.n (storeFlit a 16 0 (.carried p)), false,
        updateCounts k.t.margin fm (((k.fixed.find? fun x => x.1 == a).map (·.2)).getD 0) step)
  | _, _ => (s, false, {})

/-- The classes of one group of conversions into a format of eight bits or fewer or an integer one, ALLZERO and ALLSAT, with
the flags of R371 (R183, R184). The events name the descriptor and the group's index. -/
def State.classGroup (s : State) (f : Fmt) (g : Group) (who : Who) (core desc ix : Nat) : State × Nat :=
  let classed := f.isInt || decide (f.bits ≤ 8)
  let allZ := classed && g.srcNonzero && g.zeros == g.elems && g.elems != 0
  let allS := classed && g.sats != 0 && g.sats == g.nonNan
  let s := if allZ then (s.bump core 13 1).raise .allzero who desc 0 ix else s
  let s := if allS then (s.bump core 14 1).raise .allsat who desc 0 ix else s
  (s, 2 * b2n allZ + 4 * b2n allS)

/-- Close an instruction's conversions into a sink: histogram entries (R247), ALLZERO and ALLSAT (R183,
R184) and carried records (R171). Returns the flags of R371 raised. -/
def State.closeSink (s : State) (k : Sink) (y : Tally) (step : Nat) (who : Who) (core : Nat) :
    State × Tally × Nat :=
  let (s, ga, fl, cs) := y.groups.foldl (fun (acc : State × Gather × Nat × Counts) g =>
    let (s, ga, fl, cs) := acc
    let (s, ga, fl) := match k.f with
      | .op f =>
        let (s, c) := s.classGroup f g who core k.t.ix g.ix
        (s, if g.amax.m != 0 then { ga with hist := addAt ga.hist (histBin g.amax g.amin) 1 } else ga, fl ||| c)
      | _ => (s, ga, fl)
    if k.t.carried then
      let (s, up, c) := s.carriedUpdate k g step who
      (s, ga, if up then fl ||| 64 else fl, cs.plus c)
    else (s, ga, fl, cs)) (s, y.gather, 0, y.counts)
  (s.bumpCounts core cs, { y with gather := ga }, fl)

/-- Whether an element belongs to a group that the instruction has not yet written. -/
def State.freshGroup (s : State) (k : Sink) (y : Tally) (c : List Nat) : Bool :=
  let ix := linear (s.classExts k) (s.classCoord k c)
  !y.groups.any (·.ix == ix)

/-- The carried record of a group as the dispatch read it (R170). -/
def State.fixedAt (s : State) (k : Sink) (g : List Nat) : Nat :=
  match s.scaleTensor k.i k.t with
  | some q =>
    let a := s.recPlace k.i q g
    ((k.fixed.find? fun x => x.1 == a).map (·.2)).getD (s.rdN a 16)
  | none => 0

/-- The same for an element. -/
def State.fixedRec (s : State) (k : Sink) (c : List Nat) : Nat := s.fixedAt k (groupCoord k.t c)

/-- Scale and zero point that a write of a group uses: carried records as R170 fixes them, the stored
ones for an integer target, none for a float or accumulator target (R138). -/
def State.targetScale (s : State) (k : Sink) (c : List Nat) (step : Nat) : Option (Dy × Nat) × Counts :=
  match k.f with
  | .op g =>
    if k.t.carried then
      let (sc, z, cs) := carriedFix k.t.margin g (s.fixedRec k c) step
      let (d, cv) := readScale sc
      (some (d, z), cs.add1 cv)
    else if g.isInt then
      let (sc, z) := s.scaleAt k.i k.t (groupCoord k.t c)
      let (d, cv) := readScale sc
      (some (d, z), ({} : Counts).add1 cv)
    else (none, {})
  | _ => (none, {})

/-- Convert one element into the sink under the target's own scale; a replaced scale or record field counts
once for each group (R124, R167). -/
def State.convGroup (s : State) (k : Sink) (y : Tally) (c : List Nat) (v : Val) (step : Nat) :
    State × Tally :=
  let (sc, cs) := s.targetScale k c step
  let y := if s.freshGroup k y c then { y with counts := y.counts.plus cs } else y
  s.convWrite k y c v sc

end Sys2Proof.Machine
end

