-- ==== Sys2Proof/Machine/Retire.lean ====
section
/-! DEFINITION. The headgate's common part: the guard of a dispatch (R429), failing at dispatch (R375,
R428), version records (R304 to R308), the steward's merge (R248), and retirement: completion record
(R371), successors (R427), halting (R428) and the end of a slot (R424 to R426). -/
namespace Sys2Proof.Machine

/-- STATUS of an error (R372). -/
def Err.status : Err → Nat
  | .format => 0x10 | .range => 0x11 | .aliasing => 0x12 | .version => 0x13 | .tagskew => 0x14
  | .stashtag => 0x15 | .align => 0x16

/-- The event named by an error (R428). -/
def Err.event : Err → Ev
  | .format | .align => .format
  | .range => .range | .aliasing => .aliasing | .version => .version | .tagskew => .tagskew
  | .stashtag => .stashtag

/-- An instruction's failure: the error, the descriptor that failed (0xFFFF none) and the words of its
event record (R371, R583). -/
structure Fail where
  err : Err
  desc : Nat := 0xFFFF
  w0 : Option Nat := none
  w1 : Nat := 0
  w2 : Nat := 0
  deriving DecidableEq, Repr

def failF (d : Nat := 0xFFFF) : Option Fail := some { err := .format, desc := d }
def failR (d : Nat := 0xFFFF) : Option Fail := some { err := .range, desc := d }
def failA (d : Nat := 0xFFFF) : Option Fail := some { err := .aliasing, desc := d }

/-- The first failure of a list of checks, in order (R375). -/
def firstFail : List (Option Fail) → Option Fail
  | [] => none
  | some f :: _ => some f
  | none :: r => firstFail r

/-- A check that fails with `f` when its condition holds. -/
def failWhen (b : Bool) (f : Option Fail) : Option Fail := if b then f else none

-- Version records (R304).
def State.verAddr (s : State) (rec : Nat) : Nat := s.hg.verBase.toNat + 64 * rec
def State.verRec (s : State) (rec : Nat) : Nat := s.rdN (s.verAddr rec) 64
def verNum (r : Nat) (b : Bool) : Nat := fld r (if b then 64 else 0) 16
def verHeld (r : Nat) (b : Bool) : Bool := bit r (if b then 120 else 56)
def verMaster (r : Nat) (b : Bool) : Nat := fld r (if b then 160 else 128) 16
def verWork (r : Nat) (b : Bool) : Nat := fld r (if b then 176 else 144) 16
def verWorkEn (r : Nat) (b : Bool) : Bool := bit r (if b then 193 else 192)
def verPrep (r : Nat) : Nat := fld r 194 2
def verNewB (r : Nat) : Bool := bit r 196
def useVer (r k : Nat) : Nat := fld r (256 + 48 * k) 16
def useCnt (r k : Nat) : Nat := fld r (272 + 48 * k) 32

/-- Replace a field of a record. -/
def setFld (x lo w v : Nat) : Nat := x - put lo w (fld x lo w) + put lo w v

/-- The buffer that holds the named version (R307): false A, true B. -/
def State.verBuf (s : State) (w : Nat) : Option Bool :=
  let r := s.verRec (twVrec w)
  if verHeld r false && verNum r false == twVtag w && verPrep r != 1 then some false
  else if verHeld r true && verNum r true == twVtag w && verPrep r != 2 then some true
  else none

/-- A counted task word: VEN set, of R306 other than PUSH and POP (R308). -/
def counted (w : Nat) : Bool :=
  twVen w && (twOpc w ∈ [0x01, 0x03, 0x04, 0x11, 0x41])

/-- The use entry of a version with a non-zero count. -/
def useOf (r v : Nat) : Option Nat := [0, 1, 2, 3].find? fun k => useVer r k == v && useCnt r k != 0

/-- Take one use of a version at load; none when a fifth version would be needed (R308). -/
def State.addUse (s : State) (w : Nat) : Option State :=
  let r := s.verRec (twVrec w)
  match useOf r (twVtag w) with
  | some k => some (s.wrN (s.verAddr (twVrec w)) 64 (setFld r (272 + 48 * k) 32 (useCnt r k + 1)))
  | none => match [0, 1, 2, 3].find? fun k => useCnt r k == 0 with
    | some k => some (s.wrN (s.verAddr (twVrec w)) 64
        (setFld (setFld r (256 + 48 * k) 16 (twVtag w)) (272 + 48 * k) 32 1))
    | none => none

/-- Give one use back; nothing when the record holds no entry for the version (R308). -/
def State.dropUse (s : State) (w : Nat) : State :=
  if !counted w then s
  else
    let r := s.verRec (twVrec w)
    match useOf r (twVtag w) with
    | some k => s.wrN (s.verAddr (twVrec w)) 64 (setFld r (272 + 48 * k) 32 (useCnt r k - 1))
    | none => s

-- A statistics block of R243 as fields.
def blkCount (b lo : Nat) : Nat := fld b lo 40
def cap40 : Nat := 2 ^ 40 - 1

/-- Merge of two statistics blocks: counts and bins add, LMAX takes the larger, LMIN the smaller (R248). -/
def mergeBlocks (a b : Nat) : Nat :=
  put 0 32 (maxFp (fld a 0 32) (fld b 0 32)) + put 32 32 (minFp (fld a 32 32) (fld b 32 32))
    + put 64 40 (satAdd cap40 (fld a 64 40) (fld b 64 40))
    + put 104 40 (satAdd cap40 (fld a 104 40) (fld b 104 40))
    + put 144 40 (satAdd cap40 (fld a 144 40) (fld b 144 40))
    + forN 8 0 fun x k => x + put (24 * k + 184) 24
        (satAdd (2 ^ 24 - 1) (fld a (24 * k + 184) 24) (fld b (24 * k + 184) 24))

/-- A gather as a statistics block. -/
def Gather.block (g : Gather) : Nat :=
  put 0 32 g.lmax + put 32 32 g.lmin + put 64 40 (min cap40 g.nconv) + put 104 40 (min cap40 g.nsat)
    + put 144 40 (min cap40 g.nufl)
    + forN 8 0 fun x k => x + put (24 * k + 184) 24 (min (2 ^ 24 - 1) (nth g.hist k 0))

/-- Merge a block into the LIVE block of a layer of this node, which becomes due for evaluation (R248, R257). A node other
than the acting manager gathers the merges of a step from an empty block on (R263, R264, log 72), and so it does where
software has zeroed the record since: the layer is new (R244). -/
def State.mergeLive (s : State) (l b : Nat) : State :=
  let a := s.stwAddr l + 64
  let s :=
    if s.stwHome = s.hall.nid.toNat then s.initLayer l
    else if s.stw.merged.contains (BitVec.ofNat 16 l) && s.rdN a 48 != 0 then s
    else s.wrN a 48 emptyBlock
  let s := s.wrN a 48 (mergeBlocks (s.rdN a 48) b)
  { s with stw := { s.stw with merged := insertNew (BitVec.ofNat 16 l) s.stw.merged } }

/-- A block of another node reaches a layer's record here (R264); an empty one only initialises it (R251). -/
def State.takeBlock (s : State) (l b : Nat) : State :=
  if s.stw.live.en = false then s
  else if b = emptyBlock then (if s.stwHome = s.hall.nid.toNat then s.initLayer l else s)
  else s.mergeLive l b

/-- The merge at an instruction's retirement: nothing while the steward is disabled or when nothing was
converted (R248, R249). -/
def State.stewardMerge (s : State) (l : Nat) (g : Gather) : State :=
  if s.stw.live.en && g.nconv != 0 then s.mergeLive l g.block else s

/-- The completion record of R371. -/
def mkCompletion (ds rs : BitVec 40) (status flags detail : Nat) : Nat :=
  put 0 40 ds.toNat + put 40 40 rs.toNat + put 80 8 status + put 88 7 flags + put 96 16 detail

-- Gangs (R32, R82).

/-- A gang in the task-word array: its first node, its members, and the members of its twin (0 none). -/
structure Span where
  first : Nat
  members : Nat
  twins : Nat
  deriving DecidableEq, Repr

def Span.last (g : Span) : Nat := g.first + g.members + g.twins

/-- Nodes of a gang and its twin. -/
def Span.nodes (g : Span) : List Nat := (List.range (g.members + g.twins)).map fun k => g.first + k

/-- The gangs of a graph, in order: the first member carries the count and the twin flag (R32, R82). The twin flag of a
gang that is itself a twin names no third gang (log 109). -/
def gangWalk (word : Nat → Nat) (count : Nat) : Nat → Nat → List Span
  | 0, _ => []
  | k + 1, n =>
    if count ≤ n then []
    else if !isProduct (twOpc (word n)) then gangWalk word count k (n + 1)
    else
      let w := word n
      let m := fld w 392 2 + 1
      let t := if bit w 394 then (if n + m < count then fld (word (n + m)) 392 2 + 1 else 1) else 0
      ⟨n, m, t⟩ :: gangWalk word count k (n + m + t)

/-- The gangs of a slot's graph. -/
def State.gangs (s : State) (i : Fin 16) : List Span :=
  gangWalk (s.taskWord i) (s.slot i).hdr.twCount (s.slot i).hdr.twCount 0

/-- The gang that node `n` leads. -/
def State.gangAt (s : State) (i : Fin 16) (n : Nat) : Option Span :=
  (s.gangs i).find? fun g => g.first == n

/-- The gang that a node belongs to. -/
def State.gangOf (s : State) (i : Fin 16) (n : Nat) : Option Span :=
  (s.gangs i).find? fun g => g.first ≤ n && n < g.last

/-- RES_WAIT counts up to now: at each core a clk in which some gang waits counts once, 27 clk in 40 tk (R540, R571, log
10). -/
def State.countWaits (s : State) : State :=
  if s.hg.resWait = [] then s
  else
    let clk := s.tm.tick.toNat * 27 / 40 - s.hg.resFrom.toNat * 27 / 40
    let s := forN 8 s fun s c => if s.hg.resWait.any fun x => x.2.val == c then s.bump c 7 clk else s
    { s with hg := { s.hg with resFrom := s.tm.tick } }

/-- The gangs that wait for their operands change: what they waited until now is counted first. -/
def State.setWaits (s : State) (l : List ((Fin 16 × Nat) × Fin 8)) : State :=
  if l = s.hg.resWait then s
  else
    let s := s.countWaits
    { s with hg := { s.hg with resWait := l, resFrom := s.tm.tick } }

/-- A gang whose members are all ready, and whose operands no core holds, waits for them from now on (R36, R571), at the
core of its node number mod 8 until a core begins to fetch them (log 10). -/
def State.noteReady (s : State) (i : Fin 16) (n : Nat) : State :=
  match s.gangOf i n with
  | none => s
  | some g =>
    if (g.nodes.all fun m => depSt (s.depWord i m) == 1) && (s.slot i).st != .halt && (s.slot i).st != .saved
        && !(s.hg.resident.any fun r => r.slot == i && r.node == g.first && !r.waits)
        && !(s.hg.resWait.any fun x => x.1 == (i, g.first)) then
      s.setWaits (((i, g.first), ⟨g.first % 8, Nat.mod_lt _ (by decide)⟩) :: s.hg.resWait)
    else s

/-- A gang that waits for its operands waits for a core that fetches them. -/
def State.waitAt (s : State) (i : Fin 16) (n : Nat) (core : Fin 8) : State :=
  s.setWaits (s.hg.resWait.map fun x => if x.1 = (i, n) then (x.1, core) else x)

/-- A gang waits for its operands no more. -/
def State.endReady (s : State) (i : Fin 16) (n : Nat) : State := s.setWaits (s.hg.resWait.filter fun x => x.1 != (i, n))

/-- No gang of a slot waits any more: the slot left RUN. -/
def State.endWaits (s : State) (i : Fin 16) : State := s.setWaits (s.hg.resWait.filter fun x => x.1.1 != i)

/-- The gangs of a slot that runs again wait where they are ready. -/
def State.noteAll (s : State) (i : Fin 16) : State := (s.gangs i).foldl (fun s g => s.noteReady i g.first) s

/-- A reason that no longer holds leaves a node's dependence word (R587). -/
def State.clearWait (s : State) (i : Fin 16) (n wait : Nat) : State :=
  let w := s.depWord i n
  if depWait w = wait ∧ (depSt w = 1 ∨ depSt w = 2) then s.setWait i n (depSt w) 0 0 0xFFF else s

/-- The operands of a gang are resident: its wait ends (R36, R571, R587). -/
def State.nowResident (s : State) (i : Fin 16) (n : Nat) : State := (s.clearWait i n 0x02).endReady i n

/-- A retirement lowers a successor's remaining count by one; at zero the node is ready (R427). -/
def State.lower (s : State) (i : Fin 16) (m : Nat) : State :=
  let w := s.depWord i m
  let rem := depRem w - 1
  let st := if rem = 0 ∧ depSt w = 0 then 1 else depSt w
  let s := s.setDep i m (mkDep rem st (s.readyWait i st) 0 0xFFF)
  if st = 1 then s.noteReady i m else s

/-- The successors of a task word, with repetitions (R367). -/
def State.successors (s : State) (i : Fin 16) (w : Nat) : List Nat :=
  (List.range (twScnt w)).map fun k =>
    fld (s.rdN ((s.slot i).hdr.succBase + 4 * (twSidx w + k)) 4) 0 20

/-- The spillway gives a freed plane of a core to the gang that has waited longest for one (R191). -/
def State.serveSpill (s : State) : State :=
  (s.hg.resident.filter (·.waits)).foldl (fun s r =>
    if 2 ≤ (s.hg.resident.filter fun x => x.core == r.core && x.spill).length then s
    else { s.bump r.core.val 24 r.clk with hg := { s.hg with
      resident := s.hg.resident.map fun x => if x == r then { r with spill := true, waits := false } else x } }.nowResident
        r.slot r.node) s

/-- Operands that `drop` names leave the operand stores; what waited for their spill planes gets them (R191, R431). -/
def State.evict (s : State) (drop : Resident → Bool) : State :=
  ({ s with hg := { s.hg with resident := s.hg.resident.filter fun r => !drop r } }).serveSpill

/-- Free a slot: SLOTEND is raised with the tasks retired and not retired (R424, R426), the version counts
of unretired task words leave (R308), and operands fetched or asked for are discarded (R431). -/
def State.endSlot (s : State) (i : Fin 16) : State :=
  let x := s.slot i
  -- an abandoned slot gave the counts of its waiting and ready task words back at once
  let s := forN x.hdr.twCount s fun s n =>
    let st := depSt (s.depWord i n)
    if st = 3 ∨ (x.ending ∧ st ≤ 1) then s else s.dropUse (s.taskWord i n)
  let s := (s.evict fun r => r.slot == i).endWaits i
  let s := { s with hg := { s.hg with flight := s.hg.flight.filter fun f => f.slot != i } }
  let got := s.rem.got.filter fun g => g.1 != i.val
  let keep := fun a : Nat => got.any fun g => g.2.2 ≤ a && a < g.2.2 + 64
  let s := { s with rem := { s.rem with
    got := got, old := s.rem.old.filter fun g => g.1 != i.val
    data := s.rem.data.filter (fun c => keep c.1), reads := s.rem.reads.filter (·.slot != i)
    heldReq := s.rem.heldReq.filter fun q => q.slot != i || q.f.typ != 1 } }
  -- what the graph's instructions sent and is not yet acknowledged stays theirs (R407)
  let past := fun q : Req => if q.slot = i ∧ q.node < 0x100000 then { q with node := pastNode + q.node } else q
  let s := { s with rem := { s.rem with unacked := s.rem.unacked.map past, heldReq := s.rem.heldReq.map past } }
  let s := s.setSlot i {}
  s.raise .slotend { unit := 8, slot := i.val } x.retired (x.hdr.twCount - x.retired) 0

/-- Whether a slot has an instruction in flight. -/
def State.slotBusy (s : State) (i : Fin 16) : Bool := s.hg.flight.any fun f => f.slot == i

/-- The end of a slot, where it is due: every task word retired, or a halted slot empty (R424, R425,
R428). -/
def State.settle (s : State) (i : Fin 16) : State :=
  let x := s.slot i
  if x.st = .run ∧ x.retired = x.hdr.twCount then s.endSlot i
  else if x.st = .halt ∧ s.slotBusy i = false then s.endSlot i
  else s

/-- Progress of a slot, for HANG (R588). -/
def State.progress (s : State) (i : Fin 16) : State :=
  s.setSlot i { s.slot i with lastProg := s.tm.tick, hung := false }

/-- Retire one task word: its statistics merge, its completion record is written, its counts are taken
and its successors are lowered (R248, R308, R371, R427). -/
def State.retireOne (s : State) (i : Fin 16) (f : Flight) (r : Result) : State :=
  let w := s.taskWord i r.node
  let s := r.counts.foldl (fun s c => s.bump f.core.val c.1 c.2) s
  let s := if f.onCore then s.bump f.core.val 2 1 else s
  let s := s.stewardMerge (twLayer w) r.gather
  let fl := r.flags ||| (if f.preempted then 32 else 0)
  let s := s.wrAny i r.node ((s.slot i).hdr.compAddr r.node) 16
    (mkCompletion (f.dstamp.setWidth 40) s.stamp r.status fl r.detail)
  let s := s.dropUse w
  let s := s.setDep i r.node (mkDep 0 3 0 0 0xFFF)
  let s := if twTrc w then s.traceInst 0x02 (whoOf i r.node w f.core.val) (r.status + put 8 7 fl) else s
  let s := s.setSlot i { s.slot i with retired := (s.slot i).retired + 1 }
  let s := (s.successors i w).foldl (fun s m => s.lower i m) s
  if (s.slot i).hdr.onfail && decide (0x10 ≤ r.status) && (s.slot i).st == .run then
    (s.endWaits i).setSlot i { s.slot i with st := .halt }
  else s

/-- Forget the remote data fetched for an instruction. -/
def State.forget (s : State) (i : Fin 16) (n : Nat) : State :=
  let got := s.rem.got.filter fun g => !(g.1 == i.val && g.2.1 == n)
  let keep := fun a : Nat => got.any fun g => g.2.2 ≤ a && a < g.2.2 + 64
  { s with rem := { s.rem with
    got := got, old := s.rem.old.filter fun g => !(g.1 == i.val && g.2.1 == n)
    data := s.rem.data.filter fun c => keep c.1 } }

/-- Retire a flight entry with all its task words (R36, R427). -/
def State.retire (s : State) (f : Flight) : State :=
  let i := f.slot
  let s := s.dropFlight i f.node
  let s := f.results.foldl (fun s r => s.retireOne i f r) s
  let s := s.evict fun r => r.slot == i && r.node == f.node
  ((s.forget i f.node).progress i).settle i

/-- Raise the event of a failure (R428). -/
def State.raiseFail (s : State) (i : Fin 16) (n w core : Nat) (x : Fail) : State :=
  s.raise x.err.event (whoOf i n w core) (x.w0.getD x.desc) x.w1 x.w2

/-- The result of a task word that fails. -/
def failResult (n : Nat) (x : Fail) : Result := { node := n, status := x.err.status, detail := x.desc }

/-- Whether the headgate dispatches nothing at all: a STEP between dispatch and retirement (R257), a SNAP
or RESTORE holding (R519, R534), a cut or a frozen partition (R490, R502), or the engine not running. -/
def State.dispatchStopped (s : State) : Bool :=
  s.flying 0x52 || s.flying 0x42 || s.flying 0x43
    || !s.cutOpen
    || s.phase != .ready || s.pwr.st == .deep || s.pwr.st == .entering
    || (s.pwr.st == .waking && s.pwr.wakeFrom == .deep)

/-- Whether node `n` of slot `i` is a ready task word of the opcode, its slot in RUN (R423, R427). A member of a gang goes
with the first (R36, R429), whatever its opcode (R32). -/
def State.readyNode (s : State) (i : Fin 16) (n : Nat) (opc : Nat) : Bool :=
  let x := s.slot i
  x.st == .run && decide (n < x.hdr.twCount) && depSt (s.depWord i n) == 1
    && twOpc (s.taskWord i n) == opc && (s.gangOf i n).all (·.first == n)

/-- The power state lets a core take the instruction: IDLE ends with it (R559); NAP starts a wake (R560). -/
def State.coreAwake (s : State) : Bool := s.pwr.st == .run || s.pwr.st == .idle

/-- A core instruction ready to dispatch in NAP wakes the engine by itself (R560). -/
def State.wakeForCore (s : State) : State :=
  if s.pwr.st = .nap then
    { s with pwr := { s.pwr with st := .waking, wakeFrom := .nap, target := 0, pending := false } }
  else s

/-- What is ready to dispatch goes, as `t`, where the cores are awake, or ends NAP first (R560). -/
def State.onAwake (s : State) (onCore : Bool) (t : State) : State := if onCore && !s.coreAwake then s.wakeForCore else t

/-- A CTXSAVE between dispatch and retirement stops dispatch from the slot it names (R433). -/
def State.saving (s : State) (i : Fin 16) : Bool :=
  s.hg.flight.any fun f => f.opc == 0x53 && fld f.word 160 4 == i.val

/-- A core is at work: IDLE ends (R559). -/
def State.busy (s : State) : State := { s with pwr := { s.pwr with st := .run } }

/-- A dispatch attempt: `go` runs when the node is ready and nothing holds it; otherwise the dependence
word shows why it has not moved on (R429, R587, R600). -/
def State.attempt (s : State) (i : Fin 16) (n : Nat) (opc : Nat) (go : State → State) : State :=
  if !s.readyNode i n opc then s
  else if !s.hg.slotEn.getLsbD i.val then s.setWait i n 1 0x08 0 0xFFF
  else if s.flying 0x52 || s.saving i || (s.slot i).saved != [] then s.setWait i n 1 0x09 0 0xFFF
  else if s.dispatchStopped then s
  else go s

/-- The dispatch itself: stamps, dispatch record, dependence word (R371, R370, R587); IDLE ends where it is to a core
(R559). -/
def State.enter (s : State) (f : Flight) (nodes : List Nat) (body : Nat) : State :=
  let s := if f.onCore then s.busy else s
  let s := s.addFlight { f with dstamp := s.tm.tick, stepNo := s.hg.stepNo }
  let s := nodes.foldl (fun s n => s.setDep f.slot n (mkDep 0 2 0 0 0xFFF)) s
  let s := nodes.foldl (fun s n =>
    let w := s.taskWord f.slot n
    if twTrc w then s.traceInst 0x01 (whoOf f.slot n w f.core.val) body else s) s
  s.progress f.slot

/-- An instruction of one task word that fails at dispatch retires in the same clk (R373). -/
def State.failNow (s : State) (i : Fin 16) (n w : Nat) (core : Fin 8) (onCore : Bool) (x : Fail) : State :=
  let f : Flight := {
    slot := i, node := n, opc := twOpc w, core := core, onCore := onCore, word := w
    dstamp := s.tm.tick, stepNo := s.hg.stepNo, results := [failResult n x] }
  ((s.enter f [n] (if onCore then put 24 8 core.val else 0)).raiseFail i n w core.val x).retire f

/-- The units of a list, each once. -/
def unite (us vs : List Nat) : List Nat := vs.foldl (fun us u => insertNew u us) us

/-- The format a tensor's elements are packed in: in force, or that of index entries. -/
def State.packed (s : State) (i : Fin 16) (t : Tensor) : EFmt :=
  if t.kind = 2 then .op .fp32 else (s.fmtOf i t).getD (.op .fp32)

/-- The 64-byte units that hold an element: its own, or those of its whole block, which is fetched at once (R346). -/
def State.dataUnits (s : State) (i : Fin 16) (t : Tensor) (f : EFmt) (c : List Nat) : List Nat :=
  if t.kind = 3 then [s.recPlace i t c / 64 * 64]
  else if t.blk then
    let (n, l) := s.owner i t c
    let corner := (l.set 0 (nth l 0 0 / 32 * 32)).set 1 (nth l 1 0 / 32 * 32)
    let b := (locateElem t f (s.rowLen i t c) corner).1.toNat
    (List.range (f.blockBytes / 64)).map fun q => hallAddr n (allocByte (s.allocOf i t) (b + 64 * q))
  else [(s.place i t f c).addr / 64 * 64]

/-- The units of the scale and zero point of an element's group. -/
def State.sideUnits (s : State) (i : Fin 16) (t : Tensor) (c : List Nat) : List Nat :=
  if t.kind ≠ 0 then []
  else
    let gc := groupCoord t c
    let sc := match s.scaleTensor i t with
      | some q => [if t.carried then s.recPlace i q gc else (s.place i q (.op .bf16) gc).addr]
      | none => []
    let zp := match s.zpTensor i t with
      | some q => [(s.place i q (.op .int8) gc).addr]
      | none => []
    (sc ++ zp).map (· / 64 * 64)

/-- The unit of an element's residual, where the format in force takes feedback (R266, R267). -/
def State.residualUnits (s : State) (i : Fin 16) (t : Tensor) (f : EFmt) (c : List Nat) : List Nat :=
  if t.kind ≠ 0 ∨ 4 < f.bits then []
  else match s.side i t t.resIx with
    | some q => [(s.place i q (.op .bf16) c).addr / 64 * 64]
    | none => []

/-- The units that reading an element reads. -/
def State.readUnits (s : State) (i : Fin 16) (t : Tensor) (c : List Nat) : List Nat :=
  match s.resolve i t c with
  | none => []
  | some (q, c) => s.dataUnits i q (s.packed i t) c ++ s.sideUnits i q c

/-- The units that writing an element reads: the side values it converts under, which between an integer source and a
float target (`through`) are the target's scale, and its residual. -/
def State.writeUnits (s : State) (i : Fin 16) (t : Tensor) (c : List Nat) (through : Bool := false) : List Nat :=
  match s.resolve i t c with
  | none => []
  | some (q, c) =>
    let f := s.packed i t
    (if f.isInt || q.carried || through then s.sideUnits i q c else []) ++ s.residualUnits i q f c

/-- Those units of a list that lie on other nodes. -/
def State.away (s : State) (us : List Nat) : List Nat := us.filter fun a => hallNode a != s.hall.nid.toNat

/-- Remote units of the given elements, each of every tensor, read or written. -/
def State.coverUnits (s : State) (i : Fin 16) (ts : List (Tensor × Bool)) (cs : List (List Nat)) : List Nat :=
  s.away (cs.foldl (fun us c => ts.foldl (fun us t =>
    unite us (if t.2 then s.writeUnits i t.1 c else s.readUnits i t.1 c)) us) [])

/-- Remote units of the first `n` entries of an index tensor. -/
def State.indexUnits (s : State) (i : Fin 16) (l : Option Tensor) (n : Nat) : List Nat :=
  match l with
  | some l => if l.kind ≠ 2 then [] else
    s.away (unite [] ((List.range (min n (l.extRaw 0))).map fun j => (s.place i l (.op .fp32) [j]).addr / 64 * 64))
  | none => []

/-- Remote units of the records of a record tensor. -/
def State.recordUnits (s : State) (i : Fin 16) (q : Tensor) (gs : List (List Nat)) : List Nat :=
  s.away (unite [] (gs.map fun g => s.recPlace i q g / 64 * 64))

/-- Units not yet returned for an instruction. -/
def State.missing (s : State) (i : Fin 16) (n : Nat) (us : List Nat) : List Nat :=
  us.filter fun u => !s.rem.got.contains (i.val, n, u)

/-- Units that were not returned for an instruction since the step began: the dispatch reads the steward's records and
carried records as the step has them (R170, R250, R263). -/
def State.unread (s : State) (i : Fin 16) (n : Nat) (us : List Nat) : List Nat :=
  us.filter fun u => !s.rem.got.contains (i.val, n, u) || s.rem.old.contains (i.val, n, u)

/-- Send reads for units that are not asked for. -/
def State.askAll (s : State) (i : Fin 16) (n : Nat) (us : List Nat) : State :=
  us.foldl (fun s u =>
    if s.rem.reads.any fun q => q.slot == i && q.node == n && q.f.addr.toNat == u then s
    else { s with rem := { s.rem with
        got := s.rem.got.filter (· != (i.val, n, u)), old := s.rem.old.filter (· != (i.val, n, u)) } }.sendRead i n u) s

/-- Send reads for the units that are neither returned nor asked for. -/
def State.askFor (s : State) (i : Fin 16) (n : Nat) (us : List Nat) : State := s.askAll i n (s.missing i n us)

/-- What was read of other nodes, or is asked for, was read before the step that now begins. -/
def State.ageReads (s : State) : State :=
  { s with rem := { s.rem with
    old := s.rem.got ++ s.rem.reads.map fun q => (q.slot.val, q.node, q.f.addr.toNat) } }

/-- Update the results of a flight and mark its effect as made. -/
def State.effected (s : State) (f : Flight) (upd : Result → Result) : State :=
  s.setFlight { f with phase := .effected, results := f.results.map upd }

/-- Initialise the state records of the steered tensors an instruction names (R251). -/
def State.initFor (s : State) (i : Fin 16) (ts : List Tensor) : State :=
  ts.foldl (fun s t =>
    let q := s.under i t
    if q.steer && q.accf == 0 && q.kind == 0 then s.initLayer q.slayer else s) s

/-- Opcodes that join fetched streams at operand assembly and can fail with TAGSKEW (R378). -/
def tagged (opc : Nat) : Bool :=
  opc ∈ [0x05, 0x10, 0x11, 0x12, 0x20, 0x22, 0x23, 0x30, 0x31, 0x32]

/-- A skew that operand assembly met for an instruction without a gang (R181). -/
def State.skewOf (s : State) (i : Fin 16) (n : Nat) : Option TagSkew :=
  (s.hg.resident.find? fun r => r.slot == i && r.node == n).bind (·.skew)

/-- First K index of an instruction with the product body, from which the runs of an operand without scales count (R150,
R380). -/
def firstK (w : Nat) : Nat := if isProduct (twOpc w) ∨ twOpc w = 0x05 then fld w 260 20 else 0

/-- Dimension of an operand that carries K, for a product and for MAXIDX (R380, R388); an instruction of another opcode
has no K. -/
def kDimOf (w : Nat) (t : Tensor) : Option Nat :=
  if isProduct (twOpc w) then some (if fld w 160 16 = t.ix then fld w 338 3 else fld w 344 3)
  else if twOpc w = 0x05 then some (fld w 338 3) else none

/-- The tag of the piece of a tensor at coordinate `k` along K: the index, modulo 256, of its group along K, or of its run
of 128 from the instruction's first K index on where there is no scale tensor (R150, R180). Where the groups do not run
along K each index is a group of its own (R145). For an instruction without a K dimension `k` is taken along `GDIM`, of a
view along its first dimension (log 110). -/
def State.tagAt (s : State) (i : Fin 16) (w : Nat) (t : Tensor) (k : Nat) : BitVec 8 :=
  let q := s.under i t
  let c := q.extRaw 0
  BitVec.ofNat 8 (
    if (s.scaleTensor i q).isNone then (k - firstK w) / 128
    else match kDimOf w t with
      | some d =>
        if t.isView then (if d ≠ 0 then k else if c = 0 then 0 else k / c * cdiv c q.gsize + k % c / q.gsize)
        else if (if q.square then decide (2 ≤ d) else d != q.gdim) then k
        else k / q.gsize
      | none => if t.isView ∧ c ≠ 0 then k / c * cdiv c q.gsize + k % c / q.gsize else k / q.gsize)

/-- TAGSKEW where the tag found is not the one expected, with the words of its event (R181, R182, R583). -/
def State.skewFail (s : State) (i : Fin 16) (w : Nat) (k : TagSkew) : Option Fail :=
  match s.tensor i k.desc.toNat with
  | none => none
  | some t =>
    let e := s.tagAt i w t k.k
    failWhen (e != k.found) (some { err := .tagskew, desc := k.desc.toNat, w1 := e.toNat + 256 * k.found.toNat })

/-- The core that counts for an instruction: the core that runs it, or node number mod 8 (R139). -/
def countCore (onCore : Bool) (core : Fin 8) (n : Nat) : Nat := if onCore then core.val else n % 8

/-- Opcodes of the row unit (R378). -/
def isRowOp (opc : Nat) : Bool := opc ∈ [0x05, 0x22, 0x23]

/-- An earlier instruction of the core's row unit is still at work (R292). -/
def State.rowBusy (s : State) (opc : Nat) (core : Fin 8) (i : Fin 16) (n : Nat) : Bool :=
  isRowOp opc && (s.hg.flight.takeWhile fun f => !(f.slot == i && f.node == n)).any fun f =>
    isRowOp f.opc && f.core == core && f.phase == .dispatched

/-- Those of an instruction's units that hold carried records of other nodes. -/
def State.recordReads (s : State) (i : Fin 16) (ts : List Tensor) (us : List Nat) : List Nat :=
  let rs := (s.away (ts.flatMap fun t => s.carriedAddrs i (s.under i t))).map fun a => a / 64 * 64
  us.filter fun u => rs.contains u

/-- Units that the checks of an instruction still wait for: the steward's records of this step, and index lists. -/
def State.firstUnits (s : State) (i : Fin 16) (n : Nat) (ts : List Tensor) (early : List Nat) : List Nat :=
  unite (s.unread i n (s.stewardUnits i ts)) (s.missing i n early)

/-- Dispatch of an instruction of one task word on a unit: its checks, then its effect, at once or, when
operands lie on other nodes or the row unit is at work, later. What the checks themselves read is fetched first: a
layer's state on the acting manager, and the index lists of `early`; and the dispatch reads the carried records that the
instruction will write (R170). -/
def State.issue (s : State) (i : Fin 16) (n : Nat) (opc : Nat) (core : Fin 8) (onCore : Bool)
    (names : State → Nat → List Tensor) (check : State → Nat → Option Fail)
    (needs : State → Nat → List Nat) (effect : State → Flight → State)
    (early : State → Nat → List Nat := fun _ _ => []) : State :=
  s.attempt i n opc fun s =>
    let w := s.taskWord i n
    let ts := names s w
    let first := s.firstUnits i n ts (early s w)
    if first ≠ [] then (s.askAll i n first).setWait i n 1 0x02 core.val 0xFFF
    else
      let s0 := s
      let s := s.initFor i ts
      match check s w with
      | some x => s0.onAwake onCore (s.failNow i n w core onCore x)
      | none =>
        let recs := s.unread i n (s.recordReads i ts (needs s w))
        if recs ≠ [] then (s0.askAll i n recs).setWait i n 1 0x02 core.val 0xFFF
        else s0.onAwake onCore <| match (if tagged opc then s.skewOf i n else none).bind (s.skewFail i w) with
        | some x => (s.bump (countCore onCore core n) 16 1).failNow i n w core onCore x
        | none =>
          let f : Flight := {
            slot := i, node := n, opc := opc, core := core, onCore := onCore, word := w
            dstamp := s.tm.tick, stepNo := s.hg.stepNo, results := [{ node := n }]
            fixed := (ts.map (s.under i)).flatMap (s.carriedCells i n) }
          let s := s.enter f [n] (if onCore then put 24 8 core.val else 0)
          let us := needs s w
          if s.missing i n us = [] ∧ s.rowBusy opc core i n = false then effect s f else (s.askFor i n us).showNode i n

/-- Checks every opcode shares (R375 step 2, R379): ACC where the table says overwrite, VEN where R306
does not list the opcode. -/
def commonForm (w : Nat) (overwrite ven : Bool) : Option Fail :=
  failWhen ((overwrite && twAcc w) || (twVen w && !ven)) (failF)

/-- Steered targets and formats in force (R252) of a tensor that is read or written; while the steward is disabled the
format in force is the descriptor's own (R249). -/
def State.steerFail (s : State) (i : Fin 16) (w : Nat) (t : Tensor) (written : Bool) : Option Fail :=
  let q := s.under i t
  if !(q.steer && q.accf == 0 && q.kind == 0) then none
  else if written && q.slayer != twLayer w then failF t.ix
  else match s.fmtOf i q, q.ownFmt with
    | some f, some o => failWhen (decide (o.bits < f.bits) || f.isInt != o.isInt) (failF t.ix)
    | _, _ => failF t.ix

/-- Use of a descriptor as a plain write, or as an add or merge, which through a view reaches its source (R342, R358). -/
def State.useFail (s : State) (i : Fin 16) (t : Tensor) (plain : Bool) : Option Fail :=
  failWhen (if plain then t.isView || t.use != 1 else (s.under i t).use == 0) (failA t.ix)

/-- Use of the side tensors that an instruction writes plainly (R342). -/
def State.sideUse (s : State) (i : Fin 16) (qs : List (Option Tensor)) : Option Fail :=
  firstFail (qs.map fun q => q.bind fun q => s.useFail i q true)

/-- A named residual tensor that feedback needs (R266, R267): of BF16 and the target's shape. -/
def State.residualFail (s : State) (i : Fin 16) (t : Tensor) (f : EFmt) : Option Fail :=
  match f with
  | .op g => if 4 < g.bits then none
    else match s.side i t t.resIx with
      | none => failF t.ix
      | some r => failWhen (r.kind != 0 || r.ownFmt != some (.op .bf16) || !sameShape r.exts t.exts) (failF r.ix)
  | _ => none

/-- Use of the residual tensor that feedback writes plainly (R266, R268, R342). -/
def State.residualUse (s : State) (i : Fin 16) (t : Tensor) (f : EFmt) : Option Fail :=
  match f with
  | .op g => if 4 < g.bits then none else s.sideUse i [s.side i t t.resIx]
  | _ => none

end Sys2Proof.Machine
end

