-- ==== Sys2Proof/Machine/Plane.lean ====
section
/-! DEFINITION. The arithmetic of one product member: runs (R150), placement (R195, R196), promotion
(R200), DIST (R91 to R93), the spill-sum join (R192), segments of long accumulation (R217), LAPSE's count
(R221) and dot-product mode (R205). A plane is advanced over K, so that a preempted member continues
where it stopped (R238). -/
namespace Sys2Proof.Machine

/-- Tile edge of a fusion class (R22). -/
def tileEdge (cls : Nat) : Nat := if cls = 0 then 288 else 288 / cls

/-- Long accumulation is selected (R216). -/
def Job.lacc (j : Job) : Bool := bit j.word 399

/-- K indices of the instruction. -/
def Job.klen (j : Job) : Nat := j.ends.length

/-- The accumulator's layout: A16 is BF16 (R118); an A16 member in dot-product mode holds FP32 (R101). -/
def Job.accFmt (j : Job) : Fmt := if j.a16 && !j.dot then .bf16 else .fp32

/-- Signed value of an element's significand. -/
def Elem.d (x : Elem) : Int := if x.neg then -(x.g : Int) else x.g

/-- The element of zero value, such as zero padding (R356). No group holds it; under DIST its scale is the model's choice,
1.0 (log 73). -/
def Elem.zero : Elem := ⟨false, 0, 0, 0x3F80⟩

/-- Contribution of one product to the run adder (R195, R196), from the heads of the two operands. -/
def contribution (f ha hb : Nat) (a b : Elem) : Int :=
  if a.g = 0 ∨ b.g = 0 then 0
  else
    let t := (ha - a.e) + (hb - b.e)
    let m : Nat := if t ≤ f then a.g * b.g * 2 ^ (f - t) else roundQ (a.g * b.g) (2 ^ (t - f)) 0
    if a.neg != b.neg then -(m : Int) else m

/-- Head of an operand over a run: the largest exponent among its elements of non-zero magnitude (R194). -/
def headOf (l : List Elem) : Nat := l.foldl (fun h x => if x.g = 0 then h else max h x.e) 0

/-- Clip magnitude of a squared difference (R92). -/
def clipMax (cls : Nat) : Nat := if cls = 1 then 15 else 255

/-- One DIST step on the run value: the new value and whether it was clipped (R91, R92). -/
def distStep (op cls : Nat) (first : Bool) (r : Int) (a b : Elem) : Int × Nat :=
  let x := a.d
  let y := b.d
  match op with
  | 0 => (r + (x - y).natAbs, 0)
  | 1 =>
    let m := (x - y).natAbs
    let c := min m (clipMax cls)
    (r + (c * c : Nat), b2n (c != m))
  | 2 => (if first then x + y else min r (x + y), 0)
  | _ => (if first then x + y else max r (x + y), 0)

/-- Exact product of a direct pair (R198). -/
def Job.directProduct (j : Job) (a b : Elem) : Dy := ⟨a.d * b.d, a.e + b.e + j.uBase⟩

/-- One level of the adder tree of a dot-product segment: neighbours are added and rounded, and a last one alone is
added to the zero of the absent row (R205). A sum that saturates there is counted nowhere (log 94). -/
def treeLevel : List Dy → List Dy
  | a :: b :: r => (ofFp32 (toFp32 (a.add b).val).1).dy :: treeLevel r
  | [a] => [(ofFp32 (toFp32 a.val).1).dy]
  | [] => []

/-- The tree over a segment of at most 32 products (R98, R205). -/
def treeSum (l : List Dy) : Dy :=
  (treeLevel (treeLevel (treeLevel (treeLevel (treeLevel l))))).headD Dy.zero

/-- Scale in force of an element (R124). -/
def Elem.scale (x : Elem) : Dy := (readScale x.sc).1

/-- Advance the run [start, stop) of one element over K indices lo to hi − 1. -/
def Job.runOver (j : Job) (row col : List Elem) (start stop lo hi : Nat) (r0 : Int) : Int × Nat :=
  let n := hi - lo
  match j.dist with
  | some op => forN n (r0, 0) fun x k =>
      let (r, c) := distStep op j.cls (lo + k == start) x.1 (nth row (lo + k) .zero) (nth col (lo + k) .zero)
      (r, x.2 + c)
  | none =>
    if j.direct then (0, 0)
    else
      let ha := headOf (row.drop start |>.take (stop - start))
      let hb := headOf (col.drop start |>.take (stop - start))
      (forN n r0 fun r k => r + contribution j.fBits ha hb (nth row (lo + k) .zero) (nth col (lo + k) .zero), 0)

/-- A stretch of K within one run and one K-block: [lo, hi) of the run [start, stop). -/
structure Stretch where
  lo : Nat
  hi : Nat
  start : Nat
  stop : Nat
  deriving DecidableEq, Repr

/-- The runs as (start, stop), from the run ends (R150). -/
def runsOf : List Bool → Nat → Nat → List (Nat × Nat)
  | [], start, k => if start < k then [(start, k)] else []
  | e :: r, start, k => if e then (start, k + 1) :: runsOf r (k + 1) (k + 1) else runsOf r start (k + 1)

/-- Cut [lo, hi) at the multiples of `t`. -/
def cutBlocks (t : Nat) : Nat → Nat → Nat → List (Nat × Nat)
  | 0, _, _ => []
  | k + 1, lo, hi =>
    if hi ≤ lo then []
    else
      let e := min hi ((lo / t + 1) * t)
      (lo, e) :: cutBlocks t k e hi

/-- The pieces of a member's K range, in order. -/
def Job.pieces (j : Job) : List Stretch :=
  (runsOf j.ends 0 0).flatMap fun r =>
    (cutBlocks (tileEdge j.cls) (r.2 - r.1) r.1 r.2).map fun c => ⟨c.1, c.2, r.1, r.2⟩

/-- The value a run promotes: run sum times both scales, or the exact product of a direct pair, which ends a run of its
own, times both (R59, R198, R200), or in dot-product mode a segment's tree sum (R205); under DIST the shared operand's
scale alone (R91). -/
def Job.promoted (j : Job) (row col : List Elem) (start stop : Nat) (r : Int) : Dy :=
  let a := nth row (stop - 1) .zero
  let b := nth col (stop - 1) .zero
  match j.dist with
  | some op => (Dy.ofInt r).mul (if op = 1 then a.scale.mul a.scale else a.scale)
  | none =>
    let base : Dy :=
      if j.direct && !j.dot then j.directProduct (nth row start .zero) (nth col start .zero)
      else if j.direct then treeSum ((List.range (stop - start)).map fun k =>
        j.directProduct (nth row (start + k) .zero) (nth col (start + k) .zero))
      else
        let ha := headOf (row.drop start |>.take (stop - start))
        let hb := headOf (col.drop start |>.take (stop - start))
        ⟨r, (ha : Int) + hb + j.uBase - j.fBits⟩
    base.mul (a.scale.mul b.scale)

/-- A promotion into an accumulator, given whether it is the element's first (R93, R200). -/
def Job.promote (j : Job) (first : Bool) (acc : Nat) (v : Dy) : Nat × Conv :=
  let put1 := fun x : Dy => match j.accFmt.encode x.val with
    | (c, .sat) => (c, .sat)
    | (c, _) => (c, Conv.none)
  match j.dist with
  | some 2 => if first then put1 v else put1 (v.min (j.accFmt.decode acc).dy)
  | some 3 => if first then put1 v else put1 (v.max (j.accFmt.decode acc).dy)
  | _ => accAdd j.accFmt acc v

/-- Map over the plane's cells with their coordinates, adding up a count. -/
def mapCells (cells : List (List Cell)) (f : Nat → Nat → Cell → Cell × Nat) : List (List Cell) × Nat :=
  let rows := cells.mapIdx fun m r => r.mapIdx fun n c => f m n c
  (rows.map fun r => r.map (·.1), sumN (rows.map fun r => sumN (r.map (·.2))))

/-- End a segment: every accumulator goes to the spill and starts again at zero (R218). -/
def Plane.spillNow (p : Plane) : Plane :=
  { p with
    spills := p.spills ++ [p.cells.map fun r => r.map (·.acc)]
    cells := p.cells.map fun r => r.map fun c => { c with acc := 0 }
    nadd := 0, seg := p.seg + 1 }

/-- Additions that a K-block starting at `k` makes: its run ends and the join. -/
def Job.blockAdds (j : Job) (k : Nat) : Nat :=
  let e := j.ends.drop k |>.take (tileEdge j.cls)
  (e.filter (·)).length + (match j.joinAt with
    | some q => b2n (decide (k ≤ q) && decide (q < k + tileEdge j.cls))
    | none => 0)

/-- Segments end only at K-blocks outside the outer-product mode (R217). -/
def Job.blocky (j : Job) : Bool := !j.outer || j.dot

/-- An addition was made: the counts of R235, and in outer-product mode the end of a segment with every 4,096th addition
but the instruction's last (R217 to R219). -/
def Job.added (j : Job) (last : Bool) (p : Plane) : Plane :=
  let p := { p with nadd := p.nadd + 1, total := p.total + 1 }
  if j.lacc && !j.blocky && p.nadd == 4096 && !last then p.spillNow else p

/-- Whether the spill sum joins behind the promotion of the run that stops at `stop` (R192). -/
def Job.joins (j : Job) (p : Plane) (stop : Nat) : Bool := j.joinAt == some (stop - 1) && !p.joined

/-- Process one piece up to K offset `upTo`. -/
def Job.piece (j : Job) (upTo : Nat) (p : Plane) (q : Stretch) : Plane :=
  let lo := max q.lo p.next
  let hi := min q.hi upTo
  if hi ≤ lo then p
  else
    let (cells, clips) := mapCells p.cells fun m n c =>
      let (r, k) := j.runOver (nth j.rows m []) (nth j.cols n []) q.start q.stop lo hi c.run
      ({ c with run := r }, k)
    let p := { p with cells := cells, clips := p.clips + clips, next := hi }
    let p :=
      if hi < q.stop then p
      else
        let (cells, sats) := mapCells p.cells fun m n c =>
          let v := j.promoted (nth j.rows m []) (nth j.cols n []) q.start q.stop c.run
          let (acc, cv) := j.promote (p.total == 0) c.acc v
          ({ acc := acc, run := 0 }, b2n (cv == .sat))
        let p := j.added (q.stop == j.klen && !j.joins p q.stop) { p with
          cells := cells, sats := p.sats + sats, proms := p.proms + sumN (p.cells.map List.length) }
        if j.joins p q.stop then
          let (cells, sats) := mapCells p.cells fun m n c =>
            let (acc, cv) := accAdd j.accFmt c.acc (ofFp32 (nth (nth j.spill m []) n 0)).dy
            ({ c with acc := acc }, b2n (cv == .sat))
          j.added (q.stop == j.klen) { p with cells := cells, sats := p.sats + sats, joined := true }
        else p
    -- a K-block ends here and the next one would carry the segment past 4,096 additions
    if j.lacc && j.blocky && hi % tileEdge j.cls == 0 && decide (hi < j.klen)
        && decide (4096 < p.nadd + j.blockAdds hi) then p.spillNow
    else p

/-- Rows [lo, hi) of a member's tile as a member of their own. -/
def Job.cut (j : Job) (lo hi : Nat) : Job :=
  { j with rows := (j.rows.take hi).drop lo, spill := (j.spill.take hi).drop lo }

/-- A K-block's end behind offset `k`. -/
def Job.blockEnd (j : Job) (k : Nat) : Nat := min j.klen ((k / tileEdge j.cls + 1) * tileEdge j.cls)

/-- Advance a plane of which no row is ahead to K offset `upTo`. -/
def Job.run (j : Job) (p : Plane) (upTo : Nat) : Plane := j.pieces.foldl (j.piece upTo) p

/-- The rows left behind in a K-block take it too, and stand with those ahead again. -/
def Job.catchUp (j : Job) (p : Plane) : Plane :=
  if p.ahead = [] then p
  else
    let q := (j.cut p.ahead.length j.rows.length).run { p with ahead := [], aheadSpill := [], spills := [] }
      (j.blockEnd p.next)
    { q with cells := p.ahead ++ q.cells, spills := p.spills ++ q.spills.map (p.aheadSpill ++ ·) }

/-- Advance a plane to K offset `upTo`. -/
def Job.advance (j : Job) (p : Plane) (upTo : Nat) : Plane :=
  if upTo ≤ p.next then p else j.run (j.catchUp p) upTo

/-- A plane of the stationary mode after `n` steps: step b × T + m has carried rows 0 to m through the K-block b (R24,
R234). -/
def Job.enter (j : Job) (p : Plane) (n : Nat) : Plane :=
  let t := tileEdge j.cls
  let p := { j.advance p (min j.klen (n / t * t)) with entered := n }
  let a := min j.rows.length (n % t) - p.ahead.length
  if a = 0 ∨ j.klen ≤ p.next then p
  else
    let q := (j.cut p.ahead.length (p.ahead.length + a)).run
      { p with cells := p.cells.take a, ahead := [], aheadSpill := [], spills := [] } (j.blockEnd p.next)
    let r : Plane := { p with
      cells := p.cells.drop a, ahead := p.ahead ++ q.cells, aheadSpill := p.aheadSpill ++ q.spills.flatten
      sats := q.sats, clips := q.clips, proms := q.proms }
    if r.cells.isEmpty then
      { q with cells := r.ahead, spills := p.spills ++ (if q.spills = [] then [] else [r.aheadSpill]) }
    else r

/-- Every row's cells in order, those ahead first. -/
def Plane.allCells (p : Plane) : List (List Cell) := p.ahead ++ p.cells

/-- A plane that has taken a step. -/
def Plane.begun (p : Plane) : Bool := p.next != 0 || p.entered != 0

/-- The plane at an instruction's first step (R75). -/
def Job.start (j : Job) : Plane :=
  { cells := j.rows.map fun _ => j.cols.map fun _ => {} }

/-- Streaming steps at full delivery in the normal mode (R24, R27). -/
def Job.steps (j : Job) : Nat :=
  let t := tileEdge j.cls
  if j.outer then j.klen else cdiv j.klen t * t

/-- Bands of the tile in dot-product mode: up to 48 output rows each (R99). -/
def Job.bands (j : Job) : Nat := cdiv j.rows.length 48
/-- Those of them that have not drained. -/
def Job.bandsLeft (j : Job) (p : Plane) : Nat := cdiv (j.rows.length - p.drained) 48

/-- The plane of the rows that are still to come, for a member whose first `d` rows have drained. What a discarded
partial tile had counted, its promotions, saturations and clips, goes with it (log 87). -/
def Job.restart (j : Job) (d : Nat) (p : Plane) : Plane :=
  { (j.cut d j.rows.length).start with drained := d, tally := p.tally, lapsed := p.lapsed }

/-- Whether every row of a member's tile has left it. -/
def Job.done (j : Job) (p : Plane) : Bool := p.drained != 0 && decide (j.rows.length ≤ p.drained)

/-- A member's rows from the first that has not drained to row `hi`, carried to their last step. -/
def Job.finish (j : Job) (p : Plane) (hi : Nat) : Plane :=
  let p := (j.cut p.drained j.rows.length).catchUp p
  let k := j.cut p.drained hi
  k.advance { p with cells := p.cells.take k.rows.length } j.klen

/-- Pipeline latency in clk (R74). -/
def Job.latency (j : Job) : Nat := 2 * tileEdge j.cls + (if j.outer && !j.dot then 4 else 0)

end Sys2Proof.Machine
end

