-- ==== Sys2Proof/Machine/Basin.lean ====
section
/-! DEFINITION. The basins (R206 to R210): adding into FP32 and W64 elements, here or by an accumulate-write
to the owner, and the exponentials of the record merges (R230, R231). -/
namespace Sys2Proof.Machine

/-- Sum of a stored FP32 code and a value, as a basin forms it (R208): a NaN stands, an infinity is read
as the largest finite magnitude, the sum rounds once and saturates; saturation and underflow are counted. -/
def basinFp32 (old : Nat) (v : Val) : Nat × Counts :=
  match ofFp32 old with
  | .nan _ => (old, {})
  | .inf n =>
    let (c, cv) := toFp32 (addVal ((if n then Fmt.fp32.maxDy.neg else Fmt.fp32.maxDy).val) v)
    (c, ({ sat := 1 } : Counts).add1 cv)
  | x =>
    let (c, cv) := toFp32 (addVal x v)
    (c, ({} : Counts).add1 cv)

/-- Sum of a stored W64 code and an entered one, exact with saturation (R121). -/
def basinW64 (old add : Nat) : Nat × Counts :=
  let q := sgn 64 old + sgn 64 add
  let r := max (-w64Max) (min w64Max q)
  (unsgn 64 r, ({} : Counts).add1 (if r = q then .none else .sat))

/-- The code a basin of the stated format leaves in an element: a W64 contribution enters under R129, an infinite one
for FP32 as its largest finite magnitude, counted (R208). -/
def basinSum (f : EFmt) (old : Nat) (v : Val) : Nat × Counts :=
  match f, v with
  | .w64 x, v =>
    let (code, cv) := encW64 x v
    let (new, c) := basinW64 old code
    (new, c.add1 cv)
  | _, .inf n =>
    let (new, c) := basinFp32 old ((if n then Fmt.fp32.maxDy.neg else Fmt.fp32.maxDy).val)
    (new, c.add1 .sat)
  | _, v => basinFp32 old v

/-- One contribution into an element of this node at a place of the stated format (R207). -/
def State.addPlace (s : State) (p : Place) (f : EFmt) (v : Val) : State × Counts :=
  let (new, c) := basinSum f (s.readPlace p) v
  (s.wrN p.addr (p.w / 8) new, c)

/-- An accumulate-write flit of type 0x3 for one element, in the basin's format (R452, R470). -/
def accFlit (a : Nat) (f : EFmt) (code : Nat) : Flit :=
  let w64 := match f with
    | .w64 _ => true
    | _ => false
  let x := match f with
    | .w64 x => BitVec.ofInt 9 x
    | _ => 0
  { typ := 3, dst := BitVec.ofNat 12 (hallNode a), addr := BitVec.ofNat 60 a, len := 1, lw64 := w64
    bfmt := w64, bexp := x, sexp := x, cnt := 1, estr := 1, used := if w64 then 8 else 4
    payload := (List.range (if w64 then 8 else 4)).map fun j => BitVec.ofNat 8 (code >>> (8 * j)) }

/-- Add a value into an element of an FP32 or W64 tensor, on whichever node holds it (R30, R206, R358);
a place of zero padding takes nothing. -/
def State.accumulate (s : State) (i : Fin 16) (n : Nat) (t : Tensor) (f : EFmt) (c : List Nat) (v : Val) :
    State × Counts :=
  match s.resolve i t c with
  | none => (s, {})
  | some (t, c) =>
    let p := s.place i t f c
    -- the value enters the basin's format first, and counts here (R129, R136, R139)
    let (code, cv) := f.encode v
    if hallNode p.addr = s.hall.nid.toNat then
      let (s, cs) := s.addPlace p f (f.decode code)
      (s, cs.add1 cv)
    else
      -- the add counts at the owner (R210); fetched units follow the sum
      let sum := (basinSum f (s.readPlace p) (f.decode code)).1
      let s := s.follow p.addr ((List.range (p.w / 8)).map fun k => BitVec.ofNat 8 (sum >>> (8 * k)))
      (s.sendWrite i n (accFlit p.addr f code), ({} : Counts).add1 cv)

-- Approximated functions. Each is enclosed to within 2⁻⁶⁴ and then placed freely within its bound (log 4).

/-- A fraction from −1 to 1 in steps of 2⁻⁶², fixed freely for each function and operand. -/
def wobble (fn operand : Nat) : Dy := ⟨(Config.approx fn operand).toNat % 2 ^ 63 - 2 ^ 62, -62⟩

/-- A value moved freely within ± `bound`. -/
def within (fn operand : Nat) (v bound : Dy) : Dy := v.add (bound.mul (wobble fn operand))

/-- Cut a dyadic number to `k` fraction bits, toward minus infinity. -/
def Dy.cut (d : Dy) (k : Nat) : Dy :=
  let s := d.e + k
  if 0 ≤ s then d else ⟨d.m / (2 ^ (-s).toNat : Nat), -(k : Int)⟩

/-- Taylor sum of exp over `n` terms, for a reduced argument. -/
def expSeries (r : Dy) : Nat → Dy → Dy → Nat → Dy
  | 0, _, acc, _ => acc
  | k + 1, term, acc, i =>
    let t := term.mul r
    let t' : Dy := (⟨t.m * 2 ^ 96 / (i : Int), t.e - 96⟩ : Dy).cut 128
    expSeries r k t' (acc.add t') (i + 1)

/-- log₂ e to 96 fraction bits, and ln 2 to 128. -/
def log2e96 : Dy := ⟨114302077158074026402637675936, -96⟩
def ln2_128 : Dy := ⟨235865763225513294137944142764154484399, -128⟩

/-- exp of an exact number to better than 2⁻⁶⁴ relative: 2^k × exp(r). -/
def expDy (x : Dy) : Dy :=
  let k := (x.mul log2e96).round
  let r := (x.sub (ln2_128.mul (Dy.ofInt k))).cut 128
  let s := expSeries r 30 (Dy.ofInt 1) (Dy.ofInt 1) 1
  ⟨s.m, s.e + k⟩

/-- Exponential of an FP32 number, of relative error below 2⁻³⁰, before its one rounding (R230, R293).
Arguments beyond ±2¹⁰ give what the range of FP32 makes of them: zero below, a saturating value above. -/
def expFree (x : Dy) : Dy :=
  if x.lt ⟨-1024, 0⟩ then ⟨1, -1477⟩
  else if (⟨1024, 0⟩ : Dy).lt x then ⟨1, 1477⟩
  else
    let e := expDy x
    within 0 (toFp32 x.val).1 e (e.mul ⟨1073741823, -60⟩)

/-- The same rounded once to FP32. -/
def expFp32 (x : Dy) : Nat := (toFp32 (expFree x).val).1

/-- FP32 sum and product of FP32 codes of finite values, rounded once. -/
def fpAdd (a b : Nat) : Nat := (toFp32 (addVal (ofFp32 a) (ofFp32 b))).1
def fpMul (a b : Nat) : Nat := (toFp32 ((ofFp32 a).dy.mul (ofFp32 b).dy).val).1

/-- A record of row statistics: maximum and sum (R229). -/
structure RowStat where
  rmax : Nat := fp32MinCode
  rsum : Nat := 0
  deriving DecidableEq, Repr

/-- A record of row statistics as it is stored (R229). -/
def RowStat.code (r : RowStat) : Nat := fld r.rmax 0 32 + r.rsum * 2 ^ 32
def RowStat.ofCode (c : Nat) : RowStat := ⟨fld c 0 32, fld c 32 32⟩

/-- The merge of R231; a term of an empty record contributes zero (R232). A stored NaN or infinity is no value that the
engine writes: in RMAX it compares as zero, in RSUM a NaN stays in a sum and is zero in a product (log 113); what saturates
or underflows in a record's arithmetic is counted nowhere (log 114). -/
def mergeRow (exps : Bool) (a b : RowStat) : RowStat :=
  let m := maxFp a.rmax b.rmax
  if !exps then ⟨m, fpAdd a.rsum b.rsum⟩
  else
    let term := fun r : RowStat =>
      if r = {} then 0
      else fpMul r.rsum (expFp32 ((ofFp32 r.rmax).dy.sub (ofFp32 m).dy))
    ⟨m, fpAdd (term a) (term b)⟩

end Sys2Proof.Machine
end

