-- ==== Sys2Proof/Machine/Load.lean ====
section
/-! DEFINITION. Submission and loading: SUBMIT and its response (R417 to R420), the checks of a load
(R421): header and areas (R413, R415), stash regions (R274), descriptors (R319 to R341, R355), task
words (R368) and version counts (R308); and abandonment (R425). -/
namespace Sys2Proof.Machine

-- SUBMIT codes (R419).
def Err.code : Err → Nat
  | .format => 0x10 | .range => 0x11 | .aliasing => 0x12 | .version => 0x13 | .align => 0x16
  | .tagskew | .stashtag => 0x10

/-- The response of R418. -/
def mkResponse (code slot tag : Nat) (index : Option Nat) : BitVec 128 :=
  BitVec.ofNat 128 (put 0 8 code + put 8 4 slot + put 16 16 tag + put 32 1 (b2n index.isSome)
    + put 64 20 (index.getD 0))

/-- Put a response on the command port. -/
def State.respond (s : State) (code slot tag : Nat) (index : Option Nat) : State :=
  { s with out := { s.out with resp := s.out.resp ++ [mkResponse code slot tag index] } }

/-- The header of R413 as its fields. -/
def mkHdr (x : Nat) : Hdr where
  gver := fld x 0 8
  prio := fld x 8 2
  onfail := bit x 10
  twCount := fld x 16 21
  twBase := fld x 64 60
  succBase := fld x 128 60
  succLen := fld x 192 29
  descCount := fld x 224 17
  compBase := fld x 256 60
  descBase := fld x 320 60
  allocBase := fld x 384 60
  allocCount := fld x 448 17
  smapLen := fld x 480 16
  smapBase := fld x 512 60
  stashBase := fld x 576 60
  stashSize := fld x 640 64
  ovfBase := fld x 704 60
  ovfSize := fld x 768 64
  workBase := fld x 832 60

/-- The areas of R415 as (base, bytes). -/
def Hdr.areas (h : Hdr) : List (Nat × Nat) :=
  [(h.twBase, 64 * h.twCount), (h.succBase, 4 * h.succLen), (h.compBase, 16 * h.twCount),
   (h.descBase, 64 * h.descCount), (h.allocBase, 16 * h.allocCount), (h.smapBase, 64 * h.smapLen),
   (h.workBase, 8 * h.twCount)]

/-- Two ranges share a byte; a range of length zero shares none. -/
def rangesMeet (a b : Nat × Nat) : Bool :=
  a.2 != 0 && b.2 != 0 && decide (a.1 < b.1 + b.2) && decide (b.1 < a.1 + a.2)

/-- Some two ranges of a list meet. -/
def anyMeet : List (Nat × Nat) → Bool
  | [] => false
  | a :: r => r.any (rangesMeet a) || anyMeet r

/-- Step 1 of R421. -/
def State.headerFail (s : State) (addr : Nat) (h : Hdr) : Option Err :=
  if addr % 64 ≠ 0 then some .align
  else if !s.mine addr 128 then some .range
  else if h.areas.any fun a => a.1 % 64 != 0 then some .align
  else if h.gver ≠ 1 then some .format
  else if h.twCount = 0 ∨ 2 ^ 20 < h.twCount ∨ 2 ^ 28 < h.succLen ∨ 65536 < h.descCount
      ∨ 65536 < h.allocCount ∨ (h.areas.any fun a => a.2 != 0 && !s.mine a.1 a.2)
      ∨ anyMeet (h.areas.map fun a => (hallLoc a.1, a.2)) then some .range
  else none

/-- The stash and overflow regions of a header (R273); a region of size zero is no region (R274). -/
def Hdr.regions (h : Hdr) : List (Nat × Nat) :=
  [(h.stashBase, h.stashSize), (h.ovfBase, h.ovfSize)].filter fun r => r.2 != 0

/-- Step 2 of R421: the cases of R274. -/
def State.stashFail (s : State) (i : Fin 16) (h : Hdr) : Option Err :=
  let pages := fun r : Nat × Nat => r.1 % 4096 == 0 && r.2 % 4096 == 0
  let others := allSlots.flatMap fun j =>
    if j = i ∨ (s.slot j).st = .free ∨ (s.slot j).st = .load then [] else (s.slot j).hdr.regions
  if !h.regions.all pages
    || (h.stashSize != 0 && !s.mine h.stashBase h.stashSize)
    || (h.ovfSize != 0 && (hallNode h.ovfBase == s.hall.nid.toNat
          || decide (2 ^ 48 < hallLoc h.ovfBase + h.ovfSize)))
    || h.regions.any (fun r => others.any (rangesMeet r)) then some .range
  else none

-- Step 3 of R421: descriptors.

/-- The side fields of a descriptor that name another one (R144, R320). -/
def Tensor.sides (t : Tensor) : List Nat :=
  [t.scaleIx, t.zpIx, t.olIx, t.ovIx, t.resIx].filter (· != t.ix)

/-- A side tensor of the stated kind, format and shape (R147, R326). -/
def sideIs (q : Option Tensor) (inTable : Bool) (ok : Tensor → Bool) : Bool :=
  match q with
  | some q => ok q
  | none => !inTable

/-- FORMAT of a window view (R355). -/
def State.viewFormat (s : State) (i : Fin 16) (t : Tensor) : Bool :=
  match s.tensor i t.wsrc with
  | none => true
  | some src =>
    let dims := [t.wdw] ++ (if t.wdh = 7 then [] else [t.wdh]) ++ (if t.wdn = 7 then [] else [t.wdn])
    src.kind != 0 || src.blk
      || t.kw == 0 || t.kh == 0 || t.sw == 0 || t.sh == 0 || t.dw == 0 || t.dh == 0
      || dims.any (fun d => d == 0 || decide (src.ndimRaw ≤ d)) || !dims.Nodup
      || (t.wdh == 7 && t.kh != 1)
      || ((s.scaleTensor i src).isSome && (src.square || src.gdim != 0))

/-- FORMAT of a descriptor of kind 0, 2 or 3 (R105, R147, R320, R322 to R325). -/
def State.plainFormat (s : State) (i : Fin 16) (t : Tensor) : Bool :=
  let n := (s.slot i).hdr.descCount
  let named := fun x : Nat => x != t.ix
  let groups := groupExts t t.exts
  let plain := fun (q : Tensor) (f : Fmt) => q.kind == 0 && q.accf == 0 && q.fmtCode == f.code
  let common := t.ndimRaw == 7 || t.use == 3 || (t.blk && decide (t.ndimRaw < 2))
    || (t.localCopy && t.smap != 0xFFFF)
    || t.sides.any fun x => decide (x < n) && (s.tensor i x).isNone
  -- the grouping fields of R143, which only index tensors ignore (R324)
  let fmts := t.accf == 3 || decide (t.ndimRaw ≤ t.gdim) || t.gsizeCode == 3 || (t.square && decide (2 ≤ t.gdim))
    || (t.carried && !named t.scaleIx) || (t.carried && named t.zpIx)
  match t.kind with
  | 0 =>
    let sides := (named t.scaleIx && !sideIs (s.tensor i t.scaleIx) (decide (t.scaleIx < n)) fun q =>
          (if t.carried then q.kind == 3 && q.fmtCode == 1 else plain q .bf16) && sameShape q.exts groups)
      || (named t.zpIx && !sideIs (s.tensor i t.zpIx) (decide (t.zpIx < n)) fun q =>
          plain q .int8 && q.sides == [] && sameShape q.exts groups)
      || (named t.ovIx && !sideIs (s.tensor i t.ovIx) (decide (t.ovIx < n)) fun q =>
          plain q .bf16 && sameShape q.exts (t.exts.set t.gdim 16))
    let acc := t.accf != 0 && (t.sides != [] || t.steer)
    let op := t.accf == 0 && ((Fmt.ofCode t.fmtCode).isNone
      || (((Fmt.ofCode t.fmtCode).map fun f => !f.isInt).getD false && named t.zpIx)
      || (named t.olIx && t.square) || sides)
    common || fmts || acc || op
  | 2 => common || t.ndimRaw != 1 || t.sides != [] || t.steer
  | _ => common || fmts || decide (2 ≤ t.fmtCode) || t.blk || t.sides != []

/-- Bytes of the lowest and highest place of shard 0, inclusive (R338); none without an element. -/
def State.footprint (s : State) (i : Fin 16) (t : Tensor) : Option (Int × Int) :=
  let e := s.localExts i t
  if e.any (· == 0) then none
  else
    let f : EFmt := if t.kind = 2 then .op .fp32 else t.ownFmt.getD (.op .fp32)
    let lo := fun x : Int => min 0 x
    let hi := fun x : Int => max 0 x
    let sum := fun (g : Int → Int) (from_ : Nat) => forN (e.length - from_) (0 : Int) fun a k =>
      a + g (64 * (((nth e (k + from_) 1 : Nat) - 1 : Int) * t.str (k + from_)))
    if t.blk then
      let b := fun (g : Int → Int) (k : Nat) => g (64 * ((cdiv (nth e k 1) 32 : Nat) - 1 : Int) * t.str k)
      some (t.offset + b lo 0 + b lo 1 + sum lo 2,
            t.offset + b hi 0 + b hi 1 + sum hi 2 + (f.blockBytes : Int) - 1)
    else
      let far := ((nth e 0 1 : Nat) - 1 : Int) * t.str 0
      let (u, w) : Int × Int := if t.kind = 3 then (t.recBytes, 1) else if f.bits = 64 then (8, 1)
        else (4, f.perWord)
      some (t.offset + u * (lo far / w) + sum lo 1, t.offset + u * (hi far / w) + u - 1 + sum hi 1)

/-- RANGE of a shard map (R333). -/
def State.shardRange (s : State) (i : Fin 16) (t : Tensor) : Bool :=
  if t.localCopy || t.smap == 0xFFFF then false
  else
    let len := (s.slot i).hdr.smapLen
    if len ≤ t.smap then true
    else
      let a := s.smapOf i t
      let h := s.rdN a 8
      let k0 := fld h 4 13
      let k1 := if bit h 34 then fld h 21 13 else 1
      let two := bit h 34
      decide (t.ndimRaw ≤ fld h 0 3) || (two && decide (t.ndimRaw ≤ fld h 17 3))
        || (two && fld h 0 3 == fld h 17 3) || k0 == 0 || k1 == 0 || decide (4096 < k0 * k1)
        || decide (64 * (len - t.smap) < 8 + 2 * (k0 * k1))

/-- RANGE of a descriptor of kind 0, 2 or 3 (R320, R328, R333, R338). -/
def State.plainRange (s : State) (i : Fin 16) (t : Tensor) : Bool :=
  let h := (s.slot i).hdr
  if t.sides.any (fun x => decide (h.descCount ≤ x)) || decide (h.allocCount ≤ t.alloc)
    || s.shardRange i t then true
  else
    let e := s.allocOf i t
    let bytes := 4096 * fld e 64 29
    let n := 2 ^ fld e 48 3
    decide (6 ≤ fld e 48 3) || decide (stackBytes < fld e 0 43 + 4096 * cdiv (fld e 64 29) n)
      || match s.footprint i t with
        | none => decide (bytes ≤ t.offset)
        | some (a, b) => decide (a < 0) || decide ((bytes : Int) ≤ b)

/-- ALIGN of a descriptor (R328, R337). -/
def State.plainAlign (s : State) (i : Fin 16) (t : Tensor) : Bool :=
  let h := (s.slot i).hdr
  let e := s.allocOf i t
  t.offset % 64 != 0 || (decide (t.alloc < h.allocCount)
    && (fld e 0 43 % 4096 != 0 || (decide (fld e 48 3 < 6) && fld e 43 5 % 2 ^ fld e 48 3 != 0)))

/-- Insert by the first component. -/
def insertBy (x : Nat × Nat) : List (Nat × Nat) → List (Nat × Nat)
  | [] => [x]
  | y :: r => if x.1 ≤ y.1 then x :: y :: r else y :: insertBy x r

/-- The loop of R340 over (stride, count), shortest stride first. -/
def aliasSpan : Nat → List (Nat × Nat) → Bool
  | _, [] => false
  | span, (st, n) :: r => decide (st < span) || aliasSpan (span + (n - 1) * st) r

/-- The test of R340. -/
def State.aliases (s : State) (i : Fin 16) (t : Tensor) : Bool :=
  let e := s.localExts i t
  let f : EFmt := if t.kind = 2 then .op .fp32 else t.ownFmt.getD (.op .fp32)
  let dimOf := fun k : Nat => (64 * (t.str k).natAbs, nth e k 0)
  let e0 : Int := ((nth e 0 0 : Nat) : Int) - 1
  let far := e0 * t.str 0
  let (u, w) : Nat × Nat := if t.kind = 3 then (t.recBytes, 1) else if f.bits = 64 then (8, 1)
    else (4, f.perWord)
  let (span, dims) : Nat × List (Nat × Nat) :=
    if t.blk then
      let blocks := fun k : Nat => (64 * (t.str k).natAbs, cdiv (nth e k 0) 32)
      (f.blockBytes, [blocks 0, blocks 1] ++ (List.range (t.ndimRaw - 2)).map fun k => dimOf (k + 2))
    else
      ((((max 0 far) / w - (min 0 far) / w + 1) * u).toNat,
       (List.range (t.ndimRaw - 1)).map fun k => dimOf (k + 1))
  (!t.blk && decide (1 < nth e 0 0) && t.str 0 == 0)
    || aliasSpan span ((dims.filter fun d => decide (1 < d.2)).foldr insertBy [])

/-- The first check a descriptor fails at creation, in the order of R319. -/
def State.descFail (s : State) (i : Fin 16) (t : Tensor) : Option Err :=
  if !t.used then none
  else if t.isView then (if s.viewFormat i t then some .format else none)
  else if s.plainFormat i t then some .format
  else if s.plainAlign i t then some .align
  else if s.plainRange i t then some .range
  else if t.use == 1 && s.aliases i t then some .aliasing
  else none

-- Step 4 of R421: task words.

/-- Whether a node's successor list lies in the successor area. -/
def State.listInArea (s : State) (i : Fin 16) (w : Nat) : Bool :=
  decide (twSidx w + twScnt w ≤ (s.slot i).hdr.succLen)

/-- Appearances of a node in all successor lists. R368 does not say whether the entries of a list that extends beyond the
successor area count; the model counts none of such a list (DESIGN CHOICE, log 132). -/
def State.appearances (s : State) (i : Fin 16) (n : Nat) : Nat :=
  forN (s.slot i).hdr.twCount 0 fun a m =>
    let w := s.taskWord i m
    if s.listInArea i w then a + ((s.successors i w).filter (· == n)).length else a

/-- The first error of node `n`, in the table order of R368. A node that lists itself joins no two members; it is a cycle,
for which the headgate does not test. -/
def State.wordFail (s : State) (i : Fin 16) (gs : List Span) (n : Nat) : Option Err :=
  let count := (s.slot i).hdr.twCount
  let w := s.taskWord i n
  let mine := gs.find? fun g => g.first ≤ n && n < g.last
  let succ := if s.listInArea i w then s.successors i w else []
  if !isOpcode (twOpc w) then some .format
  else if succ.any (fun m => decide (count ≤ m)) then some .range
  else if !s.listInArea i w then some .range
  else if s.appearances i n ≠ twPred w then some .format
  else if gs.any (fun g => g.first == n && decide (count < g.last)) then some .format
  else if (mine.map fun g => succ.any fun m => m != n && decide (g.first ≤ m) && decide (m < g.last)).getD false then
    some .format
  else none

/-- Lowest failing index of 0 … n − 1 with its error. -/
def lowestFail (n : Nat) (f : Nat → Option Err) : Option (Nat × Err) :=
  (List.range n).findSome? fun k => (f k).map fun e => (k, e)

/-- Add the counts of a graph's counted task words (R308). -/
def State.addCounts (s : State) (i : Fin 16) : Option State :=
  forN (s.slot i).hdr.twCount (some s) fun a n => a.bind fun s =>
    let w := s.taskWord i n
    if counted w then s.addUse w else some s

/-- The first failure of a load, with its `INDEX`, over a state whose slot holds the header (R421). -/
def State.loadFail (s : State) (i : Fin 16) (addr : Nat) : Option (Err × Option Nat) :=
  let h := (s.slot i).hdr
  match s.headerFail addr h with
  | some e => some (e, none)
  | none => match s.stashFail i h with
    | some e => some (e, none)
    | none => match lowestFail h.descCount fun n => (s.descAt i n).bind (s.descFail i) with
      | some (n, e) => some (e, some n)
      | none =>
        let gs := s.gangs i
        match lowestFail h.twCount (s.wordFail i gs) with
        | some (n, e) => some (e, some n)
        | none => if (s.addCounts i).isNone then some (.version, none) else none

/-- The dependence area at load (R414, R427). -/
def State.initDeps (s : State) (i : Fin 16) : State :=
  forN (s.slot i).hdr.twCount s fun s n =>
    let p := twPred (s.taskWord i n)
    s.setDep i n (mkDep p (b2n (p == 0)) (s.readyWait i (b2n (p == 0))) 0 0xFFF)

/-- The refusal of a SUBMIT that loads nothing (R419, R420, R546). -/
def State.submitRefusal (s : State) (req : Nat) (i : Fin 16) : Option Nat :=
  if fld req 0 8 ≠ 1 then some 0x23
  else if s.hg.loading.isSome then some 0x24
  else if s.phase != .ready || !s.tm.lock || s.pwr.st == .deep || !s.cutOpen then some 0x22
  else if s.grade == 0 then some 0x21
  else if (s.slot i).st != .free then some 0x20
  else none

/-- The slot a SUBMIT names. -/
def reqSlot (req : BitVec 128) : Fin 16 := ⟨fld req.toNat 8 4, Nat.mod_lt _ (by decide)⟩

/-- SUBMIT (R417): refused at once, or loading begins; the first closes the load window (R557). -/
def execSubmit (req : BitVec 128) (s : State) : Host.Outcome State Fault Refusal :=
  let i := reqSlot req
  let s := { s with loadOpen := false }
  match s.submitRefusal req.toNat i with
  | some code => .next (s.respond code i.val (fld req.toNat 16 16) none)
  | none =>
    let l : Loading := {
      slot := i, tag := BitVec.ofNat 16 (fld req.toNat 16 16), hdrAddr := fld req.toNat 64 60 }
    .next { s.setSlot i { st := .load, tag := l.tag } with hg := { s.hg with
      slots := s.hg.slots.set i { st := .load, tag := l.tag }, loading := some l } }

/-- An accepted load: the slot runs the graph (R414, R416, R419, R427). -/
def State.accept (s : State) (l : Loading) : State :=
  let s := ((s.addCounts l.slot).getD s).initDeps l.slot
  let s := s.noteAll l.slot
  let x := s.slot l.slot
  (s.setSlot l.slot { x with st := .run, lastProg := s.tm.tick }).respond 0 l.slot.val l.tag.toNat none

/-- A refused load leaves the slot as it was (R419). -/
def State.refuse (s : State) (l : Loading) (code : Nat) (ix : Option Nat) : State :=
  (s.setSlot l.slot {}).respond code l.slot.val l.tag.toNat ix

/-- The end of the loading under way, with its response (R418, R421). -/
def State.endLoad (s : State) (l : Loading) : State :=
  let s := { s with hg := { s.hg with loading := none } }
  let t := s.setSlot l.slot { st := .load, tag := l.tag, hdr := mkHdr (s.rdN l.hdrAddr 128) }
  match t.loadFail l.slot l.hdrAddr with
  | some (e, ix) => s.refuse l e.code ix
  | none => t.accept l

/-- Abandon one slot (R425, R600). -/
def State.abandon (s : State) (i : Fin 16) : State :=
  match (s.slot i).st with
  | .free | .halt => s
  | .load => match s.hg.loading with
    | some l => { s.refuse l 0x25 none with
        hg := { (s.refuse l 0x25 none).hg with loading := none } }
    | none => s
  | .run =>
    let x := s.slot i
    -- the counts of task words not yet dispatched leave at once; those in flight leave at retirement
    let s := forN x.hdr.twCount s fun s n =>
      let st := depSt (s.depWord i n)
      if st = 0 ∨ st = 1 then s.dropUse (s.taskWord i n) else s
    ((s.endWaits i).setSlot i { x with st := .halt, ending := true }).settle i
  | .saved => s.endSlot i

end Sys2Proof.Machine
end

