-- ==== Sys2Proof/Machine/ProductCheck.lean ====
section
/-! DEFINITION. Product task words: the body of R380 with its reading (R381, R382), the fusion class
(R383), the dispatch checks of R375 for GDX, GDW, FPROD and DIST (R384 to R387), the agreement of gangs
and twins (R32, R82), operand assembly (R113 to R117, R189) and the spill sums (R190). -/
namespace Sys2Proof.Machine

-- Body fields of R380.
def pDA (w : Nat) : Nat := fld w 160 16
def pDB (w : Nat) : Nat := fld w 176 16
def pDC (w : Nat) : Nat := fld w 192 16
def pSpill (w : Nat) : Nat := fld w 208 16
def pRs (w : Nat) : Nat := fld w 224 16
def pM0 (w : Nat) : Nat := fld w 240 20
def pK0 (w : Nat) : Nat := fld w 260 20
def pKlen (w : Nat) : Nat := fld w 280 20
def pN0 (w : Nat) : Nat := fld w 300 20
def pMlen (w : Nat) : Nat := fld w 320 9
def pNlen (w : Nat) : Nat := fld w 329 9
def pAkd (w : Nat) : Nat := fld w 338 3
def pAxd (w : Nat) : Nat := fld w 341 3
def pBkd (w : Nat) : Nat := fld w 344 3
def pBxd (w : Nat) : Nat := fld w 347 3
def pCmd (w : Nat) : Nat := fld w 350 3
def pCnd (w : Nat) : Nat := fld w 353 3
def pRmask (w : Nat) : Nat := fld w 356 18
def pCmask (w : Nat) : Nat := fld w 374 18
def pAf (w : Nat) : Bool := bit w 395
def pFus (w : Nat) : Nat := fld w 396 3
def pLacc (w : Nat) : Bool := bit w 399
def pOlm (w : Nat) : Nat := fld w 400 2
def pRstat (w : Nat) : Nat := fld w 402 2
def pDop (w : Nat) : Nat := fld w 404 2
def pRowblk (w : Nat) : Nat := fld w 406 16
def pOuta (w : Nat) : Nat := fld w 422 20
def pOutb (w : Nat) : Nat := fld w 442 20
def pOutc (w : Nat) : Nat := fld w 462 20

def isGdw (w : Nat) : Bool := twOpc w == 2
def isDist (w : Nat) : Bool := twOpc w == 4

/-- Dimensions of an operand; a view has two (R382). -/
def Tensor.dims (t : Tensor) : Nat := if t.isView then 2 else t.ndimRaw

/-- Extent of a dimension. -/
def State.ext (s : State) (i : Fin 16) (t : Tensor) (d : Nat) : Nat := nth (s.extents i t) d 0

/-- Coordinates with two mapped dimensions given and the others from the outer coordinate, mixed radix,
lowest dimension fastest (R382). -/
def tileCoord (d0 v0 d1 v1 : Nat) : Nat → List Nat → Nat → List Nat
  | _, [], _ => []
  | d, e :: r, o =>
    if d = d0 then v0 :: tileCoord d0 v0 d1 v1 (d + 1) r o
    else if d = d1 then v1 :: tileCoord d0 v0 d1 v1 (d + 1) r o
    else (if e = 0 then 0 else o % e) :: tileCoord d0 v0 d1 v1 (d + 1) r (if e = 0 then 0 else o / e)

/-- Product of the extents of the dimensions that are not mapped. -/
def outerCount (e : List Nat) (d0 d1 : Nat) : Nat :=
  prodN ((List.range e.length).map fun k => if k = d0 ∨ k = d1 then 1 else nth e k 1)

/-- One operand of a product as it is used: tensor, format, the dimensions of K and of its other product
dimension, outer coordinate, and the range of the latter. -/
structure Side where
  t : Tensor
  f : Fmt
  kd : Nat
  xd : Nat
  outer : Nat
  x0 : Nat
  len : Nat
  deriving DecidableEq, Repr

/-- The operand format in force of an operand; A16 reads as BF16 (R122); none for W64 or a reserved code. -/
def State.operandFmt (s : State) (i : Fin 16) (t : Tensor) : Option Fmt :=
  match s.fmtOf i t with
  | some (.op f) => some f
  | some .a16 => some .bf16
  | _ => none

/-- Descriptor of the member operand (R306, R387); none when no held buffer matches. -/
def State.memberDesc (s : State) (w : Nat) : Option Nat :=
  if twVen w && !isGdw w then
    (s.verBuf w).map fun b =>
      let r := s.verRec (twVrec w)
      if verWorkEn r b then verWork r b else verMaster r b
  else some (pDB w)

/-- Descriptors of the held buffers of a record (R387). -/
def State.heldDescs (s : State) (w : Nat) : List Nat :=
  let r := s.verRec (twVrec w)
  let of_ := fun (b : Bool) (prep : Nat) => if verHeld r b && verPrep r != prep then
    verMaster r b :: (if verWorkEn r b then [verWork r b] else []) else []
  of_ false 1 ++ of_ true 2

/-- Fusion class named by `FUS` (R383). -/
def fusClass (n : Nat) : Nat := match n with
  | 1 => 1 | 2 => 2 | 3 => 3 | 4 => 6 | _ => 0

/-- Class of a product from the formats known of its operands (R383, R375). -/
def State.prodClass (s : State) (i : Fin 16) (w : Nat) : Nat :=
  let cls := fun d : Option Nat => ((d.bind (s.tensor i)).bind (s.operandFmt i)).elim 0 Fmt.cls
  max (max (cls (some (pDA w))) (cls (s.memberDesc w))) (max 1 (fusClass (pFus w)))

/-- Step 1 of R375 for a product. -/
def State.prod1 (s : State) (i : Fin 16) (w : Nat) : Option Fail :=
  let need := fun d : Nat => failWhen (s.tensor i d).isNone (failR d)
  firstFail ([need (pDA w), (s.memberDesc w).bind need, need (pDC w)]
    ++ (if pLacc w && pSpill w != 0xFFFF then [need (pSpill w)] else [])
    ++ (if pRstat w != 0 && pRs w != 0xFFFF then [need (pRs w)] else [])
    ++ (if twVen w && !isGdw w then (s.heldDescs w).map need else []))

/-- The outlier indices of a list: its first sixteen entries (R185). -/
def State.outliers (s : State) (i : Fin 16) (l : Tensor) : List Int :=
  (List.range (min 16 (l.extRaw 0))).map fun j => s.indexAt i l j

/-- A list whose first sixteen entries break R185, or that is no index tensor (R324, R326). -/
def State.badOutliers (s : State) (i : Fin 16) (t l : Tensor) : Bool :=
  l.kind != 2 || (let o := s.outliers i l
    !o.Nodup || o.any fun k => decide (k < 0) || decide ((t.extRaw t.gdim : Int) ≤ k))

/-- FORMAT rules of one product operand (R122, R126, R149, R188, R326, R382). A list without an OV_DESC tensor is refused,
and a view names no list, whatever its source names (log 92). -/
def State.operandFormat (s : State) (i : Fin 16) (w : Nat) (t : Tensor) (kd xd mark : Nat) : Option Fail :=
  let src := if t.isView then (s.descAt i t.wsrc).getD t else t
  let marked := pOlm w == mark
  firstFail [
    failWhen (decide (2 ≤ t.kind)) (failF t.ix),
    s.steerFail i w t false,
    failWhen (s.operandFmt i t).isNone (failF t.ix),
    failWhen (kd == xd || decide (t.dims ≤ kd) || decide (t.dims ≤ xd)) (failF t.ix),
    failWhen (((s.operandFmt i t).map fun f => !f.isInt).getD false && (s.zpTensor i src).isSome) (failF t.ix),
    failWhen ((s.scaleTensor i src).isSome
      && !(if t.isView then kd == 0 else src.square || src.gdim == kd)) (failF t.ix),
    match (if t.isView then none else s.side i t t.olIx) with
    | none => none
    | some l => failWhen (!marked || s.badOutliers i t l || (s.side i t t.ovIx).isNone) (failF t.ix)]

/-- FORMAT rules of the output of a product (R168, R206, R216, R229, R266, R267). A K range of 0 reads no residual
(R361). -/
def State.outputFormat (s : State) (i : Fin 16) (w : Nat) (t : Tensor) : Option Fail :=
  let f := s.fmtOf i t
  let w64 := match f with
    | some (.w64 _) => true
    | _ => false
  firstFail [
    failWhen (decide (2 ≤ t.kind)) (failF t.ix),
    s.steerFail i w t true,
    failWhen f.isNone (failF t.ix),
    failWhen (pCmd w == pCnd w || decide (t.dims ≤ pCmd w) || decide (t.dims ≤ pCnd w)) (failF t.ix),
    if twAcc w then
      failWhen (!(w64 || f == some (.op .fp32)) || ((s.under i t).carried && (s.under i t).accf == 0)) (failF t.ix)
    else if t.isView then none
    else firstFail [
      failWhen (t.carried && t.accf == 0 && (s.side i t t.olIx).isSome) (failF t.ix),
      if pKlen w = 0 then none else s.residualFail i t (f.getD .a16)]]

/-- FORMAT rules of long accumulation and row statistics (R216, R229, R385). -/
def State.sideFormat (s : State) (i : Fin 16) (w : Nat) (c : Tensor) : Option Fail :=
  let lacc := if !pLacc w then none else
    match (if pSpill w = 0xFFFF then none else s.tensor i (pSpill w)), s.fmtOf i c with
    | some q, some (.w64 x) =>
      failWhen (q.kind != 0 || q.ownFmt != some (.w64 x) || !sameShape q.exts (s.extents i c)) (failF q.ix)
    | _, _ => failF c.ix
  let rs := if pRstat w = 0 then none
    else if pRstat w = 3 ∨ twAcc w ∨ pLacc w then failF
    else match (if pRs w = 0xFFFF then none else s.tensor i (pRs w)) with
      | some q => failWhen (q.kind != 3 || q.fmtCode != 0) (failF q.ix)
      | none => failF
  firstFail [lacc, rs]

/-- Step 2 of R375 for a product, on its own. -/
def State.prod2 (s : State) (i : Fin 16) (w : Nat) : Option Fail :=
  match s.tensor i (pDA w), s.tensor i (pDC w) with
  | some a, some c =>
    let b := (s.memberDesc w).bind (s.tensor i)
    let cls := s.prodClass i w
    let fa := s.operandFmt i a
    let fb := b.bind (s.operandFmt i)
    let shapes := (s.heldDescs w).filterMap fun d => (s.tensor i d).map (s.extents i)
    let dist := fun f : Fmt => f == .int2 || f == .int3 || f == .int4 || f == .int8
    firstFail [
      failWhen (twVen w && isGdw w) failF,
      failWhen (twVen w && shapes.any fun e => !sameShape (shapes.headD []) e) failF,
      s.operandFormat i w a (pAkd w) (pAxd w) 1,
      b.bind fun b => s.operandFormat i w b (pBkd w) (pBxd w) 2,
      s.outputFormat i w c,
      failWhen (decide (5 ≤ pFus w) || pOlm w == 3) failF,
      failWhen (pAf w && !(cls == 2 || cls == 3)) failF,
      s.sideFormat i w c,
      if !isDist w then none
      else failWhen (!((fa.map dist).getD false) || (b.isSome && fb != fa) || decide (3 ≤ cls) || pAf w
          || pOlm w != 0 || (!a.isView && a.accf != 0) || (decide (2 ≤ pDop w) && twAcc w)) failF]
  | _, _ => none

/-- Step 3 of R375 for a product, without the room of R79 (R360, R382, R384). -/
def State.prod3 (s : State) (i : Fin 16) (w : Nat) : Option Fail :=
  match s.tensor i (pDA w), s.tensor i (pDC w) with
  | some a, some c =>
    let b := (s.memberDesc w).bind (s.tensor i)
    let t := tileEdge (s.prodClass i w)
    let g := isGdw w
    let m := (pM0 w, pMlen w)
    let n := (pN0 w, pNlen w)
    let k := (pK0 w, pKlen w)
    let in_ := fun (q : Tensor) (d : Nat) (r : Nat × Nat) =>
      failWhen (decide (s.ext i q d < r.1 + r.2)) (failR q.ix)
    let out := fun (q : Tensor) (d0 d1 o : Nat) =>
      failWhen (decide (outerCount (s.extents i q) d0 d1 ≤ o)) (failR q.ix)
    firstFail [
      failWhen (decide (t < pMlen w) || decide (t < pNlen w)) failR,
      in_ a (pAkd w) k, in_ a (pAxd w) (if g then n else m),
      b.bind fun b => in_ b (pBkd w) k, b.bind fun b => in_ b (pBxd w) (if g then m else n),
      in_ c (pCmd w) m, in_ c (pCnd w) n,
      out a (pAkd w) (pAxd w) (pOuta w), b.bind fun b => out b (pBkd w) (pBxd w) (pOutb w),
      out c (pCmd w) (pCnd w) (pOutc w),
      if pRstat w = 0 then none
      else (s.tensor i (pRs w)).bind fun q =>
        failWhen (decide (prodN (s.extents i q) < pM0 w + pMlen w)) (failR q.ix)]
  | _, _ => none

/-- Steps 4 and 5 of R375 for a product (R307, R342). With an empty K range nothing is added, spilled or merged into a
carried record (R361). -/
def State.prod45 (s : State) (i : Fin 16) (w : Nat) : Option Fail :=
  match s.tensor i (pDC w) with
  | some c =>
    let merge := fun q : Option Tensor => q.bind fun q => s.useFail i q false
    firstFail [
      if twAcc w && pKlen w == 0 then none else s.useFail i c (!twAcc w),
      if twAcc w ∨ c.isView ∨ pKlen w = 0 then none else s.residualUse i c ((s.fmtOf i c).getD .a16),
      if pLacc w && pKlen w != 0 then merge (s.tensor i (pSpill w)) else none,
      if pRstat w != 0 then merge (s.tensor i (pRs w)) else none,
      if c.carried && !c.isView && c.accf == 0 && pKlen w != 0 then merge (s.scaleTensor i c) else none,
      failWhen (s.memberDesc w).isNone
        (some { err := .version, w0 := some (twVrec w), w1 := twVtag w })]
  | none => none

/-- Bits per element in fifths, pad bits included (R34). -/
def Fmt.bits5 : Fmt → Nat
  | .int2 => 10 | .int3 => 16 | .int4 | .e2m1 => 20 | .e2m3 | .e3m2 => 32
  | .int8 | .e4m3 | .e5m2 => 40 | .bf16 | .fp16 => 80 | .fp32 => 160

/-- What members of a gang must agree on (R32, R384): everything but the shared operand's free range. -/
def State.agreeKey (s : State) (i : Fin 16) (w : Nat) : List Nat :=
  [twOpc w, twLayer w, pDA w, pAkd w, pAxd w, pK0 w, pKlen w, pOuta w, s.prodClass i w]
def sharedRange (w : Nat) : Nat × Nat := if isGdw w then (pN0 w, pNlen w) else (pM0 w, pMlen w)
def memberKey (w : Nat) (d : Option Nat) : Option Nat × List Nat :=
  (d, [pBkd w, pBxd w, pOutb w] ++ (if isGdw w then [pM0 w, pMlen w] else [pN0 w, pNlen w]))

/-- Whether a gang and its twin agree (R32, R82, R385). -/
def State.gangAgrees (s : State) (i : Fin 16) (g : Span) : Bool :=
  let ws := (List.range g.members).map fun k => s.taskWord i (g.first + k)
  let tw := (List.range g.twins).map fun k => s.taskWord i (g.first + g.members + k)
  let key := fun w => (s.agreeKey i w, sharedRange w)
  let same := fun l : List Nat => l.all fun w => key w == key (l.headD 0)
  same ws && same tw && (g.twins == 0 || (g.twins == g.members
    && (ws ++ tw).all (fun w => pAf w && isProduct (twOpc w) && s.agreeKey i w == s.agreeKey i (ws.headD 0))
    && (List.range g.members).all fun k =>
        let a := nth ws k 0
        let b := nth tw k 0
        memberKey a (s.memberDesc a) == memberKey b (s.memberDesc b)))

-- Operand assembly.

/-- The nibble form of an element (R113, R116): the value of a code under its group's scale code and zero
point. -/
def nibble (f : Fmt) (code sc z : Nat) : Elem × Conv :=
  if f.isInt then
    let d : Int := (code % 2 ^ f.bits : Nat) - (z : Int)
    (⟨decide (d < 0), d.natAbs, 0, sc⟩, .none)
  else
    let (ew, w, _) := f.lay
    let split := fun c : Nat =>
      let e := fld c w ew
      let m := fld c 0 w
      (⟨bit c (ew + w), if e = 0 then m else 2 ^ w + m, max e 1, sc⟩ : Elem)
    match f.decode code with
    | .nan _ => (⟨false, 0, 0, sc⟩, .nan)
    | .inf n => (split (f.signed n f.maxCode), .sat)
    | .num .. => (split code, .none)

/-- Coordinates of operand element (x, k). -/
def State.sideCoord (s : State) (i : Fin 16) (d : Side) (x k : Nat) : List Nat :=
  tileCoord d.kd k d.xd (d.x0 + x) 0 (s.extents i d.t) d.outer

/-- One element of an operand in the nibble form. -/
def State.sideElem (s : State) (i : Fin 16) (d : Side) (x k : Nat) : Elem × Conv :=
  match s.resolve i d.t (s.sideCoord i d x k) with
  | none => (.zero, .none)
  | some (t, c) =>
    let f : EFmt := if t.accf = 1 then .a16 else .op d.f
    let (sc, z) := s.scaleAt i t (groupCoord t c)
    nibble d.f (s.readPlace (s.place i t f c)) (if t.accf = 1 then 0x3F80 else sc) z

/-- The groups an operand's range touches, each once. -/
def State.sideGroups (s : State) (i : Fin 16) (d : Side) (k0 klen : Nat) : List (Tensor × List Nat) :=
  if !d.t.isView && d.t.accf == 1 then []
  else forN d.len [] fun gs x => forN klen gs fun gs k =>
    match s.resolve i d.t (s.sideCoord i d x (k0 + k)) with
    | none => gs
    | some (t, c) => insertNew (t, groupCoord t c) gs

/-- Whether a group's zero point lies outside the format (R117). Only the operands of products and of DIST are checked
(log 88). -/
def State.badZp (s : State) (i : Fin 16) (f : Fmt) (g : Tensor × List Nat) : Bool :=
  f.isInt && decide (2 ^ f.bits ≤ (s.scaleAt i g.1 g.2).2)

/-- The outlier list entries in the K range as (K index, slot), in ascending K order (R185, R188). They are indices along
K also where no scale tensor ties GDIM to it (log 93). -/
def State.outliersIn (s : State) (i : Fin 16) (t : Tensor) (k0 klen : Nat) : List (Nat × Nat) :=
  match (if t.isView then none else s.side i t t.olIx) with
  | none => []
  | some l =>
    let o := s.outliers i l
    ((List.range o.length).filterMap fun j =>
      let k := (nth o j 0).toNat
      if k0 ≤ k ∧ k < k0 + klen then some (k, j) else none).foldr insertBy []

/-- An operand assembled over K, with the marked outlier indices written as zero (R189), and its counts; `scales` says
whether its scales are read (R91). A NaN or infinite element that a window view presents at several places counts at each:
R116 does not say whether it counts once (DESIGN CHOICE, log 135). -/
def State.assemble (s : State) (i : Fin 16) (d : Side) (k0 klen : Nat) (zeroed : List Nat) (scales : Bool) :
    List (List Elem) × Counts :=
  let rows := (List.range d.len).map fun x => (List.range klen).map fun k =>
    let (e, c) := s.sideElem i d x (k0 + k)
    if k0 + k ∈ zeroed then ({ e with g := 0 }, Conv.none) else (e, c)
  let groups := if scales then s.sideGroups i d k0 klen else []
  let cs := rows.foldl (fun a r => r.foldl (fun a x => a.add1 x.2) a) ({} : Counts)
  let cs := groups.foldl (fun a g => a.add1 (readScale (s.scaleAt i g.1 g.2).1).2) cs
  (rows.map fun r => r.map (·.1), cs)

/-- Whether a group of the operand ends at K coordinate `k` (R150); square groups end at every index of a dimension that
they do not cover (R145). -/
def State.groupEnds (s : State) (i : Fin 16) (d : Side) (k : Nat) : Bool :=
  if d.t.isView then
    match s.descAt i d.t.wsrc with
    | some src =>
      let c := src.extRaw 0
      (s.scaleTensor i src).isSome && c != 0
        && ((k % c + 1) % src.gsize == 0 || k % c + 1 == c)
    | none => false
  else (s.scaleTensor i d.t).isSome
    && ((d.t.square && decide (2 ≤ d.kd)) || (k + 1) % d.t.gsize == 0 || k + 1 == s.ext i d.t d.kd)

/-- Whether the operand ends groups at all (R150). -/
def State.endsGroups (s : State) (i : Fin 16) (d : Side) : Bool :=
  let src := if d.t.isView then (s.descAt i d.t.wsrc).getD d.t else d.t
  (s.scaleTensor i src).isSome

/-- The run ends over K (R150); direct pairs end a run at every index (R198), or, in dot-product mode, at
each tree segment of 32 fused rows (R98, R205). A group that ends inside a segment, where the K range starts within a
group, ends the run there, and the tree pairs afresh behind it (log 9). -/
def State.runEnds (s : State) (i : Fin 16) (a b : Side) (k0 klen t : Nat) (direct dot : Bool) : List Bool :=
  let none_ := !s.endsGroups i a && !s.endsGroups i b
  (List.range klen).map fun k =>
    let group := s.groupEnds i a (k0 + k) || s.groupEnds i b (k0 + k) || (none_ && (k + 1) % 128 == 0)
    let seg := k % t % 32 == 31 || k % t == t - 1
    k + 1 == klen || group || (direct && (!dot || seg))

/-- Exact value of a nibble-form element under its scale (R154). -/
def Elem.val (f : Fmt) (x : Elem) : Dy :=
  let (_, w, bias) := f.lay
  (⟨x.d, (x.e : Int) - bias - w⟩ : Dy).mul x.scale

/-- The outlier value of operand element (x, slot j) (R187, R190): BF16, special values as R116 has them. -/
def State.outlierVal (s : State) (i : Fin 16) (d : Side) (x k j : Nat) : Dy × Conv :=
  match s.side i d.t d.t.ovIx with
  | none => (Dy.zero, .none)
  | some q => readScale (s.readPlace (s.place i q (.op .bf16) ((s.sideCoord i d x k).set d.t.gdim j)))

/-- Spill sums of a member (R190), output row by output row: `mk` is the marked operand, `pt` its partner
as assembled; `byRow` says that the marked operand runs along the output rows. The sums count no saturation (log 90). -/
def State.spillSums (s : State) (i : Fin 16) (mk : Side) (pf : Fmt) (pt : List (List Elem)) (k0 : Nat)
    (os : List (Nat × Nat)) (byRow : Bool) : List (List Nat) × Counts :=
  let vals := (List.range mk.len).map fun x => os.map fun o => s.outlierVal i mk x o.1 o.2
  let cs := vals.foldl (fun a r => r.foldl (fun a v => a.add1 v.2) a) ({} : Counts)
  let one := fun (x : Nat) (p : List Elem) =>
    (forN os.length (0, true) fun a q =>
      let o := nth os q (0, 0)
      let pr := ((nth (nth vals x []) q (Dy.zero, .none)).1).mul ((nth p (o.1 - k0) .zero).val pf)
      (if a.2 then (toFp32 pr.val).1 else (accAdd .fp32 a.1 pr).1, false)).1
  let xs := List.range mk.len
  (if byRow then xs.map fun x => pt.map fun p => one x p
   else pt.map fun p => xs.map fun x => one x p, cs)

end Sys2Proof.Machine
end

