-- ==== Sys2Proof/Machine/Product.lean ====
section
/-! DEFINITION. GDX, GDW, FPROD and DIST as gangs: residency (R36, R77, R79, R431), placement on arrays
(R11, R38, R83), dispatch with failing and skipped members (R39, R49), parity failures (R96, R103), the
start of the stream (R33, R62 to R66, R567) and the drain (R29 to R31, R43 to R50, R218, R219, R229). -/
namespace Sys2Proof.Machine

/-- An array the headgate may dispatch to: present, not marked unusable, enabled (R11, R103, R604). -/
def State.arrayOk (s : State) (a : Nat) : Bool :=
  s.present.getLsbD a && !(s.arr a).unuse && s.hg.aen.getLsbD a

/-- Such arrays of a core, in order. -/
def State.coreArrays (s : State) (c : Nat) : List Nat :=
  (List.range 4).filterMap fun k => if s.arrayOk (4 * c + k) then some (4 * c + k) else none

/-- The failure of a member under steps 1 to 5 of R375, given whether its gang agrees (R32, R82). A member that is no
product has another opcode than the first, and its body is not one of R380. -/
def State.memberFail (s : State) (i : Fin 16) (agrees : Bool) (n : Nat) : Option Fail :=
  let w := s.taskWord i n
  if !isProduct (twOpc w) then failF else firstFail [s.prod1 i w, s.prod2 i w, failWhen (!agrees) failF, s.prod3 i w]

/-- The two sides of a product: shared operand and member operand (R381). -/
def State.sides (s : State) (i : Fin 16) (w : Nat) : Option (Side × Side) :=
  match s.tensor i (pDA w), (s.memberDesc w).bind (s.tensor i) with
  | some a, some b => match s.operandFmt i a, s.operandFmt i b with
    | some fa, some fb =>
      let m := (pM0 w, pMlen w)
      let n := (pN0 w, pNlen w)
      let (ra, rb) := if isGdw w then (n, m) else (m, n)
      some (⟨a, fa, pAkd w, pAxd w, pOuta w, ra.1, ra.2⟩, ⟨b, fb, pBkd w, pBxd w, pOutb w, rb.1, rb.2⟩)
    | _, _ => none
  | _, _ => none

/-- Coordinates of output element (m, n) of a tile. -/
def State.outCoord (s : State) (i : Fin 16) (w : Nat) (c : Tensor) (m n : Nat) : List Nat :=
  tileCoord (pCmd w) (pM0 w + m) (pCnd w) (pN0 w + n) 0 (s.extents i c) (pOutc w)

/-- A whole tile within the marked row blocks of a GDW with at least one element is skipped (R48, R49). -/
def markedRow (w r : Nat) : Bool := isGdw w && decide (r < 4608) && bit (pRowblk w) (r / 288)
def skipped (w : Nat) : Bool :=
  isGdw w && pMlen w != 0 && pNlen w != 0
    && (List.range (pMlen w)).all fun m => markedRow w (pM0 w + m)

/-- Element (m, n) of a tile that is written: both masks set, and no marked row (R43 to R45, R50). -/
def written (w m n : Nat) : Bool :=
  bit (pRmask w) (m / 16) && bit (pCmask w) (n / 16) && !markedRow w (pM0 w + m)

/-- The elements of a tile that are written. -/
def writtenOf (w : Nat) : List (Nat × Nat) :=
  (List.range (pMlen w)).flatMap fun m => (List.range (pNlen w)).filterMap fun n =>
    if written w m n then some (m, n) else none

/-- Source elements that an operand's range touches, each once (R357). -/
def State.sideElems (s : State) (i : Fin 16) (d : Side) (k0 klen : Nat) : List (Tensor × List Nat) :=
  forN d.len [] fun es x => forN klen es fun es k =>
    match s.resolve i d.t (s.sideCoord i d x (k0 + k)) with
    | none => es
    | some e => insertNew e es

/-- The outlier indices a product uses of one of its operands (R188). -/
def State.usedOutliers (s : State) (i : Fin 16) (w : Nat) (d : Side) (mark : Nat) : List (Nat × Nat) :=
  if pOlm w = mark then s.outliersIn i d.t (pK0 w) (pKlen w) else []

/-- Room of an operand in fifths of a bit (R34, R77): its data, of a view each source element once (R357), and, in whole
bytes, 2 for each scale, 1 for each zero point, 1 for the tag of each piece, 4 for each outlier index and 2 for each
outlier value (log 74). -/
def State.sideRoom (s : State) (i : Fin 16) (w : Nat) (d : Side) (mark : Nat) : Nat :=
  let groups := (s.sideGroups i d (pK0 w) (pKlen w)).length
  let src := s.under i d.t
  let data := if d.t.isView then (s.sideElems i d (pK0 w) (pKlen w)).length else d.len * pKlen w
  let own := if (s.scaleTensor i src).isSome then 3 * groups else d.len * cdiv (pKlen w) 128
  let zp := if (s.zpTensor i src).isSome || (src.carried && !d.t.isView) then groups else 0
  let h := (s.usedOutliers i w d mark).length
  d.f.bits5 * data + 40 * (own + zp + h * (4 + 2 * d.len))

/-- The residual tensor that a product's drain reads and writes (R266, R267); none over an empty K range (R361). -/
def State.drainResidual (s : State) (i : Fin 16) (w : Nat) : Option Tensor :=
  match s.tensor i (pDC w) with
  | some c => if twAcc w || c.isView || pKlen w == 0 then none else (s.sink i 0 c ((s.fmtOf i c).getD .a16)).res
  | none => none

/-- Bytes of a gang's operands: a shared operand for each twin, each member operand once, and the residuals of each
output (R35, R77, R271). `ok` are the nodes that run. -/
def State.gangBytes (s : State) (i : Fin 16) (g : Span) (ok : List Nat) : Nat :=
  let room := fun (shared : Bool) (n : Nat) =>
    let w := s.taskWord i n
    match s.sides i w with
    | some (a, b) => if shared then s.sideRoom i w a 1 else s.sideRoom i w b 2
    | none => 0
  let one := fun (shared : Bool) (l : List Nat) => (l.head?.map (room shared)).getD 0
  let twin := fun t : Bool => ok.filter fun n => decide (g.first + g.members ≤ n) == t
  let mem := (List.range g.members).map fun k => one false (ok.filter fun n => (n - g.first) % g.members == k)
  let res := ok.map fun n =>
    let w := s.taskWord i n
    if (s.drainResidual i w).isSome then 80 * (writtenOf w).length else 0
  cdiv (one true (twin false) + one true (twin true) + sumN mem + sumN res) 40

/-- Bytes of the output room of a task word (R78, R220). -/
def outRoom (w : Nat) : Nat := pMlen w * pNlen w * (if pAf w then 2 else 4) * (if pLacc w then 2 else 1)

/-- 44 MiB of a core's operand store are free for gangs (R79). -/
def storeRoom : Nat := 44 * 2 ^ 20

/-- The outcome of the checks of every member: node and failure (R375; the room of R79 at step 3). -/
def State.gangChecks (s : State) (i : Fin 16) (g : Span) : List (Nat × Option Fail) :=
  let agrees := s.gangAgrees i g
  let a := g.nodes.map fun n => (n, s.memberFail i agrees n)
  let live := (a.filter fun x => x.2.isNone && !skipped (s.taskWord i x.1)).map (·.1)
  let full := decide (storeRoom < s.gangBytes i g live + sumN (live.map fun n => outRoom (s.taskWord i n)))
  a.map fun x => (x.1, match x.2 with
    | some e => some e
    | none => if full && live.contains x.1 then failR else s.prod45 i (s.taskWord i x.1))

/-- The nodes of a gang that run: neither failed nor skipped. -/
def State.gangLive (s : State) (i : Fin 16) (checks : List (Nat × Option Fail)) : List Nat :=
  checks.filterMap fun x => if x.2.isNone && !skipped (s.taskWord i x.1) then some x.1 else none

/-- Tensors a product names, for R251. -/
def State.prodNames (s : State) (i : Fin 16) (w : Nat) : List Tensor :=
  [some (pDA w), s.memberDesc w, some (pDC w)].filterMap fun d => d.bind (s.tensor i)

/-- Units of the outlier lists that a product's operands name: its checks read them (R185). -/
def State.listUnits (s : State) (i : Fin 16) (w : Nat) : List Nat :=
  ([some (pDA w), s.memberDesc w].filterMap fun d => d.bind (s.tensor i)).foldl (fun us t =>
    match (if t.isView then none else s.side i t t.olIx) with
    | some l => if l.kind != 2 then us else
      unite us ((List.range (min 16 (l.extRaw 0))).map fun j => (s.place i l (.op .fp32) [j]).addr / 64 * 64)
    | none => us) []

/-- Units of one operand: its range with scales and zero points, and its outlier values (R77, R346, R347). -/
def State.sideFetch (s : State) (i : Fin 16) (w : Nat) (us : List Nat) (d : Side) (mark : Nat) : List Nat :=
  let us := forN d.len us fun us x => forN (pKlen w) us fun us k =>
    unite us (s.readUnits i d.t (s.sideCoord i d x (pK0 w + k)))
  match s.side i d.t d.t.ovIx with
  | none => us
  | some q => (s.usedOutliers i w d mark).foldl (fun us o => forN d.len us fun us x =>
      unite us [(s.place i q (.op .bf16) ((s.sideCoord i d x o.1).set d.t.gdim o.2)).addr / 64 * 64]) us

/-- Units that come into the operand store for a product (R77, R271): operands, outliers and residuals. -/
def State.fetchUnits (s : State) (i : Fin 16) (w : Nat) : List Nat :=
  match s.sides i w, s.tensor i (pDC w) with
  | some (a, b), some c =>
    let us := s.sideFetch i w (s.sideFetch i w (s.listUnits i w) a 1) b 2
    match s.drainResidual i w with
    | none => us
    | some r => (writtenOf w).foldl (fun us x =>
        unite us [(s.place i r (.op .bf16) (s.outCoord i w c x.1 x.2)).addr / 64 * 64]) us
  | _, _ => []

/-- A segment of long accumulation ends before the last step in any mode of an array: an element takes more than 4,096
additions, the run ends of dot-product mode, which has the fewest, and the join of its spill sum (R205, R217, R219). -/
def State.segments (s : State) (i : Fin 16) (w : Nat) : Bool :=
  match s.sides i w with
  | some (a, b) =>
    let wide := fun f : Fmt => f == .bf16 || f == .fp16 || f == .fp32
    let ends := s.runEnds i a b (pK0 w) (pKlen w) (tileEdge (s.prodClass i w)) (!isDist w && (wide a.f || wide b.f)) true
    let join := b2n (s.usedOutliers i w a 1 ++ s.usedOutliers i w b 2 != [])
    decide (4096 < (ends.filter (·)).length + join)
  | none => false

/-- Units of the spill tensor that hold the sums of a task word's written elements. -/
def State.spillPlaces (s : State) (i : Fin 16) (w : Nat) : List Nat :=
  match s.tensor i (pSpill w) with
  | some q => (writtenOf w).foldl (fun us x => unite us (s.dataUnits i q (s.packed i q) (s.outCoord i w q x.1 x.2))) []
  | none => []

/-- Units that a product's drain reads besides: side values of its output, and spilled sums where a segment ends before
the last step whatever the mode of the array (R219). -/
def State.drainUnits (s : State) (i : Fin 16) (w : Nat) : List Nat :=
  match s.tensor i (pDC w) with
  | none => []
  | some c =>
    let side := (s.packed i c).isInt || c.carried
    let us := (writtenOf w).foldl (fun us x =>
      let e := s.outCoord i w c x.1 x.2
      unite us (if pKlen w != 0 then s.writeUnits i c e else if side && !c.isView then s.sideUnits i c e else [])) []
    if pLacc w && s.segments i w then unite us (s.spillPlaces i w) else us

/-- Units of other nodes that a product waits for before it is resident. -/
def State.prodUnits (s : State) (i : Fin 16) (w : Nat) : List Nat :=
  s.away (unite (s.fetchUnits i w) (s.drainUnits i w))

/-- The outlier products of a gang: the most outlier indices of a member, which stand for the h of the rule where members
differ (log 91), and the tile elements of all (R191). -/
def State.spillwayWork (s : State) (i : Fin 16) (live : List Nat) : Nat × Nat :=
  live.foldl (fun a n =>
    let w := s.taskWord i n
    let h := match s.sides i w with
      | some (p, q) => (s.usedOutliers i w p 1).length + (s.usedOutliers i w q 2).length
      | none => 0
    (max a.1 h, a.2 + pMlen w * pNlen w)) (0, 0)

/-- The promotion at which the spill sum joins: that of the run which holds the lowest outlier index (R192). -/
def joinRun (ends : List Bool) (k0 : Nat) (os : List (Nat × Nat)) : Option Nat :=
  os.head?.map fun o =>
    ((List.range ends.length).find? fun k => o.1 - k0 ≤ k && ends.getD k false).getD (ends.length - 1)

/-- A member assembled at dispatch, on an array as member of a part; the failure is R117's, with whether it is the
shared operand's. A NaN or infinity of the shared operand counts in each member that it serves (log 89). -/
def State.mkJob (s : State) (i : Fin 16) (n member array part : Nat) (twin : Bool) :
    Except (Fail × Bool) (Job × Counts) :=
  let w := s.taskWord i n
  match s.sides i w, s.tensor i (pDC w) with
  | some (a, b), some c =>
    let k0 := pK0 w
    let kl := pKlen w
    let g := isGdw w
    if (s.sideGroups i a k0 kl).any (s.badZp i a.f) then .error ({ err := .format, desc := a.t.ix }, true)
    else if (s.sideGroups i b k0 kl).any (s.badZp i b.f) then .error ({ err := .format, desc := b.t.ix }, false)
    else
      let cls := s.prodClass i w
      let t := tileEdge cls
      let wide := fun f : Fmt => f == .bf16 || f == .fp16 || f == .fp32
      let direct := !isDist w && (wide a.f || wide b.f)
      let dot := (s.arr array).dot
      let os := s.usedOutliers i w a 1 ++ s.usedOutliers i w b 2
      let z := os.map (·.1)
      let (ea, ca) := s.assemble i a k0 kl (if pOlm w = 1 then z else []) true
      let (eb, cb) := s.assemble i b k0 kl (if pOlm w = 2 then z else []) (!isDist w)
      let (sp, cs) : List (List Nat) × Counts :=
        if os = [] then ([], {})
        else if pOlm w = 1 then s.spillSums i a b.f eb k0 os (!g)
        else s.spillSums i b a.f ea k0 os g
      let ends := s.runEnds i a b k0 kl t direct dot
      let (_, wa, ba) := a.f.lay
      let (_, wb, bb) := b.f.lay
      let job : Job := {
        node := n, word := w, cls := cls, outer := g, direct := direct
        fBits := 20 - (a.f.gBits + b.f.gBits)
        uBase := -((ba + wa + bb + wb : Nat) : Int)
        dist := if isDist w then some (pDop w) else none
        a16 := pAf w
        rows := if g then eb else ea
        cols := if g then ea else eb
        ends := ends, spill := sp, joinAt := joinRun ends k0 os, dot := dot
        out := (s.fmtOf i c).getD (.op .fp32)
        array := array, twin := twin, member := member, part := part
        bits5 := b.f.bits5 * b.len
        shared5 := a.f.bits5 * (if g then a.len else min kl t) }
      .ok (job, (ca.plus cb).plus cs)
  | _, _ => .error ({ err := .range }, false)

/-- The counts of R139 as additions to core counters 10 to 12. -/
def Counts.adds (c : Counts) : List (Nat × Nat) := [(10, c.nan), (11, c.sat), (12, c.uflow)]

/-- Place of a node among the members; twins share one. -/
def Span.place (g : Span) (m : Nat) : Nat := (m - g.first) % g.members
/-- Whether a node belongs to the second twin. -/
def Span.isTwin (g : Span) (m : Nat) : Bool := decide (g.first + g.members ≤ m)

/-- The checks of a gang's members with a skew met at operand assembly (R181): of a shared stream it fails the gang or
twin that it serves, of a member's own stream that member and, since twins share it, its twin (R39, R83). A member that
takes no operands (`runs`) meets none (R49). -/
def withSkew (g : Span) (checks : List (Nat × Option Fail)) (skew : Option (TagSkew × Fail))
    (runs : Nat → Bool := fun _ => true) : List (Nat × Option Fail) :=
  checks.map fun x => (x.1, match x.2, skew with
    | some e, _ => some e
    | none, some (k, e) =>
      if runs x.1 && (k.member.map fun j => j == g.place x.1).getD (k.twin == g.isTwin x.1) then some e else none
    | none, none => none)

/-- The skew that residency met, with its failure. -/
def State.skewIn (s : State) (i : Fin 16) (r : Resident) : Option (TagSkew × Fail) :=
  r.skew.bind fun k => (s.skewFail i (s.taskWord i (r.node + k.member.getD 0)) k).map fun e => (k, e)

/-- A member as dispatch leaves it: its failure, or that it is skipped (none), or its job and its counts. -/
abbrev Built := Nat × Except Fail (Option (Job × Counts))

/-- Part and array of the member at a place: members in order on the lowest-numbered usable arrays of the core; the rule
leaves the choice open (R37, R38; log 75). -/
def spotOf (arrays : List Nat) (place : Nat) : Nat × Nat :=
  (place / arrays.length, nth arrays (place % arrays.length) 0)

/-- Assemble every member that passed its checks and is not skipped; a bad zero point of a shared operand fails all the
members that it serves (R39, R49, R117). -/
def State.buildGang (s : State) (i : Fin 16) (g : Span) (arrays : List Nat)
    (checks : List (Nat × Option Fail)) : List Built :=
  let built : List (Nat × Except (Fail × Bool) (Option (Job × Counts))) := checks.map fun x => (x.1, match x.2 with
    | some e => .error (e, false)
    | none =>
      if skipped (s.taskWord i x.1) then .ok none
      else
        let (part, array) := spotOf arrays (g.place x.1)
        (s.mkJob i x.1 (g.place x.1) array part (g.isTwin x.1)).map some)
  let shared := fun t : Bool => built.findSome? fun x => match x.2 with
    | .error (e, true) => if g.isTwin x.1 == t then some e else none
    | _ => none
  built.map fun x => (x.1, match x.2, shared (g.isTwin x.1) with
    | .error (e, _), _ => .error e
    | .ok none, _ => .ok none
    | .ok (some _), some e => .error e
    | .ok (some j), none => .ok (some j))

/-- Members that fail or are skipped retire in the clk of their dispatch (R49, R373). -/
def State.retireIdle (s : State) (i : Fin 16) (f : Flight) (built : List Built) : State :=
  built.foldl (fun s x => match x.2 with
    | .error e => (s.raiseFail i x.1 (s.taskWord i x.1) f.core.val e).retireOne i f (failResult x.1 e)
    | .ok none => s.retireOne i f { node := x.1, status := 2 }
    | .ok (some _) => s) s

/-- The members that run. -/
def running (built : List Built) : List (Job × Counts) :=
  built.filterMap fun x => match x.2 with
    | .ok j => j
    | .error _ => none

/-- The flight of a gang's running members, each plane as its stream finds it (R75). -/
def Flight.launch (f : Flight) (run : List (Job × Counts)) : Flight :=
  { f with
    results := run.map fun x => { node := x.1.node, counts := x.2.adds }
    jobs := run.map (·.1)
    planes := run.map fun x => x.1.start }

/-- The room of a gang's operands is given back as far as members lost them to a skew (R181): `ok` are the others. -/
def State.shed (s : State) (i : Fin 16) (n : Nat) (g : Span) (ok : List Nat) : State :=
  let bytes := s.gangBytes i g ok
  { s with hg := { s.hg with resident := s.hg.resident.map fun r =>
    if r.slot == i && r.node == n then { r with bytes := bytes } else r } }

/-- Members that fail with a skew. -/
def skewed (checks : List (Nat × Option Fail)) : List Nat :=
  checks.filterMap fun x => if (x.2.map fun e => e.err == .tagskew).getD false then some x.1 else none

/-- Dispatch of a gang whose operands are resident, or none of whose members runs: its members fail, are skipped, or
enter the flight (R36, R39, R49, R373). -/
def State.gangGo (s : State) (i : Fin 16) (n opc : Nat) (core : Fin 8) (g : Span) (arrays : List Nat)
    (checks : List (Nat × Option Fail)) (skew : Option (TagSkew × Fail)) : State :=
  let checks := withSkew g checks skew fun m => !skipped (s.taskWord i m)
  let built := s.buildGang i g arrays checks
  let f : Flight := {
    slot := i, node := n, opc := opc, core := core, onCore := true, word := s.taskWord i n
    dstamp := s.tm.tick, stepNo := s.hg.stepNo
    fixed := (g.nodes.filterMap fun m => s.tensor i (pDC (s.taskWord i m))).flatMap (s.carriedCells i n) }
  let body := put 0 2 (g.members - 1) + put 2 1 (b2n (g.twins != 0))
    + put 16 8 (s.prodClass i (s.taskWord i n)) + put 24 8 core.val
  let live := s.gangLive i checks
  let s := s.enter f g.nodes body
  let skews := skewed checks
  let s := if skews = [] then s else s.shed i n g live
  let s := (((s.bump core.val 16 skews.length).bump core.val 3 1).endReady i n).retireIdle i f built
  let run := running built
  if run = [] then s.retire f else s.setFlight (f.launch run)

/-- The members of a gang with their planes. -/
def Flight.planed (f : Flight) : List (Job × Plane) := f.jobs.zipIdx.map fun x => (x.1, nth f.planes x.2 {})

/-- The result of a member so far. -/
def Flight.resultOf (f : Flight) (j : Job) : Result := (f.results.find? fun r => r.node == j.node).getD { node := j.node }

-- The drain.

/-- The drained value of an accumulator; a member that accumulated FP32 for an A16 tile converts (R101). -/
def Job.drained (j : Job) (acc : Nat) : Val × Conv :=
  if j.a16 && j.dot then
    let (c, cv) := Fmt.bf16.encode (ofFp32 acc)
    (Fmt.bf16.decode c, cv)
  else (j.accFmt.decode acc, .none)

/-- Spill of one finished segment, number `q` of the instruction, from tile row `row` on: the first overwrites, later
ones add (R218). A row that is empty was spilled before. -/
def State.spillTile (s : State) (i : Fin 16) (j : Job) (q row : Nat) (tile : List (List Nat)) (y : Tally) :
    State × Tally :=
  match s.tensor i (pSpill j.word) with
  | none => (s, y)
  | some t => forN tile.length (s, y) fun a m => forN j.cols.length a fun a n =>
    if (nth tile m []).isEmpty || !written j.word (row + m) n then a
    else
      let (s, y) := a
      let c := s.outCoord i j.word t (row + m) n
      let (v, cv) := j.drained (nth (nth tile m []) n 0)
      let y := { y with counts := y.counts.add1 cv }
      if q = 0 then
        let (code, cv) := j.out.encode v
        (s.writePlace i j.node (s.place i t j.out c) code, { y with counts := y.counts.add1 cv })
      else
        let (s, cs) := s.accumulate i j.node t j.out c v
        (s, { y with counts := y.counts.plus cs })

/-- Spill the finished segments of a plane, in order. -/
def State.spillAll (s : State) (i : Fin 16) (j : Job) (p : Plane) (y : Tally) : State × Tally :=
  let first := p.seg - p.spills.length
  forN p.spills.length (s, y) fun a q => a.1.spillTile i j (first + q) p.drained (nth p.spills q []) a.2

/-- One element of the drain (R30, R136, R219, R361). -/
def State.drainElem (s : State) (i : Fin 16) (step : Nat) (j : Job) (p : Plane) (k : Sink) (y : Tally)
    (m n : Nat) : State × Tally :=
  let w := j.word
  let c := s.outCoord i w k.t m n
  let (v, cv) := j.drained (nth (nth p.cells (m - p.drained) []) n {}).acc
  let y := { y with counts := y.counts.add1 cv }
  if j.klen = 0 then
    if twAcc w then (s, y)
    else
      let z := match j.out, (s.targetScale k c step).1 with
        | .op g, some (_, z) => if g.isInt then z else 0
        | _, _ => 0
      (s.writePlace i j.node (s.place i k.t j.out c) z, { y with last := .zero })
  else if j.lacc && p.seg != 0 then
    match s.tensor i (pSpill w), j.out with
    | some q, .w64 x =>
      let (code, cv) := encW64 x v
      let (tot, cs) := basinW64 (s.readPlace (s.place i q j.out c)) code
      let y := { y with counts := (y.counts.add1 cv).plus cs }
      if twAcc w then
        let (s, cs) := s.accumulate i j.node k.t j.out c (j.out.decode tot)
        (s, { y with counts := y.counts.plus cs })
      else (s.writePlace i j.node (s.place i k.t j.out c) tot, y)
    | _, _ => (s, y)
  else if twAcc w then
    let (s, cs) := s.accumulate i j.node k.t j.out c v
    (s, { y with counts := y.counts.plus cs })
  else s.convGroup k y c v step

/-- Row statistics of one tile row over the values as written (R230). -/
def rowStat (exps : Bool) (vals : List Val) : RowStat :=
  let cs := vals.map fun v => (toFp32 v).1
  let m := cs.foldl maxFp fp32MinCode
  let sum := cs.foldl (fun (a : Option Nat) c =>
    let t := if exps then expFp32 ((ofFp32 c).dy.sub (ofFp32 m).dy) else c
    some (match a with
      | none => t
      | some x => fpAdd x t)) none
  ⟨m, sum.getD 0⟩

/-- Merge a tile row's statistics into the stored record, in the basin of the stack that holds it (R231). -/
def State.mergeRowRec (s : State) (i : Fin 16) (j : Job) (m : Nat) (vals : List Val) : State :=
  match s.tensor i (pRs j.word) with
  | none => s
  | some q =>
    if vals = [] then s
    else
      let exps := pRstat j.word == 2
      s.mergeAt i j.node (s.recPlace i q (unlinear q.exts (pM0 j.word + m))) 8 (rowStat exps vals).code (.rows exps)
        fun old => (mergeRow exps (RowStat.ofCode old) (rowStat exps vals)).code

/-- 64-byte units that a number of a tile's rows take on their way out of the operand store (R571). -/
def Job.drainUnits (j : Job) (rows : Nat) : Nat := cdiv (rows * j.cols.length * (if j.a16 then 2 else 4)) 64
def Job.spillUnits (j : Job) (p : Plane) : Nat :=
  sumN (p.spills.map fun t => j.drainUnits (t.filter fun r => !r.isEmpty).length)

/-- LAPSE, once for an instruction without long accumulation, when an element takes its 4,097th addition (R221). -/
def State.lapse (s : State) (f : Flight) (j : Job) (p : Plane) (r : Result) : State × Plane × Result :=
  let adds := p.total + (if p.ahead.isEmpty then 0 else j.blockAdds p.next)
  if !p.lapsed && !j.lacc && decide (4096 < adds) && !j.rows.isEmpty && !j.cols.isEmpty then
    ((s.raise .lapse (whoOf f.slot j.node j.word f.core.val) (pDC j.word) 0 0).bump f.core.val 17 1,
      { p with lapsed := true }, { r with flags := r.flags ||| 1 })
  else (s, p, r)

/-- Finished rows of a member's tile, up to row `hi`, leave it (R29, R30, R99): spills, elements row by row, row
statistics, and the counts of their stream. -/
def State.drainRows (s : State) (f : Flight) (j : Job) (k : Sink) (p : Plane) (hi : Nat) (r : Result) :
    State × Plane × Result :=
  let i := f.slot
  let w := j.word
  let (s, p, r) := s.lapse f j p r
  let (s, y) := s.spillAll i j p p.tally
  let (s, y) := forN (hi - p.drained) (s, y) fun a q =>
    let m := p.drained + q
    let (s, y, vals) := forN j.cols.length (a.1, a.2, ([] : List Val)) fun b n =>
      if !written w m n then b
      else
        let (s, y) := b.1.drainElem i f.stepNo.toNat j p k b.2.1 m n
        (s, y, b.2.2 ++ [y.last])
    (if pRstat w != 0 then s.mergeRowRec i j m vals else s, y)
  let adds := [(11, p.sats), (18, p.clips), (22, p.proms), (23, p.seg),
    (9, j.drainUnits (hi - p.drained) + j.spillUnits p)]
  (s, { drained := hi, tally := y, lapsed := p.lapsed }, { r with counts := r.counts ++ adds })

/-- The sink of a member's drain. -/
def State.memberSink (s : State) (f : Flight) (j : Job) (c : Tensor) : Sink := s.sink f.slot j.node c j.out f.fixed

/-- The rows of a member that have not drained leave it up to row `hi`; nothing where none is left. -/
def State.drainTo (s : State) (f : Flight) (j : Job) (p : Plane) (hi : Nat) (r : Result) : State × Plane × Result :=
  match s.tensor f.slot (pDC j.word) with
  | none => (s, p, r)
  | some c =>
    if p.drained < hi ∨ (p.drained = 0 ∧ j.rows = []) then
      s.drainRows f j (s.memberSink f j c) (j.finish p hi) hi r
    else (s, p, r)

/-- The end of one member: its last rows drain, and its classes and carried records close. -/
def State.drainJob (s : State) (f : Flight) (j : Job) (p : Plane) (r : Result) : State × Result :=
  match s.tensor f.slot (pDC j.word) with
  | none => (s, r)
  | some c =>
    let (s, p, r) := s.drainTo f j p j.rows.length r
    let (s, y, fl) := s.closeSink (s.memberSink f j c) p.tally f.stepNo.toNat
      (whoOf f.slot j.node j.word f.core.val) f.core.val
    (s, { r with flags := r.flags ||| fl, gather := y.gather })

/-- The members that `pick` names are carried to their end, and their rows drain; their classes close with the gang's. -/
def State.drainSome (s : State) (f : Flight) (pick : Job → Bool) : State × Flight :=
  let (s, ps, rs) := f.planed.foldl (fun (a : State × List Plane × List Result) x =>
    let (s, p, r) := if pick x.1 then a.1.drainTo f x.1 x.2 x.1.rows.length (f.resultOf x.1)
      else (a.1, x.2, f.resultOf x.1)
    (s, a.2.1 ++ [p], a.2.2 ++ [r])) (s, ([] : List Plane), ([] : List Result))
  (s, { f with planes := ps, results := rs })

-- Arrays that change their mode under a gang.

/-- Parts of a gang (R38). -/
def Flight.parts (f : Flight) : Nat := f.jobs.foldl (fun a j => max a (j.part + 1)) 0

/-- A member set up on an array, in a part: with the runs that the array's mode forms (R205) and the promotion at which
its spill sum joins. Bands that a counter holds already are not counted again (R571, log 76); without an array the member
only waits. -/
def State.rejob (s : State) (i : Fin 16) (j : Job) (array part : Nat) : Job :=
  if 32 ≤ array then { j with array := array, part := part } else
  let dot := (s.arr array).dot
  let j := { j with array := array, part := part, dot := dot, due := j.due || !(j.dot && dot) }
  match s.sides i j.word with
  | none => j
  | some (a, b) =>
    let ends := s.runEnds i a b (pK0 j.word) (pKlen j.word) (tileEdge j.cls) j.direct j.dot
    let os := s.usedOutliers i j.word a 1 ++ s.usedOutliers i j.word b 2
    { j with ends := ends, joinAt := joinRun ends (pK0 j.word) os }

/-- The usable array that takes a member whose array became unusable: the lowest of its core, else of the lowest core,
and 32 while there is none. R103 says only another one (log 22). -/
def State.freeArray (s : State) (c : Fin 8) : Nat :=
  (s.coreArrays c.val ++ (List.range 8).flatMap s.coreArrays).headD 32

/-- A flight with some of its members set up again; those start the rows that have not drained from their first step. -/
def Flight.withJobs (f : Flight) (pick : Job → Bool) (redo : Job → Job) : Flight :=
  { f with
    jobs := f.jobs.map fun j => if pick j then redo j else j
    planes := f.jobs.zipIdx.map fun x =>
      let p := nth f.planes x.2 {}
      if pick x.1 then (redo x.1).restart p.drained p else p }

/-- Members that wait for their stream on an array which entered dot-product mode, or became unusable, since they were
placed (R40, R103). -/
def State.reseat (s : State) (f : Flight) : Flight :=
  let lost := fun j : Job => decide (32 ≤ j.array) || (s.arr j.array).unuse
  f.withJobs (fun j => lost j || (s.arr j.array).dot != j.dot) fun j =>
    if lost j then s.rejob f.slot j (s.freeArray f.core) (if j.array < 32 then f.parts + j.member else j.part)
    else s.rejob f.slot j j.array j.part

/-- The running member that a parity failure meets: outside dot-product mode one of the plane, which twins share; in it
one of the edge bank, which one twin uses after the other (R101). -/
def State.hitOn (s : State) (f : Flight) (h : ParityHit) : Option Job :=
  (f.planed.find? fun x => x.1.member == h.member && (!h.edge || x.1.twin == h.twin) && !x.1.done x.2
    && decide (x.1.array < 32) && h.edge == (s.arr x.1.array).dot).map (·.1)

/-- The cell operation of a configuration: 0 the product, 1 + DOP a DIST operation (R62). -/
def Job.cellOp (j : Job) : Nat := match j.dist with
  | some d => d + 1
  | none => 0

/-- Clk after the previous last step at which the next first step enters (R66). -/
def reconfClk (prev next : Nat × Bool × Nat) : Nat :=
  if prev = next then 1
  else if next.1 ≤ prev.1 then 25
  else match prev.1, next.1 with
    | 1, 2 => 169 | 1, 3 => 217 | 1, _ => 265
    | 2, 3 => 73 | 2, _ => 121
    | _, _ => 73

/-- The array of a member has another configuration (R66). -/
def State.mustSetUp (s : State) (j : Job) : Bool :=
  let a := s.arr j.array
  j.array < 32 && (a.cls, a.a16, a.op) != (j.cls, j.a16, j.cellOp)

/-- An array takes a member's configuration; the change adds its extra clk to RECONF of the array's core (R62, R66, R571).
An A16 member gives it the A16 format also in dot-product mode, where its sums are FP32 (log 112). -/
def State.setUp (s : State) (j : Job) : State :=
  let a := s.arr j.array
  let e := reconfClk (a.cls, a.a16, a.op) (j.cls, j.a16, j.cellOp)
  (s.setArr j.array { a with cls := j.cls, a16 := j.a16, op := j.cellOp }).bump (j.array / 4) 5 (e - 1)

/-- Bytes in fifths of a bit that a gang consumes in one step (R33, R35, R85). -/
def Flight.stepBits5 (f : Flight) : Nat :=
  let first := f.jobs.filter (!·.twin)
  let second := f.jobs.filter (·.twin)
  let sh := fun l : List Job => (l.map (·.shared5)).headD 0
  let alone := second.filter fun j => !first.any fun k => k.member == j.member
  sh first + sh second + sumN ((first ++ alone).map (·.bits5))

/-- Streaming steps and streaming clk of a gang, or of one part, in its normal mode (R24, R27, R33). -/
def Flight.streamClk (f : Flight) : Nat × Nat :=
  let s := f.jobs.foldl (fun a j => max a j.steps) 0
  (s, max s (cdiv (s * f.stepBits5) (40 * 720)))

/-- The members that `pick` names, with their planes. -/
def Flight.only (f : Flight) (pick : Job × Plane → Bool) : Flight :=
  { f with jobs := (f.planed.filter pick).map (·.1), planes := (f.planed.filter pick).map (·.2) }

/-- The members of one part, with the passes lost in it. -/
def Flight.partOf (f : Flight) (q : Nat) : Flight :=
  { f.only (·.1.part == q) with lost := f.lost.filter (·.part == q) }

/-- Arrays of a gang, each once. -/
def Flight.arrays (f : Flight) : List Nat := f.jobs.foldl (fun l j => insertNew j.array l) []

/-- The members of a gang that run on arrays. -/
def Flight.seated (f : Flight) : Flight :=
  f.only fun x => !x.1.done x.2 && decide (x.1.array < 32)

/-- Cores on whose arrays members of a gang that are not done run (R103). -/
def Flight.cores (f : Flight) : List Nat := f.seated.arrays.foldl (fun l a => insertNew (a / 4) l) []

/-- A pass of a member's array over its part, as the gang stands. -/
def Flight.passOf (f : Flight) (j : Job) : Pass :=
  let x := (f.seated.partOf j.part).streamClk
  ⟨j.part, j.array, x.1, x.2⟩

/-- A parity failure of a member that runs (R96, R97, R98, R103): its array enters dot-product mode and the member
restarts in it, with its twin, whose sums the same plane holds; or, from the edge bank, the array becomes unusable and the
twin that runs restarts on another one as a part of its own. The first twin is finished where the second runs, and a
second twin that has not begun only moves (R101). Members of later parts on that array follow it (R40). The array's core
counts (R571). -/
def State.parityHit (s : State) (i : Fin 16) (n : Nat) (hit : ParityHit) : State :=
  match s.flightOf i n with
  | none => s
  | some f =>
    match s.hitOn f hit with
    | none => s
    | some j0 =>
      let mate := fun j : Job => hit.edge && j.member == j0.member && j.part == j0.part && j.twin != j0.twin
      let before := fun j : Job => mate j && j0.twin && j.array == j0.array
      -- bands of the first twin that no counter holds yet, and the pass that the failure ends
      let pass := f.passOf j0
      let due := f.planed.flatMap fun x =>
        if before x.1 && x.1.due then List.replicate (x.1.bandsLeft x.2) pass else []
      let (s, f) := s.drainSome f before
      -- the array began with the member's configuration, which `stream` gives to those that stay on it
      let s := if hit.edge then s.setUp j0 else s
      let a := s.arr j0.array
      let c := j0.array / 4
      let hitNodes := f.planed.filterMap fun x =>
        if x.1.member == hit.member && !x.1.done x.2 && (!hit.edge || x.1.twin == j0.twin) then some x.1.node else none
      let again := fun j : Job => hitNodes.contains j.node
      let later := fun j : Job => j.array == j0.array && (decide (j0.part < j.part) || (mate j && j.twin))
      let s := (s.bump c 20 1).bump c 21 hitNodes.length
      let s := if hit.edge then s.setArr j0.array { a with unuse := true }
        else ((s.setArr j0.array { a with dot := true }).bump c 19 1).bump c 5 24
      let array := if hit.edge then s.freeArray f.core else j0.array
      let part := fun j : Job => if hit.edge then f.parts + (j.part - j0.part) else j.part
      let g := f.withJobs (fun j => again j || later j) fun j => s.rejob i j array (part j)
      s.setFlight { g with
        lost := f.lost ++ due ++ (if j0.due || hit.edge then [pass] else []),
        results := f.results.map fun r => if hitNodes.contains r.node then { r with flags := r.flags ||| 16 } else r }

/-- Bytes of a core's operand store that gangs hold: resident operands and the output rooms of gangs that CTXSAVE has
not taken off the core (R78, R79, R435). -/
def State.storeUsed (s : State) (core : Fin 8) : Nat :=
  sumN ((s.hg.resident.filter fun r => r.core == core).map (·.bytes))
    + sumN ((s.hg.flight.filter fun f => f.onCore && f.core == core && !f.parked).map fun f =>
        sumN (f.jobs.map fun j => outRoom j.word))

/-- Units of other nodes that the checks of a gang still wait for: the steward's records of this step, and outlier lists. -/
def State.gangFirst (s : State) (i : Fin 16) (n : Nat) (g : Span) (names : List Tensor) : List Nat :=
  s.firstUnits i n names (s.away (g.nodes.foldl (fun us m => unite us (s.listUnits i (s.taskWord i m))) []))

/-- Units of other nodes that the dispatch of a gang still waits for: its operands, in the formats in force, and the
carried records of its outputs as they stand in this step (R170, R250). -/
def State.gangLate (s : State) (i : Fin 16) (n : Nat) (live : List Nat) : List Nat :=
  let us := live.foldl (fun us m => unite us (s.prodUnits i (s.taskWord i m))) []
  let outs := live.filterMap fun m => s.tensor i (pDC (s.taskWord i m))
  unite (s.unread i n (s.recordReads i outs us)) (s.missing i n us)

/-- Dispatch of a product node (R36, R429): the gang it leads, on a core with enough arrays, once its operands are
resident and its output rooms are free (R78); while they are not, its dependence word shows `WAIT` 0x01 with `WAUX` 0
(log 86). What its checks read on other nodes is resident with them. -/
def State.prodDispatch (s : State) (i : Fin 16) (n opc : Nat) (core : Fin 8) (hits : List ParityHit) :
    State :=
  s.attempt i n opc fun s =>
    match s.gangAt i n with
    | none => s
    | some g =>
      if !(g.nodes.all fun m => depSt (s.depWord i m) == 1) then s
      else
        let arrays := s.coreArrays core.val
        let whole := (List.range 8).any fun c => decide (g.members ≤ (s.coreArrays c).length)
        let names := g.nodes.flatMap fun m => s.prodNames i (s.taskWord i m)
        let first := s.gangFirst i n g names
        if arrays = [] ∨ (arrays.length < g.members ∧ whole) then s.setWait i n 1 0x01 0 0xFFF
        else if first ≠ [] then (s.askAll i n first).setWait i n 1 0x02 core.val 0xFFF
        else
          let t := s.initFor i names
          let checks := t.gangChecks i g
          let live := t.gangLive i checks
          let room := sumN (live.map fun m => outRoom (t.taskWord i m))
          let late := t.gangLate i n live
          if live = [] then s.onAwake true (t.gangGo i n opc core g arrays checks none)
          else match s.hg.resident.find? fun r => r.slot == i && r.node == n && r.core == core && !r.waits with
            | none => s.setWait i n 1 0x02 core.val 0xFFF
            | some r =>
              if late ≠ [] then (s.askAll i n late).setWait i n 1 0x02 core.val 0xFFF
              else if storeRoom < t.storeUsed core + room then s.setWait i n 1 0x01 0 0xFFF
              else s.onAwake true
                (hits.foldl (fun s h => s.parityHit i n h) (t.gangGo i n opc core g arrays checks (t.skewIn i r)))

/-- Passes of an array over the steps of a part that no counter holds yet: one for its members in normal mode, one for
each band that a member in dot-product mode has left, one member after the other (R96, R99, R101, log 76). -/
def Flight.passes (f : Flight) (a : Nat) : Nat :=
  let xs := f.planed.filter fun x => x.1.array == a && x.1.due
  b2n (xs.any fun x => !x.1.dot) + sumN ((xs.filter (·.1.dot)).map fun x => x.1.bandsLeft x.2)

/-- Steps and clk of an array's stream in a part that no counter holds yet, those of members that run there no more
among them (R99, R103). -/
def Flight.work (f : Flight) (a : Nat) : Nat × Nat :=
  let x := f.streamClk
  let gone := f.lost.filter fun p => p.array == a
  (f.passes a * x.1 + sumN (gone.map (·.steps)), f.passes a * x.2 + sumN (gone.map (·.clk)))

/-- The stream of part `q` in the counters of each core whose arrays run it: it lasts as long as the busiest of them needs
(R38, R99, R571, R557). -/
def State.chargePart (s : State) (g : Flight) (q : Nat) : State :=
  let f := g.partOf q
  let as := f.lost.foldl (fun l p => insertNew p.array l) f.arrays
  let s := forN 8 s fun s c =>
    let here := (as.filter fun a => a / 4 == c).map f.work
    let most := here.foldl (fun m x => if m.2 < x.2 then x else m) (0, 0)
    ((s.bump c 0 most.1).bump c 4 (most.2 - most.1)).bump c 1 (sumN (here.map (·.1)))
  { s with svc := { s.svc with
    active := as.foldl (fun l a => l.set a (nth l a 0 + (f.work a).2)) s.svc.active } }

/-- The arrays of a part take its members' configuration; each change adds its extra clk to RECONF, summed over the
members (R62, R66, R68; log 77). -/
def State.configure (s : State) (f : Flight) : State :=
  let clk := f.streamClk.2
  let whole := { f with jobs := f.jobs.map fun (j : Job) => { j with due := true }, lost := [] }
  f.jobs.foldl (fun s j =>
    let s := s.setUp j
    s.setArr j.array { s.arr j.array with lastStream := clk * whole.passes j.array }) s

/-- Every member of a gang that is not done has an array. -/
def Flight.placed (f : Flight) : Bool := f.jobs != [] && f.planed.all fun x => x.1.done x.2 || decide (x.1.array < 32)

/-- The last step of every other gang that streams on arrays of the given cores has entered (R36, R37). A member that
R103 moved streams on the core of its array. -/
def State.drainOthers (s : State) (f : Flight) (cores : List Nat) : State :=
  { s with hg := { s.hg with flight := s.hg.flight.map fun g =>
    if g.phase == .streaming && g.placed && !(g.slot == f.slot && g.node == f.node) && g.cores.any cores.contains then
      { g with phase := .draining }
    else g } }

/-- Each part of a gang takes its arrays and streams: what of it no counter holds yet is counted. -/
def State.stream (s : State) (f : Flight) : State :=
  let g := f.seated
  let s := forN f.parts s fun s q => (s.configure (g.partOf q)).chargePart g q
  s.setFlight { f with
    jobs := f.jobs.map fun j => if j.array < 32 then { j with due := false } else j
    lost := [] }

/-- The first step of a gang enters, or after CTXLOAD its next one: gangs before it on the core are in their drains, a
throttle wait has been served (R567), and each part takes its arrays and streams. -/
def State.streamStart (s : State) (f : Flight) : State :=
  let level := s.gov.level.toNat
  let wait := f.seated.arrays.foldl (fun a n => max a (cdiv ((s.arr n).lastStream * level) (16 - level))) 0
  (f.cores.foldl (fun s c => s.bump c 6 wait) (s.drainOthers f f.cores)).stream { f with phase := .streaming }

/-- The drain of a gang, member by member. -/
def State.drainGang (s : State) (f : Flight) : State × Flight :=
  let (s, rs) := f.jobs.zipIdx.foldl (fun (a : State × List Result) x =>
    let (s, r) := a.1.drainJob f x.1 (nth f.planes x.2 {}) (f.resultOf x.1)
    (s, a.2 ++ [r])) (s, ([] : List Result))
  (s, { f with results := rs })

/-- A gang without a stream: every member's K range or tile is empty (R361, R362). -/
def Flight.noStream (f : Flight) : Bool := f.jobs.all fun j => j.klen == 0 || j.rows.isEmpty || j.cols.isEmpty

/-- A segment of a member's long accumulation ends before its last step (R217, R219). -/
def Job.segmented (j : Job) (p : Plane) : Bool :=
  j.lacc && (p.seg != 0 || decide (4096 < (j.ends.filter (·)).length + b2n j.joinAt.isSome))

/-- Spilled sums on other nodes that what is left of a gang's drain reads (R219). -/
def State.spillReads (s : State) (f : Flight) : List Nat :=
  s.away (f.planed.foldl (fun us x =>
    if x.1.segmented x.2 && !x.1.done x.2 then unite us (s.spillPlaces f.slot x.1.word) else us) [])

/-- Those of them that were not read yet. -/
def State.spillMissing (s : State) (f : Flight) : List Nat := s.missing f.slot f.node (s.spillReads f)

/-- A gang may retire once its stream has run; one without a stream at once. A member that waits for an array has not
run (R103). -/
def Flight.canDrain (f : Flight) : Bool :=
  (f.phase == .streaming || f.phase == .draining || f.noStream) && f.jobs.all fun j => decide (j.array < 32)

end Sys2Proof.Machine
end

