-- ==== Sys2Proof/Machine/Context.lean ====
section
/-! DEFINITION. Fetching operands (R77, R431), starting a stream (R80), and preemption inside an
instruction: CTXSAVE and CTXLOAD with the save areas and the context record (R233 to R238, R412, R433 to
R438). -/
namespace Sys2Proof.Machine

def cSlot (w : Nat) : Fin 16 := ⟨fld w 160 4, Nat.mod_lt _ (by decide)⟩
def cBase (w : Nat) : Nat := fld w 192 60

/-- Bytes of the context area (R412) and of one core's save area (R233, R434). -/
def ctxBytes : Nat := 24 * 2 ^ 20
def saveBytes : Nat := 2654208
def saveArea (base core : Nat) : Nat := base + core * 0x288000
def ctxHead (base : Nat) : Nat := base + 0x1440000
def gangEntry (base j : Nat) : Nat := base + 0x1440040 + 64 * j

/-- Offset of the record of cell (row, col) of array `a` of the core (R233). -/
def cellOff (a row col : Nat) : Nat := ((a * 288 + row) * 288 + col) * 8

/-- Parity of `w` bits: even, so that a record of zeros is good (log 95). -/
def parityOf (w x : Nat) : Nat := popCount x w % 2

/-- A record of R233. -/
def mkCellRec (acc run : Nat) : Nat :=
  put 0 32 acc + put 32 28 run + put 60 1 (parityOf 28 run) + put 61 1 (parityOf 32 acc)

/-- Whether a record's parity bits are right (R236). -/
def cellRecOk (r : Nat) : Bool :=
  fld r 60 1 == parityOf 28 (fld r 32 28) && fld r 61 1 == parityOf 32 (fld r 0 32)

/-- Half of an accumulator record a member uses: an A16 member the upper half, its twin the lower (R83). -/
def Job.half (j : Job) (acc : Nat) : Nat := if !j.a16 then acc else if j.twin then acc else acc * 2 ^ 16
def Job.unhalf (j : Job) (r : Nat) : Nat :=
  if !j.a16 then fld r 0 32 else if j.twin then fld r 0 16 else fld r 16 16

/-- Offset in a context area of the record of cell (row, col) of an array of the engine (R233, R434). -/
def cellAt (array row col : Nat) : Nat := saveArea 0 (array / 4) + cellOff (array % 4) row col

/-- The records of one member's rows that have not drained, as (offset, accumulator, run sum): a twin's run sum lies in
local cell (0, 1) (R83, R233). -/
def Job.cellRecs (j : Job) (p : Plane) : List (Nat × Nat × Nat) :=
  let f := j.cls
  p.allCells.zipIdx.flatMap fun x => (List.range j.cols.length).flatMap fun n =>
    let m := p.drained + x.2
    let c := nth x.1 n {}
    let run := unsgn 28 c.run
    if j.twin then [(cellAt j.array (f * m) (f * n), j.half c.acc, 0), (cellAt j.array (f * m) (f * n + 1), 0, run)]
    else [(cellAt j.array (f * m) (f * n), j.half c.acc, run)]

/-- The part under way: the first with a member that is not done. -/
def Flight.current (f : Flight) : Nat :=
  (f.planed.filter fun x => !x.1.done x.2).foldl (fun a x => min a x.1.part) f.parts

/-- Bands of a member that are done once its array has done `n`: the second twin's come behind the first's.
R101 has one run after the other and does not say which is first (DESIGN CHOICE, log 134). -/
def Flight.bandsOf (f : Flight) (j : Job) (n : Nat) : Nat :=
  let before := if j.twin then
      sumN ((f.jobs.filter fun k => k.dot && !k.twin && k.part == j.part && k.array == j.array).map Job.bands)
    else 0
  min j.bands (n - before)

/-- Length of a part in the boundaries at which it can stop: steps, or bands where a member is in dot-product mode
(R234, R237). -/
def Flight.partLen (f : Flight) (q : Nat) : Nat :=
  let g := f.partOf q
  if g.jobs.any (·.dot) then
    g.arrays.foldl (fun m a => max m (sumN ((g.jobs.filter fun j => j.array == a && j.dot).map Job.bands))) 0
  else g.jobs.foldl (fun m j => max m j.steps) 0

/-- Boundaries of a part that lie behind it already. -/
def Flight.behind (f : Flight) (q : Nat) : Nat :=
  let g := f.planed.filter fun x => x.1.part == q
  if g.any (·.1.dot) then
    (f.partOf q).arrays.foldl (fun m a => max m (sumN ((g.filter fun x => x.1.array == a && x.1.dot).map
      fun x => cdiv x.2.drained 48))) 0
  else g.foldl (fun m x => max m (max x.2.next x.2.entered)) 0

/-- Where a stop falls that is asked `n` boundaries behind the start of part `q`: the part and the boundary in it; none
behind the last. Step b × T + m of the stationary mode carries row m through K-block b, and `NEXT` counts those steps
(R24, R234, R434; log 67). -/
def Flight.fallsAt (f : Flight) : Nat → Nat → Nat → Option (Nat × Nat)
  | 0, _, _ => none
  | k + 1, q, n =>
    let r := max n (f.behind q)
    if r < f.partLen q then some (q, r) else f.fallsAt k (q + 1) (n - f.partLen q)

/-- Where a gang that CTXSAVE stops stands, or none when it is in its drain and runs to retirement (R433). `stops` says
how many steps, or bands, of its remaining parts have entered. -/
def Flight.stopAt (f : Flight) (stops : List (Nat × Nat)) : Option (Nat × Nat) :=
  match f.phase, (stops.find? fun x => x.1 == f.node).map (·.2) with
  | .dispatched, _ => if f.noStream then none else some (0, 0)
  | .streaming, some n => f.fallsAt (f.parts - f.current) f.current (max 1 n)
  | _, _ => none

/-- Cores whose save areas hold a gang's records: the one that runs it, and those of its members' arrays (R103, R233). -/
def Flight.homes (f : Flight) : List Nat :=
  (f.jobs.filter fun j => decide (j.array < 32)).foldl (fun l j => insertNew (j.array / 4) l) [f.core.val]

/-- Write the records of a gang's part under way, of which members in dot-product mode have none, into save areas that
hold zeros elsewhere (R233, R237, R433). -/
def State.saveGang (s : State) (base : Nat) (f : Flight) (q : Nat) : State :=
  let recs := (f.planed.filter fun x => x.1.part == q && !x.1.dot && !x.1.done x.2 && decide (x.1.array < 32)).flatMap
    fun x => x.1.cellRecs x.2
  recs.foldl (fun s r =>
    -- twins share a cell: the halves add up
    let old := fld (s.rdN (base + r.1) 8) 0 60
    s.wrN (base + r.1) 8 (mkCellRec (fld old 0 32 + r.2.1) (fld old 32 28 + r.2.2))) s

/-- The member whose counts the gang entry holds: the first of the part under way. -/
def Flight.lead (f : Flight) (q : Nat) : Job × Plane :=
  (f.planed.find? fun x => x.1.part == q && !x.1.done x.2).getD ({ node := f.node, word := 0 }, {})

/-- Step `NEXT` of a gang entry, whose upper bits, which the field of 20 has no room for, are those of the saved lead. -/
def nextOf (lead : Plane) (entry : Nat) : Nat := max lead.next lead.entered / 2 ^ 20 * 2 ^ 20 + fld entry 32 20

/-- A gang entry of the context record, for a stop at boundary `off` of part `q` (R434). `span` is the gang; the counts
are those of the rows that have not entered the K-block under way (log 67). -/
def mkGangEntry (f : Flight) (span : Option Span) (q off : Nat) : Nat :=
  let p := (f.lead q).2
  let bands := (f.partOf q).jobs.any (·.dot)
  let members := (span.map (·.members)).getD 1
  put 0 20 f.node + put 20 3 f.core.val + put 23 2 (members - 1) + put 25 1 (b2n ((span.map (·.twins)).getD 0 != 0))
    + put 26 1 (b2n (f.jobs.any (·.dot))) + put 32 20 (if bands then 0 else off)
    + put 64 20 p.total + put 84 8 p.seg + put 92 1 (b2n p.joined) + put 93 3 (if bands then off else 0)

/-- Segments of a plane that have ended spill, of the rows ahead too (R218, R234). -/
def State.spillStopped (s : State) (i : Fin 16) (j : Job) (p : Plane) : State × Plane :=
  let (s, y) := s.spillAll i j p p.tally
  let (s, y) := if p.aheadSpill.isEmpty then (s, y) else s.spillTile i j p.seg p.drained p.aheadSpill y
  (s, { p with spills := [], tally := y, aheadSpill := p.aheadSpill.map fun _ => [] })

/-- One member of a gang that stops at boundary `off` of part `q` (R234): finished rows drain, segments that ended spill,
and the plane stands at the boundary. A member in dot-product mode holds nothing at a band's end (R237). -/
def State.stopMember (s : State) (f : Flight) (q off : Nat) (j : Job) (p : Plane) : State × Plane × Result :=
  let r := f.resultOf j
  let mixed := (f.partOf q).jobs.any (·.dot)
  if j.part < q ∨ (j.part = q ∧ mixed ∧ j.dot = false ∧ off ≠ 0) then s.drainTo f j p j.rows.length r
  else if j.part ≠ q ∨ off = 0 then (s, p, r)
  else if j.dot then
    let (s, p, r) := s.drainTo f j p (min j.rows.length (48 * f.bandsOf j off)) r
    (s, if j.done p then p else j.restart p.drained p, r)
  else
    let k := j.cut p.drained j.rows.length
    let p := if j.outer then k.advance p off else k.enter p off
    let (s, p, r) := s.lapse f j p r
    let units := j.spillUnits p + (if p.aheadSpill.any (!·.isEmpty) then j.drainUnits p.aheadSpill.length else 0)
    let (s, p) := s.spillStopped f.slot j p
    (s, p, { r with counts := r.counts ++ [(9, units)] })

/-- Stop and save one gang as entry `e` (R234, R235, R433); one whose stream has not started has no records. -/
def State.stopGang (s : State) (base e : Nat) (f : Flight) (q off : Nat) : State :=
  let (s, ps, rs) := f.planed.foldl (fun (a : State × List Plane × List Result) x =>
    let (s, p, r) := a.1.stopMember f q off x.1 x.2
    (s, a.2.1 ++ [p], a.2.2 ++ [r])) (s, ([] : List Plane), ([] : List Result))
  let g := { f with planes := ps, results := rs, preempted := true, phase := .waiting 9 }
  let s := if f.phase == .dispatched then s else s.saveGang base g q
  let s := s.wrN (gangEntry base e) 64 (mkGangEntry g (s.gangAt f.slot f.node) q off)
  let s := (s.setFlight g).bump f.core.val 26 1
  let s := f.jobs.foldl (fun s j => s.setDep f.slot j.node (mkDep 0 4 0 0 0xFFF)) s
  let x := s.slot f.slot
  let s := s.setSlot f.slot { x with saved := x.saved ++ [⟨f.node, e⟩] }
  s.evict fun r => r.slot == f.slot && r.node == f.node

/-- Bytes of one array's records. -/
def arrayBytes : Nat := 663552

/-- A gang that an earlier CTXSAVE saved and that has not restarted: its entry, and of each array whose records it needs
the number, the number in the new context, and the records. -/
abbrev Parked := Flight × Nat × List (Nat × Nat × Memory)

/-- Arrays whose records a saved gang needs when it restarts. -/
def Flight.recorded (f : Flight) : List Nat :=
  (f.planed.filter fun x => x.1.part == f.current && !x.1.dot && !x.1.done x.2 && x.2.begun && decide (x.1.array < 32)).foldl
    (fun l x => insertNew x.1.array l) []

/-- Places in a new context for the records of arrays of parked gangs: their own, or the lowest that no gang uses (log
19). -/
def placesFor (used : List Nat) : List Nat → List (Nat × Nat)
  | [] => []
  | a :: r =>
    let b := ((a :: List.range 32).find? fun c => !used.contains c).getD a
    (a, b) :: placesFor (b :: used) r

/-- The parked gangs of a slot with what the context they were saved in holds, and their places in a new one. -/
def State.parkedIn (s : State) (c : Fin 16) (gangs : List Flight) (used : List Nat) : List Parked :=
  let x := s.slot c
  (gangs.foldl (fun (a : List Parked × List Nat) g =>
    match x.saved.find? fun y => y.node == g.node with
    | none => a
    | some y =>
      let ps := placesFor a.2 g.recorded
      let rec_ := ps.map fun p => (p.1, p.2, Mem.slice s.mem (hallLoc (x.saveBase + cellAt p.1 0 0)) arrayBytes)
      (a.1 ++ [(g, s.rdN (gangEntry x.saveBase y.entry) 64, rec_)], ps.map (·.2) ++ a.2)) ([], used)).1

/-- A parked gang goes into a new context as entry `e`, with its records. -/
def State.repark (s : State) (base e : Nat) (p : Parked) : State :=
  let (f, entry, recs) := p
  let s := recs.foldl (fun s r =>
    { s with mem := Mem.paste s.mem (hallLoc (base + cellAt r.2.1 0 0)) arrayBytes r.2.2 }) s
  let f := { f with jobs := f.jobs.map fun j =>
    { j with array := ((recs.find? fun r => r.1 == j.array).map (·.2.1)).getD j.array } }
  let core := ((recs.head?.map fun r => r.2.1 / 4)).getD (fld entry 20 3)
  let s := (s.setFlight f).wrN (gangEntry base e) 64 (setFld entry 20 3 core)
  let x := s.slot f.slot
  let s := s.setSlot f.slot { x with saved := x.saved ++ [⟨f.node, e⟩] }
  s.evict fun r => r.slot == f.slot && r.node == f.node

/-- The gangs of a slot. -/
def State.gangsOf (s : State) (c : Fin 16) : List Flight := s.hg.flight.filter fun g => g.slot == c && g.jobs != []

/-- Gangs whose finished tiles drain where a slot is saved: its own, and those in their drains on its cores (R234). -/
def State.drainedBy (s : State) (c : Fin 16) : List Flight :=
  let cores := (s.gangsOf c).flatMap Flight.homes
  s.hg.flight.filter fun g => g.jobs != [] &&
    (g.slot == c || (g.phase == .draining && g.homes.any fun k => cores.contains k))

/-- Spilled sums on other nodes that those drains read; CTXSAVE is dispatched once they are here (R219, R234; log 125). -/
def State.saveEarly (s : State) (w : Nat) : List Nat :=
  let c := cSlot w
  if (s.slot c).st = .run then (s.drainedBy c).foldl (fun us g => unite us (s.spillReads g)) [] else []

/-- Finished tiles of gangs in their drains on the given cores leave before a save begins (R234). -/
def State.drainFinished (s : State) (cores : List Nat) : State :=
  (s.hg.flight.filter fun g => g.phase == .draining && g.homes.any fun c => cores.contains c).foldl
    (fun s g =>
      let (s, g) := s.drainSome g fun _ => true
      s.setFlight g) s

/-- Gangs that a save finds with every step entered are in their drains (R433). -/
def State.noteDrains (s : State) (gangs : List Flight) (stops : List (Nat × Nat)) : State :=
  (gangs.filter fun g => g.phase == .streaming && (g.stopAt stops).isNone).foldl
    (fun s g => s.setFlight { g with phase := .draining }) s

/-- FORMAT and RANGE of CTXSAVE and CTXLOAD (R379, R412, R435). -/
def State.ctxFail (s : State) (i : Fin 16) (load : Bool) (w : Nat) : Option Fail :=
  let c := cSlot w
  let x := s.slot c
  firstFail [
    failWhen (twVen w) failF,
    failWhen (cBase w % 4096 != 0 || !s.mine (cBase w) ctxBytes || c == i
      || (if load then x.st != .saved || x.saveBase != cBase w
          else x.st == .free || x.st == .load || x.st == .saved)) failR]

/-- The gangs of a slot are stopped and saved into a context, those that are parked still among them: finished tiles
drain first, and what runs no gang of the slot reads zero (R233, R234, R433). Of more than eight gangs the context holds
the first eight, and the others run on (log 111). Answers how many entries it holds. -/
def State.saveSlot (s : State) (c : Fin 16) (base : Nat) (stops : List (Nat × Nat)) : State × Nat :=
  let gangs := s.gangsOf c
  let picked := (gangs.filterMap fun g => (g.stopAt stops).map fun n => (g, n)).take 8
  let parked := (s.parkedIn c (gangs.filter (·.parked)) (picked.flatMap fun x => x.1.arrays)).take (8 - picked.length)
  let cores := (picked.flatMap fun x => x.1.homes) ++ parked.flatMap fun x => x.2.2.map fun r => r.2.1 / 4
  let s := (s.noteDrains gangs stops).drainFinished cores
  let s := cores.eraseDups.foldl (fun s k =>
    { s with mem := Mem.paste s.mem (hallLoc (saveArea base k)) saveBytes [] }) s
  let s := s.setSlot c { s.slot c with saved := [], saveBase := base }
  let s := picked.zipIdx.foldl (fun s x => s.stopGang base x.2 x.1.1 x.1.2.1 x.1.2.2) s
  (parked.zipIdx.foldl (fun s x => s.repark base (picked.length + x.2) x.1) s, picked.length + parked.length)

/-- CTXSAVE's dispatch: each product gang of the slot that is not in its drain is stopped and saved, and
the context record of 576 bytes is written, its unused entries with zeros (R433 to R435; log 126). -/
def State.ctxSave (s : State) (stops : List (Nat × Nat)) (f : Flight) : State :=
  let w := f.word
  let c := cSlot w
  let base := cBase w
  let (s, n) := if (s.slot c).st = .run then s.saveSlot c base stops else (s, 0)
  let head := put 0 4 c.val + put 8 4 n + put 16 16 f.stepNo.toNat + put 64 64 f.dstamp.toNat
  let s := s.wrN (ctxHead base) 64 head
  let s := { s with mem := Mem.paste s.mem (hallLoc (gangEntry base n)) (64 * (8 - n)) [] }
  s.effected f id

/-- CTXSAVE before the order of R430. -/
def State.startCtxsave (s : State) (i : Fin 16) (n : Nat) (stops : List (Nat × Nat)) : State :=
  s.issue i n 0x53 0 false (fun _ _ => []) (fun s w => s.ctxFail i false w) (fun _ _ => [])
    (fun s f => s.ctxSave stops f) (fun s w => s.saveEarly w)

/-- A member's plane as the save area holds it (R235, R238). `lead` is the plane whose counts the entry holds; a member
that had made other additions than it keeps its own counts (log 78). In stationary mode the rows that have entered the
K-block under way are ahead of the others (log 67). -/
def State.loadPlane (s : State) (base : Nat) (old : Job) (p lead : Plane) (entry : Nat) : Plane :=
  let f := old.cls
  let at_ := fun row col : Nat => s.rdN (base + cellAt old.array row col) 8
  let rows := old.rows.length - p.drained
  let cells := (List.range rows).map fun k => (List.range old.cols.length).map fun n =>
    let m := p.drained + k
    let r := at_ (f * m) (f * n)
    let q := if old.twin then at_ (f * m) (f * n + 1) else r
    ({ acc := old.unhalf r, run := sgn 28 (fld q 32 28) } : Cell)
  let next := nextOf lead entry
  let t := tileEdge f
  let a := if old.outer then 0 else next % t
  let k := if old.outer then next else if rows ≤ a then old.blockEnd (next / t * t) else min old.klen (next / t * t)
  let ahead := if rows ≤ a ∨ old.klen ≤ k then 0 else a
  { p with
    cells := cells.drop ahead, ahead := cells.take ahead, aheadSpill := List.replicate ahead []
    next := k, entered := if old.outer then 0 else next
    total := if p.total = lead.total then fld entry 64 20 else p.total
    seg := if p.seg = lead.seg then lead.seg / 256 * 256 + fld entry 84 8 else p.seg
    joined := if p.joined = lead.joined then bit entry 92 else p.joined }

/-- Whether every record of an array in a context has good parity; a record of zeros has (R236). -/
def State.savedParityOk (s : State) (base array : Nat) : Bool :=
  let a := hallLoc (base + cellAt array 0 0)
  (Mem.slice s.mem a arrayBytes).all fun c => cellRecOk (Mem.getN s.mem (a + c.1 / 8 * 8) 8)

/-- Members of a saved gang that still run, by place, in one part. -/
def Flight.placesIn (f : Flight) (q : Nat) : List Nat :=
  (f.planed.filter fun x => x.1.part == q && !x.1.done x.2).foldl (fun l x => insertNew x.1.member l) []

/-- Arrays that a saved gang needs at once. -/
def Flight.width (f : Flight) : Nat := forN f.parts 0 fun a q => max a (f.placesIn q).length

/-- A core on which a saved gang can resume: with enough usable arrays, or, where no core has, with any (R38, R436). -/
def State.takes (s : State) (f : Flight) (c : Fin 8) : Bool :=
  let n := (s.coreArrays c.val).length
  decide (f.width ≤ n) || (n != 0 && (List.range 8).all fun d => decide ((s.coreArrays d).length < f.width))

/-- CTXLOAD's dispatch: the slot runs again, and each saved gang is given a core (R436). -/
def State.ctxLoad (s : State) (cores : List (Nat × Fin 8)) (f : Flight) : State :=
  let c := cSlot f.word
  let s := (s.setSlot c { s.slot c with st := .run, lastProg := s.tm.tick }).noteAll c
  let s := (s.slot c).saved.foldl (fun s g =>
    match s.flightOf c g.node, cores.find? fun x => x.1 == g.node with
    | some h, some x => if s.takes h x.2 then s.setFlight { h with core := x.2 } else s
    | _, _ => s) s
  -- gangs in their drain may have retired while the slot was SAVED
  (s.effected f id).settle c

/-- CTXLOAD before the order of R430. -/
def State.startCtxload (s : State) (i : Fin 16) (n : Nat) (cores : List (Nat × Fin 8)) : State :=
  s.issue i n 0x54 0 false (fun _ _ => []) (fun s w => s.ctxFail i true w) (fun _ _ => [])
    (fun s f => s.ctxLoad cores f)

/-- One member of a saved gang set up again on the arrays of its core: its operands are assembled again (R235), members
of one part in order on the core's arrays (R436). Its pass is counted again only where the mode of its array is another.
A member that is done stays as it is. -/
def State.resumeJob (s : State) (f : Flight) (arrays : List Nat) (j : Job) (p : Plane) : Job :=
  if j.done p then { j with part := 4 * j.part }
  else
    let rank := ((f.placesIn j.part).filter fun m => decide (m < j.member)).length
    let (chunk, array) := spotOf arrays rank
    let k := match s.mkJob f.slot j.node j.member array (4 * j.part + chunk) j.twin with
      | .ok (k, _) => k
      | .error _ => s.rejob f.slot j array (4 * j.part + chunk)
    { k with due := j.due || k.dot != j.dot }

/-- The parts of a gang numbered without gaps, in their order. -/
def Flight.compact (f : Flight) : Flight :=
  let parts := f.jobs.foldl (fun l j => insertNew j.part l) []
  { f with jobs := f.jobs.map fun j => { j with part := (parts.filter fun q => decide (q < j.part)).length } }

/-- Its plane: as the save area holds it at step `NEXT`, or its rows from band `BAND` on, or from the start (R436). `f` is
the gang as it was saved, `cur` and `lead` the part that was saved and its first member's plane. The sums of a part that CTXLOAD divided stand in the
parts that have not restarted (log 67). -/
def State.resumePlane (s : State) (f : Flight) (cur : Nat) (lead : Plane) (base entry : Nat) (j k : Job) (p : Plane) :
    Plane :=
  if j.done p then p
  else if j.part = cur ∧ j.dot then k.restart (min j.rows.length (48 * f.bandsOf j (fld entry 93 3))) p
  else if p.begun = false ∨ k.dot then k.restart p.drained p
  else if j.part ≠ cur then p
  else if nextOf lead entry = 0 then k.restart p.drained p
  else s.loadPlane base j p lead entry

/-- Members whose operands present a wrong tag when they become resident again fail; the others go on (R39, R181). -/
def State.failSkewed (s : State) (f : Flight) (skew : Option (TagSkew × Fail)) : State × Flight :=
  match s.gangAt f.slot f.node with
  | none => (s, f)
  | some g =>
    let live := (f.planed.filter fun x => !x.1.done x.2).map fun x => (x.1.node, (none : Option Fail))
    let bad := (withSkew g live skew).filterMap fun x => x.2.map fun e => (x.1, e)
    let s := bad.foldl (fun s x => (((s.bump f.core.val 16 1).raiseFail f.slot x.1 (s.taskWord f.slot x.1) f.core.val
      x.2).retireOne f.slot f (failResult x.1 x.2)).progress f.slot) s
    let keep := fun n : Nat => bad.all fun x => x.1 != n
    let s := if bad = [] then s else s.shed f.slot f.node g ((live.map (·.1)).filter keep)
    (s, { f with
      jobs := f.jobs.filter fun j => keep j.node
      planes := (f.planed.filter fun x => keep x.1.node).map (·.2)
      results := f.results.filter fun r => keep r.node })

/-- A saved gang restarts its stream at step `NEXT`, or at band `BAND`, on the core that holds its operands (R235, R236,
R436); a record with bad parity restarts its member in dot-product mode, and further failures may meet it. -/
def State.resumeGang (s : State) (f : Flight) (g : SavedGang) (r : Resident) (hits : List ParityHit) : State :=
  let i := f.slot
  let x := s.slot i
  let entry := s.rdN (gangEntry x.saveBase g.entry) 64
  let saved := f
  let cur := f.current
  let lead := (f.lead cur).2
  let s := s.setSlot i { x with saved := x.saved.filter fun y => y.node != g.node }
  let (s, f) := s.failSkewed { f with core := r.core } (s.skewIn i r)
  if f.jobs = [] then s.retire f
  else
    let arrays := s.coreArrays f.core.val
    let bad := f.planed.filterMap fun y =>
      if y.1.done y.2 || y.1.part != cur || !y.2.begun || nextOf lead entry == 0 || y.1.dot
        || s.savedParityOk x.saveBase y.1.array then none
      else some y.1.member
    let all := f.planed.map fun y =>
      let k := s.resumeJob f arrays y.1 y.2
      (k, s.resumePlane saved cur lead x.saveBase entry y.1 k y.2)
    let f := Flight.compact { f with jobs := all.map (·.1), planes := all.map (·.2) }
    let s := s.setFlight f
    let s := f.jobs.foldl (fun s j => s.setDep i j.node (mkDep 0 2 0 0 0xFFF)) s
    let s := (bad.eraseDups.map (fun m => ({ member := m, edge := false } : ParityHit)) ++ hits).foldl
      (fun s h => s.parityHit i f.node h) s
    match s.flightOf i f.node with
    | some f => s.streamStart f
    | none => s

/-- A dispatched gang's first step enters (R80): parity failures may meet the stream (R96, R103). -/
def State.startGang (s : State) (f : Flight) (hits : List ParityHit) : State :=
  let s := s.setFlight (s.reseat f)
  let s := hits.foldl (fun s h => s.parityHit f.slot f.node h) s
  match s.flightOf f.slot f.node with
  | some f => s.streamStart f
  | none => s

/-- Nodes for which operands are fetched: ready ones, a gang's once every member is ready (log 127), and saved ones of a
slot that runs again (R431, R436). -/
def State.fetchable (s : State) (i : Fin 16) (n : Nat) : Bool :=
  let x := s.slot i
  let ready := match s.gangAt i n with
    | some g => isProduct (twOpc (s.taskWord i n)) && g.nodes.all fun m => depSt (s.depWord i m) == 1
    | none => depSt (s.depWord i n) == 1
  decide (n < x.hdr.twCount)
    && ((x.st == .run && ready)
      || ((x.st == .run || x.st == .halt) && depSt (s.depWord i n) == 4 && !s.saving i))

/-- The nodes of a gang whose operands are fetched: those that would run, or of a saved gang those that are not done. -/
def State.fetchNodes (s : State) (i : Fin 16) (g : Span) : List Nat :=
  match s.flightOf i g.first with
  | some f => (f.planed.filter fun x => !x.1.done x.2).map (·.1.node)
  | none => s.gangLive i (s.gangChecks i g)

/-- Operands of a gang come into a core's store (R77 to R79, R191, R431) as far as there is room. One with outlier indices
is resident when its spill plane is complete, and waits for a plane while both of the core are taken. What lies on other
nodes is asked for first. -/
def State.gangFetch (s : State) (i : Fin 16) (n : Nat) (g : Span) (core : Fin 8) (skew : Option TagSkew) : State :=
  let names := g.nodes.flatMap fun m => s.prodNames i (s.taskWord i m)
  let first := s.gangFirst i n g names
  if first ≠ [] then s.askAll i n first
  else
    let t := s.initFor i names
    let nodes := t.fetchNodes i g
    let us := nodes.foldl (fun us m => unite us (t.prodUnits i (t.taskWord i m))) []
    let bytes := t.gangBytes i g nodes
    let (h, p) := t.spillwayWork i nodes
    let planes := (s.hg.resident.filter fun r => r.core == core && r.spill).length
    if nodes = [] then s
    else if s.missing i n us ≠ [] then s.askFor i n us
    else if storeRoom < s.storeUsed core + bytes then s
    else
      let units := nodes.foldl (fun us m => unite us (t.fetchUnits i (t.taskWord i m))) []
      let s := s.bump core.val 8 units.length
      let clk := cdiv (h * p) 10368
      let waits := h != 0 && decide (2 ≤ planes)
      let r := Resident.mk i n core bytes skew (h != 0 && !waits) waits (if waits then clk else 0)
      let s := if waits then s else s.bump core.val 24 clk
      let s := { s with hg := { s.hg with resident := s.hg.resident ++ [r] } }
      if waits then s else s.nowResident i n

/-- Whether a fetch may start, for a saved gang or for a ready node: from a cut's tick on only for the gangs that a
dispatched CTXLOAD restarts (R436, R490, R502), and the same while a SNAP or RESTORE is in Hold, which waits for that
CTXLOAD; past Hold none does (R519; log 128). -/
def State.fetchOpen (s : State) (saved : Bool) : Bool :=
  let snaps := s.hg.flight.filter fun f => f.opc == 0x42 || f.opc == 0x43
  if saved then snaps.all fun f => f.phase == .dispatched || f.phase == .waiting 1 else s.cutOpen && snaps.isEmpty

/-- OPERAND_FETCH before the order of R430: the operands of a ready node come into a core's operand store. -/
def State.fetch (s : State) (i : Fin 16) (n : Nat) (core : Fin 8) (skew : Option TagSkew) : State :=
  let w := s.taskWord i n
  let held := s.hg.resident.any fun r => r.slot == i && r.node == n
  if !s.fetchable i n || held || s.phase != .ready || !s.fetchOpen (depSt (s.depWord i n) == 4) then s
  else if isProduct (twOpc w) then
    match s.gangAt i n with
    | none => s
    | some g => (s.waitAt i n core).gangFetch i n g core skew
  else if tagged (twOpc w) then
    { s with hg := { s.hg with resident := s.hg.resident ++ [Resident.mk i n core 0 skew false false 0] } }
  else s

end Sys2Proof.Machine
end

