-- ==== Sys2Proof/Machine/Quant.lean ====
section
/-! DEFINITION. The quantisation instructions of the operand store: QSTAT (R156 to R159), QCONV (R160 to
R165, R185 to R187, R256) and RESCALE (R175 to R177), with the body and checks of R389 to R391. -/
namespace Sys2Proof.Machine

-- Body fields of R389.
def qSrc (w : Nat) : Nat := fld w 160 16
def qAux (w : Nat) : Nat := fld w 176 16
def qDst (w : Nat) : Nat := fld w 192 16
def qOl (w : Nat) : Nat := fld w 208 16

/-- Whether an instruction covers an element of the tensors: all of them, or with SCOPE 1 only those that
lie in this node's stacks (R377). -/
def State.covers (s : State) (i : Fin 16) (ts : List Tensor) (scope : Bool) (c : List Nat) : Bool :=
  !scope || ts.all fun t => match s.resolve i t c with
    | some (t, c) => s.isMine i t c
    | none => true

/-- The coordinates an instruction covers. -/
def State.coverage (s : State) (i : Fin 16) (ts : List Tensor) (scope : Bool) (e : List Nat) :
    List (List Nat) :=
  (coordsOf e).filter fun c => s.covers i ts scope c

/-- An infinite element under a scale of zero has the value zero and counts once (R154). -/
def lostInf (g : Fmt) (code sc : Nat) : Bool :=
  match g.decode code with
  | .inf _ => (readScale sc).1.m == 0
  | _ => false

/-- The replacements of scales read for the elements, each group once (R124, R136), and the infinite elements that a
scale of zero makes zero (R154). -/
def State.scaleConv (s : State) (i : Fin 16) (t : Tensor) (f : EFmt) (cs : List (List Nat)) : Counts :=
  match f with
  | .op fm =>
    let gs : List (Tensor × List Nat) := cs.foldl (fun gs c => match s.resolve i t c with
      | some (t, c) => insertNew (t, groupCoord t c) gs
      | none => gs) []
    let lost := cs.foldl (fun (a : Counts) c => match s.resolve i t c with
      | some (u, d) =>
        if !fm.isInt && lostInf fm (s.readPlace (s.place i u f d)) (s.scaleAt i u (groupCoord u d)).1 then a.add1 .sat
        else a
      | none => a) {}
    gs.foldl (fun a g => a.add1 (readScale (s.scaleAt i g.1 g.2).1).2) lost
  | _ => {}

/-- Step 1 of R375: an index that names no used descriptor. -/
def State.need (s : State) (i : Fin 16) (d : Nat) : Option Fail := failWhen (s.tensor i d).isNone (failR d)

/-- The same for an optional field, where 0xFFFF names none. -/
def State.needOpt (s : State) (i : Fin 16) (d : Nat) : Option Fail :=
  if d = 0xFFFF then none else s.need i d

/-- An optional tensor. -/
def State.optional (s : State) (i : Fin 16) (d : Nat) : Option Tensor :=
  if d = 0xFFFF then none else s.tensor i d

/-- The instruction's effect is made: its flags and its gather for retirement. -/
def State.made (s : State) (f : Flight) (flags : Nat) (g : Gather) : State :=
  s.effected f fun r => { r with flags := r.flags ||| flags, gather := g }

/-- The formats QSTAT and QCONV read (R156, R160). -/
def quantSource (f : Option EFmt) : Bool :=
  f == some (.op .bf16) || f == some (.op .fp16) || f == some (.op .fp32) || f == some .a16

/-- Groups of a tensor that is read, and the group of an element: a view's are its source's channel groups
at each window position (R146, R356). -/
def State.readGroups (s : State) (i : Fin 16) (t : Tensor) : List Nat :=
  if t.isView then
    match s.descAt i t.wsrc with
    | some src => [t.kh * t.kw * cdiv (src.extRaw 0) src.gsize, nth (s.extents i t) 1 0]
    | none => [0, 0]
  else groupExts t t.exts
def State.readGroup (s : State) (i : Fin 16) (t : Tensor) (c : List Nat) : List Nat :=
  if t.isView then
    match s.descAt i t.wsrc with
    | some src =>
      let ch := src.extRaw 0
      let k := nth c 0 0
      if ch = 0 then c else [k / ch * cdiv ch src.gsize + k % ch / src.gsize, nth c 1 0]
    | none => c
  else groupCoord t c

/-- The outlier indices of a list, as coordinates along the grouped dimension (R185). -/
def State.outlierCoords (s : State) (i : Fin 16) (l : Option Tensor) : List Nat :=
  match l with
  | some l => (s.outliers i l).map Int.toNat
  | none => []

/-- Coordinates of a shape in a tensor of an equal shape with `n` dimensions: those beyond either are 0 (R322). -/
def fitDims (n : Nat) (c : List Nat) : List Nat := (List.range n).map fun k => nth c k 0

/-- The dimension along which a tensor's outlier indices run. -/
def State.outlierDim (t : Tensor) : Nat := if t.isView then 0 else t.gdim

-- QSTAT.

/-- An element as QSTAT takes it (R157): none for a NaN; the FP32 value otherwise. -/
def qstatTake (f : EFmt) (v : Val) : Option Dy × Conv :=
  match v with
  | .nan _ => (none, .nan)
  | .inf n =>
    let m := match f with
      | .op g => g.maxDy
      | _ => Fmt.bf16.maxDy
    (some (if n then m.neg else m), .sat)
  | v =>
    let (c, cv) := toFp32 v
    (some (ofFp32 c).dy, if cv = .sat then .sat else .none)

/-- The extremes of a group as FP32 codes (R156). -/
structure Stat where
  hi : Nat := fp32MinCode
  lo : Nat := fp32Max
  deriving DecidableEq, Repr

def Stat.record (r : Stat) : Nat := put 0 32 r.hi + put 32 32 r.lo

/-- A stored extreme in a merge: a NaN gives way, an infinity is the largest finite magnitude (R159). -/
def statStored (c : Nat) : Option Dy :=
  match ofFp32 c with
  | .nan _ => none
  | v => some v.extreme

/-- The basin's merge of a statistics record (R159). -/
def Stat.merge (old : Nat) (r : Stat) : Stat :=
  let code := fun d : Dy => (toFp32 d.val).1
  let pick := fun (o : Option Dy) (n : Nat) (f : Dy → Dy → Dy) => match o with
    | none => n
    | some d => code (f d (ofFp32 n).dy)
  ⟨pick (statStored (fld old 0 32)) r.hi Dy.max, pick (statStored (fld old 32 32)) r.lo Dy.min⟩

def State.qstatCheck (s : State) (i : Fin 16) (w : Nat) : Option Fail :=
  firstFail [s.need i (qSrc w), s.need i (qDst w), s.needOpt i (qOl w), commonForm w false false,
    match s.tensor i (qSrc w), s.tensor i (qDst w) with
    | some a, some d => firstFail [
        failWhen (decide (2 ≤ a.kind)) (failF a.ix),
        s.steerFail i w a false,
        failWhen (!quantSource (s.fmtOf i a)) (failF a.ix),
        failWhen (d.kind != 3 || d.fmtCode != 0) (failF d.ix),
        (s.optional i (qOl w)).bind fun l =>
          let ext := nth (s.extents i a) (State.outlierDim a) 0
          failWhen (l.kind != 2 || !(s.outliers i l).Nodup
            || (s.outliers i l).any fun k => decide (k < 0) || decide ((ext : Int) ≤ k)) (failF l.ix),
        failWhen (!sameShape d.exts (s.readGroups i a)) (failR d.ix),
        s.useFail i d (!twAcc w)]
    | _, _ => none]

/-- The groups a QSTAT covers. -/
def State.qstatGroups (s : State) (i : Fin 16) (w : Nat) (a d : Tensor) : List (List Nat) :=
  if twScope w then
    (s.coverage i [a] true (s.extents i a)).foldl (fun gs c => insertNew (fitDims d.exts.length (s.readGroup i a c)) gs) []
  else coordsOf d.exts

def State.qstatNeeds (s : State) (i : Fin 16) (w : Nat) : List Nat :=
  match s.tensor i (qSrc w), s.tensor i (qDst w) with
  | some a, some _ => s.coverUnits i [(a, false)] (s.coverage i [a] (twScope w) (s.extents i a))
  | _, _ => []

/-- QSTAT's data effect: one record for each group that it covers, written, or merged in the basin that holds the stored
one (R156 to R159). -/
def State.qstatEffect (s : State) (i : Fin 16) (fl : Flight) : State :=
  let w := fl.word
  match s.tensor i (qSrc w), s.tensor i (qDst w), (s.tensor i (qSrc w)).bind (s.fmtOf i) with
  | some a, some d, some f =>
    let cs := s.coverage i [a] (twScope w) (s.extents i a)
    let skip := s.outlierCoords i (s.optional i (qOl w))
    let take := cs.filter fun c => !skip.contains (nth c (State.outlierDim a) 0)
    let one := fun (acc : List (List Nat × Stat) × Counts) (c : List Nat) =>
      let (v, cv) := qstatTake f (s.elemVal i a f c).1
      let g := fitDims d.exts.length (s.readGroup i a c)
      match v with
      | none => (acc.1, acc.2.add1 cv)
      | some x =>
        let code := (toFp32 x.val).1
        let up := fun r : Stat => (⟨maxFp r.hi code, minFp r.lo code⟩ : Stat)
        (if acc.1.any (·.1 == g) then acc.1.map fun e => if e.1 == g then (g, up e.2) else e
          else acc.1 ++ [(g, up {})], acc.2.add1 cv)
    let (recs, counts) := take.foldl one ([], s.scaleConv i a f take)
    let s := (s.qstatGroups i w a d).foldl (fun s g =>
      let r := ((recs.find? fun e => e.1 == g).map (·.2)).getD {}
      let p := s.recPlace i d g
      if twAcc w then s.mergeAt i fl.node p 8 r.record .stat fun old => (Stat.merge old r).record
      else s.wrAny i fl.node p 8 r.record) s
    (s.bumpCounts fl.core.val counts).made fl 0 {}
  | _, _, _ => s.made fl 0 {}

/-- QSTAT's dispatch. -/
def State.startQstat (s : State) (i : Fin 16) (n : Nat) (core : Fin 8) : State :=
  s.issue i n 0x10 core true
    (fun s w => (s.tensor i (qSrc w)).toList)
    (fun s w => s.qstatCheck i w) (fun s w => s.qstatNeeds i w) (fun s f => s.qstatEffect i f)
    (fun s w => s.indexUnits i (s.optional i (qOl w)) 16)

-- QCONV.

/-- Source and target of QCONV: of the body, or the master and working copy of the version (R306, R390).
None without the buffer, or without a working copy. -/
def State.qconvSrc (s : State) (w : Nat) : Option Nat :=
  if twVen w then (s.verBuf w).map fun b => verMaster (s.verRec (twVrec w)) b else some (qSrc w)
def State.qconvDst (s : State) (w : Nat) : Option Nat :=
  if twVen w then (s.verBuf w).bind fun b =>
    let r := s.verRec (twVrec w)
    if verWorkEn r b then some (verWork r b) else none
  else some (qDst w)

/-- Use of the scale and zero-point tensors that QCONV writes (R165, R342). -/
def State.scaleUse (s : State) (i : Fin 16) (t : Tensor) (f : Option EFmt) : Option Fail :=
  s.sideUse i [s.scaleTensor i t,
    if (f.map EFmt.isInt).getD false && (s.scaleTensor i t).isSome then s.zpTensor i t else none]

def State.qconvCheck (s : State) (i : Fin 16) (w : Nat) : Option Fail :=
  let sd := s.qconvSrc w
  let td := s.qconvDst w
  let src := sd.bind (s.tensor i)
  let tgt := td.bind (s.tensor i)
  let sf := src.bind (s.fmtOf i)
  let tf := tgt.bind (s.fmtOf i)
  firstFail [sd.bind (s.need i), s.need i (qAux w), td.bind (s.need i),
    commonForm w true true,
    failWhen (sd.isSome && td.isNone) (failF (sd.getD 0xFFFF)),
    (s.tensor i (qAux w)).bind fun a => failWhen (a.kind != 3 || a.fmtCode != 0) (failF a.ix),
    src.bind fun a => firstFail [failWhen (decide (2 ≤ a.kind)) (failF a.ix), s.steerFail i w a false,
      failWhen (!quantSource sf) (failF a.ix)],
    tgt.bind fun t => firstFail [
      failWhen (t.kind != 0 || t.accf != 0) (failF t.ix),
      s.steerFail i w t true,
      match tf, sf with
      | some (.op g), some h =>
        firstFail [
          failWhen (!t.steer && (g == .fp32 || decide (h.bits ≤ g.bits))) (failF t.ix),
          failWhen (!g.isInt && (s.zpTensor i t).isSome) (failF t.ix)]
      | _, _ => failF t.ix,
      s.residualFail i t (tf.getD .a16),
      (s.side i t t.olIx).bind fun l => failWhen (s.badOutliers i t l || (s.side i t t.ovIx).isNone) (failF t.ix)],
    match src, tgt, s.tensor i (qAux w) with
    | some a, some t, some q => firstFail [
        failWhen (!sameShape (s.extents i a) t.exts) (failR t.ix),
        failWhen (!sameShape q.exts (groupExts t t.exts)) (failR q.ix),
        s.useFail i t true, s.scaleUse i t tf, s.residualUse i t (tf.getD .a16),
        s.sideUse i [(s.side i t t.olIx).bind fun _ => s.side i t t.ovIx]]
    | _, _, _ => none,
    failWhen sd.isNone (some { err := .version, w0 := some (twVrec w), w1 := twVtag w })]

/-- A statistics field as QCONV derives from it (R159). -/
def statRead (c : Nat) : Dy × Conv :=
  match ofFp32 c with
  | .nan _ => (Dy.zero, .nan)
  | .inf n => (if n then Fmt.fp32.maxDy.neg else Fmt.fp32.maxDy, .sat)
  | v => (v.dy, .none)

/-- What QCONV converts a group with: scale and zero point as they are written, the scale used (none for a
conversion without scaling), and the statistics read. -/
structure QScale where
  sc : Nat := 0x3F80
  z : Nat := 0
  use : Option (Dy × Nat) := none
  hi : Dy := Dy.zero
  lo : Dy := Dy.zero
  deriving DecidableEq, Repr

/-- The scale and zero point of a target group (R161, R162, R165, R256), with the statistics' counts. Without a zero-point
tensor SMIN is read too, and a NaN or infinite one counts under R159: R165 does not say (DESIGN CHOICE, log 137). -/
def State.qconvScale (s : State) (i : Fin 16) (t q : Tensor) (f : Fmt) (plain : Bool) (gc : List Nat) :
    QScale × Counts :=
  let named := (s.scaleTensor i t).isSome
  let r := s.rdN (s.recPlace i q gc) 8
  let (hi, c1) := statRead (fld r 0 32)
  let (lo, c2) := statRead (fld r 32 32)
  let cs := (({} : Counts).add1 c1).add1 c2
  if !named then
    let z := if f.isInt then (s.scaleAt i t gc).2 else 0
    ({ use := if plain then none else some (⟨1, 0⟩, z), z := z }, {})
  else if plain then ({ hi := hi, lo := lo }, if t.carried then cs else {})
  else
    let (sc, z) := if f.isInt && !t.carried && (s.zpTensor i t).isNone then (deriveNoZp hi f.bits, 0)
      else derive hi lo f
    ({ sc := sc, z := z, use := some ((readScale sc).1, z), hi := hi, lo := lo }, cs)

/-- Write a group's scale and zero point into the side tensors, or its carried record (R165). -/
def State.putScale (s : State) (i : Fin 16) (n : Nat) (t : Tensor) (f : Fmt) (gc : List Nat) (q : QScale)
    (step : Nat) : State :=
  match s.scaleTensor i t with
  | none => s
  | some st =>
    if t.carried then
      let bf := fun d : Dy => (Fmt.bf16.encode d.val).1
      s.wrAny i n (s.recPlace i st gc) 16
        (mkCarried q.sc q.z (step % 2 ^ 16) 0 (bf q.hi) (bf q.lo))
    else
      let s := s.writePlace i n (s.place i st (.op .bf16) gc) q.sc
      match s.zpTensor i t with
      | some zt => if f.isInt then s.writePlace i n (s.place i zt (.op .int8) gc) q.z else s
      | none => s

/-- QCONV's data effect. -/
def State.qconvEffect (s : State) (i : Fin 16) (fl : Flight) : State :=
  let w := fl.word
  let src := (s.qconvSrc w).bind (s.tensor i)
  let tgt := (s.qconvDst w).bind (s.tensor i)
  match src, tgt, s.tensor i (qAux w), src.bind (s.fmtOf i), tgt.bind (s.fmtOf i) with
  | some a, some t, some q, some sf, some (.op f) =>
    let n := fl.node
    let step := fl.stepNo.toNat
    let plain := t.steer && decide (sf.bits ≤ f.bits)
    let cs := s.coverage i [a, t] (twScope w) t.exts
    let ol := s.side i t t.olIx
    let outs := s.outlierCoords i ol
    let k := s.sink i n t (.op f)
    let ov := s.side i t t.ovIx
    let kv := (ov.map fun v => s.sink i n v (.op .bf16)).getD k
    let start : State × List (List Nat × QScale) × Counts × Tally × Tally := (s, [], s.scaleConv i a sf cs, {}, {})
    let (s, gs, extra, y, yv) := cs.foldl (fun (acc : State × List (List Nat × QScale) × Counts × Tally × Tally) c =>
      let (s, gs, extra, y, yv) := acc
      let gc := groupCoord t c
      let (gs, qs, extra) : List (List Nat × QScale) × QScale × Counts :=
        match gs.find? fun e => e.1 == gc with
        | some e => (gs, e.2, extra)
        | none =>
          let (qs, c1) := s.qconvScale i t q f plain gc
          (gs ++ [(gc, qs)], qs, extra.plus c1)
      let v := (s.elemVal i a sf c).1
      match outs.findIdx? fun o => o == nth c t.gdim 0 with
      | some j =>
        -- R187: the value goes to its slot, the grid holds zero
        let (s, yv) := if ov.isSome then s.convWrite kv { yv with gather := y.gather } (c.set t.gdim j) v none
          else (s, { yv with gather := y.gather })
        let s := s.writePlace i n (s.place i t (.op f) c) (if f.isInt then qs.z else 0)
        let ck := s.classCoord k c
        (s, gs, extra, { y with
          gather := yv.gather
          groups := addGroup y.groups (linear (s.classExts k) ck) ck fun g => g.addZero v }, yv)
      | none =>
        let (s, y) := s.convWrite k y c v qs.use
        (s, gs, extra, y, yv)) start
    let s := gs.foldl (fun s g => s.putScale i n t f g.1 g.2 step) s
    let who := whoOf i n w fl.core.val
    -- the carried records stand as R165 writes them, so the close leaves them alone
    let (s, y, flags) := s.closeSink { k with t := { k.t with d := setFld k.t.d 78 1 0 } } y step who
      fl.core.val
    let (s, y) := if ov.isNone then (s, y) else
      let (s, yv, _) := s.closeSink kv { yv with gather := y.gather } step who fl.core.val
      (s, yv)
    let beyond := match ol with
      | some l => l.extRaw 0 - 16
      | none => 0
    let (s, flags) := if beyond = 0 then (s, flags)
      else ((s.bump fl.core.val 15 beyond).raise .outlierOverflow who ((ol.map (·.ix)).getD 0) beyond 0,
        flags ||| 8)
    (s.bumpCounts fl.core.val extra).made fl flags y.gather
  | _, _, _, _, _ => s.made fl 0 {}

def State.qconvNeeds (s : State) (i : Fin 16) (w : Nat) : List Nat :=
  match (s.qconvSrc w).bind (s.tensor i), (s.qconvDst w).bind (s.tensor i), s.tensor i (qAux w) with
  | some a, some t, some q =>
    let cs := s.coverage i [a, t] (twScope w) t.exts
    let gs := cs.foldl (fun gs c => insertNew (groupCoord t c) gs) []
    unite (s.coverUnits i [(a, false), (t, true)] cs) (s.recordUnits i q gs)
  | _, _, _ => []

/-- QCONV's dispatch. -/
def State.startQconv (s : State) (i : Fin 16) (n : Nat) (core : Fin 8) : State :=
  s.issue i n 0x11 core true
    (fun s w => ((s.qconvSrc w).bind (s.tensor i)).toList ++ ((s.qconvDst w).bind (s.tensor i)).toList)
    (fun s w => s.qconvCheck i w) (fun s w => s.qconvNeeds i w) (fun s f => s.qconvEffect i f)
    (fun s w => s.indexUnits i (((s.qconvDst w).bind (s.tensor i)).bind fun t => s.side i t t.olIx) 16)

-- RESCALE.

/-- Put codes of a scale and a zero point into the tensors a target names (R137, R176, R282). -/
def State.putCodes (s : State) (i : Fin 16) (n : Nat) (t : Tensor) (gc : List Nat) (sc z : Nat) : State :=
  let s := match s.scaleTensor i t with
    | some q => s.writePlace i n (s.place i q (.op .bf16) gc) sc
    | none => s
  match s.zpTensor i t with
  | some q => s.writePlace i n (s.place i q (.op .int8) gc) z
  | none => s

/-- The multiply and shift of R176, in code units of the output. -/
def rescaleUnits (d : Dy) (m sh : Nat) : Dy := (d.mul (Dy.ofInt m)).mul ⟨1, -(sh : Int)⟩

def State.rescaleCheck (s : State) (i : Fin 16) (w : Nat) : Option Fail :=
  firstFail [s.need i (qSrc w), s.need i (qAux w), s.need i (qDst w), commonForm w true false,
    match s.tensor i (qSrc w), s.tensor i (qDst w), s.tensor i (qAux w) with
    | some a, some t, some q =>
      let g := if a.isView then (s.descAt i a.wsrc).getD a else a
      let sf := s.fmtOf i a
      firstFail [
        failWhen (decide (2 ≤ a.kind)) (failF a.ix),
        s.steerFail i w a false,
        failWhen (!((sf.map EFmt.isInt).getD false || sf == some (.op .fp32))) (failF a.ix),
        failWhen (t.kind != 0 || t.accf != 0) (failF t.ix),
        s.steerFail i w t true,
        failWhen (!(((s.fmtOf i t).map EFmt.isInt).getD false) || t.carried) (failF t.ix),
        failWhen (q.kind != 3 || q.fmtCode != 0) (failF q.ix),
        failWhen (g.gsizeCode != t.gsizeCode || g.square != t.square || g.gdim != t.gdim) (failF t.ix),
        failWhen (!sameShape q.exts (groupExts t t.exts) && prodN q.exts != 1) (failF q.ix),
        failWhen (!sameShape (s.extents i a) t.exts) (failR t.ix),
        s.useFail i t true, s.sideUse i [s.scaleTensor i t, s.zpTensor i t]]
    | _, _, _ => none]

/-- The parameter record that serves an element of the target (R175). -/
def State.rescaleRec (s : State) (i : Fin 16) (t q : Tensor) (c : List Nat) : Nat :=
  s.recPlace i q (if sameShape q.exts (groupExts t t.exts) then groupCoord t c else [])

/-- RESCALE's data effect (R176, R177). With `M` zero the low bits of `ZO` that the target holds are written, uncounted
(log 115); the steward gathers p × 2^−SH in the target's code units, before its rounding (R246, log 117). A NaN
or infinite source is handed to it with `M` zero too, where R177 counts nothing (DESIGN CHOICE, log 138). -/
def State.rescaleEffect (s : State) (i : Fin 16) (fl : Flight) : State :=
  let w := fl.word
  match s.tensor i (qSrc w), s.tensor i (qDst w), s.tensor i (qAux w),
      (s.tensor i (qSrc w)).bind (s.fmtOf i), (s.tensor i (qDst w)).bind (s.fmtOf i) with
  | some a, some t, some q, some sf, some (.op f) =>
    let n := fl.node
    let cs := s.coverage i [a, t] (twScope w) t.exts
    let k := s.sink i n t (.op f)
    let named := (s.scaleTensor i t).isSome
    let (s, y, gs) := cs.foldl (fun (acc : State × Tally × List (List Nat × QScale)) c =>
      let (s, y, gs) := acc
      let gc := groupCoord t c
      let r := s.rdN (s.rescaleRec i t q c) 8
      let z := fld r 40 8
      let gs := if gs.any (·.1 == gc) then gs else gs ++ [(gc, { sc := fld r 48 16, z := z })]
      -- d is the code less its zero point, or the exact FP32 value; a special value as R130 has it
      let (d, special) : Dy × Option Val := match s.resolve i a c with
        | none => (Dy.zero, none)
        | some (b, c) =>
          let code := s.readPlace (s.place i b sf c)
          match sf with
          | .op .fp32 => match Fmt.fp32.decode code with
            | .num ng m e => ((Val.num ng m e).dy, none)
            | v => (Dy.zero, some v)
          | _ => (Dy.ofInt ((code : Int) - ((s.scaleAt i b (groupCoord b c)).2 : Nat)), none)
      let m := fld r 0 32
      let (code, cv) : Nat × Conv := if m = 0 then (z, .none)
        else match special with
          | some v => f.encScaled v ⟨1, 0⟩ z
          | none => encInt f.bits z (rescaleUnits d m (fld r 32 6))
      let s := s.writePlace i n (s.place i t (.op f) c) code
      let u := rescaleUnits d m (fld r 32 6)
      let v : Val := special.getD u.val
      let gk := s.classCoord k c
      let y := { y with
        counts := y.counts.add1 cv
        gather := y.gather.add v cv
        groups := addGroup y.groups (linear (s.classExts k) gk) gk fun g =>
          g.add (special.getD d.val) v (code == z || (named && (readScale (fld r 48 16)).1.m == 0)) cv }
      (s, y, gs)) (s, ({} : Tally), ([] : List (List Nat × QScale)))
    let s := gs.foldl (fun s g => s.putCodes i n t g.1 g.2.sc g.2.z) s
    let (s, y, flags) := s.closeSink k y fl.stepNo.toNat (whoOf i n w fl.core.val) fl.core.val
    s.made fl flags y.gather
  | _, _, _, _, _ => s.made fl 0 {}

def State.rescaleNeeds (s : State) (i : Fin 16) (w : Nat) : List Nat :=
  match s.tensor i (qSrc w), s.tensor i (qDst w), s.tensor i (qAux w) with
  | some a, some t, some q =>
    let cs := s.coverage i [a, t] (twScope w) t.exts
    unite (s.coverUnits i [(a, false), (t, true)] cs)
      (s.away (cs.foldl (fun us c => insertNew (s.rescaleRec i t q c / 64 * 64) us) []))
  | _, _, _ => []

/-- RESCALE's dispatch. -/
def State.startRescale (s : State) (i : Fin 16) (n : Nat) (core : Fin 8) : State :=
  s.issue i n 0x12 core true
    (fun s w => (s.tensor i (qSrc w)).toList ++ (s.tensor i (qDst w)).toList)
    (fun s w => s.rescaleCheck i w) (fun s w => s.rescaleNeeds i w) (fun s f => s.rescaleEffect i f)

end Sys2Proof.Machine
end

