-- ==== Sys2Proof/Machine/MoveUnit.lean ====
section
/-! DEFINITION. Data movement by the stack adapters: MOVE (R137, R138, R398), GATHER and SCATTER (R350 to
R353, R399), with the body of R397. -/
namespace Sys2Proof.Machine

-- Body fields of R397.
def mSrc (w : Nat) : Nat := fld w 160 16
def mDst (w : Nat) : Nat := fld w 176 16
def mIdx (w : Nat) : Nat := fld w 192 16
def mIdim (w : Nat) : Nat := fld w 208 3
def mPair (w k : Nat) : Nat := fld w (212 + 3 * k) 3

/-- A target element with the source elements written to it, in the order of the writes. -/
abbrev MovePair := List Nat × List (List Nat)

/-- Source coordinates of a MOVE's target element (R398). -/
def movePairs (w : Nat) (exts : List Nat) : List MovePair :=
  (coordsOf exts).map fun c =>
    let n := exts.length
    (c, [(List.range n).foldl (fun z k => z.set (mPair w k) (nth c k 0)) (List.replicate n 0)])

/-- The coordinate an index stands for (R350). -/
def State.indexed (s : State) (i : Fin 16) (l : Tensor) (j e : Nat) : Nat :=
  if e = 0 then 0 else ((s.indexAt i l j) % (e : Int)).toNat

/-- GATHER: target coordinate j takes source coordinate i_j (R350). -/
def State.gatherPairs (s : State) (i : Fin 16) (w : Nat) (src dst l : Tensor) : List MovePair :=
  let d := mIdim w
  let e := nth (s.extents i src) d 0
  (coordsOf (s.extents i dst)).map fun c => (c, [c.set d (s.indexed i l (nth c d 0) e)])

/-- SCATTER: source coordinate j goes to target coordinate i_j; the writes of a repeated index are in free
order, by the draws `free` onward (R352, log 5). -/
def State.scatterPairs (s : State) (i : Fin 16) (w : Nat) (src dst l : Tensor) : List MovePair :=
  let d := mIdim w
  let n := nth (s.extents i src) d 0
  let e := nth (s.extents i dst) d 0
  (coordsOf (s.extents i dst)).zipIdx.filterMap fun (c, k) =>
    let js := (List.range n).filter fun j => s.indexed i l j e == nth c d 0
    if js = [] then none
    else some (c, (js.rotateLeft ((Config.freeBits (s.free + k)).toNat % js.length)).map fun j => c.set d j)

/-- The source groups that a target group receives elements from (R137). -/
def State.feeds (s : State) (i : Fin 16) (src dst : Tensor) (ps : List MovePair) (g : List Nat) :
    List (Tensor × List Nat) :=
  ps.foldl (fun a p => if groupCoord dst p.1 = g then
      p.2.foldl (fun a c => match s.resolve i src c with
        | some (t, c) => insertNew (t, groupCoord t c) a
        | none => a) a
    else a) []

/-- The groups of the target that the pairs write. -/
def targetGroups (dst : Tensor) (ps : List MovePair) : List (List Nat) :=
  ps.foldl (fun a p => insertNew (groupCoord dst p.1) a) []

/-- Equal formats copy bits, but for a carried target (R137, R168). -/
def copies (dst : Tensor) (sf df : EFmt) : Bool :=
  sf == df && !(dst.carried && dst.accf == 0)

/-- Target groups of an integer copy that gather several source groups, and so convert (R137). -/
def State.mixedGroups (s : State) (i : Fin 16) (src dst : Tensor) (df : EFmt) (ps : List MovePair) :
    List (List Nat) :=
  if df.isInt then (targetGroups dst ps).filter fun g => decide (1 < (s.feeds i src dst ps g).length) else []

/-- The value an element is moved as: between floats the plain code's (R138), otherwise the exact scaled
value (R154). -/
def State.movedVal (s : State) (i : Fin 16) (src : Tensor) (sf : EFmt) (plain : Bool) (c : List Nat) : Val :=
  if plain then sf.decode (s.elemCode i src sf c) else (s.elemVal i src sf c).1

/-- Convert into a group of given scales under the scale code and zero point that the target's group has; an integer
source (`through`) reaches a float target through its scale too (R136, R138). -/
def State.convUnder (s : State) (k : Sink) (y : Tally) (c : List Nat) (v : Val) (step : Nat) (through : Bool)
    (sz : Nat × Nat) : State × Tally :=
  match k.f with
  | .op g =>
    if (through || g.isInt) && !k.t.carried then
      let (d, cv) := readScale sz.1
      let y := if s.freshGroup k y c then { y with counts := y.counts.add1 cv } else y
      s.convWrite k y c v (some (d, if g.isInt then sz.2 else 0))
    else s.convGroup k y c v step
  | _ => s.convGroup k y c v step

/-- The same under what the target's side tensors hold, which is left as it stands (R124, log 122). -/
def State.convThrough (s : State) (k : Sink) (y : Tally) (c : List Nat) (v : Val) (step : Nat)
    (through : Bool) : State × Tally :=
  s.convUnder k y c v step through (s.scaleAt k.i k.t (groupCoord k.t c))

/-- Scale and zero point derived from the exact extremes of the values a group is to hold, with residuals
added (R137, R161, R268, R616). -/
def deriveFrom (vs : List Val) (f : Fmt) : Nat × Nat :=
  let ds := (vs.filter fun v => !v.isNan).map Val.extreme
  match ds with
  | [] => derive Dy.zero Dy.zero f
  | d :: r => derive (r.foldl Dy.max d) (r.foldl Dy.min d) f

/-- The data effect of MOVE, GATHER and plain SCATTER over their pairs. A copy into W64 leaves every code unchanged, as R137
has it, 0x8000_0000_0000_0000 too, which R121 says the engine never writes (DESIGN CHOICE, log 136). -/
def State.moveEffect (s : State) (fl : Flight) (src dst : Tensor) (ps : List MovePair) : State :=
  let i := fl.slot
  let n := fl.node
  match s.fmtOf i src, s.fmtOf i dst with
  | some sf, some df =>
    let core := n % 8
    let who := whoOf i n fl.word core
    let step := fl.stepNo.toNat
    let k := s.sink i n dst df fl.fixed
    let s0 := s
    if copies dst sf df then
      let mixed := s.mixedGroups i src dst df ps
      let conv := ps.filter fun p => mixed.contains (groupCoord dst p.1)
      let same := ps.filter fun p => !mixed.contains (groupCoord dst p.1)
      -- the one source group of each target group gives its scale and zero point
      let sz := fun g : List Nat => match s0.feeds i src dst ps g with
        | x :: _ => s0.scaleAt i x.1 x.2
        | [] => s0.scaleAt i dst g
      let s := same.foldl (fun s p => p.2.foldl (fun s c =>
        let code := match s0.resolve i src c with
          | some (t, c) => s0.readPlace (s0.place i t sf c)
          | none => if df.isInt then (sz (groupCoord dst p.1)).2 else 0
        s.writePlace i n (s.place i dst df p.1) code) s) s
      let s := if df.isInt then (targetGroups dst same).foldl (fun s g =>
          s.putCodes i n dst g (sz g).1 (sz g).2) s else s
      match df with
      | .op f =>
        let derived := fun g : List Nat =>
          if (s0.scaleTensor i dst).isNone then s0.scaleAt i dst g
          else deriveFrom ((conv.filter fun p => groupCoord dst p.1 == g).flatMap fun p =>
            p.2.map fun c => withResidual (s0.elemVal i src sf c).1 (s0.residual k p.1).1) f
        let (s, y) := conv.foldl (fun (a : State × Tally) p => p.2.foldl (fun a c =>
          let (sc, z) := derived (groupCoord dst p.1)
          a.1.convWrite k a.2 p.1 (s0.elemVal i src sf c).1 (some ((readScale sc).1, z))) a) (s, {})
        let s := if (s0.scaleTensor i dst).isNone then s else
          mixed.foldl (fun s g => s.putCodes i n dst g (derived g).1 (derived g).2) s
        let (s, y, flags) := s.closeSink k y step who core
        (s.bumpCounts core (s0.scaleConv i src sf (conv.flatMap (·.2)))).made fl flags y.gather
      | _ => s.made fl 0 {}
    else
      let plain := !sf.isInt && !df.isInt && !(dst.carried && dst.accf == 0)
      let (s, y) := ps.foldl (fun (a : State × Tally) p => p.2.foldl (fun a c =>
        a.1.convThrough k a.2 p.1 (s0.movedVal i src sf plain c) step sf.isInt) a) (s, {})
      let (s, y, flags) := s.closeSink k y step who core
      (s.bumpCounts core (if plain then {} else s0.scaleConv i src sf (ps.flatMap (·.2)))).made fl flags
        y.gather
  | _, _ => s.made fl 0 {}

/-- SCATTER in add form: every contribution is added by the basin of its element (R343, R352). A NaN counts
and adds nothing, an infinity enters as the target's largest finite magnitude (R133, R134, R136). -/
def State.scatterAdd (s : State) (fl : Flight) (src dst : Tensor) (ps : List MovePair) : State :=
  let i := fl.slot
  match s.fmtOf i src, s.fmtOf i dst with
  | some sf, some df =>
    let core := fl.node % 8
    let s0 := s
    let (s, cs) := ps.foldl (fun (a : State × Counts) p => p.2.foldl (fun (a : State × Counts) c =>
      match s0.movedVal i src sf (!sf.isInt) c with
      | .nan _ => (a.1, a.2.add1 .nan)
      | v =>
        let (s, c) := a.1.accumulate i fl.node dst df p.1 v
        (s, a.2.plus c)) a) (s, ({} : Counts))
    let cs := if sf.isInt then cs.plus (s0.scaleConv i src sf (ps.flatMap (·.2))) else cs
    (s.bumpCounts core cs).made fl 0 {}
  | _, _ => s.made fl 0 {}

/-- Checks that the movements share: kinds, formats in force, feedback and carried targets (R326, R168,
R267). -/
def State.moveFormat (s : State) (i : Fin 16) (w : Nat) (src dst : Tensor) (add : Bool)
    (ps : List MovePair) : Option Fail :=
  let sf := s.fmtOf i src
  let df := s.fmtOf i dst
  firstFail [
    failWhen (decide (2 ≤ src.kind)) (failF src.ix), failWhen (decide (2 ≤ dst.kind)) (failF dst.ix),
    s.steerFail i w src false, s.steerFail i w dst true,
    failWhen sf.isNone (failF src.ix), failWhen df.isNone (failF dst.ix),
    match sf, df with
    | some sf, some df =>
      let w64 := match df with
        | .w64 _ => true
        | _ => false
      if add then
        failWhen (!(w64 || df == .op .fp32) || ((s.under i dst).carried && (s.under i dst).accf == 0)) (failF dst.ix)
      else if dst.isView then none
      else firstFail [
        failWhen (dst.carried && dst.accf == 0 && (s.side i dst dst.olIx).isSome) (failF dst.ix),
        if copies dst sf df && s.mixedGroups i src dst df ps == [] then none else s.residualFail i dst df]
    | _, _ => none]

/-- Step 4 for a target and the carried records that its writes merge into (R342). -/
def State.targetUse (s : State) (i : Fin 16) (dst : Tensor) (plain : Bool) : Option Fail :=
  firstFail [s.useFail i dst plain,
    if dst.carried && !dst.isView && dst.accf == 0 then (s.scaleTensor i dst).bind fun q => s.useFail i q false
    else none]

/-- Step 4 for a movement over its pairs (R342): its target, the scale and zero-point tensors that an integer copy writes
(R137), and the residual tensor of a conversion (R268). -/
def State.moveUse (s : State) (i : Fin 16) (src dst : Tensor) (add : Bool) (ps : List MovePair) : Option Fail :=
  firstFail [s.targetUse i dst (!add),
    match s.fmtOf i src, s.fmtOf i dst with
      | some sf, some df => if add then none else firstFail [
          if copies dst sf df && df.isInt then s.sideUse i [s.scaleTensor i dst, s.zpTensor i dst] else none,
          if copies dst sf df && s.mixedGroups i src dst df ps == [] then none else s.residualUse i dst df]
      | _, _ => none]

/-- Pairs of a movement as its opcode has them. -/
def State.pairsOf (s : State) (i : Fin 16) (w : Nat) (src dst : Tensor) : List MovePair :=
  match twOpc w, s.tensor i (mIdx w) with
  | 0x31, some l => s.gatherPairs i w src dst l
  | 0x32, some l => s.scatterPairs i w src dst l
  | 0x30, _ => movePairs w (s.extents i dst)
  | _, _ => []

/-- The pairs an instruction covers (R377). -/
def State.coveredPairs (s : State) (i : Fin 16) (w : Nat) (src dst : Tensor) : List MovePair :=
  ((s.pairsOf i w src dst).map fun p => (p.1, p.2.filter fun c =>
    s.covers i [dst] (twScope w) p.1 && s.covers i [src] (twScope w) c)).filter fun p => p.2 != []

def State.moveCheck (s : State) (i : Fin 16) (w : Nat) : Option Fail :=
  firstFail [s.need i (mSrc w), s.need i (mDst w), commonForm w true false,
    match s.tensor i (mSrc w), s.tensor i (mDst w) with
    | some a, some t =>
      let n := t.dims
      let ps := (List.range n).map (mPair w)
      let pairs := failWhen (a.dims != n || !ps.Nodup || ps.any fun p => decide (a.dims ≤ p)) (failF t.ix)
      firstFail [
        pairs,
        s.moveFormat i w a t false (if pairs.isNone then s.coveredPairs i w a t else []),
        failWhen ((List.range n).any fun k =>
          nth (s.extents i t) k 0 != nth (s.extents i a) (mPair w k) 0) (failR t.ix),
        s.moveUse i a t false (s.coveredPairs i w a t)]
    | _, _ => none]

/-- Checks of GATHER and SCATTER (R351, R353, R399). -/
def State.indexCheck (s : State) (i : Fin 16) (w : Nat) : Option Fail :=
  let scat := twOpc w == 0x32
  let add := scat && twAcc w
  firstFail [s.need i (mSrc w), s.need i (mDst w), s.need i (mIdx w), commonForm w (!scat) false,
    match s.tensor i (mSrc w), s.tensor i (mDst w), s.tensor i (mIdx w) with
    | some a, some t, some l =>
      let d := mIdim w
      let len := l.extRaw 0
      let form := failWhen (l.kind != 2 || decide (a.dims ≤ d) || decide (t.dims ≤ d)) (failF l.ix)
      let ea := s.extents i a
      let et := s.extents i t
      let range := failWhen ((List.range 6).any (fun k => k != d && nth ea k 1 != nth et k 1)
          || (if scat then nth ea d 0 else nth et d 0) != len
          || (len != 0 && (if scat then nth et d 0 else nth ea d 0) == 0)) (failR t.ix)
      firstFail [
        form,
        s.moveFormat i w a t add (if form.isNone && range.isNone then s.coveredPairs i w a t else []),
        range, s.moveUse i a t add (s.coveredPairs i w a t)]
    | _, _, _ => none]

def State.moveNeeds (s : State) (i : Fin 16) (w : Nat) : List Nat :=
  match s.tensor i (mSrc w), s.tensor i (mDst w) with
  | some a, some t =>
    let through := ((s.fmtOf i a).map EFmt.isInt).getD false
    s.away ((s.coveredPairs i w a t).foldl (fun us p =>
      p.2.foldl (fun us c => unite us (s.readUnits i a c)) (unite us (s.writeUnits i t p.1 through))) [])
  | _, _ => []

/-- The effect of a movement at its opcode. -/
def State.movement (s : State) (fl : Flight) : State :=
  let i := fl.slot
  let w := fl.word
  match s.tensor i (mSrc w), s.tensor i (mDst w) with
  | some a, some t =>
    let ps := s.coveredPairs i w a t
    -- the draws of R352 are used up
    let s := if twOpc w = 0x32 then { s with free := s.free + prodN (s.extents i t) } else s
    if twOpc w = 0x32 && twAcc w then s.scatterAdd fl a t ps else s.moveEffect fl a t ps
  | _, _ => s.made fl 0 {}

def State.moveNames (s : State) (i : Fin 16) (w : Nat) : List Tensor :=
  (s.tensor i (mSrc w)).toList ++ (s.tensor i (mDst w)).toList

/-- Units of the index tensor, which the pairs and so the checks depend on (R77, R350). -/
def State.indexEarly (s : State) (i : Fin 16) (w : Nat) : List Nat :=
  s.indexUnits i (s.tensor i (mIdx w)) (((s.tensor i (mIdx w)).map fun l => l.extRaw 0).getD 0)

/-- MOVE's dispatch. -/
def State.startMove (s : State) (i : Fin 16) (n : Nat) : State :=
  s.issue i n 0x30 0 false (fun s w => s.moveNames i w)
    (fun s w => s.moveCheck i w) (fun s w => s.moveNeeds i w) (fun s f => s.movement f)

/-- GATHER's dispatch. -/
def State.startGather (s : State) (i : Fin 16) (n : Nat) : State :=
  s.issue i n 0x31 0 false (fun s w => s.moveNames i w)
    (fun s w => s.indexCheck i w) (fun s w => s.moveNeeds i w) (fun s f => s.movement f)
    (fun s w => s.indexEarly i w)

/-- SCATTER's dispatch. -/
def State.startScatter (s : State) (i : Fin 16) (n : Nat) : State :=
  s.issue i n 0x32 0 false (fun s w => s.moveNames i w)
    (fun s w => s.indexCheck i w) (fun s w => s.moveNeeds i w) (fun s f => s.movement f)
    (fun s w => s.indexEarly i w)

end Sys2Proof.Machine
end

