-- ==== Sys2Proof/Machine/Fp.lean ====
section
/-! DEFINITION. The FP32 arithmetic of the row unit and the update unit (R293, R294, R314): each operation
rounds once under R127, replaces results that are not finite, and counts. -/
namespace Sys2Proof.Machine

/-- An FP32 code with the counts that forming it took. -/
structure Fp where
  c : Nat
  k : Counts := {}
  deriving DecidableEq, Repr

def Fp.val (a : Fp) : Val := ofFp32 a.c
/-- A value used again: its counts are taken elsewhere. -/
def Fp.pure (a : Fp) : Fp := ⟨a.c, {}⟩

/-- The sign of a NaN that an operation on a NaN gives is stated nowhere: free (log 4). -/
def fpNan (a b : Nat) : Nat :=
  0x7FC00000 + (if (Config.approx 2 (a + 2 ^ 32 * b)).getLsbD 0 then 2 ^ 31 else 0)

/-- Round an exact value once, with the counts of its operands and its own. -/
def fpRound (k : Counts) (v : Val) : Fp :=
  let (c, cv) := toFp32 v
  ⟨c, k.add1 cv⟩

/-- An operation of two operands: a NaN operand gives a NaN (R294). -/
def fp2 (a b : Fp) (op : Counts → Val → Val → Fp) : Fp :=
  let k := a.k.plus b.k
  if a.val.isNan || b.val.isNan then ⟨fpNan a.c b.c, k⟩ else op k a.val b.val

def Fp.add (a b : Fp) : Fp := fp2 a b fun k x y => fpRound k (addVal x y)
def Fp.neg (a : Fp) : Fp := ⟨Nat.xor a.c (2 ^ 31), a.k⟩
def Fp.sub (a b : Fp) : Fp := a.add b.neg
def Fp.mul (a b : Fp) : Fp := fp2 a b fun k x y => fpRound k (x.dy.mul y.dy).val
/-- The larger of two values. -/
def Fp.max (a b : Fp) : Fp := fp2 a b fun k x y => ⟨if x.dy.lt y.dy then b.c else a.c, k⟩
def Fp.min (a b : Fp) : Fp := fp2 a b fun k x y => ⟨if y.dy.lt x.dy then b.c else a.c, k⟩

/-- Quotient, rounded once; a non-zero value over zero is the largest finite magnitude and counts saturating,
zero over zero is +0 and counts NaN (R294). -/
def Fp.div (a b : Fp) : Fp := fp2 a b fun k x y =>
  match x, y with
  | .num nx mx ex, .num ny my ey =>
    if my = 0 then
      if mx = 0 then ⟨0, k.add1 .nan⟩ else ⟨Fmt.fp32.signed (nx != ny) fp32Max, k.add1 .sat⟩
    else
      let (c, cv) := Fmt.fp32.encQuot (mx != 0 && nx != ny) mx my (ex - ey)
      ⟨c, k.add1 cv⟩
  | _, _ => ⟨0, k⟩

/-- Square root of m × 2^e to 64 bits and more, with a last bit that says it was cut. -/
def rootDy (m : Nat) (e : Int) : Dy :=
  let m' := if e % 2 = 0 then m else 2 * m
  let e' := if e % 2 = 0 then e else e - 1
  let q := Nat.sqrt (m' * 2 ^ 128)
  ⟨2 * q + b2n (q * q != m' * 2 ^ 128), e' / 2 - 65⟩

/-- Square root, rounded once; of a negative value +0, counted NaN (R294). -/
def Fp.sqrt (a : Fp) : Fp :=
  match a.val with
  | .num n m e => if m = 0 then ⟨0, a.k⟩ else if n then ⟨0, a.k.add1 .nan⟩ else fpRound a.k (rootDy m e).val
  | _ => ⟨fpNan a.c 0, a.k⟩

/-- Quotient of exact numbers to 128 bits or more, cut toward minus infinity. -/
def Dy.quot (a b : Dy) : Dy :=
  let sh := 128 + Nat.log2 b.m.natAbs
  if b.m = 0 then Dy.zero else ⟨(a.m * (2 ^ sh : Nat)) / b.m, a.e - b.e - sh⟩

/-- The relative bound of R293 on exponentials and reciprocal square roots, just below 2⁻³⁰. -/
def relBound : Dy := ⟨1073741823, -60⟩

/-- Reciprocal square root within its bound, rounded once; of zero the largest finite magnitude, counted
saturating (R293, R294). -/
def Fp.rsqrt (a : Fp) : Fp :=
  match a.val with
  | .num n m e =>
    if m = 0 then ⟨fp32Max, a.k.add1 .sat⟩
    else if n then ⟨0, a.k.add1 .nan⟩
    else
      let v := Dy.quot (Dy.ofInt 1) (rootDy m e)
      fpRound a.k (within 1 a.c v (v.mul relBound)).val
  | _ => ⟨fpNan a.c 0, a.k⟩

/-- Exponential within its bound, rounded once. -/
def Fp.exp (a : Fp) : Fp :=
  match a.val with
  | .num .. => fpRound a.k (expFree a.val.dy).val
  | _ => ⟨fpNan a.c 0, a.k⟩

/-- Sum in order, rounding each addition (R293). -/
def fpSum (l : List Fp) : Fp := l.foldl Fp.add ⟨0, {}⟩

/-- A whole number as FP32; a row's length is exact. -/
def fpOfNat (n : Nat) : Fp := ⟨(toFp32 (Dy.ofInt n).val).1, {}⟩

/-- An input value: an infinity is the largest finite FP32 magnitude and counts saturating, every other value
is rounded once (R293, R294). A NaN is carried. -/
def fpInput (v : Val) : Fp :=
  match v with
  | .nan n => ⟨0x7FC00000 + (if n then 2 ^ 31 else 0), {}⟩
  | .inf n => ⟨Fmt.fp32.signed n fp32Max, ({} : Counts).add1 .sat⟩
  | v => fpRound {} v

-- Derivatives of the stashed input (R300), as exact numbers good to far beyond their bound.

/-- Logistic function. -/
def sigmaDy (x : Dy) : Dy :=
  if (⟨64, 0⟩ : Dy).lt x then Dy.ofInt 1
  else if x.lt ⟨-64, 0⟩ then Dy.zero
  else
    let e := (expDy x.neg).cut 256
    Dy.quot (Dy.ofInt 1) ((Dy.ofInt 1).add e)
def tanhDy (x : Dy) : Dy := ((sigmaDy (x.mul ⟨2, 0⟩)).mul ⟨2, 0⟩).sub (Dy.ofInt 1)

/-- 1 / √(2π) and √(2/π) to 128 fraction bits; the decimal constants of GELU's tanh form. -/
def invRoot2Pi : Dy := ⟨135753023439836232162591007175785461952, -128⟩
def root2OverPi : Dy := ⟨271506046879672464325182014351570923904, -128⟩
def gelu1 : Dy := ⟨15215726036869763393764795571311515575, -128⟩
def gelu3 : Dy := ⟨45647178110609290181294386713934546726, -128⟩

/-- Standard normal density, and its series for the distribution. -/
def phiDy (x : Dy) : Dy :=
  let h := ((x.mul x).mul ⟨1, -1⟩).cut 200
  if (⟨100, 0⟩ : Dy).lt h then Dy.zero else (invRoot2Pi.mul (expDy h.neg)).cut 200

def normSeries (x2 : Dy) : Nat → Dy → Dy → Nat → Dy
  | 0, _, acc, _ => acc
  | k + 1, term, acc, i =>
    let t := ((Dy.quot (term.mul x2) (Dy.ofInt (2 * i + 1))).cut 160)
    normSeries x2 k t (acc.add t) (i + 1)

/-- Standard normal distribution. -/
def normDy (x : Dy) : Dy :=
  if (⟨8, 0⟩ : Dy).lt x then Dy.ofInt 1
  else if x.lt ⟨-8, 0⟩ then Dy.zero
  else
    let s := normSeries ((x.mul x).cut 160) 200 (x.cut 160) (x.cut 160) 1
    (Dy.add ⟨1, -1⟩ ((phiDy x).mul s)).cut 160

/-- f′(x) of a function of the second table of R300; α is the parameter. -/
def derivDy (dfn : Nat) (x alpha : Dy) : Dy :=
  let one := Dy.ofInt 1
  let big := (⟨64, 0⟩ : Dy).lt x
  let low := x.lt ⟨-64, 0⟩
  match dfn with
  | 0x8 => if big then one else if low then Dy.zero else (normDy x).add (x.mul (phiDy x))
  | 0x9 =>
    if big then one else if low then Dy.zero
    else
      let x2 := x.mul x
      let t := tanhDy ((root2OverPi.mul (x.mul (one.add (gelu1.mul x2)))).cut 256)
      let a := (one.add t).mul ⟨1, -1⟩
      let b := ((x.mul ⟨1, -1⟩).mul (one.sub (t.mul t))).mul (root2OverPi.mul (one.add (gelu3.mul x2)))
      (a.add b).cut 200
  | 0xA => if big then one else if low then Dy.zero
    else let g := sigmaDy x
      g.mul (one.add (x.mul (one.sub g)))
  | 0xB => sigmaDy x
  | 0xC => if Dy.zero.lt x then one else if x.lt ⟨-1024, 0⟩ then alpha.mul ⟨1, -1477⟩ else alpha.mul (expDy x)
  | _ =>
    if big then one else if low then Dy.zero
    else
      let u := one.add ((expDy x).cut 256)
      let u2 := (u.mul u).cut 256
      let t := Dy.quot (u2.sub one) (u2.add one)
      t.add ((x.mul (sigmaDy x)).mul (one.sub (t.mul t)))

/-- f′(x) with absolute error below 2⁻²², rounded to FP32 (R302). -/
def Fp.deriv (dfn alpha : Nat) (x : Fp) : Fp :=
  match x.val with
  | .num .. =>
    let d := derivDy dfn x.val.dy (Fmt.bf16.decode alpha).dy
    fpRound x.k (within (16 + dfn) (x.c + 2 ^ 32 * alpha) d ⟨2 ^ 18 - 1, -40⟩).val
  | _ => ⟨fpNan x.c 0, x.k⟩

end Sys2Proof.Machine
end

