-- ==== Sys2Proof/Machine/RowUnit.lean ====
section
/-! DEFINITION. The row unit: MAXIDX (R225 to R228, R388), ROWREC (R296 to R299, R394 to R396) and DERIV
(R300 to R303). -/
namespace Sys2Proof.Machine

-- MAXIDX.

/-- A record of MAXIDX (R225), indices as 32-bit codes; the default is the empty record (R227). -/
structure MaxRec where
  vmax : Nat := fp32MinCode
  vmin : Nat := fp32Max
  imax : Nat := 0xFFFFFFFF
  imin : Nat := 0xFFFFFFFF
  deriving DecidableEq, Repr

def MaxRec.pack (r : MaxRec) : Nat :=
  put 0 32 r.vmax + put 32 32 r.vmin + put 64 32 r.imax + put 96 32 r.imin

/-- An element as MAXIDX takes it (R226): none for a NaN, else the FP32 code, zeros with their sign. -/
def maxidxTake (f : EFmt) (v : Val) : Option Nat × Conv :=
  match v with
  | .nan _ => (none, .nan)
  | .inf n =>
    let m := match f with
      | .op g => g.maxDy
      | _ => Fmt.bf16.maxDy
    (some (toFp32 (if n then m.neg else m).val).1, .sat)
  | v => (some (toFp32 v).1, (toFp32 v).2)

/-- Take one value at a K index (R226): among equal values the lowest index stands, and the values come in
ascending order. -/
def MaxRec.take (r : MaxRec) (c k : Nat) : MaxRec :=
  let first := r.imax == 0xFFFFFFFF
  let up := first || (ofFp32 r.vmax).dy.lt (ofFp32 c).dy
  let dn := first || (ofFp32 c).dy.lt (ofFp32 r.vmin).dy
  { vmax := if up then c else r.vmax, imax := if up then k else r.imax
    vmin := if dn then c else r.vmin, imin := if dn then k else r.imin }

/-- Merge of one half of two records: the better value with its index, at equal values the one of the lower signed index,
so that the merge commutes (R228); of equal values at one index, that of the lower code. A stored NaN gives way and a stored infinity is the largest finite magnitude, as R159 has it (log 116). -/
def mergeHalf (larger : Bool) (ov oi nv ni : Nat) : Nat × Nat :=
  match statStored ov with
  | none => (nv, ni)
  | some o =>
    let n := (ofFp32 nv).dy
    let ov := if (ofFp32 ov).isInf then (toFp32 o.val).1 else ov
    if (if larger then o.lt n else n.lt o) then (nv, ni)
    else if (if larger then n.lt o else o.lt n) then (ov, oi)
    else if sgn 32 oi < sgn 32 ni then (ov, oi)
    else if sgn 32 ni < sgn 32 oi then (nv, ni)
    else (min ov nv, oi)

/-- The basin's merge of R228 into a stored record. -/
def MaxRec.merge (old : Nat) (r : MaxRec) : MaxRec :=
  let (a, ia) := mergeHalf true (fld old 0 32) (fld old 64 32) r.vmax r.imax
  let (b, ib) := mergeHalf false (fld old 32 32) (fld old 96 32) r.vmin r.imin
  ⟨a, b, ia, ib⟩

/-- The row unit of a core has worked for `clk` clk, after the throttle wait its former work asks for (R292, R567,
R571). -/
def State.rowWork (s : State) (core : Fin 8) (clk : Nat) : State :=
  let level := s.gov.level.toNat
  let wait := cdiv (s.hg.rowLast[core] * level) (16 - level)
  ({ s with hg := { s.hg with rowLast := s.hg.rowLast.set core clk } }.bump core.val 6 wait).bump core.val 25 clk

/-- clk of ROWREC and of a row-wise DERIV over `m` rows of `n` columns (R292). -/
def rowClk (m n : Nat) : Nat := 64 + (if n ≤ 65536 then (m + 1) * cdiv n 32 else 2 * m * cdiv n 32)

/-- clk of an element-wise DERIV over `e` elements: its rate is that of its function (R292, R301). -/
def derivClk (fn e : Nat) : Nat :=
  64 + cdiv e (if fn ≤ 4 then 32 else if fn = 9 ∨ fn = 10 ∨ fn = 11 then 8 else if fn = 12 then 16 else 4)

/-- Rows of a tensor: the coordinate tuples with dimension `d` left at 0, the lowest dimension fastest. -/
def rowsOf (e : List Nat) (d : Nat) : List (List Nat) := coordsOf (e.set d 1)

def State.maxidxCheck (s : State) (i : Fin 16) (w : Nat) : Option Fail :=
  firstFail [s.need i (pDA w), s.need i (pDC w), commonForm w false false,
    match s.tensor i (pDA w), s.tensor i (pDC w) with
    | some a, some d => firstFail [
        failWhen (decide (2 ≤ a.kind)) (failF a.ix), s.steerFail i w a false,
        failWhen (s.operandFmt i a).isNone (failF a.ix),
        failWhen (d.kind != 3 || d.fmtCode != 1) (failF d.ix),
        failWhen (decide (a.dims ≤ pAkd w)) (failF a.ix),
        failWhen (pOuta w != 0 || decide (s.ext i a (pAkd w) < pK0 w + pKlen w)) (failR a.ix),
        failWhen (prodN d.exts != (rowsOf (s.extents i a) (pAkd w)).length) (failR d.ix),
        s.useFail i d (!twAcc w)]
    | _, _ => none]

/-- The elements of a row that MAXIDX reads: K index and coordinates. -/
def State.maxidxRow (s : State) (i : Fin 16) (w : Nat) (a : Tensor) (row : List Nat) : List (Nat × List Nat) :=
  (((List.range (pKlen w)).map (pK0 w + ·)).map fun k => (k, row.set (pAkd w) k)).filter fun x =>
    s.covers i [a] (twScope w) x.2

/-- The rows MAXIDX covers, with their numbers: all, or with SCOPE 1 those that hold any of this node's elements
(R388). -/
def State.maxidxRows (s : State) (i : Fin 16) (w : Nat) (a : Tensor) : List (List Nat × Nat) :=
  let all := (rowsOf (s.extents i a) (pAkd w)).zipIdx
  if twScope w then all.filter fun r =>
    (List.range (s.ext i a (pAkd w))).any fun k => s.covers i [a] true (r.1.set (pAkd w) k)
  else all

/-- MAXIDX's data effect: a record for each row, written, or merged in the basin that holds the stored one (R228). -/
def State.maxidxEffect (s : State) (fl : Flight) : State :=
  let i := fl.slot
  let w := fl.word
  match s.tensor i (pDA w), s.tensor i (pDC w), (s.tensor i (pDA w)).bind (s.fmtOf i) with
  | some a, some d, some f =>
    let s0 := s
    let read := s0.maxidxRow i w a
    let all := s.maxidxRows i w a
    let (s, cs) := all.foldl (fun (acc : State × Counts) r =>
      let (q, cs) := (read r.1).foldl (fun (b : MaxRec × Counts) x =>
        match maxidxTake f (s0.elemVal i a f x.2).1 with
        | (none, cv) => (b.1, b.2.add1 cv)
        | (some c, cv) => (b.1.take c x.1, b.2.add1 cv)) (({} : MaxRec), acc.2)
      let p := acc.1.recPlace i d (unlinear d.exts r.2)
      (if twAcc w then acc.1.mergeAt i fl.node p 16 q.pack .index fun old => (MaxRec.merge old q).pack
        else acc.1.wrAny i fl.node p 16 q.pack, cs)) (s, {})
    let cs := cs.plus (s0.scaleConv i a f (all.flatMap fun r => (read r.1).map (·.2)))
    ((s.bumpCounts fl.core.val cs).rowWork fl.core (64 + all.length * cdiv (pKlen w) 32)).made fl 0 {}
  | _, _, _ => s.made fl 0 {}

def State.maxidxNeeds (s : State) (i : Fin 16) (w : Nat) : List Nat :=
  match s.tensor i (pDA w), s.tensor i (pDC w) with
  | some a, some _ =>
    s.coverUnits i [(a, false)] ((s.maxidxRows i w a).flatMap fun r => (s.maxidxRow i w a r.1).map (·.2))
  | _, _ => []

/-- MAXIDX's dispatch. -/
def State.startMaxidx (s : State) (i : Fin 16) (n : Nat) (core : Fin 8) : State :=
  s.issue i n 0x05 core true (fun s w => (s.tensor i (pDA w)).toList)
    (fun s w => s.maxidxCheck i w) (fun s w => s.maxidxNeeds i w) (fun s f => s.maxidxEffect f)

-- ROWREC and DERIV: common parts.

-- Body fields of R394.
def rX (w : Nat) : Nat := fld w 160 16
def rDy (w : Nat) : Nat := fld w 176 16
def rGamma (w : Nat) : Nat := fld w 192 16
def rDx (w : Nat) : Nat := fld w 208 16
def rDg (w : Nat) : Nat := fld w 224 16
def rDb (w : Nat) : Nat := fld w 240 16
def rRec (w : Nat) : Nat := fld w 256 16
def rMode (w : Nat) : Nat := fld w 272 2
def rEps (w : Nat) : Nat := fld w 288 32
def dIn (w : Nat) : Nat := fld w 160 16
def dDy (w : Nat) : Nat := fld w 176 16
def dDx (w : Nat) : Nat := fld w 192 16
def dFn (w : Nat) : Nat := fld w 208 4
def dPar (w : Nat) : Nat := fld w 224 16

/-- A tensor that shards dimension 0 (R395). -/
def State.shardsRow (s : State) (i : Fin 16) (t : Tensor) : Bool :=
  let t := if t.isView then (s.descAt i t.wsrc).getD t else t
  !t.localCopy && t.smap != 0xFFFF && (let h := s.rdN (s.smapOf i t) 8
    fld h 0 3 == 0 || (bit h 34 && fld h 17 3 == 0))

/-- A data operand of the row unit (R293, R326, R395). -/
def State.rowOperand (s : State) (i : Fin 16) (w : Nat) (t : Option Tensor) (written : Bool) : Option Fail :=
  t.bind fun t => firstFail [
    failWhen (decide (2 ≤ t.kind)) (failF t.ix), s.steerFail i w t written,
    failWhen (s.fmtOf i t).isNone (failF t.ix), failWhen (s.shardsRow i t) (failF t.ix)]

/-- A row of a tensor as FP32 values (R293), and the replacements of its scales. -/
def State.rowVals (s : State) (i : Fin 16) (t : Tensor) (f : EFmt) (n : Nat) (row : List Nat) : List Fp :=
  (List.range n).map fun j => fpInput (s.elemVal i t f (row.set 0 j)).1

/-- Write one row of results into a target, converting each (R136). -/
def State.putRow (s : State) (k : Sink) (y : Tally) (row : List Nat) (vs : List Fp) (step : Nat) :
    State × Tally :=
  vs.zipIdx.foldl (fun (a : State × Tally) v => a.1.convGroup k a.2 (row.set 0 v.2) v.1.val step) (s, y)

/-- Add one contribution per column into an FP32 or W64 tensor of one row (R299); a NaN counts and adds
nothing (R133). -/
def State.addRow (s : State) (i : Fin 16) (n : Nat) (t : Tensor) (f : EFmt) (vs : List Fp) :
    State × Counts :=
  let z := (s.extents i t).map fun _ => 0
  vs.zipIdx.foldl (fun (a : State × Counts) v =>
    if v.1.val.isNan then (a.1, a.2.add1 .nan)
    else
      let (s, c) := a.1.accumulate i n t f (z.set 0 v.2) v.1.val
      (s, a.2.plus c)) (s, {})

/-- Counts taken by a list of values. -/
def fpCounts (l : List Fp) : Counts := l.foldl (fun a v => a.plus v.k) {}

/-- The values without their counts. -/
def bare (l : List Fp) : List Fp := l.map Fp.pure

-- ROWREC.

/-- What one row of ROWREC gives: the record, dx, the contributions to dgamma and dbeta, and counts. -/
structure RowOut where
  sta : Nat := 0
  stb : Nat := 0
  dx : List Fp := []
  dg : List Fp := []
  db : List Fp := []
  k : Counts := {}
  deriving DecidableEq, Repr

/-- Product of two rows element by element. -/
def rowMul (a b : List Fp) : List Fp := List.zipWith Fp.mul a b

/-- rowrec_norm of R297; `dy` is none when the instruction names none, `gamma` none without gamma. -/
def rowNorm (rms : Bool) (eps : Nat) (x : List Fp) (dy gamma : Option (List Fp)) : RowOut :=
  let n := fpOfNat x.length
  let kin := (fpCounts x).plus (((dy.map fpCounts).getD {}).plus ((gamma.map fpCounts).getD {}))
  let x := bare x
  let zero : Fp := ⟨0, {}⟩
  let ms := (fpSum (rowMul x x)).div n
  let mu := if rms then zero else (fpSum x).div n
  let r := if rms then (ms.add ⟨eps, {}⟩).rsqrt
    else ((zero.max (ms.sub (mu.pure.mul mu.pure))).add ⟨eps, {}⟩).rsqrt
  let k := (kin.plus mu.k).plus r.k
  let m := mu.pure
  let r := r.pure
  match dy with
  | none => { sta := if rms then 0 else m.c, stb := r.c, k := k }
  | some dy =>
    let dy := bare dy
    let g := match gamma with
      | some ga => rowMul dy (bare ga)
      | none => dy
    let k := k.plus (fpCounts g)
    let g := bare g
    let a := if rms then zero else (fpSum g).div n
    let c := r.mul (((fpSum (rowMul g x)).div n).sub (m.mul a.pure))
    let k := (k.plus a.k).plus c.k
    let a := a.pure
    let c := c.pure
    let xh := x.map fun v => (v.sub m).mul r
    let k := k.plus (fpCounts xh)
    let xh := bare xh
    let dx := List.zipWith (fun g xh => r.mul ((g.sub a).sub (xh.mul c))) g xh
    let dg := rowMul dy xh
    { sta := if rms then 0 else m.c, stb := r.c, dx := bare dx, dg := dg, db := dy
      k := k.plus (fpCounts dx) }

/-- Columns of one chunk (R292). -/
def chunkCols : Nat := 65536

/-- Chunks of a row. -/
def chunks (l : List Fp) : List (List Fp) :=
  (List.range (cdiv l.length chunkCols)).map fun k => (l.drop (k * chunkCols)).take chunkCols

/-- Maximum and the two sums of the softmax form over chunks so far (R298). -/
structure SoftSum where
  m : Fp
  sum : Fp
  t : Fp
  deriving DecidableEq, Repr

/-- One chunk of the softmax form. -/
def softChunk (z dy : List Fp) : SoftSum × Counts :=
  let m := (z.tail).foldl Fp.max (z.headD ⟨0, {}⟩)
  let es := z.map fun v => (v.sub m.pure).exp
  let k := m.k.plus (fpCounts es)
  let es := bare es
  (⟨m.pure, fpSum es, fpSum (List.zipWith Fp.mul dy es)⟩, k)

/-- The merge of R231 for the sum and for t alike. -/
def softMerge (a b : SoftSum) : SoftSum × Counts :=
  let m := a.m.max b.m
  let ea := (a.m.sub m.pure).exp
  let eb := (b.m.sub m.pure).exp
  let join := fun x y : Fp => (x.mul ea.pure).add (y.mul eb.pure)
  (⟨m.pure, join a.sum b.sum, join a.t b.t⟩, (m.k.plus ea.k).plus eb.k)

/-- The softmax form of R298. -/
def rowSoft (z : List Fp) (dy : Option (List Fp)) : RowOut :=
  let kin := (fpCounts z).plus ((dy.map fpCounts).getD {})
  let z := bare z
  let d := bare (dy.getD [])
  let parts := List.zipWith softChunk (chunks z) (if dy.isSome then chunks d else (chunks z).map fun _ => [])
  match parts with
  | [] => { k := kin }
  | p :: r =>
    let (tot, k) := r.foldl (fun (a : SoftSum × Counts) b =>
      let (m, c) := softMerge a.1 b.1
      (m, (a.2.plus b.2).plus c)) (p.1, kin.plus p.2)
    let sm := tot.sum.pure
    let k := k.plus tot.sum.k
    match dy with
    | none => { sta := tot.m.c, stb := sm.c, k := k }
    | some _ =>
      let q := tot.t.div sm
      let dz := List.zipWith (fun z dy => (((z.sub tot.m).exp).div sm).mul (dy.sub q.pure)) z d
      { sta := tot.m.c, stb := sm.c, dx := bare dz, k := (k.plus q.k).plus (fpCounts dz) }

/-- Whether `REPS` is one that R296 refuses. -/
def badEps (c : Nat) : Bool :=
  match ofFp32 c with
  | .num n m _ => n && m != 0
  | _ => true

/-- The optional tensors of ROWREC; the softmax form ignores gamma, dgamma and dbeta (R396). -/
def State.rowOpt (s : State) (i : Fin 16) (w d : Nat) : Option Tensor :=
  if rMode w = 2 then none else s.optional i d

def State.rowrecCheck (s : State) (i : Fin 16) (w : Nat) : Option Fail :=
  let soft := rMode w == 2
  let opt := fun d => if soft then none else s.needOpt i d
  let one := fun (n : Nat) (t : Option Tensor) => t.bind fun t =>
    failWhen (nth (s.extents i t) 0 0 != n || prodN (s.extents i t) != n) (failR t.ix)
  let accTarget := fun t : Option Tensor => t.bind fun t => firstFail [
    s.rowOperand i w (some t) true,
    match s.fmtOf i t with
    | some (.w64 _) | some (.op .fp32) => failWhen ((s.under i t).carried && (s.under i t).accf == 0) (failF t.ix)
    | _ => failF t.ix]
  firstFail [s.need i (rX w), s.needOpt i (rDy w), opt (rGamma w), s.needOpt i (rDx w), opt (rDg w),
    opt (rDb w), s.needOpt i (rRec w), commonForm w false false,
    failWhen (rRec w == 0xFFFF || rMode w == 3 || badEps (rEps w)) failF,
    match s.tensor i (rX w), s.tensor i (rRec w) with
    | some x, some r =>
      let e := s.extents i x
      let n := nth e 0 0
      let dx := s.optional i (rDx w)
      firstFail [
        s.rowOperand i w (some x) false, s.rowOperand i w (s.optional i (rDy w)) false,
        s.rowOperand i w (s.rowOpt i w (rGamma w)) false, s.rowOperand i w dx true,
        accTarget (s.rowOpt i w (rDg w)), accTarget (s.rowOpt i w (rDb w)),
        failWhen (r.kind != 3 || r.fmtCode != 0) (failF r.ix), failWhen (s.shardsRow i r) (failF r.ix),
        (s.optional i (rDy w)).bind fun t => failWhen (!sameShape (s.extents i t) e) (failR t.ix),
        one n (s.rowOpt i w (rGamma w)),
        dx.bind fun t => failWhen (!sameShape (s.extents i t) e) (failR t.ix),
        one n (s.rowOpt i w (rDg w)), one n (s.rowOpt i w (rDb w)),
        failWhen (prodN r.exts != (rowsOf e 0).length) (failR r.ix),
        dx.bind fun t => s.targetUse i t true,
        (s.rowOpt i w (rDg w)).bind fun t => s.useFail i t false,
        (s.rowOpt i w (rDb w)).bind fun t => s.useFail i t false,
        s.useFail i r true]
    | _, _ => none]

/-- ROWREC's data effect. -/
def State.rowrecEffect (s : State) (fl : Flight) : State :=
  let i := fl.slot
  let w := fl.word
  let n := fl.node
  match s.tensor i (rX w), s.tensor i (rRec w), (s.tensor i (rX w)).bind (s.fmtOf i) with
  | some x, some r, some xf =>
    let s0 := s
    let e := s.extents i x
    let cols := nth e 0 0
    if cols = 0 then (s.rowWork fl.core 64).made fl 0 {}
    else
      let named := fun t : Option Tensor => t.bind fun t => (s0.fmtOf i t).map fun f => (t, f)
      let dy := named (s.optional i (rDy w))
      let ga := named (s.rowOpt i w (rGamma w))
      let dx := named (s.optional i (rDx w))
      let dg := named (s.rowOpt i w (rDg w))
      let db := named (s.rowOpt i w (rDb w))
      let rows := (rowsOf e 0).zipIdx.filter fun q => s0.covers i [x] (twScope w) q.1
      let sc := fun (t : Option (Tensor × EFmt)) => match t with
        | some (t, f) => s0.scaleConv i t f (rows.flatMap fun q => (List.range cols).map fun j => q.1.set 0 j)
        | none => {}
      let k? := dx.map fun t => { s.sink i n t.1 t.2 fl.fixed with res := none }
      let (s, y, cs) := rows.foldl (fun (acc : State × Tally × Counts) q =>
        let (s, y, cs) := acc
        let vals := fun (t : Tensor × EFmt) (row : List Nat) => s0.rowVals i t.1 t.2 cols row
        let dyv := dy.map fun t => vals t q.1
        let gav := ga.map fun t => vals t ((s0.extents i t.1).map fun _ => 0)
        let o := if rMode w = 2 then rowSoft (vals (x, xf) q.1) dyv
          else rowNorm (rMode w == 1) (rEps w) (vals (x, xf) q.1) dyv gav
        let s := s.wrAny i n (s.recPlace i r (unlinear r.exts q.2)) 8 (put 0 32 o.sta + put 32 32 o.stb)
        let (s, y) := match k?, dyv with
          | some k, some _ => s.putRow k y q.1 o.dx fl.stepNo.toNat
          | _, _ => (s, y)
        let cs := cs.plus o.k
        -- dgamma and dbeta take their contributions when dy is named; forming them counts with dgamma
        let (s, cs) := match dg, dyv with
          | some t, some _ =>
            let (s, c) := s.addRow i n t.1 t.2 o.dg
            (s, (cs.plus c).plus (fpCounts o.dg))
          | _, _ => (s, cs)
        let (s, cs) := match db, dyv with
          | some t, some _ =>
            let (s, c) := s.addRow i n t.1 t.2 o.db
            (s, cs.plus c)
          | _, _ => (s, cs)
        (s, y, cs)) (s, {}, {})
      let cs := ((cs.plus (sc (some (x, xf)))).plus (sc dy)).plus (match ga with
        | some (t, f) => s0.scaleConv i t f ((List.range cols).map fun j =>
            ((s0.extents i t).map fun _ => 0).set 0 j)
        | none => {})
      let s := (s.bumpCounts fl.core.val cs).rowWork fl.core (rowClk rows.length cols)
      match k? with
      | some k =>
        let (s, y, flags) := s.closeSink k y fl.stepNo.toNat (whoOf i n w fl.core.val) fl.core.val
        s.made fl flags y.gather
      | none => s.made fl 0 {}
  | _, _, _ => s.made fl 0 {}

def State.rowrecNeeds (s : State) (i : Fin 16) (w : Nat) : List Nat :=
  match s.tensor i (rX w) with
  | none => []
  | some x =>
    let cs := s.coverage i [x] (twScope w) (s.extents i x)
    let rd := ((s.optional i (rDy w)).toList.map (·, false)) ++ ((s.optional i (rDx w)).toList.map (·, true))
    let ga := match s.rowOpt i w (rGamma w) with
      | some t => s.coverUnits i [(t, false)] (coordsOf (s.extents i t))
      | none => []
    unite (s.coverUnits i ((x, false) :: rd) cs) ga

/-- ROWREC's dispatch. -/
def State.startRowrec (s : State) (i : Fin 16) (n : Nat) (core : Fin 8) : State :=
  s.issue i n 0x22 core true
    (fun s w => [s.tensor i (rX w), s.optional i (rDy w), s.rowOpt i w (rGamma w),
      s.optional i (rDx w), s.rowOpt i w (rDg w), s.rowOpt i w (rDb w)].filterMap id)
    (fun s w => s.rowrecCheck i w) (fun s w => s.rowrecNeeds i w) (fun s f => s.rowrecEffect f)

-- DERIV.

/-- One element of DERIV (R300, R302), for the functions of one element. Of ReLU and leaky ReLU a NaN y makes the result NaN,
and ReLU drops a NaN dy where y is not above zero (R294, log 120). -/
def derivOne (fn par : Nat) (v dy : Fp) : Fp :=
  let one : Fp := ⟨0x3F800000, {}⟩
  let pos := Dy.zero.lt v.val.dy
  let a : Fp := ⟨(toFp32 (Fmt.bf16.decode par)).1, {}⟩
  match fn with
  | 0x0 => if v.val.isNan then ⟨fpNan v.c dy.c, v.k.plus dy.k⟩ else if pos then ⟨dy.c, v.k.plus dy.k⟩
    else ⟨0, v.k.plus dy.k⟩
  | 0x1 => if v.val.isNan then ⟨fpNan v.c dy.c, v.k.plus dy.k⟩ else if pos then ⟨dy.c, v.k.plus dy.k⟩
    else let p := a.mul dy
      ⟨p.c, p.k.plus v.k⟩
  | 0x2 => dy.mul (v.mul (one.sub v.pure))
  | 0x3 => dy.mul (one.sub (v.mul v.pure))
  | 0x4 => dy.mul v
  | _ => dy.mul (v.deriv fn par)

/-- One row of DERIV: the Σ of the softmax is formed per chunk and the chunks added in order (R302). -/
def derivRow (fn par : Nat) (v dy : List Fp) : List Fp × Counts :=
  if fn = 0x5 then
    let kin := (fpCounts v).plus (fpCounts dy)
    let v := bare v
    let dy := bare dy
    let sums := List.zipWith (fun a b => fpSum (rowMul a b)) (chunks dy) (chunks v)
    let t : Fp := match sums with
      | [] => ⟨0, {}⟩
      | x :: r => r.foldl Fp.add x
    let o := List.zipWith (fun y d => y.mul (d.sub t.pure)) v dy
    (bare o, (kin.plus t.k).plus (fpCounts o))
  else
    let o := List.zipWith (derivOne fn par) v dy
    (bare o, fpCounts o)

/-- Function codes and parameters that R301 refuses. -/
def badDeriv (fn par : Nat) : Bool :=
  !(fn ∈ [0, 1, 2, 3, 4, 5, 8, 9, 0xA, 0xB, 0xC, 0xD]) || (match fn, Fmt.bf16.decode par with
    | 0x1, .num n m _ => n || m == 0
    | 0x1, _ => true
    | 0xC, .num n m _ => n && m != 0
    | 0xC, _ => true
    | _, _ => false)

def State.derivCheck (s : State) (i : Fin 16) (w : Nat) : Option Fail :=
  firstFail [s.need i (dIn w), s.needOpt i (dDy w), s.needOpt i (dDx w), commonForm w true false,
    failWhen (dDy w == 0xFFFF || dDx w == 0xFFFF || badDeriv (dFn w) (dPar w)) failF,
    match s.tensor i (dIn w), s.tensor i (dDy w), s.tensor i (dDx w) with
    | some x, some dy, some dx => firstFail [
        s.rowOperand i w (some x) false, s.rowOperand i w (some dy) false, s.rowOperand i w (some dx) true,
        failWhen (!sameShape (s.extents i dy) (s.extents i x)) (failR dy.ix),
        failWhen (!sameShape (s.extents i dx) (s.extents i x)) (failR dx.ix),
        s.targetUse i dx true]
    | _, _, _ => none]

/-- DERIV's data effect. -/
def State.derivEffect (s : State) (fl : Flight) : State :=
  let i := fl.slot
  let w := fl.word
  let n := fl.node
  match s.tensor i (dIn w), s.tensor i (dDy w), s.tensor i (dDx w) with
  | some x, some dy, some dx =>
    match s.fmtOf i x, s.fmtOf i dy, s.fmtOf i dx with
    | some xf, some yf, some df =>
      let s0 := s
      let e := s.extents i x
      let cols := nth e 0 0
      let rows := if cols = 0 then [] else (rowsOf e 0).filter fun q => s0.covers i [x] (twScope w) q
      let k := { s.sink i n dx df fl.fixed with res := none }
      let (s, y, cs) := rows.foldl (fun (acc : State × Tally × Counts) q =>
        let (o, c) := derivRow (dFn w) (dPar w) (s0.rowVals i x xf cols q) (s0.rowVals i dy yf cols q)
        let (s, y) := acc.1.putRow k acc.2.1 q o fl.stepNo.toNat
        (s, y, acc.2.2.plus c)) (s, {}, {})
      let all := rows.flatMap fun q => (List.range cols).map fun j => q.set 0 j
      let cs := (cs.plus (s0.scaleConv i x xf all)).plus (s0.scaleConv i dy yf all)
      let (s, y, flags) := (s.bumpCounts fl.core.val cs).closeSink k y fl.stepNo.toNat
        (whoOf i n w fl.core.val) fl.core.val
      let clk := if dFn w = 5 then rowClk rows.length cols else derivClk (dFn w) all.length
      (s.rowWork fl.core clk).made fl flags y.gather
    | _, _, _ => s.made fl 0 {}
  | _, _, _ => s.made fl 0 {}

def State.derivNeeds (s : State) (i : Fin 16) (w : Nat) : List Nat :=
  match s.tensor i (dIn w), s.tensor i (dDy w), s.tensor i (dDx w) with
  | some x, some dy, some dx =>
    s.coverUnits i [(x, false), (dy, false), (dx, true)] (s.coverage i [x] (twScope w) (s.extents i x))
  | _, _, _ => []

/-- DERIV's dispatch. -/
def State.startDeriv (s : State) (i : Fin 16) (n : Nat) (core : Fin 8) : State :=
  s.issue i n 0x23 core true
    (fun s w => [s.tensor i (dIn w), s.tensor i (dDy w), s.tensor i (dDx w)].filterMap id)
    (fun s w => s.derivCheck i w) (fun s w => s.derivNeeds i w) (fun s f => s.derivEffect f)

end Sys2Proof.Machine
end

