-- ==== Sys2Proof/Machine/Gmac.lean ====
section
/-! DEFINITION. AES-256-GMAC, which is AES-256-GCM with an empty plaintext (R463, R516), as FIPS 197 and NIST
SP 800-38D give it: the block cipher on blocks of sixteen bytes, and the hash in GF(2¹²⁸). The byte orders of key, IV and
tag are the model's (log 6). -/
namespace Sys2Proof.Machine

/-- Product in GF(2⁸) with x⁸ + x⁴ + x³ + x + 1, the field of the cipher. -/
def aesMul (a b : Nat) : Nat :=
  (forN 8 (0, a) fun (x : Nat × Nat) k =>
    let d := 2 * x.2
    (if bit b k then Nat.xor x.1 x.2 else x.1, if 256 ≤ d then Nat.xor d 0x11B else d)).1

/-- Inverse in that field, a²⁵⁴; 0 stays 0. -/
def aesInv (a : Nat) : Nat :=
  (forN 7 (1, a) fun (x : Nat × Nat) _ =>
    let q := aesMul x.2 x.2
    (aesMul x.1 q, q)).1

/-- The byte substitution. -/
def aesSub (a : Nat) : Nat :=
  let x := aesInv a
  let rot := fun k => (x * 2 ^ k) % 256 + x * 2 ^ k / 256
  Nat.xor 0x63 (Nat.xor x (Nat.xor (rot 1) (Nat.xor (rot 2) (Nat.xor (rot 3) (rot 4)))))

/-- Two lists of bytes, exclusive-or. -/
def xorBytes (a b : List Nat) : List Nat := (a.zip b).map fun x => Nat.xor x.1 x.2

/-- The sixty words of the key schedule, from 32 key bytes. -/
def aesKeys (key : List Nat) : List (List Nat) :=
  forN 52 ((List.range 8).map fun k => (key.drop (4 * k)).take 4) fun w j =>
    let i := j + 8
    let t := nth w (i - 1) []
    let t := if i % 8 = 0 then
        xorBytes (((t.drop 1) ++ t.take 1).map aesSub) [forN (i / 8 - 1) 1 fun r _ => aesMul r 2, 0, 0, 0]
      else if i % 8 = 4 then t.map aesSub else t
    w ++ [xorBytes (nth w (i - 8) []) t]

/-- Rows of a block, whose bytes go down the columns, are turned left by their number. -/
def aesShift (b : List Nat) : List Nat := (List.range 16).map fun k => nth b ((k + 4 * (k % 4)) % 16) 0

/-- Columns of a block are mixed. -/
def aesMix (b : List Nat) : List Nat :=
  (List.range 16).map fun k =>
    let c := fun r => nth b (k / 4 * 4 + (k + r) % 4) 0
    Nat.xor (aesMul (c 0) 2) (Nat.xor (aesMul (c 1) 3) (Nat.xor (c 2) (c 3)))

/-- The cipher on one block under a key schedule: fourteen rounds, the last without the mixing of columns. -/
def aesBlock (w : List (List Nat)) (b : List Nat) : List Nat :=
  let key := fun r => ((w.drop (4 * r)).take 4).flatten
  forN 14 (xorBytes b (key 0)) fun b r =>
    let b := aesShift (b.map aesSub)
    xorBytes (if r = 13 then b else aesMix b) (key (r + 1))

/-- A block as a number, its first byte highest. -/
def blockNat (b : List Nat) : Nat := b.foldl (fun a x => 256 * a + x) 0

/-- Product in GF(2¹²⁸), whose lowest coefficient is the highest bit. -/
def ghashMul (x y : Nat) : Nat :=
  (forN 128 (0, y) fun (z : Nat × Nat) k =>
    (if bit x (127 - k) then Nat.xor z.1 z.2 else z.1,
      if z.2 % 2 = 1 then Nat.xor (z.2 / 2) (0xE1 * 2 ^ 120) else z.2 / 2)).1

/-- Bytes of a number, the lowest first. -/
def lowBytes (n v : Nat) : List Nat := (List.range n).map fun k => fld v (8 * k) 8

/-- The tag over `blocks` blocks that `block` gives, as the number whose lowest byte is the tag's first. -/
def gmacOf (key iv : Nat) (blocks : Nat) (block : Nat → List Nat) : Nat :=
  let w := aesKeys (lowBytes 32 key)
  let h := blockNat (aesBlock w (List.replicate 16 0))
  let y := forN blocks 0 fun y k => ghashMul (Nat.xor y (blockNat (block k))) h
  let y := ghashMul (Nat.xor y (128 * blocks * 2 ^ 64)) h
  let t := Nat.xor y (blockNat (aesBlock w (lowBytes 12 iv ++ [0, 0, 0, 1])))
  forN 16 0 fun a k => a + put (8 * k) 8 (t / 256 ^ (15 - k))

end Sys2Proof.Machine
end

