-- ==== Sys2Proof/Machine/StashUnit.lean ====
section
/-! DEFINITION. The stash controller: entries (R277, R278), PUSH (R279, R280, R393), POP (R281, R282), their
direction rule (R285), and the moves and returns of the overflow region (R287 to R290). -/
namespace Sys2Proof.Machine

def sDesc (w : Nat) : Nat := fld w 160 16
def sPconv (w : Nat) : Nat := fld w 176 16

/-- Free bytes of a slot's ring: the place of an entry that is being returned is taken (R288, R289). -/
def Stash.free (x : Stash) (size : Nat) : Nat :=
  size - sumN (x.ring.map (·.2)) - ((x.returning.map (·.2)).getD 0)
/-- Bytes of the overflow stack in use. -/
def Stash.ovfUsed (x : Stash) : Nat := sumN (x.ovf.map (·.2))

/-- Hall address of byte `k` of an entry at ring offset `off`; the ring wraps (R275). -/
def Hdr.ringAt (h : Hdr) (off k : Nat) : Nat := h.stashBase + (off + k) % h.stashSize

/-- Offset at which the next entry goes (R275). -/
def Stash.top (x : Stash) (size : Nat) : Nat := (x.bottom + sumN (x.ring.map (·.2))) % size

/-- Address of byte `k` of the entry at the top: of the ring, or of the overflow stack (R290). -/
def State.topAt (s : State) (i : Fin 16) (k : Nat) : Option Nat :=
  let x := s.slot i
  match x.stash.ring.getLast?, x.stash.ovf.getLast? with
  | some e, _ => some (x.hdr.ringAt e.1 k)
  | none, some e => some (x.hdr.ovfBase + e.1 + k)
  | none, none => none

/-- 32-bit word `k` of the top entry. -/
def State.topWord (s : State) (i : Fin 16) (k : Nat) : Nat :=
  match s.topAt i (4 * k) with
  | some a => s.rdN a 4
  | none => 0

/-- Header of an entry as one number (R277). -/
def State.topHeader (s : State) (i : Fin 16) : Nat := forN 16 0 fun a k => a + (s.topWord i k <<< (32 * k))

-- Header fields of R277.
def shLayer (h : Nat) : Nat := fld h 0 16
def shUbatch (h : Nat) : Nat := fld h 16 16
def shFmt (h : Nat) : Nat := fld h 72 4
def shWven (h : Nat) : Bool := bit h 76
def shWver (h : Nat) : Nat := fld h 80 16
def shSeq (h : Nat) : Nat := fld h 128 32
def shDlen (h : Nat) : Nat := fld h 160 32
def shSlen (h : Nat) : Nat := fld h 192 24
def shZlen (h : Nat) : Nat := fld h 216 24
def shOlen (h : Nat) : Nat := fld h 240 24

/-- Bytes of an entry from its header (R278). -/
def shBytes (h : Nat) : Nat := 64 * (1 + shDlen h + shSlen h + shZlen h + shOlen h)

/-- 64-byte units of `n` codes of a format packed without a break (R109, R278). -/
def sectUnits (f : Fmt) (n : Nat) : Nat := cdiv (4 * cdiv n f.perWord) 64

/-- Codes as 32-bit words, padded to whole 64-byte units (R109, R278). -/
def sectWords (f : Fmt) (cs : List Nat) : List Nat :=
  (List.range (16 * sectUnits f cs.length)).map fun k =>
    forN f.perWord 0 fun a j => a + (nth cs (k * f.perWord + j) 0 <<< (f.bits * j))

/-- Code `k` of a section that starts at word `base` of the top entry. -/
def State.topCode (s : State) (i : Fin 16) (base : Nat) (f : Fmt) (k : Nat) : Nat :=
  fld (s.topWord i (base + k / f.perWord)) (f.bits * (k % f.perWord)) f.bits

/-- What a PUSH is to write (R278, R279, R393): its formats, whether it converts, between floats or through
scales, the tensor whose scales the entry takes, the elements, groups and outlier values it covers. -/
structure PushPlan where
  src : Tensor
  grp : Tensor
  sf : Fmt
  tf : Fmt
  conv : Bool
  flat : Bool
  coords : List (List Nat)
  groups : List (List Nat)
  hasS : Bool
  hasZ : Bool
  ov : List (List Nat)
  deriving DecidableEq, Repr

/-- Groups of a tensor that hold one of the elements, in scale-tensor order. -/
def groupsOver (t : Tensor) (exts : List Nat) (cs : List (List Nat)) : List (List Nat) :=
  let hit := cs.foldl (fun a c => insertNew (groupCoord t c) a) []
  (coordsOf (groupExts t exts)).filter fun g => hit.contains g

/-- Elements of the outlier value tensor that an entry holds: none of a tensor without elements (R362). -/
def State.ovCoords (s : State) (i : Fin 16) (t : Tensor) (scope : Bool) : List (List Nat) :=
  if t.isView ∨ prodN t.exts = 0 then []
  else match s.side i t t.ovIx with
    | some v => s.coverage i [v] scope v.exts
    | none => []

/-- Groups of a pushed tensor that hold one of the elements; a view's are its source's at each window position (R356, log
118). -/
def State.pushGroups (s : State) (i : Fin 16) (t : Tensor) (cs : List (List Nat)) : List (List Nat) :=
  if t.isView then
    let hit := cs.foldl (fun a c => insertNew (s.readGroup i t c) a) []
    (coordsOf (s.readGroups i t)).filter fun g => hit.contains g
  else groupsOver t t.exts cs

/-- Scale code and zero point of a group of a pushed tensor; a view's are those of a source element in it, and 1.0 and 0
where it holds padding alone (R356, log 118). -/
def State.pushScale (s : State) (i : Fin 16) (t : Tensor) (cs : List (List Nat)) (g : List Nat) : Nat × Nat :=
  if t.isView then
    match cs.findSome? fun c => if s.readGroup i t c == g then s.resolve i t c else none with
    | some (q, c) => s.scaleAt i q (groupCoord q c)
    | none => (0x3F80, 0)
  else s.scaleAt i t g

/-- The stored code of a pushed element; a padded place of a view is zero, which in an integer format is the zero point. -/
def State.pushCode (s : State) (i : Fin 16) (t : Tensor) (f : Fmt) (cs : List (List Nat)) (c : List Nat) : Nat :=
  if f.isInt && (s.resolve i t c).isNone then (s.pushScale i t cs (s.readGroup i t c)).2 else s.elemCode i t (.op f) c

/-- The plan of a PUSH. Between two float formats a carried `PCONV` is neither read nor written (R393, log 121). -/
def State.pushPlan (s : State) (i : Fin 16) (w : Nat) : Option PushPlan :=
  match s.tensor i (sDesc w), (s.tensor i (sDesc w)).bind (s.fmtOf i) with
  | some a, some (.op sf) =>
    let pc := s.optional i (sPconv w)
    let tf := match pc.bind (s.fmtOf i) with
      | some (.op g) => g
      | _ => sf
    let ff := !sf.isInt && !tf.isInt
    let conv := tf != sf || (!ff && (pc.map Tensor.carried).getD false)
    let grp := if conv && !ff then pc.getD a else a
    let cs := s.coverage i [a] (twScope w) (s.extents i a)
    let q := s.under i grp
    some {
      src := a, grp := grp, sf := sf, tf := tf, conv := conv, flat := ff, coords := cs
      groups := s.pushGroups i grp cs, hasS := (s.scaleTensor i q).isSome
      hasZ := tf.isInt && (q.carried || (s.zpTensor i q).isSome), ov := s.ovCoords i a (twScope w) }
  | _, _ => none

/-- Section lengths of a plan, in 64-byte units: data, scales, zero points, outlier values. -/
def PushPlan.units (p : PushPlan) : Nat × Nat × Nat × Nat :=
  (sectUnits p.tf p.coords.length, if p.hasS then sectUnits .bf16 p.groups.length else 0,
    if p.hasZ then sectUnits .int8 p.groups.length else 0, sectUnits .bf16 p.ov.length)

/-- Bytes of the whole entry. -/
def PushPlan.bytes (p : PushPlan) : Nat :=
  let (d, sc, z, o) := p.units
  64 * (1 + d + sc + z + o)

/-- Whether `PCONV` has the source's shape and groups (R393); a view's groups run along its K. -/
def State.pconvFits (s : State) (i : Fin 16) (a p : Tensor) : Bool :=
  let q := s.under i a
  sameShape p.exts (s.extents i a) && p.gsizeCode == q.gsizeCode
    && (if a.isView then !p.square && p.gdim == 0 else p.square == a.square && p.gdim == a.gdim)

/-- The checks of PUSH (R278, R279, R284, R393). The source may be a view (R358, log 118). PUSH fails with FORMAT, RANGE or
TAGSKEW alone (R378): a residual or record of `PCONV` that it writes is not tested for its use (R342; log 130). For a stash
of no size, and an entry that exceeds it, no rule says what DETAIL and the event name: the model names the source (DESIGN
CHOICE, log 131). -/
def State.pushCheck (s : State) (i : Fin 16) (w : Nat) : Option Fail :=
  let size := (s.slot i).hdr.stashSize
  firstFail [s.need i (sDesc w), s.needOpt i (sPconv w),
    match s.tensor i (sDesc w) with
    | none => none
    | some a =>
      let pc := s.optional i (sPconv w)
      let operand := fun t : Tensor => match s.fmtOf i t with
        | some (.op _) => none
        | _ => failF t.ix
      firstFail [
        failWhen (decide (2 ≤ a.kind)) (failF a.ix), s.steerFail i w a false, operand a,
        pc.bind fun p => firstFail [
          failWhen (p.kind != 0) (failF p.ix), s.steerFail i w p false, operand p,
          failWhen (!s.pconvFits i a p) (failF p.ix),
          match s.pushPlan i w with
          | some q => if q.conv then s.residualFail i p (.op q.tf) else none
          | none => none],
        failWhen (size == 0) (failR a.ix),
        match s.pushPlan i w with
        | some q => failWhen (decide (size < q.bytes)) (failR a.ix)
        | none => none]]

/-- The direction rule (R285): no PUSH or POP of the slot between dispatch and retirement. -/
def State.stashBusy (s : State) (i : Fin 16) : Bool :=
  s.hg.flight.any fun f => f.slot == i && (f.opc == 0x20 || f.opc == 0x21)

def State.pushNames (s : State) (i : Fin 16) (w : Nat) : List Tensor :=
  (s.tensor i (sDesc w)).toList ++ (s.optional i (sPconv w)).toList

/-- Bytes of the entry of a PUSH that would not fail and for which the ring has no room (R280, R287). -/
def State.pushShort (s : State) (i : Fin 16) (n : Nat) : Option Nat :=
  let w := s.taskWord i n
  let x := s.slot i
  let ts := s.pushNames i w
  let s' := s.initFor i ts
  if s.firstUnits i n ts [] ≠ [] ∨ (s'.pushCheck i w).isSome then none
  else match s'.pushPlan i w with
    | some p => if x.stash.free x.hdr.stashSize < p.bytes then some p.bytes else none
    | none => none

/-- Why a PUSH that would not fail waits, with the state that shows it: the stash is busy, or the ring has no
room (R280, R285). STASHFULL is raised once for a PUSH whose next move does not fit (R288). -/
def State.pushHold (s : State) (i : Fin 16) (n : Nat) : Option State :=
  let w := s.taskWord i n
  let x := s.slot i
  if s.stashBusy i then some (s.setWait i n 1 0x01 0 0xFFF)
  else match s.pushShort i n with
    | none => none
    | some bytes =>
      let s := s.setWait i n 1 0x03 (cdiv bytes (2 ^ 20)) 0xFFF
      let first := ((x.stash.ring.head?).map (·.2)).getD 0
      let settled := !x.stash.moving && x.stash.returning.isNone
      if settled && decide (x.hdr.ovfSize < x.stash.ovfUsed + first) && !x.stash.fullRaised.contains n then
        some ((s.setSlot i { s.slot i with stash := { x.stash with fullRaised := n :: x.stash.fullRaised } }).raise
          .stashfull (whoOf i n w 0) (twLayer w) 0 bytes)
      else some s

/-- Write 32-bit words from ring offset `off`. -/
def State.putWords (s : State) (i : Fin 16) (off : Nat) (ws : List Nat) : State :=
  ws.zipIdx.foldl (fun s x => s.wrN ((s.slot i).hdr.ringAt off (4 * x.2)) 4 x.1) s

/-- PUSH's data effect: the entry is written above the top; it exists from retirement (R280). -/
def State.pushEffect (s : State) (fl : Flight) : State :=
  let i := fl.slot
  let n := fl.node
  let w := fl.word
  match s.pushPlan i w with
  | none => s.made fl 0 {}
  | some p =>
    let core := n % 8
    let x := s.slot i
    let step := fl.stepNo.toNat
    let s0 := s
    let k : Sink := match (if p.conv then s.optional i (sPconv w) else none) with
      | some t => s.sink i n t (.op p.tf) fl.fixed
      | none => s.sink i n p.src (.op p.tf)
    -- scale code and zero point of a group of the entry, as the dispatch fixes them
    let sz := fun g : List Nat =>
      if p.conv && !p.flat && p.grp.carried then
        let (a, b, _) := carriedFix p.grp.margin p.tf (s0.fixedAt k g) step
        (a, b)
      else s0.pushScale i p.grp p.coords g
    let (codes, s, y) : List Nat × State × Tally :=
      if !p.conv then (p.coords.map fun c => s.pushCode i p.src p.sf p.coords c, s, {})
      else p.coords.foldl (fun (a : List Nat × State × Tally) c =>
        let v := s0.movedVal i p.src (.op p.sf) p.flat c
        let (sc, cs) : Option (Dy × Nat) × Counts :=
          if p.flat then (none, {})
          else
            let (d, cv) := readScale (sz (groupCoord p.grp c)).1
            let rc := if p.grp.carried then
                (carriedFix p.grp.margin p.tf (s0.fixedRec k c) step).2.2 else {}
            (some (d, (sz (groupCoord p.grp c)).2), rc.add1 cv)
        let y := if a.2.1.freshGroup k a.2.2 c then { a.2.2 with counts := a.2.2.counts.plus cs } else a.2.2
        let (code, s, y) := a.2.1.convCode k y c v sc
        (a.1 ++ [code], s, y)) ([], s, {})
    let (dl, sl, zl, ol) := p.units
    let hd := put 0 16 (twLayer w) + put 16 16 (twUbatch w) + put 32 40 fl.dstamp.toNat + put 72 4 p.tf.code
      + put 76 1 (b2n (twVen w)) + put 80 16 (twVtag w) + put 96 16 (twOpid w) + put 112 16 (sDesc w)
      + put 128 32 x.stash.pushCount.toNat + put 160 32 dl + put 192 24 sl + put 216 24 zl + put 240 24 ol
    let ov := match s0.side i p.src p.src.ovIx with
      | some v => p.ov.map fun c => s0.elemCode i v (.op .bf16) c
      | none => []
    let ws := ((List.range 16).map fun j => fld hd (32 * j) 32) ++ sectWords p.tf codes
      ++ (if p.hasS then sectWords .bf16 (p.groups.map fun g => (sz g).1) else [])
      ++ (if p.hasZ then sectWords .int8 (p.groups.map fun g => (sz g).2) else [])
      ++ sectWords .bf16 ov
    let s := s.putWords i (x.stash.top x.hdr.stashSize) ws
    let s := s.setSlot i { s.slot i with stash := { x.stash with
      pushCount := x.stash.pushCount + 1, fullRaised := x.stash.fullRaised.filter (· != n) } }
    if p.conv then
      let k := if p.flat then { k with t := { k.t with d := setFld k.t.d 78 1 0 } } else k
      let (s, y, flags) := s.closeSink k y step (whoOf i n w core) core
      let s := if p.flat then s else s.bumpCounts core (s0.scaleConv i p.src (.op p.sf) p.coords)
      s.made fl flags y.gather
    else s.made fl 0 {}

def State.pushNeeds (s : State) (i : Fin 16) (w : Nat) : List Nat :=
  match s.pushPlan i w with
  | none => []
  | some p =>
    let side := match (if p.conv then s.optional i (sPconv w) else none) with
      | none => []
      | some t => s.away (p.coords.foldl (fun us c =>
          unite us ((if p.flat then [] else s.sideUnits i t c) ++ s.residualUnits i t (.op p.tf) c)) [])
    let ov := match s.side i p.src p.src.ovIx with
      | some v => s.coverUnits i [(v, false)] p.ov
      | none => []
    unite (unite (s.coverUnits i [(p.src, false)] p.coords) side) ov

/-- PUSH's dispatch. -/
def State.startPush (s : State) (i : Fin 16) (n : Nat) : State :=
  s.attempt i n 0x20 fun s =>
    match s.pushHold i n with
    | some s => s
    | none => s.issue i n 0x20 0 false (fun s w => s.pushNames i w)
        (fun s w => s.pushCheck i w) (fun s w => s.pushNeeds i w) (fun s f => s.pushEffect f)

/-- The retirement of a PUSH or POP: the entry exists, or leaves (R280, R282). -/
def State.stashRetire (s : State) (fl : Flight) : State :=
  let x := s.slot fl.slot
  if fl.opc = 0x20 then
    match s.pushPlan fl.slot fl.word with
    | some p => s.setSlot fl.slot { x with stash := { x.stash with
        ring := x.stash.ring ++ [(x.stash.top x.hdr.stashSize, p.bytes)] } }
    | none => s
  else if fl.opc = 0x21 then
    if x.stash.ring = [] then s.setSlot fl.slot { x with stash := { x.stash with ovf := x.stash.ovf.dropLast } }
    else s.setSlot fl.slot { x with stash := { x.stash with ring := x.stash.ring.dropLast } }
  else s

-- POP.

/-- Elements, groups and outlier values that a POP covers. -/
def State.popCover (s : State) (i : Fin 16) (w : Nat) (t : Tensor) :
    List (List Nat) × List (List Nat) × List (List Nat) :=
  let e := s.extents i t
  let cs := s.coverage i [t] (twScope w) e
  (cs, groupsOver t e cs, s.ovCoords i t (twScope w))

/-- The checks of R281: the entry's layer, micro-batch and version. On an empty stash nothing is found, and the event's words
say zero for it (log 119). -/
def State.popTagFail (s : State) (i : Fin 16) (w : Nat) : Option Fail :=
  let e := twLayer w + 65536 * twUbatch w
  match s.topAt i 0 with
  | none => some { err := .stashtag, w0 := some e }
  | some _ =>
    let h := s.topHeader i
    failWhen (shLayer h != twLayer w || shUbatch h != twUbatch w
        || (twVen w && !(shWven h && shWver h == twVtag w)))
      (some { err := .stashtag, w0 := some e, w1 := shLayer h + 65536 * shUbatch h, w2 := shSeq h })

/-- The checks of R282: format code and section sizes. -/
def State.popSizeFail (s : State) (i : Fin 16) (w : Nat) (t : Tensor) : Option Fail :=
  let h := s.topHeader i
  let (cs, gs, ov) := s.popCover i w t
  match Fmt.ofCode (shFmt h) with
  | none => failR t.ix
  | some f => failWhen (shDlen h != sectUnits f cs.length
      || (shSlen h != 0 && (s.scaleTensor i t).isSome && shSlen h != sectUnits .bf16 gs.length)
      || (shZlen h != 0 && !t.isView && (t.carried || (s.zpTensor i t).isSome) && shZlen h != sectUnits .int8 gs.length)
      || (shOlen h != 0 && !t.isView && (s.side i t t.ovIx).isSome && shOlen h != sectUnits .bf16 ov.length)) (failR t.ix)

/-- Step 4 for a POP: its target, carried records it merges into, and the side tensors it writes (R282, R342). -/
def State.popUse (s : State) (i : Fin 16) (t : Tensor) : Option Fail :=
  firstFail [s.targetUse i t true,
    if t.carried && t.accf == 0 then none else s.sideUse i [s.scaleTensor i t, s.zpTensor i t],
    if shOlen (s.topHeader i) = 0 then none else s.sideUse i [s.side i t t.ovIx]]

def State.popCheck (s : State) (i : Fin 16) (w : Nat) : Option Fail :=
  firstFail [s.need i (sDesc w), failWhen (twAcc w) (failF),
    (s.tensor i (sDesc w)).bind fun t => firstFail [
      failWhen (decide (2 ≤ t.kind)) (failF t.ix), s.steerFail i w t true,
      failWhen (s.fmtOf i t).isNone (failF t.ix),
      failWhen (!t.isView && t.carried && t.accf == 0 && (s.side i t t.olIx).isSome) (failF t.ix),
      failWhen ((s.slot i).hdr.stashSize == 0) (failR t.ix),
      s.popTagFail i w,
      s.popSizeFail i w t,
      s.popUse i t]]

/-- Remote units of the top entry, where it lies in the overflow region (R290). -/
def State.topUnits (s : State) (i : Fin 16) : List Nat :=
  let x := s.slot i
  match x.stash.ring, x.stash.ovf.getLast? with
  | [], some e => (List.range (e.2 / 64)).map fun k => x.hdr.ovfBase + e.1 + 64 * k
  | _, _ => []

/-- The unit cannot take a POP: the stash is busy, or its top entry is being moved or returned (R285, R287, R289). -/
def State.popBusy (s : State) (i : Fin 16) : Bool :=
  let x := s.slot i
  s.stashBusy i || (x.stash.ring == [] && x.stash.returning.isSome)
    || (x.stash.moving && decide (x.stash.ring.length ≤ 1))

/-- Why a POP waits: the stash is busy, its top entry is being moved or returned, or the entry's remote loads are not
answered (R285, R287, R289, R290). -/
def State.popHold (s : State) (i : Fin 16) (n : Nat) : Option State :=
  if s.popBusy i then some (s.setWait i n 1 0x01 0 0xFFF)
  else
    let us := s.topUnits i
    if s.missing i n us = [] then none
    else some ((s.askFor i n us).setWait i n 1 0x02 0 (hallNode (s.slot i).hdr.ovfBase))

/-- POP's data effect (R282). Where a section whose side tensor the target does not name does not fit the target's groups,
the values are formed with scale 1.0 or zero point 0, which R282 does not say (DESIGN CHOICE, log 139). -/
def State.popEffect (s : State) (fl : Flight) : State :=
  let i := fl.slot
  let n := fl.node
  let w := fl.word
  let h := s.topHeader i
  match s.tensor i (sDesc w), (s.tensor i (sDesc w)).bind (s.fmtOf i), Fmt.ofCode (shFmt h) with
  | some t, some df, some ef =>
    let core := n % 8
    let step := fl.stepNo.toNat
    let (cs, gs, ov) := s.popCover i w t
    let dBase := 16
    let sBase := dBase + 16 * shDlen h
    let zBase := sBase + 16 * shSlen h
    let oBase := zBase + 16 * shZlen h
    let s0 := s
    let car := t.carried && t.accf == 0
    -- a section that does not fit the target's groups names no group's scale
    let hasS := shSlen h != 0 && shSlen h == sectUnits .bf16 gs.length
    let hasZ := shZlen h != 0 && shZlen h == sectUnits .int8 gs.length
    let sz := fun g : List Nat =>
      let j := gs.idxOf g
      (if hasS then s0.topCode i sBase .bf16 j else 0x3F80, if hasZ then s0.topCode i zBase .int8 j else 0)
    -- the scale and zero point that a group of the target has by now
    let under := fun g : List Nat => (if (s0.scaleTensor i t).isSome then (sz g).1 else 0x3F80,
      if (s0.zpTensor i t).isSome then (sz g).2 else 0)
    let s := if car then s else gs.foldl (fun s g => s.putCodes i n t g (sz g).1 (sz g).2) s
    let s := match s0.side i t t.ovIx with
      | some v => if shOlen h = 0 then s else
          ov.zipIdx.foldl (fun s c => s.writePlace i n (s.place i v (.op .bf16) c.1)
            (s0.topCode i oBase .bf16 c.2)) s
      | none => s
    if copies t (.op ef) df then
      (cs.zipIdx.foldl (fun s c => s.writePlace i n (s.place i t df c.1) (s0.topCode i dBase ef c.2)) s).made
        fl 0 {}
    else
      let plain := !ef.isInt && !df.isInt && !car
      let k := { s.sink i n t df fl.fixed with res := none }
      let (s, y) := cs.zipIdx.foldl (fun (a : State × Tally) c =>
        let code := s0.topCode i dBase ef c.2
        let (sc, z) := sz (groupCoord t c.1)
        let v := if plain then ef.decode code else ef.value code (readScale sc).1 z
        a.1.convUnder k a.2 c.1 v step ef.isInt (under (groupCoord t c.1))) (s, {})
      let (s, y, flags) := s.closeSink k y step (whoOf i n w core) core
      let used : Counts := if plain then {} else
        let lost := cs.zipIdx.foldl (fun (a : Counts) c =>
          if !ef.isInt && lostInf ef (s0.topCode i dBase ef c.2) (sz (groupCoord t c.1)).1 then a.add1 .sat else a) {}
        gs.foldl (fun a g => a.add1 (readScale (sz g).1).2) lost
      (s.bumpCounts core used).made fl flags y.gather
  | _, _, _ => s.made fl 0 {}

/-- What a POP needs of other nodes: an overflow entry on top, and the carried records of its target (R170). -/
def State.popNeeds (s : State) (i : Fin 16) (w : Nat) : List Nat :=
  let recs := (s.tensor i (sDesc w)).bind fun t => if t.carried && t.accf == 0 then
      (s.scaleTensor i t).map fun q => s.recordUnits i q (s.popCover i w t).2.1 else none
  s.topUnits i ++ recs.getD []

/-- POP's dispatch. -/
def State.startPop (s : State) (i : Fin 16) (n : Nat) : State :=
  s.attempt i n 0x21 fun s =>
    match s.popHold i n with
    | some s => s
    | none => s.issue i n 0x21 0 false (fun s w => (s.tensor i (sDesc w)).toList)
        (fun s w => s.popCheck i w) (fun s w => s.popNeeds i w) (fun s f => s.popEffect f)

-- Overflow and return.

/-- No stash move and no return starts from a cut's tick on (R490), nor while a SNAP or RESTORE lets no data flit of work
be in flight (R519, R534). -/
def State.stashHeld (s : State) : Bool :=
  !s.cutOpen || s.hg.flight.any fun f => (f.opc == 0x42 || f.opc == 0x43)
    && (f.phase == .waiting 2 || f.phase == .waiting 3 || f.phase == .waiting 4 || f.phase == .waiting 5)

/-- A PUSH of the slot waits for room (R287): it is ready, would not fail, and its entry does not fit. -/
def State.pushWaits (s : State) (i : Fin 16) (n : Nat) : Bool := s.readyNode i n 0x20 && (s.pushShort i n).isSome

/-- A node is this one or can be reached (R291, R467). -/
def State.reaches (s : State) (n : Nat) : Bool :=
  s.route { typ := 2, dst := BitVec.ofNat 12 n } != .unreachable

/-- A PUSH of the slot is waiting or in flight (R289). -/
def State.pushPresent (s : State) (i : Fin 16) : Bool :=
  (s.hg.flight.any fun f => f.slot == i && f.opc == 0x20)
    || (List.range (s.slot i).hdr.twCount).any fun n => s.readyNode i n 0x20

/-- STASH_MOVE: the oldest entry of the ring goes to the top of the overflow stack as remote stores of up to 128 bytes
(R287). It lies in the ring until its last byte is written there, and is not the entry of a POP in flight (R285). While
the other node cannot be reached, the move waits (R291). -/
def State.stashMove (s : State) (i : Fin 16) : State :=
  let x := s.slot i
  match x.stash.ring with
  | [] => s
  | (off, size) :: rest =>
    let up := x.stash.ovfUsed
    let due := (List.range x.hdr.twCount).any fun n => s.pushWaits i n
    let popped := rest == [] && s.hg.flight.any fun f => f.slot == i && f.opc == 0x21
    if s.stashHeld || !due || popped || x.stash.moving || x.stash.returning.isSome || decide (x.hdr.ovfSize < up + size)
        || !s.reaches (hallNode x.hdr.ovfBase) then s
    else
      let s := forN (cdiv size 128) s fun s k =>
        let n := min 128 (size - 128 * k)
        let a := x.hdr.ovfBase + up + 128 * k
        s.sendWrite i stashNode {
          typ := 2, dst := BitVec.ofNat 12 (hallNode a), addr := BitVec.ofNat 60 a
          len := BitVec.ofNat 2 (cdiv n 64)
          payload := (List.range n).map fun j => s.byteAt (x.hdr.ringAt off (128 * k + j)), used := n }
      s.setSlot i { s.slot i with stash := { x.stash with moving := true } }

/-- The moved entry's last byte is written at its target: it leaves the ring (R287). -/
def State.stashMoved (s : State) (i : Fin 16) : State :=
  let x := s.slot i
  match x.stash.moving, x.stash.ring with
  | true, (off, size) :: rest =>
    if s.rem.unacked.any (fun q => q.slot == i && q.node == stashNode)
        || s.rem.heldReq.any (fun q => q.slot == i && q.node == stashNode && q.f.typ != 1) then s
    else s.setSlot i { x with stash := { x.stash with
      bottom := (off + size) % x.hdr.stashSize, ring := rest, moving := false
      ovf := x.stash.ovf ++ [(x.stash.ovfUsed, size)] } }
  | _, _ => s

/-- With no PUSH waiting or in flight and room in the ring, the controller starts reading the top overflow
entry back (R289). -/
def State.stashReturn (s : State) (i : Fin 16) : State :=
  let x := s.slot i
  match x.stash.ovf.getLast? with
  | none => s
  | some (off, size) =>
    if s.stashHeld || x.stash.returning.isSome || x.stash.moving || s.pushPresent i || decide (x.stash.free x.hdr.stashSize < size)
        || (s.hg.flight.any fun f => f.slot == i && f.opc == 0x21 && x.stash.ring == []) then s
    else
      let bottom := (x.stash.bottom + x.hdr.stashSize - size) % x.hdr.stashSize
      let s := s.setSlot i { x with stash := { x.stash with returning := some (bottom, size) } }
      s.askFor i stashNode ((List.range (size / 64)).map fun k => x.hdr.ovfBase + off + 64 * k)

/-- STASH_RETURN_END: every byte of the returned entry is written below the ring's bottom; the entry leaves
the overflow stack (R289). -/
def State.stashReturnEnd (s : State) (i : Fin 16) : State :=
  let x := s.slot i
  match x.stash.returning, x.stash.ovf.getLast? with
  | some (bottom, size), some (off, _) =>
    let us := (List.range (size / 64)).map fun k => x.hdr.ovfBase + off + 64 * k
    if s.missing i stashNode us ≠ [] then s
    else
      let s := forN (size / 4) s fun s k =>
        s.wrN (x.hdr.ringAt bottom (4 * k)) 4 (s.rdN (x.hdr.ovfBase + off + 4 * k) 4)
      (s.setSlot i { s.slot i with stash := { x.stash with
        bottom := bottom, ring := (bottom, size) :: x.stash.ring, ovf := x.stash.ovf.dropLast
        returning := none } }).forget i stashNode
  | _, _ => s

end Sys2Proof.Machine
end

