-- ==== Sys2Proof/Machine/ReduceUnit.lean ====
section
/-! DEFINITION. The reduction unit: REDUCE with link compression (R400, R401, R475, R476) and the end markers
of its participants (R478). -/
namespace Sys2Proof.Machine

-- Body fields of R400.
def rdSrc (w : Nat) : Nat := fld w 160 16
def rdDst (w : Nat) : Nat := fld w 176 16
def rdRes (w : Nat) : Nat := fld w 192 16
def rdFmt (w : Nat) : Nat := fld w 208 4
def rdW64 (w : Nat) : Bool := bit w 212
def rdSteer (w : Nat) : Bool := bit w 213

/-- Whether the steward steers the link format of a REDUCE (R476); the dispatch initialises the state record (R251). -/
def State.linkSteered (s : State) (w : Nat) : Bool :=
  rdSteer w && s.stw.live.en && !posOwn (s.posBlock (twLayer w))

/-- Link format in use; none is a reserved code (R401, R476). -/
def State.linkFmt (s : State) (w : Nat) : Option Fmt :=
  Fmt.ofCode (if s.linkSteered w then posCur (s.posBlock (twLayer w)) else rdFmt w)

/-- The link format takes feedback through RRES: it has four bits or fewer (R267, R476). -/
def State.linkFeeds (s : State) (w : Nat) : Bool :=
  !rdW64 w && ((s.linkFmt w).map fun f => decide (f.bits ≤ 4)).getD false

def isW64 (f : Option EFmt) : Bool :=
  match f with
  | some (.w64 _) => true
  | _ => false

def State.reduceCheck (s : State) (i : Fin 16) (w : Nat) : Option Fail :=
  -- RRES is used with a link format of four bits or fewer (R267)
  let res := s.optional i (rdRes w)
  firstFail [s.need i (rdSrc w), s.need i (rdDst w), if s.linkFeeds w then s.needOpt i (rdRes w) else none, commonForm w false false,
    match s.tensor i (rdSrc w), s.tensor i (rdDst w) with
    | some a, some t =>
      let accum := fun q : Tensor =>
        failWhen (q.kind != 0 || !(isW64 (s.fmtOf i q) || s.fmtOf i q == some (.op .fp32))) (failF q.ix)
      firstFail [
        accum a, s.steerFail i w a false, accum t, s.steerFail i w t true,
        failWhen (t.carried && t.accf == 0) (failF t.ix),
        failWhen (!sameShape a.exts t.exts) (failF t.ix),
        failWhen (rdW64 w && !isW64 (s.fmtOf i a)) (failF a.ix),
        failWhen (!rdW64 w && (s.linkFmt w).isNone) failF,
        if !s.linkFeeds w then none
        else match res with
          | none => failF
          | some r => failWhen (r.kind != 0 || r.ownFmt != some (.op .bf16) || !sameShape r.exts t.exts) (failF r.ix),
        s.useFail i t false,
        if s.linkFeeds w then s.sideUse i [res] else none]
    | _, _ => none]

/-- The participants of a REDUCE (R478). -/
def State.participants (s : State) (i : Fin 16) (t : Tensor) : List (BitVec 12) :=
  if t.localCopy then [s.hall.nid]
  else if t.smap = 0xFFFF then [BitVec.ofNat 12 t.node]
  else
    let a := s.smapOf i t
    let h := s.rdN a 8
    let n := fld h 4 13 * (if bit h 34 then fld h 21 13 else 1)
    (List.range n).foldl (fun l k => insertNew (BitVec.ofNat 12 (fld (s.rdN (a + 8 + 2 * k) 2) 0 12)) l) []

/-- One element that leaves for its owner: coordinates, hall address of its place, and value. -/
structure Leaf where
  c : List Nat
  addr : Nat
  v : Val
  deriving DecidableEq, Repr

/-- Whether an element continues the group of the one before it (R476). -/
def continues (t : Tensor) (a b : Leaf) : Bool :=
  let cut := if t.blk then 32 else 128
  hallNode a.addr == hallNode b.addr && nth b.c 0 0 == nth a.c 0 0 + 1 && a.c.tail == b.c.tail
    && nth b.c 0 0 % cut != 0

/-- Cut elements in coordinate order into groups. -/
def linkGroups (t : Tensor) (ls : List Leaf) : List (List Leaf) :=
  let (done, cur) := ls.foldl (fun (a : List (List Leaf) × List Leaf) l =>
    match a.2.getLast? with
    | none => (a.1, [l])
    | some x => if continues t x l then (a.1, a.2 ++ [l]) else (a.1 ++ [a.2], [l])) ([], [])
  if cur = [] then done else done ++ [cur]

/-- Stride of a flit's elements in element positions (R451, R477). -/
def linkStride (t : Tensor) : Int := if t.blk then 1 else t.str 0

/-- Codes as payload bytes, packed in 32-bit words under R109; W64 codes take eight bytes. -/
def payloadOf (w64 : Bool) (f : Fmt) (cs : List Nat) : List Byte :=
  if w64 then cs.flatMap fun c => (List.range 8).map fun j => BitVec.ofNat 8 (c >>> (8 * j))
  else (List.range (cdiv cs.length f.perWord)).flatMap fun k =>
    let wd := forN f.perWord 0 fun a j => a + (nth cs (k * f.perWord + j) 0 <<< (f.bits * j))
    (List.range 4).map fun j => BitVec.ofNat 8 (wd >>> (8 * j))

/-- Runs of a group that one flit carries: at most `n` elements whose places lie `stride` apart, so that a
flit never leaves the page in which its first element lies. -/
def flitRuns (n : Nat) (stride bytes : Int) (ls : List (Leaf × Nat)) : List (List (Leaf × Nat)) :=
  let (done, cur) := ls.foldl (fun (a : List (List (Leaf × Nat)) × List (Leaf × Nat)) l =>
    match a.2.head? with
    | none => (a.1, [l])
    | some x =>
      if a.2.length < n ∧ (l.1.addr : Int) = x.1.addr + a.2.length * stride * bytes then (a.1, a.2 ++ [l])
      else (a.1 ++ [a.2], [l])) ([], [])
  if cur = [] then done else done ++ [cur]

/-- The flits of one group, its codes under one scale and zero point (R476). -/
def groupFlits (t : Tensor) (df : EFmt) (w64 : Option Int) (f : Fmt) (sc z : Nat) (ls : List (Leaf × Nat)) :
    List Flit :=
  let bytes : Int := match df with
    | .w64 _ => 8
    | _ => 4
  let per := match w64 with
    | some _ => 16
    | none => min 128 (32 * f.perWord)
  let (bf, bx) : Bool × Int := match df with
    | .w64 x => (true, x)
    | _ => (false, 0)
  (flitRuns per (linkStride t) bytes ls).map fun r =>
    let a := (r.head?.map fun x => x.1.addr).getD 0
    let pay := payloadOf w64.isSome f (r.map (·.2))
    { typ := if w64.isSome then 3 else 4
      dst := BitVec.ofNat 12 (hallNode a), addr := BitVec.ofNat 60 a, len := BitVec.ofNat 2 (cdiv pay.length 64)
      lfmt := BitVec.ofNat 4 f.code, lw64 := w64.isSome, bfmt := bf, bexp := BitVec.ofInt 9 bx
      cnt := BitVec.ofNat 8 r.length, estr := BitVec.ofInt 24 (linkStride t), scale := BitVec.ofNat 16 sc
      zp := BitVec.ofNat 8 z, sexp := BitVec.ofInt 9 (w64.getD 0), payload := pay, used := pay.length }

/-- Convert one group to the link format: scale, zero point, and codes, with feedback where the format has
four bits or fewer (R268, R476). -/
def State.linkConvert (s : State) (i : Fin 16) (n w : Nat) (f : Fmt) (y : Tally) (ix : Nat) (ls : List Leaf) :
    Nat × Nat × List (Leaf × Nat) × State × Tally :=
  let res := if f.bits ≤ 4 then s.optional i (rdRes w) else none
  let moved := s.linkSteered w && posMoved (s.posBlock (twLayer w))
  let readRes := fun c : List Nat => match res with
    | some r => if moved then (Dy.zero, Conv.none) else readBf16 (s.readPlace (s.place i r (.op .bf16) c))
    | none => (Dy.zero, Conv.none)
  let plain := f == .fp32 || f == .bf16
  let (sc, z) := if plain then (0x3F80, 0)
    else deriveFrom (ls.map fun l => withResidual l.v (readRes l.c).1) f
  let scd : Option (Dy × Nat) := if plain then none else some ((readScale sc).1, z)
  let (out, s, y) := ls.foldl (fun (a : List (Leaf × Nat) × State × Tally) l =>
    let (out, s, y) := a
    let (e, rc) := readRes l.c
    let inf := l.v.isInf
    let v : Val := if inf then (l.v.extreme).val else l.v
    let w := withResidual v e
    let (code, cv) : Nat × Conv := if l.v.isNan then (if f.isInt then z else 0, .nan) else convertTo (.op f) scd w
    let cv := if inf then .sat else cv
    let back := match scd with
      | some (d, z) => f.value code d z
      | none => f.decode code
    let (ecode, ec) : Nat × Conv := if cv = .sat ∨ l.v.isNan then (0, .none)
      else Fmt.bf16.encode ((w.dy.sub back.dy).val)
    let s := match res with
      | some r => s.writePlace i n (s.place i r (.op .bf16) l.c) ecode
      | none => s
    let rsat := if res.isSome && ec == .sat then Conv.sat else .none
    (out ++ [(l, code)], s, { y with
      counts := ((y.counts.add1 cv).add1 rc).add1 rsat
      gather := if l.v.isNan then y.gather else y.gather.add w cv
      groups := if l.v.isNan then y.groups else addGroup y.groups ix [ix] fun g => g.add v w back.isZero cv }))
    ([], s, y)
  (sc, z, out, s, y)

/-- The elements a REDUCE reads: those of its source that lie in this node's stacks (R475). -/
def State.reduceCover (s : State) (i : Fin 16) (a : Tensor) : List (List Nat) :=
  (coordsOf a.exts).filter fun c => s.isMine i a c

/-- Remote units a REDUCE reads: scales of its source and residuals of the elements it sends. -/
def State.reduceNeeds (s : State) (i : Fin 16) (w : Nat) : List Nat :=
  match s.tensor i (rdSrc w), s.tensor i (rdDst w) with
  | some a, some t =>
    let res := if s.linkFeeds w then s.optional i (rdRes w) else none
    let df := (s.fmtOf i t).getD .a16
    s.away ((s.reduceCover i a).foldl (fun us c =>
      unite us (s.sideUnits i a c ++ (match res with
        | some r => if hallNode (s.place i t df c).addr = s.hall.nid.toNat then []
          else [(s.place i r (.op .bf16) c).addr / 64 * 64]
        | none => []))) [])
  | _, _ => []

/-- Requests of an instruction not yet acknowledged, to one node or to any. -/
def State.openWrites (s : State) (i : Fin 16) (n : Nat) (dst : Option (BitVec 12)) : Nat :=
  let pick := fun q : Req => q.slot == i && q.node == n && q.f.typ != 1 && (match dst with
    | some d => q.f.dst == d
    | none => true)
  (s.rem.unacked.filter pick).length + (s.rem.heldReq.filter fun q => pick q && !s.rem.unacked.contains q).length

/-- Send a sluice flit toward a node, over the port its route takes; the flag says whether there was one. -/
def State.sluiceTo (s : State) (dst : BitVec 12) (m : Sluice) : State × Bool :=
  match s.route { dst := dst } with
  | .out p _ =>
    let s := s.downExhausted p
    if (s.port p).st.usable then (s.sluiceOn p m, true) else (s, false)
  | _ => (s, false)

/-- The end marker of a REDUCE in flight. -/
def State.markerOf (s : State) (fl : Flight) : Marker :=
  { src := s.hall.nid, layer := BitVec.ofNat 16 (twLayer fl.word), opid := BitVec.ofNat 16 (twOpid fl.word)
    ubatch := BitVec.ofNat 16 (twUbatch fl.word), step := fl.stepNo.setWidth 16 }

/-- End markers that a node keeps (R478). -/
def markerRoom : Nat := 1024

/-- The markers of other participants that a REDUCE still waits for (R478). -/
def State.markersMissing (s : State) (f : Flight) : List (BitVec 12) :=
  match s.tensor f.slot (rdDst f.word) with
  | none => []
  | some t =>
    let ps := if t.localCopy then [] else s.participants f.slot t
    if s.hall.nid ∈ ps then
      ps.filter fun p => p != s.hall.nid && !(s.rem.markers.take markerRoom).contains { s.markerOf f with src := p }
    else []

/-- Requests of other nodes' stores and adds that are not yet acknowledged. -/
def State.openReqs (s : State) : List Req :=
  s.rem.unacked ++ s.rem.heldReq.filter fun q => q.f.typ != 1 && !s.rem.unacked.contains q

-- Body fields of FENCE (R406).
def fMode (w : Nat) : Nat := fld w 160 2
def fTick (w : Nat) : BitVec 40 := BitVec.ofNat 40 (fld w 192 40)

/-- Open requests that a FENCE waits for (R407). -/
def State.fenceReqs (s : State) (f : Flight) : List Req :=
  s.openReqs.filter fun q => q.slot == f.slot && f.fence.contains q.node
def State.fenceOpen (s : State) (f : Flight) : Nat := (s.fenceReqs f).length

/-- A FENCE may retire (R407): what it waits for is acknowledged, and in mode 1 its tick is reached (R480). -/
def State.fenceDone (s : State) (f : Flight) : Bool :=
  s.fenceOpen f == 0 && (fMode f.word == 0 || !stampBefore s.stamp (fTick f.word))

/-- Why a REDUCE or FENCE that acted has not retired, as `WAIT`, `WAUX` and `WPEER` (R587): a request held, end markers, or
requests not acknowledged. -/
def State.waitOf (s : State) (f : Flight) : Nat × Nat × Nat :=
  let mine := if f.opc = 0x40 then s.openReqs.filter fun q => q.slot == f.slot && q.node == f.node else s.fenceReqs f
  let ms := s.markersMissing f
  match mine.find? fun q => s.rem.heldReq.contains q with
  | some q => (0x0A, 0, q.f.dst.toNat)
  | none =>
    if f.opc = 0x50 then (if s.fenceDone f then 0 else 0x07, min 0xFFFFF (s.fenceOpen f), 0xFFF)
    else if ms ≠ [] then (0x05, ms.length, (ms.headD 0xFFF).toNat)
    else (0, 0, 0xFFF)

/-- The words of REDUCEs and FENCEs follow what they wait for, and a word that shows a held request shows it no longer when
none is (R587). -/
def State.showWaits (s : State) : State :=
  s.hg.flight.foldl (fun s f =>
    if (f.opc == 0x40 || f.opc == 0x50) && f.phase == .effected then
      let (w, x, p) := s.waitOf f
      s.setWait f.slot f.node 2 w x p
    else f.results.foldl (fun s r =>
      if s.rem.heldReq.any fun q => q.slot == f.slot && q.node == r.node then s else s.clearWait f.slot r.node 0x0A) s) s

/-- Which REDUCEs have come to wait for end markers only (R491); one whose markers are all here before a cut waits no more. -/
def State.noteEnds (s : State) : State :=
  ((s.hg.flight.filter fun f => f.opc == 0x40 && f.phase == .effected).foldl (fun s f =>
    if s.openWrites f.slot f.node none ≠ 0 then s
    else s.setFlight { f with onlyEnds := s.markersMissing f != [] || (f.onlyEnds && !s.cutOpen) }) s).showWaits

/-- End markers that REDUCEs which retired still owe go out as far as there are routes (R478). -/
def State.sendOwed (s : State) : State :=
  s.rem.owedEnds.foldl (fun s x =>
    let (s, ok) := s.sluiceTo x.2 (.endMarker x.1 x.2)
    if ok then s else { s with rem := { s.rem with owedEnds := s.rem.owedEnds ++ [x] } })
    { s with rem := { s.rem with owedEnds := [] } }

/-- Participants that a REDUCE has still to send its end marker. -/
def State.markersDue (s : State) (f : Flight) : List (BitVec 12) :=
  match s.tensor f.slot (rdDst f.word) with
  | none => []
  | some t => if t.localCopy then [] else
      (s.participants f.slot t).filter fun p => p != s.hall.nid && !f.marked.contains p

/-- Send the end markers that are due (R478): to each participant whose accumulate-writes are all
acknowledged. -/
def State.sendMarkers (s : State) : State :=
  ((s.hg.flight.filter fun f => f.opc == 0x40 && f.phase == .effected).foldl (fun s f =>
    let due := (s.markersDue f).filter fun p => s.openWrites f.slot f.node (some p) == 0
    let (s, ms) := due.foldl (fun (a : State × List (BitVec 12)) p =>
      let (s, ok) := a.1.sluiceTo p (.endMarker (s.markerOf f) p)
      if ok then (s, p :: a.2) else a) (s, f.marked)
    if due = [] then s else s.setFlight { f with marked := ms }) s.sendOwed).noteEnds

/-- REDUCE's data effect: local adds and accumulate-writes to the owners (R475, R476); participants that are sent none
get their end markers at once (R478). -/
def State.reduceEffect (s : State) (fl : Flight) : State :=
  let i := fl.slot
  let n := fl.node
  let w := fl.word
  match s.tensor i (rdSrc w), s.tensor i (rdDst w) with
  | some a, some t =>
    match s.fmtOf i a, s.fmtOf i t with
    | some sf, some df =>
      let s0 := s
      let core := n % 8
      let mine := s0.reduceCover i a
      let leaf := fun c : List Nat => (⟨c, (s0.place i t df c).addr, (s0.elemVal i a sf c).1⟩ : Leaf)
      let ls := mine.map leaf
      let near := ls.filter fun l => hallNode l.addr == s0.hall.nid.toNat
      let far := ls.filter fun l => hallNode l.addr != s0.hall.nid.toNat
      let (s, cs) := near.foldl (fun (b : State × Counts) l =>
        match l.v with
        | .nan _ => (b.1, b.2.add1 .nan)
        | v =>
          let (s, c) := b.1.addPlace (s0.place i t df l.c) df (if v.isInf then v.extreme.val else v)
          (s, (if v.isInf then b.2.add1 .sat else b.2).plus c)) (s, ({} : Counts))
      let groups := linkGroups t far
      let x : Option Int := match sf with
        | .w64 x => if rdW64 w then some x else none
        | _ => none
      let f := (s0.linkFmt w).getD .fp32
      let (s, y) := groups.zipIdx.foldl (fun (b : State × Tally) g =>
        match x with
        | some x =>
          let fs := groupFlits t df (some x) .fp32 0x3F80 0
            (g.1.map fun l => (l, s0.elemCode i a sf l.c))
          ((fs.foldl (fun s f => s.sendWrite i n f) b.1).bump 8 3 fs.length, b.2)
        | none =>
          let (sc, z, out, s, y) := b.1.linkConvert i n w f b.2 g.2 g.1
          let fs := groupFlits t df none f sc z out
          ((fs.foldl (fun s f => s.sendWrite i n f) s).bump 8 3 fs.length, y)) (s, ({} : Tally))
      -- link groups are the groups of this conversion; events name RDST and the run of 128 (R183, log 40)
      let (s, ga, flags) := y.groups.foldl (fun (b : State × Gather × Nat) g =>
        let (s, ga, flags) := b
        let c := (((nth groups g.ix []).head?).map Leaf.c).getD []
        let run := linear (t.exts.set 0 (cdiv (nth t.exts 0 0) 128)) (c.set 0 (nth c 0 0 / 128))
        let (s, fl) := s.classGroup f g (whoOf i n w core) core t.ix run
        (s, if g.amax.m != 0 then { ga with hist := addAt ga.hist (histBin g.amax g.amin) 1 } else ga, flags ||| fl))
        (s, y.gather, 0)
      ((s.bumpCounts core ((cs.plus (s0.scaleConv i a sf mine)).plus y.counts)).made fl flags ga).sendMarkers
    | _, _ => s.made fl 0 {}
  | _, _ => s.made fl 0 {}

/-- REDUCE's dispatch. -/
def State.startReduce (s : State) (i : Fin 16) (n : Nat) : State :=
  s.issue i n 0x40 0 false
    (fun s w => (s.tensor i (rdSrc w)).toList ++ (s.tensor i (rdDst w)).toList
      ++ (if rdSteer w && !rdW64 w then [layerTensor (twLayer w)] else []))
    (fun s w => s.reduceCheck i w) (fun s w => s.reduceNeeds i w) (fun s f => s.reduceEffect f)

/-- Whether a REDUCE may retire: it holds what R478 asks for; one that came to wait for end markers only does not before a
cut's resume (R491), but in a frozen part it does (R502). -/
def State.reduceDone (s : State) (f : Flight) : Bool :=
  (s.cutOpen || s.cut.st == .partFrozen || !f.onlyEnds) && s.openWrites f.slot f.node none == 0 && s.markersMissing f == []

/-- The markers that a retiring REDUCE takes out of the store, which makes room for those that their senders held; those of
its own that found no route are owed. -/
def State.takeMarkers (s : State) (f : Flight) : State :=
  let mine := s.markerOf f
  let stored := (s.rem.markers.take markerRoom).filter fun m => { m with src := mine.src } != mine
  let later := s.rem.markers.drop markerRoom
  { s with rem := { s.rem with
    markers := stored ++ later, owedEnds := s.rem.owedEnds ++ (s.markersDue f).map fun p => (mine, p) } }.bump 8 4 (min later.length (markerRoom - stored.length))

/-- END_MARKER: a marker arrives and is kept. Beyond the 1,024 that the store takes, it counts as held by its sender, and
no REDUCE here meets it before there is room (R478, log 96). -/
def execEndMarker (src : BitVec 12) (layer opid ubatch step : BitVec 16) (s : State) :
    Host.Outcome State Fault Refusal :=
  let m : Marker := ⟨src, layer, opid, ubatch, step⟩
  let t := { s with rem := { s.rem with markers := s.rem.markers ++ [m] } }
  .next (if s.rem.markers.length < markerRoom then t.bump 8 4 1 else t).noteEnds

end Sys2Proof.Machine
end

