-- ==== Sys2Proof/Machine/StewardUnit.lean ====
section
/-! DEFINITION. The precision steward at a step's end: STEP (R257, R410), the evaluation of a layer (R259 to
R262, R272), the collective STEP of a hall (R263, R264) and the advance of the step number (R601, R597). -/
namespace Sys2Proof.Machine

/-- A statistic above (or not above) a threshold times NCONV, exactly (R260). -/
def overShare (count : Nat) (threshold n : Nat) : Bool :=
  (((ofFp32 threshold).dy).mul (Dy.ofInt n)).lt (Dy.ofInt count)

/-- A layer's position as the evaluation moves it. -/
structure Pos where
  own : Bool
  trbl : Bool
  rung : Nat
  cur : Nat
  calm : Nat
  hot : Nat
  deriving DecidableEq, Repr

def posOf (p : Nat) : Pos := ⟨posOwn p, bit p 3, fld p 4 2, posCur p, fld p 16 8, fld p 24 8⟩

/-- The verdict of R259: rung and streaks after an evaluation under a valid, enabled ladder, and whether
TROUBLE is raised. -/
def verdict (ld done : Nat) (p : Pos) : Pos × Bool :=
  let top := fld ld 2 2
  let p := { p with own := false, rung := min p.rung top }
  let n := fld done 64 40
  let sat := fld done 104 40
  let ufl := fld done 144 40
  if n = 0 ∨ n < fld ld 192 32 then (p, false)
  else
    let hot := overShare sat (fld ld 64 32) n || overShare ufl (fld ld 96 32) n
    let calm := !overShare sat (fld ld 128 32) n && !overShare ufl (fld ld 160 32) n
    if hot then
      if p.rung < top then ({ p with calm := 0, rung := p.rung + 1, hot := 0 }, false)
      else
        let h := min (p.hot + 1) 255
        if fld ld 32 8 ≠ 0 ∧ h = fld ld 32 8 then ({ p with calm := 0, trbl := true, hot := 0 }, true)
        else ({ p with calm := 0, hot := h }, false)
    else if calm then
      let c := min (p.calm + 1) 255
      if fld ld 24 8 ≠ 0 ∧ fld ld 24 8 ≤ c ∧ 0 < p.rung then
        ({ p with hot := 0, rung := p.rung - 1, calm := 0 }, false)
      else ({ p with hot := 0, calm := c }, false)
    else ({ p with calm := 0, hot := 0 }, false)

/-- The evaluation of one layer at the STEP that ends the current step (R259). -/
def State.evaluate (s : State) (l : Nat) : State :=
  let s := s.ladderFormat l
  let a := s.stwAddr l
  let ld := s.ladder l
  let on := bit ld 0 && !ladderInvalid ld
  let done := s.rdN (a + 64) 48
  let old := s.posBlock l
  let p0 := { posOf old with trbl := false }
  let step := s.hg.stepNo.toNat
  let (p, trouble) := if !on then ({ p0 with own := true }, false)
    else if s.stw.live.freeze then (p0, false) else verdict ld done p0
  let cur := if p.own then p.cur else rungFmt ld p.rung
  let moved := p.own != posOwn old || cur != posCur old
  let rec' := 1 + put 1 1 (b2n moved) + put 2 1 (b2n p.own) + put 3 1 (b2n p.trbl) + put 4 2 p.rung
    + put 8 4 cur + put 16 8 p.calm + put 24 8 p.hot
    + put 32 16 (if moved then step + 1 else fld old 32 16) + put 48 16 step
  let s := ((s.wrN (a + 64) 48 emptyBlock).wrN (a + 112) 48 done).wrN (a + 160) 32 rec'
  if trouble || p.rung != fld old 4 2 then
    { s with stw := { s.stw with news := s.stw.news ++
      [⟨BitVec.ofNat 16 l, trouble, BitVec.ofNat 2 (fld old 4 2), BitVec.ofNat 2 p.rung, BitVec.ofNat 4 cur⟩] } }
  else s

/-- What an evaluation reports, with the stamp of the STEP's retirement: TROUBLE, and the record of a moved rung (R272,
R486, R578). -/
def State.tellNews (s : State) (v : StewardNews) : State :=
  let l := v.layer.toNat
  let step := s.hg.stepNo.toNat
  let s := if v.trouble then s.raise .trouble { unit := 8, layer := l } l v.rung.toNat step else s
  if v.old != v.rung && s.tr.live.stw then
    s.trace [recHeader 0x06 0 s.stamp { unit := 8, layer := l } 0 + put 144 4 v.old.toNat + put 148 4 v.rung.toNat
      + put 152 4 v.cur.toNat + put 156 16 step]
  else s

/-- The layers to evaluate: those that received a merge in the step (R257, R258). One whose record software has zeroed
since is new, and waits for its first use (R244). -/
def State.dueLayers (s : State) : List (BitVec 16) :=
  if s.stw.live.en then s.stw.merged.filter fun l => posValid (s.posBlock l.toNat) else []

/-- Every due layer is evaluated. Merges that come from now on are those of the next step (R264). -/
def State.evaluateAll (s : State) : State :=
  let s := s.dueLayers.foldl (fun s l => s.evaluate l.toNat) s
  { s with stw := { s.stw with merged := [] } }

/-- The STEP between dispatch and retirement. -/
def State.stepFlight (s : State) : Option Flight := s.hg.flight.find? fun f => f.opc == 0x52

/-- This node evaluates by itself: a hall of one live node (R263). -/
def State.aloneLive (s : State) : Bool := decide (s.hall.live.length ≤ 1)

/-- A live node whose step-ready the acting manager lacks. -/
def State.readyMissing (s : State) : Option (BitVec 12) :=
  s.hall.live.find? fun n => n != s.hall.nid && !s.stw.ready.contains n

/-- Show why a STEP waits (R264, R587). -/
def State.stepWait (s : State) (f : Flight) (phase : Nat) (peer : BitVec 12) : State :=
  s.setWait f.slot f.node 2 0x06 phase peer.toNat

/-- Send step-done to every live node (R264). -/
def State.sendStepDone (s : State) (layers : List (BitVec 16)) : State :=
  let blocks := layers.map fun l =>
    (l, BitVec.ofNat 384 (s.rdN (s.stwAddr l.toNat + 112) 48), BitVec.ofNat 256 (s.posBlock l.toNat))
  (s.hall.live.filter (· != s.hall.nid)).foldl (fun s n => (s.sluiceTo n (.stepDone blocks)).1) s

/-- Every LIVE block that received a merge goes to the acting manager's basin, and is empty here (R264). One that software
has zeroed since received none (R244). -/
def State.sendMerges (s : State) : State :=
  s.stw.merged.foldl (fun s l =>
    let a := s.stwAddr l.toNat + 64
    if s.rdN a 48 = 0 then s else
    (s.sendWrite 0 stewardNode (storeFlit (s.homeEntry l.toNat + 64) 48 (s.rdN a 48) (.block l))).wrN a 48 emptyBlock)
    { s with stw := { s.stw with merged := [] } }

/-- A request of the steward is not acknowledged yet (R264, R471). -/
def State.mergesOpen (s : State) : Bool :=
  (s.rem.unacked ++ s.rem.heldReq).any fun q => q.node == stewardNode

/-- Carry a STEP as far as it goes (R257, R264): once nothing else is in flight, a lone node evaluates; another sends its
merges to the acting manager (phase 1), and step-ready when all are acknowledged (phase 2), or as the manager evaluates
when every live node is ready. Phase 3 is a STEP with only its retirement left. -/
def State.stepPump (s : State) : State :=
  match s.stepFlight with
  | none => s
  | some f =>
    if f.phase = .waiting 3 ∨ s.hg.flight.any (fun g => g.opc != 0x52) then s
    else if s.aloneLive then s.evaluateAll.setFlight { f with phase := .waiting 3 }
    else if s.hall.actMgr = s.hall.nid then
      match s.readyMissing with
      | some n => (s.setFlight { f with phase := .waiting 2 }).stepWait f 2 n
      | none =>
        let s := s.evaluateAll.sendStepDone s.dueLayers
        { s.setFlight { f with phase := .waiting 3 } with stw := { s.stw with ready := [] } }
    else if f.phase = .waiting 2 then s
    else
      let s := if f.phase = .waiting 1 ∨ s.stw.live.en = false then s
        else s.sendMerges.setFlight { f with phase := .waiting 1 }
      if s.mergesOpen then s.stepWait f 1 s.hall.actMgr
      else
        let (t, ok) := s.sluiceTo s.hall.actMgr (.stepReady s.hall.nid [])
        if ok then (t.setFlight { f with phase := .waiting 2 }).stepWait f 3 s.hall.actMgr
        else s.stepWait f 1 s.hall.actMgr

/-- STEP's dispatch. It is not dispatched while a slot is SAVED or being saved (R437). -/
def State.startStep (s : State) (i : Fin 16) (n : Nat) : State :=
  if s.readyNode i n 0x52 ∧ s.hg.slotEn.getLsbD i.val = true ∧ allSlots.any (fun j => (s.slot j).st == .saved || s.saving j) then
    s.setWait i n 1 0x09 0 0xFFF
  else s.issue i n 0x52 0 false (fun _ _ => []) (fun _ w => commonForm w false false)
    (fun _ _ => []) (fun s _ => s.stepPump)

/-- The end of a STEP: what its evaluations report, the step number advances, and a committed steward set takes effect
(R257, R486, R597). Records that were read before it are those of an earlier step. -/
def State.finishStep (s : State) : State :=
  let s := s.stw.news.foldl State.tellNews s
  let live := s.stw.set.getD s.stw.live
  { s.ageReads with
    hg := { s.hg with stepNo := s.hg.stepNo + 1 }
    stw := { s.stw with live := live, set := none, formatted := [], saturated := [], news := [] } }

/-- STEP_READY: at the acting manager the node is ready; blocks that came with it enter its LIVE blocks (R264). -/
def execStepReady (node : BitVec 12) (merges : List (BitVec 16 × BitVec 384)) (s : State) :
    Host.Outcome State Fault Refusal :=
  let s := s.sweep
  .next (if s.hall.actMgr != s.hall.nid || s.aloneLive || !s.hall.live.contains node
      || s.stw.ready.contains node then s
    else
      let s := if s.stw.live.en then merges.foldl (fun s m => s.mergeLive m.1.toNat m.2.toNat) s else s
      ({ s with stw := { s.stw with ready := node :: s.stw.ready } }).stepPump)

/-- STEP_DONE: a node copies the evaluated layers' DONE and position blocks into its table (R264). -/
def execStepDone (blocks : List (BitVec 16 × BitVec 384 × BitVec 256)) (s : State) :
    Host.Outcome State Fault Refusal :=
  .next (match s.stepFlight with
    | some f =>
      if f.phase = .waiting 2 ∧ s.hall.actMgr ≠ s.hall.nid then
        let s := blocks.foldl (fun s b =>
          (s.wrN (s.stwAddr b.1.toNat + 112) 48 b.2.1.toNat).wrN (s.stwAddr b.1.toNat + 160) 32 b.2.2.toNat) s
        s.setFlight { f with phase := .waiting 3 }
      else s
    | none => s)

end Sys2Proof.Machine
end

