-- ==== Sys2Proof/Machine/SnapUnit.lean ====
section
/-! DEFINITION. The snapshot unit: the image (R514 to R517), SNAP and RESTORE with their collective phases (R518
to R521, R534 to R539), parity (R511 to R513, R522), copies (R523, R524), the cadence (R525, R526) and rebuild
(R527 to R533). -/
namespace Sys2Proof.Machine

-- Body fields of R404.
def snList (w : Nat) : Nat := fld w 160 16
def snNum (w : Nat) : Nat := fld w 176 32
def snDepth (w : Nat) : Nat := fld w 208 2

/-- The other nodes of the live set. -/
def State.others (s : State) : List (BitVec 12) := s.hall.live.filter (· != s.hall.nid)

/-- Send a sluice flit to every other live node. -/
def State.toLive (s : State) (m : Sluice) : State := s.others.foldl (fun s n => (s.sluiceTo n m).1) s

-- The snapshot area (R509).
def State.bufBytes (s : State) : Nat := s.snap.imgpg.toNat * 4096
def State.bufAt (s : State) (b : Fin 2) : Nat := s.snap.sbase.toNat + b.val * s.bufBytes
def State.parAt (s : State) (role b : Fin 2) : Nat := s.snap.sbase.toNat + (2 + 2 * role.val + b.val) * s.bufBytes
def State.areaOk (s : State) : Bool := s.mine s.snap.sbase.toNat (6 * s.bufBytes)

def State.setBuf (s : State) (b : Fin 2) (x : BufSt) : State :=
  { s with snap := { s.snap with buf := s.snap.buf.set b x } }

/-- The buffer that does not hold the newest captured snapshot (R521). -/
def State.captureBuf (s : State) : Fin 2 :=
  if s.snap.bufSnum[0] = s.snap.newest ∧ s.snap.buf[0] ≠ .empty then 1 else 0

-- Parity groups (R511).

/-- Entry `g` of the parity group table as one number. -/
def State.group (s : State) (g : Nat) : Nat := s.rdN (s.snap.pbase.toNat + 64 * g) 64
def gNdata (x : Nat) : Nat := fld x 0 4
def gNpar (x : Nat) : Nat := fld x 4 2
/-- Data member `i` and holder `i`: node and enclosure. -/
def gData (x i : Nat) : BitVec 12 × Nat := (BitVec.ofNat 12 (fld x (20 * i + 8) 12), fld x (20 * i + 20) 8)
def gHold (x i : Nat) : BitVec 12 × Nat := (BitVec.ofNat 12 (fld x (20 * i + 168) 12), fld x (20 * i + 180) 8)
def gMembers (x : Nat) : List (BitVec 12 × Nat) := (List.range (gNdata x)).map (gData x)
def gHolders (x : Nat) : List (BitVec 12 × Nat) := (List.range (gNpar x)).map (gHold x)

def State.groups (s : State) : List Nat := (List.range s.snap.pgcnt.toNat).map s.group

/-- Holder places of the table in scan order (R512): (group, place) with their node. -/
def State.holderPlaces (s : State) : List (Nat × Nat × BitVec 12) :=
  s.groups.zipIdx.flatMap fun x => (gHolders x.1).zipIdx.map fun h => (x.2, h.2, h.1.1)

/-- Roles of a node, in order (R512). -/
def State.rolesOf (s : State) (n : BitVec 12) : List (Nat × Nat) :=
  (s.holderPlaces.filter fun p => p.2.2 == n).map fun p => (p.1, p.2.1)

/-- The table is valid for the live set (R512). -/
def State.groupsValid (s : State) : Bool :=
  let live := s.hall.nid :: s.others
  let gs := s.groups
  let named := gs.flatMap fun x => gMembers x ++ gHolders x
  (gs.all fun x => decide (2 ≤ gNdata x) && decide (gNdata x ≤ 8) && (gNpar x == 1 || gNpar x == 2))
    && (live.all fun n => (gs.flatMap fun x => (gMembers x).map (·.1)).count n == 1)
    && (named.all fun m => live.contains m.1)
    && (gs.all fun x =>
      (gHolders x).all fun h => (gMembers x).all fun m => m.1 != h.1 && m.2 != h.2)
    && (gs.all fun x => gNpar x != 2 || (gHold x 0).2 != (gHold x 1).2)
    && (named.all fun a => named.all fun b => a.1 != b.1 || a.2 == b.2)
    && (live.all fun n => decide ((s.rolesOf n).length ≤ 2))

/-- DEGR (R524, R531): some group of the table has a holder that was lost. -/
def State.degraded (s : State) : Bool :=
  s.groups.any fun x => (gHolders x).any fun h => s.snap.lost.contains h.1

-- The image (R514, R515). Its sections after the header are laid out as this model reads them: the index in
-- blocks of `idxBytes` for each list entry and role, then each tensor's elements, then steward table, version
-- table and stash.

def idxBytes : Nat := 9216
def stewBytes : Nat := 16 * 2 ^ 20
def verBytes : Nat := 4 * 2 ^ 20

/-- Tag of how an image holds a tensor: an operand format's code, 12 A16, 13 W64, 14 indices, 15 and 16
records of 8 and 16 bytes, 17 nothing (a window view). -/
def State.holdTag (s : State) (i : Fin 16) (t : Tensor) : Nat :=
  match t.kind with
  | 1 => 17
  | 2 => 14
  | 3 => if t.fmtCode = 0 then 15 else 16
  | _ => match s.fmtOf i t with
    | some (.op f) => f.code
    | some .a16 => 12
    | some (.w64 _) => 13
    | none => 17

/-- Bytes of `n` elements under a tag, in whole 64-byte units. -/
def holdBytes (tag n : Nat) : Nat :=
  if tag = 13 ∨ tag = 15 then cdiv (8 * n) 64 * 64
  else if tag = 16 then cdiv (16 * n) 64 * 64
  else if tag = 17 then 0
  else
    let f := if tag = 12 then Fmt.bf16 else (Fmt.ofCode tag).getD .fp32
    64 * sectUnits f n

/-- Format of the places of a tag. -/
def holdFmt (t : Tensor) (tag : Nat) : EFmt :=
  if tag = 12 then .a16 else if tag = 13 then .w64 t.wexp else .op ((Fmt.ofCode tag).getD .fp32)

/-- Code of element `k` of a section that starts at `base`, read through `rd`. -/
def holdCode (rd : Nat → Nat → Nat) (base tag k : Nat) : Nat :=
  if tag = 13 ∨ tag = 15 then rd (base + 8 * k) 8
  else if tag = 16 then rd (base + 16 * k) 16
  else
    let f := if tag = 12 then Fmt.bf16 else (Fmt.ofCode tag).getD .fp32
    fld (rd (base + 4 * (k / f.perWord)) 4) (f.bits * (k % f.perWord)) f.bits

/-- The tensor of a list entry in each role: itself, scale, zero point, outlier list, outlier values,
residual (R515). -/
def State.roles (s : State) (i : Fin 16) (t : Tensor) : List (Option Tensor) :=
  if t.isView then [some t, none, none, none, none, none]
  else [some t, s.side i t t.scaleIx, s.side i t t.zpIx, s.side i t t.olIx, s.side i t t.ovIx,
    s.side i t t.resIx]

/-- The listed tensors of a SNAP or RESTORE. -/
def State.listed (s : State) (i : Fin 16) (w : Nat) : List Tensor :=
  match s.tensor i (snList w) with
  | some l => (List.range (l.extRaw 0)).filterMap fun j => s.tensor i (s.indexAt i l j).toNat
  | none => []

/-- Offset of the index block of entry `e` in role `r`. -/
def idxAt (e r : Nat) : Nat := 64 + (6 * e + r) * idxBytes

/-- Coordinates of a tensor. -/
def Tensor.cells (t : Tensor) : List (List Nat) := if t.isView then [] else coordsOf t.exts

/-- A tensor of an image's index: present flag and tag, and the descriptor copy. -/
def imgTensor (rd : Nat → Nat → Nat) (e r : Nat) : Option (Nat × Tensor) :=
  let b := idxAt e r
  let h := rd b 8
  if bit h 0 then some (fld h 8 8, ⟨fld h 16 16, rd (b + 64) 64⟩) else none

/-- Owner and local coordinates under an image's descriptor copies. -/
def imgOwner (rd : Nat → Nat → Nat) (e r me : Nat) (t : Tensor) (c : List Nat) : Nat × List Nat :=
  ownerVia rd me (idxAt e r + 192) t c

/-- Elements that the node of an image owns of a tensor, in coordinate order. -/
def imgOwned (rd : Nat → Nat → Nat) (e r me : Nat) (t : Tensor) : List (List Nat) :=
  t.cells.filter fun c => (imgOwner rd e r me t c).1 == me

/-- Where the sections of each tensor of an image start, in order of (entry, role), and where they end. -/
def imgPlaces (rd : Nat → Nat → Nat) (n me : Nat) : List ((Nat × Nat) × Nat) × Nat :=
  (List.range n).foldl (fun a e => (List.range 6).foldl (fun a r =>
    match imgTensor rd e r with
    | some (tag, t) => (a.1 ++ [((e, r), a.2)], a.2 + holdBytes tag (imgOwned rd e r me t).length)
    | none => a) a) ([], 64 + 6 * n * idxBytes)

/-- Stash entries of a slot as an image holds them: those of the ring in push order, then those of the overflow region
(R515), as (from overflow, offset, bytes). -/
def Stash.entries (x : Stash) : List (Bool × Nat × Nat) :=
  x.ring.map (fun e => (false, e.1, e.2)) ++ x.ovf.map (fun e => (true, e.1, e.2))

/-- Bytes of the overflow region below its top. -/
def Stash.ovfTop (x : Stash) : Nat := x.ovf.foldl (fun a e => max a (e.1 + e.2)) 0

/-- Bytes at the head of the stash section: the pointers of R276 (bottom and top of the ring, top of the overflow stack, push
count), the counts of both kinds of entries, and the sizes, before the entries on 64-byte boundaries. -/
def stashHeadBytes (n : Nat) : Nat := cdiv (48 + 8 * n) 64 * 64
def Stash.imageBytes (x : Stash) : Nat :=
  stashHeadBytes x.entries.length + sumN (x.entries.map fun e => e.2.2)

/-- Image length in pages, of a list of tensors and a slot's stash (R514, R520). -/
def State.imagePages (s : State) (i : Fin 16) (w : Nat) : Nat :=
  let ts := s.listed i w
  let data := ts.foldl (fun a t => (s.roles i t).foldl (fun a r => match r with
    | some q => a + holdBytes (s.holdTag i q) (q.cells.filter fun c => s.isMine i q c).length
    | none => a) a) 0
  cdiv (64 + 6 * ts.length * idxBytes + data + stewBytes + verBytes + (s.slot i).stash.imageBytes) 4096

/-- Write one index block: flags, descriptor, allocation entry, shard map. -/
def State.putIndex (s : State) (i : Fin 16) (at_ e r : Nat) (t : Tensor) : State :=
  let b := at_ + idxAt e r
  let s1 := (s.wrN b 8 (1 + put 8 8 (s.holdTag i t) + put 16 16 t.ix)).wrN (b + 64) 64 t.d
  let s1 := s1.wrN (b + 128) 16 (s.allocOf i t)
  if t.isView ∨ t.localCopy ∨ t.smap = 0xFFFF then s1
  else
    let h := s.rdN (s.smapOf i t) 8
    let n := fld h 4 13 * (if bit h 34 then fld h 21 13 else 1)
    forN (4 + n) s1 fun s1 k => s1.wrN (b + 192 + 2 * k) 2 (s.rdN (s.smapOf i t + 2 * k) 2)

/-- Write this node's elements of one tensor at `at_`. -/
def State.putElems (s : State) (i : Fin 16) (at_ : Nat) (t : Tensor) : State × Nat :=
  let tag := s.holdTag i t
  let cs := t.cells.filter fun c => s.isMine i t c
  let s1 :=
    if tag = 15 ∨ tag = 16 then
      let k := if tag = 15 then 8 else 16
      cs.zipIdx.foldl (fun s1 c => s1.wrN (at_ + k * c.2) k (s.rdN (s.recPlace i t c.1) k)) s
    else if tag = 13 then
      cs.zipIdx.foldl (fun s1 c => s1.wrN (at_ + 8 * c.2) 8
        (s.readPlace (s.place i t (holdFmt t tag) c.1))) s
    else
      let f := if tag = 12 then Fmt.bf16 else (Fmt.ofCode tag).getD .fp32
      let ws := sectWords f (cs.map fun c => s.readPlace (s.place i t (holdFmt t tag) c))
      ws.zipIdx.foldl (fun s1 x => s1.wrN (at_ + 4 * x.2) 4 x.1) s
  (s1, at_ + holdBytes tag cs.length)

/-- Copy `n` bytes of this node's memory. -/
def State.copyMem (s : State) (src dst n : Nat) : State :=
  { s with mem := Mem.paste s.mem (hallLoc dst) n (Mem.slice s.mem (hallLoc src) n) }

/-- The integrity tag over an image of `pages` pages whose bytes from 0 on `cells` gives, TAG taken as zero, under the
snapshot integrity key (R516). -/
def State.tagOf (s : State) (cells : Memory) (pages snum node : Nat) : Option Nat :=
  s.key.snapKey.map fun k =>
    let m := cells.filter fun c => !(32 ≤ c.1 && c.1 < 48)
    gmacOf k.key.toNat (k.salt.toNat + put 32 32 snum + put 64 32 node) (256 * pages) fun b =>
      (List.range 16).map fun j => (Mem.get m (16 * b + j)).toNat

/-- The tag of an image at a hall address of this node. -/
def State.imageTag (s : State) (at_ pages snum node : Nat) : Option Nat :=
  s.tagOf (Mem.slice s.mem (hallLoc at_) (4096 * pages)) pages snum node

/-- Index of this node's parity group. -/
def State.myGroup (s : State) : Nat :=
  (s.groups.findIdx? fun x => (gMembers x).any fun m => m.1 == s.hall.nid).getD 0

/-- Write the image of a SNAP into a buffer, with its tag (R514 to R516). `ovf` holds the bytes of the overflow
entries as their remote loads return them, by hall address. -/
def State.writeImage (s : State) (f : Flight) (b : Fin 2) (ovf : Memory) : State :=
  let i := f.slot
  let w := f.word
  let base := s.bufAt b
  let ts := s.listed i w
  let n := ts.length
  let pages := s.imagePages i w
  let src := s
  let s := { s with mem := Mem.paste s.mem (hallLoc base) s.bufBytes [] }
  let s := ts.zipIdx.foldl (fun s t => (src.roles i t.1).zipIdx.foldl (fun s r => match r.1 with
    | some q => s.putIndex i base t.2 r.2 q
    | none => s) s) s
  let (s, at_) := ts.foldl (fun (a : State × Nat) t => (src.roles i t).foldl (fun a r => match r with
    | some q => a.1.putElems i a.2 q
    | none => a) a) (s, base + 64 + 6 * n * idxBytes)
  let s := s.copyMem s.stw.live.base.toNat at_ stewBytes
  let s := s.copyMem s.hg.verBase.toNat (at_ + stewBytes) verBytes
  let st := at_ + stewBytes + verBytes
  let x := (s.slot i).stash
  let top := x.bottom + sumN (x.ring.map (·.2))
  let s := [x.bottom, top, x.ovfTop, x.pushCount.toNat, x.ring.length, x.ovf.length].zipIdx.foldl
    (fun s v => s.wrN (st + 8 * v.2) 8 v.1) s
  let s := x.entries.zipIdx.foldl (fun s e => s.wrN (st + 48 + 8 * e.2) 8 e.1.2.2) s
  let h := (s.slot i).hdr
  let (s, _) := x.entries.foldl (fun (a : State × Nat) e =>
    let s := forN e.2.2 a.1 fun s k =>
      let v := if e.1 then (Mem.get ovf (h.ovfBase + e.2.1 + k)).toNat else s.rdN (h.ringAt e.2.1 k) 1
      s.wrN (a.2 + k) 1 v
    (s, a.2 + e.2.2)) (s, st + stashHeadBytes x.entries.length)
  let hd := put 0 32 (snNum w) + put 32 12 s.hall.nid.toNat + put 44 12 s.myGroup + put 56 2 (snDepth w)
    + put 64 64 s.snap.capTick.toNat + put 128 32 s.hg.stepNo.toNat + put 160 28 pages + put 188 4 1
    + put 192 16 n + put 208 4 i.val
  let s := s.wrN base 64 hd
  s.wrN (base + 32) 16 ((s.imageTag base pages (snNum w) s.hall.nid.toNat).getD 0)

/-- A good image of a snapshot in a buffer: header, format and tag (R514, R516). -/
def State.imageGood (s : State) (b : Fin 2) (snum : Nat) : Bool :=
  let h := s.rdN (s.bufAt b) 64
  fld h 0 32 == snum && fld h 188 4 == 1
    && s.imageTag (s.bufAt b) (fld h 160 28) snum (fld h 32 12) == some (fld h 256 128)

-- Collective phases (R519): 1 Hold, 2 load (RESTORE), 3 Ready, 4 Capture or write, 5 Done, 6 retirement.

/-- The SNAP or RESTORE between dispatch and retirement. -/
def State.snapFlight (s : State) : Option Flight := s.hg.flight.find? fun f => f.opc == 0x42 || f.opc == 0x43

/-- A REDUCE that waits only for end markers counts as done (R491). -/
def State.onlyMarkers (s : State) (f : Flight) : Bool :=
  f.opc == 0x40 && f.phase == .effected && s.openWrites f.slot f.node none == 0

/-- No move and no return runs (R287, R289). -/
def Stash.still (x : Stash) : Bool := !x.moving && x.returning.isNone

/-- Every instruction but those of `opc` has retired, stands saved, or waits for end markers alone, and every write sent is
acknowledged (R491, R492, R519). -/
def State.workDone (s : State) (opc : Nat) : Bool :=
  (s.hg.flight.all fun f => f.opc == opc || f.parked || s.onlyMarkers f) && s.rem.unacked.isEmpty
    && s.rem.heldReq.all fun q => q.f.typ == 1

/-- A node is done with a cut, but for gangs that stand saved: no stash move runs (R492); a return may (R490). -/
def State.cutDone (s : State) : Bool := s.workDone 0 && allSlots.all fun i => !(s.slot i).stash.moving

/-- The end of Hold, but for the buffer. Reads of work have been answered too, since from Ready on no data flit of work is
in flight (R519). -/
def State.quiet (s : State) (opc : Nat) : Bool :=
  s.workDone opc && (s.rem.reads.all fun q => s.rem.heldReq.contains q) && allSlots.all fun i => (s.slot i).stash.still

/-- The checks of R520, as a STATUS; 0 passes. -/
def State.snapCheck (s : State) (f : Flight) : Nat :=
  let w := f.word
  if snNum w = 0 ∨ snNum w ≤ s.snap.maxSnum.toNat ∨ s.key.snapKey.isNone then 0x10
  else if s.snap.pgcnt = 0 then 0x11
  else if !s.groupsValid then 0x10
  else if (allSlots.any fun i => (s.slot i).st == .saved) || !s.areaOk
      || decide (s.snap.imgpg.toNat < s.imagePages f.slot w) then 0x11
  else 0

/-- Reading of one of this node's buffers, from its start. -/
def State.bufRd (s : State) (b : Fin 2) : Nat → Nat → Nat := fun a n => s.rdN (s.bufAt b + a) n

/-- The list of a RESTORE matches an image's index (R535). -/
def State.listMatches (s : State) (f : Flight) (rd : Nat → Nat → Nat) : Bool :=
  let ts := s.listed f.slot f.word
  -- of a listed tensor the format, `ACCF`, `WEXP`, grouping and `SMODE`, of a side tensor the format; what a tensor of its
  -- kind ignores agrees (R323, R324)
  let fmt := fun t : Tensor =>
    if t.kind = 2 then [] else if t.kind = 3 then [t.fmtCode]
    else if t.accf = 0 then [0, t.fmtCode] else if t.accf = 1 then [1] else [t.accf, fld t.d 84 9]
  let look := fun (r : Nat) (t : Tensor) => t.kind :: fmt t ++ (if r = 0 ∧ t.kind ≠ 2 then [fld t.d 72 7] else [])
  fld (rd 0 64) 192 16 == ts.length && ts.zipIdx.all fun t =>
    (s.roles f.slot t.1).zipIdx.all fun r => match r.1, imgTensor rd t.2 r.2 with
      | none, none => true
      | some q, some (_, o) =>
        if q.isView || o.isView then q.d == o.d else sameShape q.exts o.exts && look r.2 q == look r.2 o
      | _, _ => false

/-- Stash entries of an image, bottom first, which is the overflow region's before the ring's: where each starts, and its
size (R515, R537). -/
def imgStash (rd : Nat → Nat → Nat) (st : Nat) : List (Nat × Nat) :=
  let ring := rd (st + 32) 8
  let n := ring + rd (st + 40) 8
  let sizes := (List.range n).map fun k => rd (st + 48 + 8 * k) 8
  let es := (sizes.foldl (fun (a : List (Nat × Nat) × Nat) z => (a.1 ++ [(a.2, z)], a.2 + z))
    ([], st + stashHeadBytes n)).1
  es.drop ring ++ es.take ring

/-- How restored entries lie: those that fit the ring, newest first, the older ones in the overflow region
(R537); none when they fit in neither. -/
def stashSplit (h : Hdr) (sizes : List Nat) : Option (List Nat × List Nat) :=
  let keep := (sizes.reverse.foldl (fun (a : Nat × Nat × Bool) z =>
    if a.2.2 && decide (a.1 + z ≤ h.stashSize) then (a.1 + z, a.2.1 + 1, true) else (a.1, a.2.1, false))
    (0, 0, true)).2.1
  let ovf := sizes.take (sizes.length - keep)
  if sumN ovf ≤ h.ovfSize then some (ovf, sizes.drop (sizes.length - keep)) else none

/-- Where the steward section of an image starts. -/
def imgStew (rd : Nat → Nat → Nat) : Nat :=
  let h := rd 0 64
  (imgPlaces rd (fld h 192 16) (fld h 32 12)).2

/-- What this node reads from an image that stands for its own: the list matches, and the stash finds room (R535, R537). As
a STATUS. -/
def State.imageCheck (s : State) (f : Flight) (rd : Nat → Nat → Nat) : Nat :=
  if !s.listMatches f rd then 0x10
  else if (stashSplit (s.slot f.slot).hdr
      ((imgStash rd (imgStew rd + stewBytes + verBytes)).map (·.2))).isNone then 0x11
  else 0

/-- Nodes whose images hold, under an image's index, the elements that this node holds now (R536). -/
def State.restoreFrom (s : State) (f : Flight) (rd : Nat → Nat → Nat) : List Nat :=
  (s.listed f.slot f.word).zipIdx.foldl (fun l t => (s.roles f.slot t.1).zipIdx.foldl (fun l r =>
    match r.1, imgTensor rd t.2 r.2 with
    | some q, some (_, o) =>
      if o.localCopy then l
      else (q.cells.filter fun c => s.isMine f.slot q c).foldl (fun l c =>
        insertNew (imgOwner rd t.2 r.2 (fld (rd 0 64) 32 12) o c).1 l) l
    | _, _ => l) l) []

/-- Reader of an image that arrived from another node. -/
def imgRd (x : Image) : Nat → Nat → Nat := fun a n => Mem.getN x.cells a n

/-- An image that came from another node is the one of snapshot `snum` of that node, in the format this engine reads, with a
good tag (R514, R516). -/
def State.imageFit (s : State) (x : Image) (snum : Nat) : Bool :=
  let h := imgRd x 0 64
  fld h 0 32 == snum && fld h 188 4 == 1 && fld h 32 12 == x.node.toNat
    && s.tagOf x.cells (fld h 160 28) snum x.node.toNat == some (fld h 256 128)

/-- Those of a RESTORE's images that count (R516). -/
def State.fitImages (s : State) (f : Flight) : List Image := f.images.filter fun x => s.imageFit x (snNum f.word)

/-- The image of a node: this node's buffer, or one of those given; for a node that has none, its rebuilt one (R536). -/
def State.imageOf (s : State) (f : Flight) (node : Nat) : Option (Nat → Nat → Nat) :=
  match (if node = s.hall.nid.toNat then s.snap.ownImage else none) with
  | some b => some (s.bufRd b)
  | none => ((s.fitImages f).find? fun x => x.node.toNat == node).map imgRd

/-- The image whose index a node goes by: its own, or the acting manager's where it has none (R537). -/
def State.indexImage (s : State) (f : Flight) : Option (Nat → Nat → Nat) :=
  match s.snap.ownImage with
  | some b => some (s.bufRd b)
  | none => ((s.fitImages f).find? fun x => x.node == s.hall.actMgr).map imgRd

/-- No buffer, flash or store of a node holds its image for this RESTORE: it was lost, or is this node without one. -/
def State.imageGone (s : State) (n : Nat) : Bool :=
  if n = s.hall.nid.toNat then s.snap.ownImage.isNone
  else s.snap.lost.contains (BitVec.ofNat 12 n) || !s.others.contains (BitVec.ofNat 12 n)

/-- The rebuilt pages of such a node are in reach, and what is given of it first has a good tag (R530, R534). A node that
came back hears only of the list of the lost (R503). -/
def State.rebuiltOf (s : State) (f : Flight) (n : Nat) : Bool :=
  snDepth f.word == 0 && s.snap.lost.contains (BitVec.ofNat 12 n)
    && (s.snap.rb == .idle || (s.snap.rb == .done && s.snap.target.toNat == snNum f.word))
    && (f.images.find? fun x => x.node.toNat == n).any fun x => s.imageFit x (snNum f.word)

/-- This node has captured the snapshot or one before it, so that it lacks no image of its own by having joined later. -/
def State.tookIt (s : State) (f : Flight) : Bool := s.snap.first != 0 && decide (s.snap.first.toNat ≤ snNum f.word)

/-- The checks of RESTORE on the image that it goes by (R534, R535, R537), as a STATUS. A node that joined after the
snapshot lacks an image of its own and takes the acting manager's; any other that finds none within reach fails. -/
def State.leadCheck (s : State) (f : Flight) : Nat :=
  if s.snap.ownImage.isNone && (s.aloneLive || s.hall.actMgr == s.hall.nid || s.tookIt f) then 0x11
  else match s.indexImage f with
    | none => 0x11
    | some rd => s.imageCheck f rd

/-- Nodes whose images a RESTORE reads (R536). -/
def State.imagesNeeded (s : State) (f : Flight) : List Nat :=
  match s.indexImage f with
  | none => []
  | some rd => s.restoreFrom f rd

/-- Nodes whose images only the hall store can hold (R534). -/
def State.fromStore (s : State) (f : Flight) : List Nat :=
  (s.imagesNeeded f).filter fun n => s.imageGone n && !s.rebuiltOf f n

/-- The checks of RESTORE before its ready, as a STATUS: also that every image it needs is there (R534). -/
def State.restoreCheck (s : State) (f : Flight) : Nat :=
  if s.leadCheck f ≠ 0 then s.leadCheck f
  else if (s.imagesNeeded f).all fun n => (s.imageOf f n).isSome then 0 else 0x11

def State.snapWait (s : State) (f : Flight) (phase : Nat) (peer : BitVec 12) : State :=
  s.setWait f.slot f.node 2 0x06 phase peer.toNat

/-- Send this node's ready (R519). -/
def State.sendReady (s : State) (f : Flight) (check : Nat) : State :=
  let r : Ready := ⟨s.hall.nid, BitVec.ofNat 32 (snNum f.word), BitVec.ofNat 2 (snDepth f.word),
    BitVec.ofNat 8 check⟩
  let s := { s with snap := { s.snap with readies := r :: s.snap.readies } }
  (s.toLive (.snapReady r)).setFlight { f with phase := .waiting 3 }

/-- Ask for a load from the first layer left (R534): the buffer is in LOAD and SNAPCOPY is raised. -/
def State.askLoad (s : State) (snum : BitVec 32) : State :=
  match s.snap.loads with
  | [] => s
  | r :: _ => (s.setBuf s.snap.loadBuf .load).raise .snapcopy { unit := 12 } snum.toNat
      s.snap.loadBuf.val r

/-- The error with which every node fails, when some ready carries one or they disagree (R520). -/
def readyError (rs : List Ready) : Option Nat :=
  let bad := rs.filter fun r => r.check != 0
  let low := bad.foldl (fun (a : Option Ready) r => match a with
    | none => some r
    | some x => if r.node.toNat < x.node.toNat then some r else some x) none
  match low, rs with
  | some r, _ => some r.check.toNat
  | none, x :: t => if t.all fun r => r.snum == x.snum && r.depth == x.depth then none else some 0x10
  | none, [] => none

/-- A SNAP or RESTORE that fails with a STATUS after its dispatch: the event is raised and only its retirement is
left. -/
def State.snapFails (s : State) (f : Flight) (st : Nat) : State :=
  let x : Fail := { err := if st = 0x10 then .format else .range }
  (s.raiseFail f.slot f.node f.word 0 x).setFlight
    { f with phase := .waiting 6, results := [failResult f.node x] }

/-- End of Hold of a SNAP: the older buffer is free (R519). -/
def State.holdSnap (s : State) (f : Flight) : State :=
  let b := s.captureBuf
  if s.snap.buf[b] = .empty ∨ s.snap.buf[b] = .held then s.sendReady f (s.snapCheck f) else s

/-- The buffer that holds the image a RESTORE from memory asks for (R524, R534). -/
def State.heldImage (s : State) (num : Nat) : Option (Fin 2) :=
  ([0, 1] : List (Fin 2)).find? fun b =>
    (s.snap.buf[b] == .parity || s.snap.buf[b] == .copy || s.snap.buf[b] == .held) && s.snap.bufSnum[b].toNat == num

/-- Trace words of REBUILD: the first four lost nodes in 16 bits each (R583). -/
def lostWord (l : List (BitVec 12)) : Nat := forN 4 0 fun a k => a + put (16 * k) 16 (nth l k 0).toNat

/-- REBUILD with what it tells (0 start, 1 end, 2 fallback of a layer) and the snapshot (R583). -/
def State.raiseRebuild (s : State) (what : Nat) (num : BitVec 32) : State :=
  s.raise .rebuild { unit := 12 } what num.toNat (lostWord s.snap.lost)

/-- Copies of a buffer still asked for, without those of `b` (R523). -/
def Snap.noCopies (x : Snap) (b : Fin 2) : Snap := { x with copying := x.copying.filter fun c => c.1 != b }

/-- A RESTORE asks for its image from the layers in turn, once a buffer is free (R534). -/
def State.loadImage (s : State) (f : Flight) : State :=
  let w := f.word
  let b := s.captureBuf
  if s.snap.buf[b] = .empty ∨ s.snap.buf[b] = .held then
    let s := { s with snap := { s.snap with
      loads := if snDepth w = 2 then [4] else [3, 4], loadBuf := b, ownImage := none } }
    (s.setFlight { f with phase := .waiting 2 }).askLoad (BitVec.ofNat 32 (snNum w))
  else s

/-- This node's ready for a RESTORE; images whose tag fails raise REBUILD (R534). -/
def State.readyRestore (s : State) (f : Flight) : State :=
  let t := if (s.fitImages f).length = f.images.length then s else s.raiseRebuild 2 (BitVec.ofNat 32 (snNum f.word))
  t.sendReady f (s.restoreCheck f)

/-- The buffer that does not hold a RESTORE's own image. -/
def State.spareBuf (s : State) : Fin 2 :=
  match s.snap.ownImage with
  | some b => if b = 0 then 1 else 0
  | none => s.captureBuf

/-- A RESTORE that has its own image asks the store for those that only the store can hold, once a buffer is free, with one
request for them all (R534, log 124); without any it is ready. -/
def State.restoreReady (s : State) (f : Flight) : State :=
  if s.leadCheck f ≠ 0 ∨ s.fromStore f = [] then s.readyRestore f
  else
    let s := s.setFlight { f with phase := .waiting 2 }
    let b := s.spareBuf
    if s.snap.buf[b] = .empty ∨ s.snap.buf[b] = .held then
      let s := s.setBuf b .load
      ({ s with snap := { s.snap.noCopies b with
        bufSnum := s.snap.bufSnum.set b 0, copying := (s.snap.noCopies b).copying ++ [(b, 4)] } }).raise .snapcopy
        { unit := 12 } (snNum f.word) b.val 4
    else s.snapWait f 2 0xFFF

/-- End of Hold of a RESTORE: its image is held, or the next layers are asked for it; a buffer whose tag fails raises
REBUILD and loses its image (R516, R534). -/
def State.holdRestore (s : State) (f : Flight) : State :=
  let w := f.word
  match (if snDepth w = 0 then s.heldImage (snNum w) else none) with
  | some b =>
    if s.imageGood b (snNum w) then
      ({ s with snap := { s.snap with ownImage := some b } }).restoreReady f
    else
      let s := { s with snap := { s.snap with bufSnum := s.snap.bufSnum.set b 0 } }
      (s.raiseRebuild 2 (BitVec.ofNat 32 (snNum w))).loadImage f
  | none => s.loadImage f

/-- Every ready is here and none carries an error: the buffer captures, or the writing starts (R519). -/
def State.agreed (s : State) (f : Flight) : State :=
  let s := s.setFlight { f with phase := .waiting 4 }
  if f.opc = 0x42 then
    let b := s.captureBuf
    let s := s.setBuf b .capture
    { s with snap := { s.snap.noCopies b with
      bufSnum := s.snap.bufSnum.set b (BitVec.ofNat 32 (snNum f.word))
      bufDepth := s.snap.bufDepth.set b (BitVec.ofNat 2 (snDepth f.word)) } }
  else s

/-- The oldest ready of each node, newest first in the list, and the later ones, which belong to the next SNAP or RESTORE
(R519). -/
def splitReadies (l : List Ready) : List Ready × List Ready :=
  l.foldr (fun r a => if a.1.any fun x => x.node == r.node then (a.1, r :: a.2) else (r :: a.1, a.2)) ([], [])

/-- Phase Ready: it waits for the ready of every live node (R519, R520). -/
def State.readyPump (s : State) (f : Flight) : State :=
  match s.others.find? fun n => !s.snap.readies.any fun r => r.node == n with
  | some n => s.snapWait f 3 n
  | none =>
    let (now, later) := splitReadies s.snap.readies
    let rs := now.filter fun r => r.node == s.hall.nid || s.others.contains r.node
    let s := { s with snap := { s.snap with readies := later, capTick := s.tm.tick } }
    match readyError rs with
    | some e => s.snapFails f e
    | none => s.agreed f

/-- Phase Done: it waits for the done of every live node (R519). -/
def State.donePump (s : State) (f : Flight) : State :=
  match s.others.find? fun n => !s.snap.dones.contains n with
  | some n => s.snapWait f 5 n
  | none => { s.setFlight { f with phase := .waiting 6 } with snap := { s.snap with dones := [] } }

/-- Phase Hold: the former snapshot's parity is complete too (R519). -/
def State.holdPump (s : State) (f : Flight) : State :=
  if s.quiet f.opc && decide (s.snap.newest.toNat ≤ s.snap.durPar.toNat) then (if f.opc = 0x42 then s.holdSnap f else s.holdRestore f)
  else s.snapWait f 1 0xFFF

/-- A RESTORE that waits for a buffer to load into (R534). -/
def State.loadPump (s : State) (f : Flight) : State :=
  if s.snap.loads ≠ [] ∨ s.snap.copying.any (fun c => c.2 == 4) then s else s.restoreReady f

/-- One phase of a SNAP or RESTORE, where its condition holds. -/
def State.snapPhase (s : State) (p : Nat) : State :=
  match s.snapFlight with
  | none => s
  | some f =>
    if f.phase ≠ .waiting p then s
    else if p = 1 then s.holdPump f
    else if p = 2 then s.loadPump f
    else if p = 3 then s.readyPump f
    else s.donePump f

/-- Carry a SNAP or RESTORE as far as it goes. -/
def State.snapPump (s : State) : State := (((s.snapPhase 1).snapPhase 2).snapPhase 3).snapPhase 5

/-- Dispatch checks of SNAP and RESTORE (R405). -/
def State.snapDispatch (s : State) (i : Fin 16) (w : Nat) : Option Fail :=
  firstFail [s.need i (snList w), commonForm w false false, failWhen (snDepth w == 3) failF,
    (s.tensor i (snList w)).bind fun l => firstFail [
      failWhen (l.kind != 2) (failF l.ix),
      firstFail ((List.range (l.extRaw 0)).map fun j =>
        let d := s.indexAt i l j
        failWhen (decide (d < 0) || (s.tensor i d.toNat).isNone) (failR d.toNat))]]

/-- Units of a SNAP's or RESTORE's list on other nodes. -/
def State.listEarly (s : State) (i : Fin 16) (w : Nat) : List Nat :=
  s.indexUnits i (s.tensor i (snList w)) (((s.tensor i (snList w)).map fun l => l.extRaw 0).getD 0)

/-- SNAP and RESTORE wait undispatched while a rebuild runs (R532). The layers of the listed tensors are initialised
once the list is here (R251). -/
def State.snapIssue (s : State) (i : Fin 16) (n opc : Nat) (images : List Image) : State :=
  s.attempt i n opc fun s =>
    if s.snap.rb = .running ∨ s.snap.rb = .fallback then s.setWait i n 1 0x06 0 0xFFF
    else s.issue i n opc 0 false
      (fun s w => if s.missing i n (s.listEarly i w) = [] then s.listed i w else [])
      (fun s w => s.snapDispatch i w) (fun _ _ => [])
      (fun s f => (s.setFlight { f with phase := .waiting 1, images := images }).snapPump) (fun s w => s.listEarly i w)

/-- SNAP's dispatch. -/
def State.startSnap (s : State) (i : Fin 16) (n : Nat) : State := s.snapIssue i n 0x42 []

/-- RESTORE's dispatch. `images` are those of other nodes as the layers within reach hold them, nearest first (R534,
log 19). -/
def State.startRestore (s : State) (i : Fin 16) (n : Nat) (images : List Image) : State := s.snapIssue i n 0x43 images

/-- SNAP_READY: another node's ready is kept; after a SNAP that failed, one for the next may come early (R519). -/
def execSnapReady (node : BitVec 12) (snum : BitVec 32) (depth : BitVec 2) (check : BitVec 8) (s : State) :
    Host.Outcome State Fault Refusal :=
  let s := s.sweep
  .next (if !s.others.contains node then s
    else ({ s with snap := { s.snap with
      readies := ⟨node, snum, depth, check⟩ :: s.snap.readies } }).snapPump)

/-- SNAP_CAPTURE_END: the image and its tag stand in the buffer, and capture-done goes to every live node (R519). -/
def execSnapCaptureEnd (overflow : Memory) (s : State) : Host.Outcome State Fault Refusal :=
  let s := s.sweep
  .next (match s.snapFlight with
    | some f =>
      if f.opc = 0x42 ∧ f.phase = .waiting 4 then
        let b := s.captureBuf
        let s := s.writeImage f b overflow
        let num := BitVec.ofNat 32 (snNum f.word)
        let s := { s with snap := { s.snap with
          maxSnum := num, first := if s.snap.first = 0 then num else s.snap.first, newest := num, newestTick := s.snap.capTick } }
        ((s.toLive (.captureDone s.hall.nid num)).setFlight { f with phase := .waiting 5 }).snapPump
      else s
    | none => s)

/-- CAPTURE_DONE: another node's done is kept; it ends a SNAP's capture or a RESTORE's writing (R519, R539). -/
def execCaptureDone (node : BitVec 12) (snum : BitVec 32) (s : State) : Host.Outcome State Fault Refusal :=
  let s := s.sweep
  .next (match s.snapFlight with
    | some f =>
      if snNum f.word = snum.toNat ∧ s.others.contains node ∧ !s.snap.dones.contains node then
        ({ s with snap := { s.snap with dones := node :: s.snap.dones } }).snapPump
      else s
    | none => s)

-- Cadence (R525).

/-- INTERVAL, MEANM and COSTC from the history: costs in tk (4 × 10⁹ a second), loss intervals in seconds, those
not yet measured being MINIT. -/
def Snap.cadence (x : Snap) : Snap :=
  let cs := x.costs.take 8
  let iv := x.intervals.take 16
  let iv := iv ++ List.replicate (16 - iv.length) x.minit.toNat
  let c := sumN cs
  let m := sumN iv
  -- 2 × (c / 8 / 4e9) × (m / 16)
  let root := Nat.sqrt (2 * c * m / (8 * 16 * 4000000000))
  { x with
    interval := BitVec.ofNat 20 (max 30 (min 14400 root))
    meanM := BitVec.ofNat 20 (min (2 ^ 20 - 1) (m / 16))
    costC := BitVec.ofNat 24 (min 0xFFFFFF (c / 8 / 4000)) }

/-- The manager's history after a change: recomputed, and sent to the backup, and to every live node, which can so read the
result (R525, log 48). -/
def State.historyChanged (s : State) : State :=
  let s := { s with snap := s.snap.cadence }
  let to_ := if s.hall.backup = s.hall.mgr ∨ s.hall.backup = s.hall.nid ∨ s.others.contains s.hall.backup then s.others
    else s.hall.backup :: s.others
  to_.foldl (fun s n => (s.sluiceTo n (.history n s.snap.costs s.snap.intervals)).1) s

/-- BACKUP_HISTORY_UPDATE: the backup keeps the manager's history, and any node reads the result in its own registers (R525,
R526). -/
def execBackupHistoryUpdate (costs : List Nat) (intervals : List Nat) (s : State) :
    Host.Outcome State Fault Refusal :=
  .next { s with snap := { s.snap with costs := costs, intervals := intervals }.cadence }

/-- SNAPDUE: INTERVAL seconds after the capture of the newest snapshot, once for it (R526). -/
def execSnapdue (s : State) : Host.Outcome State Fault Refusal :=
  .next (if s.snap.newest = 0 ∨ s.snap.newest ∈ s.snap.dueFor
      ∨ (s.tm.tick - s.snap.newestTick).toNat < s.snap.interval.toNat * 4000000000 then s
    else ({ s with snap := { s.snap with dueFor := s.snap.newest :: s.snap.dueFor } }).raise .snapdue { unit := 12 }
      s.snap.newest.toNat 0 0)

-- Parity (R513, R522).

/-- Product in GF(2⁸) with x⁸ + x⁴ + x³ + x² + 1. -/
def gfMul (a b : Nat) : Nat :=
  (forN 8 (0, a) fun (x : Nat × Nat) k =>
    let acc := if bit b k then Nat.xor x.1 x.2 else x.1
    let d := 2 * x.2
    (acc, if 256 ≤ d then Nat.xor d 0x11D else d)).1

/-- gᵏ, and the inverse of a non-zero element. -/
def gfPow (k : Nat) : Nat := forN k 1 fun a _ => gfMul a 2
def gfInv (a : Nat) : Nat := forN 254 1 fun x _ => gfMul x a

/-- Sum of an accumulated image and `k` times another, byte by byte; cells count from the image's start. -/
def addCells (k : Nat) (acc : Memory) (cells : Memory) : Memory :=
  cells.foldl (fun m c => Mem.set m c.1
    (BitVec.ofNat 8 (Nat.xor (Mem.get m c.1).toNat (gfMul k c.2.toNat)))) acc

/-- k times an image. -/
def scaleCells (k : Nat) (cells : Memory) : Memory := addCells k [] cells

/-- P (place 0) or Q (place 1) over the members' images (R513). -/
def parityOf2 (place : Nat) (members : List Memory) : Memory :=
  members.zipIdx.foldl (fun a m => addCells (if place = 0 then 1 else gfPow m.2) a m.1) []

/-- The newest snapshot's parity is complete hall-wide (R522, R523): DURPAR takes it, and its buffer enters COPY,
asking for its copies, or HELD. The group table of that snapshot names live nodes only (R512, R520). -/
def State.parityDone (s : State) (num : BitVec 32) : State :=
  let s := { s with snap := { s.snap with
    durPar := num, notices := s.snap.notices.filter fun n => n.2 != num
    lost := if s.snap.rb = .running ∨ s.snap.rb = .fallback then s.snap.lost else [] } }
  ([0, 1] : List (Fin 2)).foldl (fun (s : State) (b : Fin 2) =>
    if s.snap.buf[b] = .parity ∧ s.snap.bufSnum[b] = num then
      let d : Nat := s.snap.bufDepth[b].toNat
      if d = 0 then s.setBuf b .held
      else
        let s : State := (s.setBuf b .copy).raise .snapcopy { unit := 12 } num.toNat b.val 1
        let s : State := if d = 2 then s.raise .snapcopy { unit := 12 } num.toNat b.val 2 else s
        let kinds : List (Fin 2 × Nat) := if d = 2 then [(b, 1), (b, 2)] else [(b, 1)]
        { s with snap := { s.snap with copying := s.snap.copying ++ kinds } }
    else s) s

/-- The retirement of a SNAP: its buffer enters PARITY (and leaves it at once where the hall's
parity is complete by then, R522), and the manager's history takes its cost (R519, R525). -/
def State.snapRetire (s : State) (f : Flight) : State :=
  if f.opc ≠ 0x42 ∨ f.results.any (fun r => decide (0x10 ≤ r.status)) then s
  else
    let s := ([0, 1] : List (Fin 2)).foldl (fun s b =>
      if s.snap.buf[b] = .capture then s.setBuf b .parity else s) s
    let s := if s.snap.durPar = s.snap.newest then s.parityDone s.snap.newest else s
    if s.hall.actMgr != s.hall.nid then s
    else
      let cost := (s.tm.tick - f.dstamp).toNat
      ({ s with snap := { s.snap with costs := cost :: s.snap.costs.take 7 } }).historyChanged

/-- A holder's notice at the acting manager; with one from every role of every holder, the parity is complete
and every node hears of it (R522). -/
def State.parityNotice (s : State) (node : BitVec 12) (num : BitVec 32) : State :=
  let s := { s with snap := { s.snap with notices := (node, num) :: s.snap.notices } }
  let full := s.holderPlaces.all fun p =>
    decide ((s.rolesOf p.2.2).length ≤ s.snap.notices.count (p.2.2, num))
  if full then (s.toLive (.parityDone s.hall.nid num)).parityDone num else s

/-- PARITY_COMPLETE: this node, holder in `role`, has read the new images of its group and writes P or Q (R522). -/
def execParityComplete (role : Fin 2) (images : List Image) (s : State) : Host.Outcome State Fault Refusal :=
  let s := s.sweep
  .next (State.snapPump <| match (s.rolesOf s.hall.nid)[role.val]? with
    | none => s
    | some (g, place) =>
      let num := s.snap.newest
      let ms := (gMembers (s.group g)).map fun m => images.find? fun x => x.node == m.1
      let have0 := s.snap.parSnum[(2 * role.val : Nat)]? == some num
      let have1 := s.snap.parSnum[(2 * role.val + 1 : Nat)]? == some num
      let done := s.snapFlight.any fun f => f.opc == 0x42 && f.phase == .waiting 6
      let due := ([0, 1] : List (Fin 2)).any fun b =>
        (s.snap.buf[b] == .parity || s.snap.buf[b] == .capture && done) && s.snap.bufSnum[b] == num
      if !due || have0 || have1 || ms.any (·.isNone) then s
      else
        -- the buffer that does not hold the role's newest parity
        let a := (s.snap.parSnum.toList.getD (2 * role.val) 0).toNat
        let b := (s.snap.parSnum.toList.getD (2 * role.val + 1) 0).toNat
        let k : Fin 2 := if b < a then 1 else 0
        let cells := parityOf2 place (ms.filterMap (·.map Image.cells))
        let s : State := { s with
          mem := Mem.paste s.mem (hallLoc (s.parAt role k)) s.bufBytes cells
          snap := { s.snap with
            parSnum := s.snap.parSnum.set ((2 * role.val + k.val) % 4) num (Nat.mod_lt _ (by decide)) } }
        if s.hall.actMgr = s.hall.nid then s.parityNotice s.hall.nid num
        else (s.sluiceTo s.hall.actMgr (.parityDone s.hall.nid num)).1)

/-- PARITY_NOTICE: at the acting manager a holder's notice; elsewhere the manager's word that the parity is
complete (R522). -/
def execParityNotice (node : BitVec 12) (snum : BitVec 32) (s : State) : Host.Outcome State Fault Refusal :=
  let s := s.sweep
  .next (if s.hall.actMgr = s.hall.nid then s.parityNotice node snum
    else if node = s.hall.actMgr then s.parityDone snum else s).snapPump

-- Copies (R523).

/-- A node has a copy in a layer; with every live node's the layer is durable. -/
def State.copied (s : State) (node : BitVec 12) (store : Bool) (num : BitVec 32) : State :=
  let l := (node, num) :: (if store then s.snap.storeOk else s.snap.flashOk).filter (· != (node, num))
  let all := (s.hall.nid :: s.others).all fun n => l.contains (n, num)
  let s := { s with snap := if store then { s.snap with storeOk := l } else { s.snap with flashOk := l } }
  let old := if store then s.snap.durStore else s.snap.durFlash
  if !all ∨ num.toNat < old.toNat then s
  else { s with snap := if store then { s.snap with durStore := num } else { s.snap with durFlash := num } }

/-- A report of the firmware on a copy to flash (1) or the store (2) (R523). -/
def State.ackCopy (s : State) (kind : Nat) (num : BitVec 32) (fail : Bool) : State :=
  match ([0, 1] : List (Fin 2)).find? fun b => s.snap.bufSnum[b] == num && s.snap.copying.contains (b, kind) with
  | none => s
  | some b =>
    let left := s.snap.copying.filter (· != (b, kind))
    let s := { s with snap := { s.snap with copying := left } }
    let s := if fail ∨ (left.all fun c => c.1 != b) then s.setBuf b .held else s
    if fail then s
    else (s.toLive (.copyDone s.hall.nid (kind == 2) num)).copied s.hall.nid (kind == 2) num

/-- COPY_REPORT: another node's report of a finished copy (R523). -/
def execCopyReport (node : BitVec 12) (store : Bool) (snum : BitVec 32) (ok : Bool) (s : State) :
    Host.Outcome State Fault Refusal :=
  .next (if ok then s.copied node store snum else s)

/-- CTICK of the image in a buffer (R514). -/
def State.imageTick (s : State) (b : Fin 2) : BitVec 64 := BitVec.ofNat 64 (fld (s.rdN (s.bufAt b) 64) 64 64)

/-- The buffer that does not hold R takes rebuilt pages, and no snapshot of its own (R530). -/
def State.hostPages (s : State) : State :=
  let b := s.captureBuf
  let s := s.setBuf b .rebuild
  { s with snap := { s.snap.noCopies b with bufSnum := s.snap.bufSnum.set b 0 } }

/-- In fallback the lost images are asked of the store, for the places they are dealt to (R533). -/
def State.askLost (s : State) : State :=
  if s.snap.lost = [] then s
  else
    let s := s.hostPages
    let b := s.captureBuf
    ({ s with snap := { s.snap with copying := s.snap.copying ++ [(b, 4)] } }).raise .snapcopy { unit := 12 }
      s.snap.target.toNat b.val 4

/-- The firmware's report on the load of lost images; of one that failed nothing is kept (R533), and a RESTORE that asked for
it fails (R534). -/
def State.ackLost (s : State) (b : Fin 2) (fail : Bool) : State :=
  let s := { s with snap := { s.snap with copying := s.snap.copying.filter (· != (b, 4)) } }
  let s := if fail then s.setBuf b .empty else if s.snap.buf[b] = .load then s.setBuf b .held else s
  match s.snapFlight with
  | some f => if f.phase = .waiting 2 then (if fail then s.sendReady f 0x11 else s.readyRestore f).snapPump else s
  | none => s

/-- The firmware's report on a load: an image stands in a buffer, or its load failed (R523, R534, R533). A failed load
or tag moves on to the next layer, and a failed tag raises REBUILD (R534). -/
def State.ackLoad (s : State) (snum : BitVec 32) (buf fail : Bool) : State :=
  let b : Fin 2 := if buf then 1 else 0
  if s.snap.copying.contains (b, 4) then s.ackLost b fail
  else if s.snap.loads = [] ∨ b ≠ s.snap.loadBuf ∨ s.snap.buf[b] ≠ .load then s
  else
    let good := !fail && s.imageGood b snum.toNat
    let s := if good then s else { s with snap := { s.snap with loads := s.snap.loads.tail } }
    let done := good || s.snap.loads.isEmpty
    let s := if good || fail then s else s.raiseRebuild 2 snum
    if !done then s.askLoad snum
    else
      let s : State := { s.setBuf b (if good then .held else .empty) with
        snap := { (s.setBuf b (if good then .held else .empty)).snap with
          loads := [], bufSnum := if good then s.snap.bufSnum.set b snum else s.snap.bufSnum
          newestTick := if good && snum == s.snap.newest then s.imageTick b else s.snap.newestTick
          ownImage := if good then some b else none } }
      let s : State := if s.snap.rb = .fallback then s.askLost else s
      match s.snapFlight with
      | some f => if f.phase = .waiting 2 then (s.restoreReady f).snapPump else s
      | none => s

-- RESTORE's writing (R536 to R538).

/-- Node of an image by its header. -/
def imgNode (rd : Nat → Nat → Nat) : Nat := fld (rd 0 64) 32 12

/-- Restore the elements of one tensor that this node holds now (R536); `own` reads the image whose index
stands for all. -/
def State.restoreTensor (s : State) (f : Flight) (own : Nat → Nat → Nat) (e r : Nat) (t : Tensor) : State :=
  let i := f.slot
  match imgTensor own e r with
  | none => s
  | some (tag, o) =>
    let src := s
    let nlist := fld (own 0 64) 192 16
    (t.cells.filter fun c => src.isMine i t c).foldl (fun a c =>
      let who := (imgOwner own e r (imgNode own) o c).1
      match (if o.localCopy then some own else src.imageOf f who) with
      | none => a
      | some rd =>
        let me := if o.localCopy then imgNode own else who
        let k := (imgOwned rd e r me o).idxOf c
        let base := (((imgPlaces rd nlist me).1.find? fun p => p.1 == (e, r)).map (·.2)).getD 0
        let v := holdCode rd base tag k
        if tag = 15 ∨ tag = 16 then a.wrN (src.recPlace i t c) (if tag = 15 then 8 else 16) v
        else if tag = 17 then a
        else a.writePlace i f.node (src.place i t (holdFmt t tag) c) v) s

/-- Restore the version records: everything but `PREP` and the use entries, stamps moved by `dt` (R537, R538). -/
def State.restoreVersions (s : State) (rd : Nat → Nat → Nat) (ver dt : Nat) (listed : List Nat) : State :=
  listed.foldl (fun s k =>
    let o := rd (ver + 64 * k) 64
    let cur := s.verRec k
    let o := setFld o 16 40 (fld o 16 40 + dt)
    let o := setFld o 80 40 (fld o 80 40 + dt)
    let o := setFld o 194 2 0
    s.wrN (s.verAddr k) 64 (setFld o 256 256 (fld cur 256 256))) s

/-- Restore the stash into the RESTORE's own slot, bottom first (R537), stamps moved by `dt`. -/
def State.restoreStash (s : State) (i : Fin 16) (n : Nat) (rd : Nat → Nat → Nat) (st dt : Nat) : State :=
  let es := imgStash rd st
  let h := (s.slot i).hdr
  match stashSplit h (es.map (·.2)) with
  | none => s
  | some (ovf, _) =>
    let shift := fun (a k : Nat) => -- byte k of the entry at a, its header's STAMP moved
      if k < 64 then fld (setFld (rd a 64) 32 40 (fld (rd a 64) 32 40 + dt)) (8 * k) 8 else rd (a + k) 1
    let (s, _, off) := (es.take ovf.length).foldl (fun (x : State × Nat × List (Nat × Nat)) e =>
      let (s, o, off) := x
      let s := forN (cdiv e.2 128) s fun s k =>
        let m := min 128 (e.2 - 128 * k)
        let to_ := h.ovfBase + o + 128 * k
        s.sendWrite i n {
          typ := 2, dst := BitVec.ofNat 12 (hallNode to_), addr := BitVec.ofNat 60 to_
          len := BitVec.ofNat 2 (cdiv m 64), used := m
          payload := (List.range m).map fun j => BitVec.ofNat 8 (shift e.1 (128 * k + j)) }
      (s, o + e.2, off ++ [(o, e.2)])) (s, 0, [])
    let (s, _, rg) := (es.drop ovf.length).foldl (fun (x : State × Nat × List (Nat × Nat)) e =>
      let (s, p, rg) := x
      let s := forN e.2 s fun s k => s.wrN (h.ringAt p k) 1 (shift e.1 k)
      (s, p + e.2, rg ++ [(p, e.2)])) (s, 0, [])
    s.setSlot i { s.slot i with stash := { (s.slot i).stash with
      bottom := 0, ring := rg, ovf := off, pushCount := BitVec.ofNat 32 (rd (st + 24) 8) } }

/-- The layers whose LIVE block in this node's table tells of a merge in the step (R243, R257). -/
def State.mergedLayers (s : State) : List (BitVec 16) :=
  let base := hallLoc s.stw.live.base.toNat
  let layers := (Mem.slice s.mem base stewBytes).foldl (fun l c => insertNew (c.1 / 256) l) []
  (layers.filter fun l => fld (s.rdN (s.stwAddr l + 64) 48) 64 40 != 0).map (BitVec.ofNat 16)

/-- A restored steward stands where its snapshot took it: the step has the merges that its own LIVE blocks tell of (R244,
R257). Those of the acting manager's image, on a node without one of its own, are the manager's (log 123). -/
def State.stewardBack (s : State) (own : Bool) : State :=
  { s.ageReads with stw := { s.stw with merged := if own then s.mergedLayers else [], formatted := [], saturated := [] } }

/-- RESTORE's share on this node: the listed tensors and the engine's own state. -/
def State.restoreAll (s : State) (f : Flight) : State :=
  let i := f.slot
  match s.indexImage f with
  | none => s
  | some own =>
      let ts := s.listed i f.word
      let h := own 0 64
      let t := ts.zipIdx.foldl (fun a t => (s.roles i t.1).zipIdx.foldl (fun a r =>
        match r.1 with
        | some q => a.restoreTensor f own t.2 r.2 q
        | none => a) a) s
      let stew := (imgPlaces own (fld h 192 16) (imgNode own)).2
      let dt := ((f.dstamp.setWidth 40 : BitVec 40) - BitVec.ofNat 40 (fld h 64 40)).toNat
      -- the tables copy the cells their image lists; where the stamps move not, the records are those with any byte in image
      -- or memory
      let image := match s.snap.ownImage with
        | some b => Mem.slice s.mem (hallLoc (s.bufAt b)) s.bufBytes
        | none => (((s.fitImages f).find? fun x => x.node == s.hall.actMgr).map Image.cells).getD []
      let t := { t with
        mem := Mem.paste t.mem (hallLoc t.stw.live.base.toNat) stewBytes (Mem.slice image stew stewBytes) }
      let recs := if dt ≠ 0 then List.range (verBytes / 64) else ((Mem.slice image (stew + stewBytes) verBytes)
        ++ Mem.slice t.mem (hallLoc t.hg.verBase.toNat) verBytes).foldl
          (fun l c => insertNew (c.1 / 64) l) ([] : List Nat)
      let t := t.restoreVersions own (stew + stewBytes) dt recs
      let t := { t with hg := { t.hg with stepNo := BitVec.ofNat 32 (fld h 128 32) } }.stewardBack s.snap.ownImage.isSome
      t.restoreStash i f.node own (stew + stewBytes + verBytes) dt

/-- RESTORE_WRITE_END: this node's share is written, from the images of the nodes it reads, and done goes to
every live node (R534, R536). An image of the snapshot with a good tag that is given with the writing is read in place of the
one that the checks saw (log 19). -/
def execRestoreWriteEnd (images : List Image) (s : State) : Host.Outcome State Fault Refusal :=
  let s := s.sweep
  .next (match s.snapFlight with
    | some f =>
      if f.opc = 0x43 ∧ f.phase = .waiting 4 then
        let t := s.restoreAll { f with images := images ++ f.images }
        ((t.toLive (.captureDone t.hall.nid (BitVec.ofNat 32 (snNum f.word)))).setFlight { f with phase := .waiting 5 }).snapPump
      else s
    | none => s)

-- Rebuild.

/-- Lost data members of a group, and its surviving holders. -/
def State.lostMembers (s : State) (x : Nat) : List (BitVec 12) :=
  ((gMembers x).map (·.1)).filter fun n => s.snap.lost.contains n
def State.keptHolders (s : State) (x : Nat) : List (Nat × BitVec 12) :=
  ((gHolders x).zipIdx.map fun h => (h.2, h.1.1)).filter fun h => !s.snap.lost.contains h.2

/-- Every group can be rebuilt (R529). -/
def State.canRebuild (s : State) : Bool :=
  s.groups.all fun x => decide ((s.lostMembers x).length ≤ (s.keptHolders x).length)

/-- The work of a node stops for a rebuild (R527): every slot becomes FREE, and requests that are held or go to a
lost node are discarded, as are reads, end markers and step-readies of work that is gone: the hall holds nothing outside
the snapshot areas. -/
def State.dropWork (s : State) (lost : List (BitVec 12)) : State :=
  let s := if s.hg.loading.isSome then
      match s.hg.loading with
      | some l => s.abandon l.slot
      | none => s
    else s
  let s := allSlots.foldl (fun s i => if (s.slot i).st = .free then s else s.endSlot i) s
  { s with
    stw := { s.stw with merged := [], formatted := [], ready := [] }
    rem := { s.rem with
      heldReq := [], reads := [], got := [], old := [], data := [], frozen := [], markers := [], owedEnds := []
      unacked := s.rem.unacked.filter fun q => !lost.contains q.f.dst } }

/-- The snapshot unit's own work stops: images newer than R are discarded, collective messages forgotten, and R is
the newest snapshot (R527, R528). -/
def State.discardNewer (s : State) (r : BitVec 32) : State :=
  let s := ([0, 1] : List (Fin 2)).foldl (fun s b =>
    if s.snap.buf[b] = .capture ∨ s.snap.buf[b] = .load ∨ r.toNat < s.snap.bufSnum[b].toNat then
      let s := s.setBuf b .empty
      { s with snap := { s.snap.noCopies b with bufSnum := s.snap.bufSnum.set b 0 } }
    else s) s
  let held := ([0, 1] : List (Fin 2)).find? fun b => s.snap.bufSnum[b] == r && s.snap.buf[b] != .empty
  let tick := match held with
    | some b => s.imageTick b
    | none => s.snap.newestTick
  { s with snap := { s.snap with
    readies := [], dones := [], loads := [], notices := [], ownImage := none
    newest := r, newestTick := tick } }

/-- Pages rebuilt so far are given up. -/
def State.dropPages (s : State) : State :=
  ([0, 1] : List (Fin 2)).foldl (fun (s : State) (b : Fin 2) =>
    if s.snap.buf[b] = .rebuild then { s.setBuf b .empty with snap := (s.setBuf b .empty).snap.noCopies b } else s) s

/-- Fallback (R533): R becomes DURSTORE, and DURPAR with it, since the newer images are discarded (R528, log 103); a survivor
without its image asks for it, from flash and then the store; with no snapshot in the store nothing remains. -/
def State.fallback (s : State) : State :=
  if s.snap.durStore = 0 then { s with snap := { s.snap with rb := .lost } }
  else
    let r := s.snap.durStore
    let s := s.discardNewer r
    let s := { s with snap := { s.snap with rb := .fallback, target := r, durPar := if r.toNat < s.snap.durPar.toNat then r else s.snap.durPar } }
    if (s.heldImage r.toNat).isSome then s.askLost
    else ({ s with snap := { s.snap with loads := [3, 4], loadBuf := s.captureBuf } }).askLoad r

/-- The loss enters the history: the interval since the last one, at the acting manager (R525). -/
def State.lossHistory (s : State) : State :=
  let iv := (s.tm.tick - s.snap.lastLoss).toNat / 4000000000
  let first := s.snap.lastLoss == 0
  let s := { s with snap := { s.snap with lastLoss := s.tm.tick } }
  if s.hall.actMgr != s.hall.nid then s
  else if first then s.historyChanged
  else ({ s with snap := { s.snap with intervals := iv :: s.snap.intervals.take 15 } }).historyChanged

/-- Rebuild starts, or falls back (R528, R529, R533); one that has fallen back stays so, and one that loses a holder
of a group under rebuild falls back. -/
def State.startRebuild (s : State) (r : BitVec 32) (worse : Bool) : State :=
  if r = 0 ∨ !s.canRebuild ∨ s.snap.rb = .fallback ∨ worse then s.dropPages.fallback
  else
    let s := s.hostPages
    { s with snap := { s.snap with rb := .running } }

/-- A rebuild that another loss meets starts again, for all the nodes lost, from the same snapshot (R532). -/
def State.rebuilding (s : State) : Bool := s.snap.rb == .running || s.snap.rb == .fallback

/-- A second loss takes a parity holder of a group whose images are being rebuilt (R533's table). -/
def State.holderLost (s : State) (lost : List (BitVec 12)) : Bool :=
  s.groups.any fun x => s.lostMembers x != [] && (gHolders x).any fun h =>
    lost.contains h.1 && !s.snap.lost.contains h.1

/-- The live nodes of this node's part, as it was last evaluated (R500). -/
def Hall.ofPart (h : Hall) : List (BitVec 12) :=
  if h.evald = [] then h.live else h.live.filter fun n => h.evald.contains n

/-- The cut is abandoned on a node that is done (R495). -/
def State.abandonCut (s : State) : State :=
  ({ s with cut := { s.cut with st := .abandoned } }).raise .cutdone { unit := 13 } 1 (b2n s.cut.late)
    s.cut.stopT.toNat

/-- A live node is lost before a cut commits: on a node that is done it is abandoned (R495). -/
def State.breakCut (s : State) : State :=
  match s.cstate with
  | .localDone => s.abandonCut
  | .scheduled | .stopping => { s with cut := { s.cut with broken := true } }
  | _ => s

/-- Nodes are lost: with a live one of the part among them the cut cannot complete (R495). -/
def State.loseNodes (s : State) (lost : BitVec 12 → Bool) : State :=
  if s.hall.ofPart.any fun n => n != s.hall.nid && lost n then s.breakCut else s

/-- A declaration of lost nodes on a node of the continuing part (R495, R527, R528, R532, R533, R525). What a lost node held never
counts again (R504), so nodes lost earlier stay in the list until a later snapshot's parity is complete. -/
def State.lossDeclared (s : State) (lost : List (BitVec 12)) : State :=
  let r := if s.rebuilding then s.snap.target else s.snap.durPar
  let all := lost.foldl (fun l n => if l.contains n then l else l ++ [n]) s.snap.lost
  let worse := s.snap.rb == .running && s.holderLost lost
  let s := s.loseNodes lost.contains
  let s := { s with snap := { s.snap with lost := all, target := r } }
  ((((s.raiseRebuild 0 r).dropWork lost).discardNewer r).lossHistory).startRebuild r worse

/-- LOSS_DECLARATION. -/
def execLossDeclaration (lost : List (BitVec 12)) (s : State) : Host.Outcome State Fault Refusal :=
  let s := s.sweep
  .next (if lost = [] ∨ !s.hall.cont then s else s.lossDeclared lost)

/-- The images a rebuild reads, group by group with a lost member: the surviving data members in order, then the
surviving holders in order. -/
def State.rebuildReads (s : State) : List (BitVec 12) :=
  s.groups.flatMap fun x => if s.lostMembers x = [] then [] else
    (((gMembers x).map (·.1)).filter fun n => !s.snap.lost.contains n) ++ (s.keptHolders x).map (·.2)

/-- Solve one group for its lost data members (R529): `data` are the images of the surviving ones by place,
`par` those of the surviving holders by place. -/
def solveGroup (n : Nat) (gone : List Nat) (data : List (Nat × Memory)) (par : List (Nat × Memory)) :
    List (Nat × Memory) :=
  let _ := n
  let get := fun k => (par.find? fun p => p.1 == k).map (·.2)
  let syn := fun (k : Nat) (m : Memory) => data.foldl (fun a d => addCells (if k = 0 then 1 else gfPow d.1) a d.2) m
  match gone, get 0, get 1 with
  | [j], some p, _ => [(j, syn 0 p)]
  | [j], none, some q => [(j, scaleCells (gfInv (gfPow j)) (syn 1 q))]
  | [j, k], some p, some q =>
    -- P' = Dj + Dk, Q' = g^j Dj + g^k Dk
    let p := syn 0 p
    let q := syn 1 q
    let dk := scaleCells (gfInv (Nat.xor (gfPow j) (gfPow k))) (addCells (gfPow j) q p)
    [(j, addCells 1 dk p), (k, dk)]
  | _, _, _ => []

/-- All lost images, in lost-node order, as the survivors' reads give them. -/
def State.solveAll (s : State) (images : List Image) : List (BitVec 12 × Memory) :=
  let (out, _) := s.groups.foldl (fun (a : List (BitVec 12 × Memory) × List Image) x =>
    if s.lostMembers x = [] then a
    else
      let ms := (gMembers x).map (·.1)
      let live := ms.zipIdx.filter fun m => !s.snap.lost.contains m.1
      let hs := s.keptHolders x
      let data := (live.zip a.2).map fun d => (d.1.2, d.2.cells)
      let par := (hs.zip (a.2.drop live.length)).map fun p => (p.1.1, p.2.cells)
      let gone := (ms.zipIdx.filter fun m => s.snap.lost.contains m.1).map (·.2)
      (a.1 ++ (solveGroup ms.length gone data par).map fun d => (nth ms d.1 0, d.2),
        a.2.drop (live.length + hs.length))) ([], images)
  s.snap.lost.filterMap fun n => out.find? fun d => d.1 == n

/-- The pages of the lost images in lost-node order, dealt over the survivors in node order: this node's share, and
the most pages any survivor gets (R530). A node that came back is no survivor. -/
def State.dealt (s : State) (lost : List (BitVec 12 × Memory)) : List (Memory × Nat) × Nat :=
  let pages := lost.flatMap fun d =>
    (List.range (fld (Mem.getN d.2 0 64) 160 28)).map fun p => (d.2, p)
  let live := ((s.hall.nid :: s.others).filter fun n => !s.snap.lost.contains n).map (·.toNat)
  let me := (live.filter fun x => x < s.hall.nid.toNat).length
  (if s.snap.lost.contains s.hall.nid then [] else (pages.zipIdx.filter fun p => p.2 % live.length == me).map (·.1),
    cdiv pages.length live.length)

/-- This node's share lies one page after another in the buffer that does not hold R. -/
def State.takePages (s : State) (mine : List (Memory × Nat)) : State :=
  let at_ := hallLoc (s.bufAt s.captureBuf)
  (mine.take s.snap.imgpg.toNat).zipIdx.foldl (fun s p =>
    let page := Mem.slice p.1.1 (4096 * p.1.2) 4096
    { s with mem := Mem.paste s.mem (at_ + 4096 * p.2) 4096 page }) s


end Sys2Proof.Machine
end

