-- ==== Sys2Proof/Machine/TimeUnit.lean ====
section
/-! DEFINITION. The time unit and the hall: the tick and its discipline (R479 to R485), stops and cuts (R488 to
R495), the manager and the live set (R497 to R499), partitions and rejoining (R500 to R503). -/
namespace Sys2Proof.Machine

/-- One tk passes: the count advances by one; while an offset is corrected it stands still or advances by two on at
most one tick in 4,096, until the offset is within 1/16 tk (R479, R483). -/
def State.advance (s : State) : State :=
  let t := s.tm
  let due := decide (4095 ≤ t.sinceSlew)
  if due ∧ 1 < t.slew then { s with tm := { t with slew := t.slew - 16, sinceSlew := 0 } }
  else if due ∧ t.slew < -1 then { s with tm := { t with tick := t.tick + 2, slew := t.slew + 16, sinceSlew := 0 } }
  else { s with tm := { t with tick := t.tick + 1, sinceSlew := min 4095 (t.sinceSlew + 1) } }

-- Time exchange.

/-- TIME_FLIT_SEND: a time flit leaves on an UP port, or on the lane kept alive, with the count at the frame boundary to
1/16 tk; telemetry that waits goes as its cap allows (R482, R585). A port whose flit counter is used up goes DOWN
(R463). -/
def execTimeFlitSend (port : Fin 6) (s : State) (sixteenth : Fin 16 := 0) : Host.Outcome State Fault Refusal :=
  .next (((s.sluiceOn port (.time (16 * s.tm.tick.toNat + sixteenth.val) s.tm.lastRecv[port] s.tm.lastSend[port]
    s.tm.hops)).drainTelem port).downExhausted port)

/-- Offset and delay of an exchange, in 1/16 tk (R482). -/
def exchange (t1 t2 t3 t4 : Int) : Int × Int := (((t2 - t1) - (t4 - t3)) / 2, ((t2 - t1) + (t4 - t3)) / 2)

/-- An offset as `OFFSET` holds it, 16 bits signed. -/
def offsetField (o : Int) : BitVec 16 := BitVec.ofInt 16 (max (-32768) (min 32767 o))

/-- The test of LOCK and TIMESLIP (R485): 1 ns is 4 tk. -/
def State.judge (s : State) (o : Int) : State :=
  if o.natAbs ≤ 64 then
    let good := min 8 (s.tm.good + 1)
    { s with tm := { s.tm with good := good, bad := 0, lock := s.tm.lock || good == 8 } }
  else if s.tm.bad + 1 < 8 then { s with tm := { s.tm with good := 0, bad := s.tm.bad + 1 } }
  else ({ s with tm := { s.tm with good := 0, bad := 0, lock := false } }).raise .timeslip { unit := 13 }
    (unsgn 32 o) 0 0

/-- An offset measured to the parent: the first one of a node that joins loads the count, which is thereby stepped; a later
one is slewed (R479, R483, R485, R505, log 100). -/
def State.measured (s : State) (o : Int) : State :=
  if s.tm.joining then
    { s with tm := { s.tm with
      tick := BitVec.ofInt 64 ((s.tm.tick.toNat : Int) - o / 16)
      slew := o % 16, joining := false, stepped := true, good := 0, bad := 0, offset := offsetField o } }
  else
    ({ s with tm := { s.tm with
      offset := offsetField o, slew := if o.natAbs ≤ 1 then 0 else o } }).judge o

-- Stops.

/-- A stop at T that this node accepts: it stands, and the command goes out on every UP port but `but`, once for each
T (R488). -/
def State.spread (s : State) (t : BitVec 64) (but : List (Fin 6)) : State :=
  if t ∈ s.cut.forwarded then s
  else ({ s with cut := { s.cut with forwarded := t :: s.cut.forwarded } }).sweep.sluiceAll (.stop t) but

/-- Schedule a stop at a tick that is still to come; the earlier tick stands, and during a cut it is discarded (R409,
R493). -/
def State.scheduleStop (s : State) (t : BitVec 64) : State :=
  match s.cstate with
  | .run => ({ s with cut := { s.cut with st := .scheduled, stopT := t } }).spread t []
  | .scheduled =>
    if t.toNat < s.cut.stopT.toNat then ({ s with cut := { s.cut with stopT := t } }).spread t [] else s
  | _ => s

/-- A write of `FGE_STOP_AT` (R493). -/
def State.stopWrite (s : State) (t : BitVec 64) : State :=
  if t.toNat ≤ s.tm.tick.toNat ∨ !s.cutOpen then { s with cut := { s.cut with stopErr := true } } else s.scheduleStop t

/-- STOP_AT_WRITE. -/
def execStopAtWrite (t : BitVec 64) (s : State) : Host.Outcome State Fault Refusal := .next ((s.stopWrite t).answer 0)

/-- The notice of a node that is done goes to every live node; its own counts with the others (R492). -/
def State.sayDone (s : State) : State :=
  ({ s with cut := { s.cut with
    st := .localDone, done := insertNew s.hall.nid s.cut.done, anyLate := s.cut.anyLate || s.cut.myLate } }).toLive
      (.cutDone s.hall.nid s.cut.myLate)

/-- A stop command after its tick stops the node at once, late (R489); an earlier tick moves a stop at work back. -/
def State.lateStop (s : State) (t : BitVec 64) : State :=
  let again := s.cstate == .localDone
  let s := { s with cut := { s.cut with st := .stopping, stopT := t, myLate := true, late := true } }
  if again then s.sayDone else s

/-- STOP_COMMAND (R488, R489, R493). -/
def execStopCommand (port : Fin 6) (t : BitVec 64) (s : State) : Host.Outcome State Fault Refusal :=
  .next (s.sluiceIn port fun s => match s.cstate with
    | .committed | .abandoned | .partFrozen => s
    | .stopping | .localDone =>
      if s.cut.stopT.toNat ≤ t.toNat then s else (s.lateStop t).spread t [port]
    | .scheduled =>
      if t.toNat < s.cut.stopT.toNat then
        (if t.toNat < s.tm.tick.toNat then s.lateStop t
          else { s with cut := { s.cut with stopT := t } }).spread t [port]
      else s.spread t [port]
    | .run =>
      (if t.toNat < s.tm.tick.toNat then s.lateStop t
        else { s with cut := { s.cut with st := .scheduled, stopT := t } }).spread t [port])

/-- STOP_TICK: the tick passed T and the node stops (R490). -/
def execStopTick (s : State) : Host.Outcome State Fault Refusal :=
  .next { s with cut := { s.cut with st := s.cstate } }

/-- With a notice of every live node of the part the cut commits (R492). -/
def State.tryCommit (s : State) : State :=
  if s.cut.st = .localDone ∧ (s.hall.nid :: s.hall.ofPart).all (fun n => s.cut.done.contains n) then
    let late := s.cut.late || s.cut.anyLate
    ({ s with cut := { s.cut with
      st := .committed, late := late, lastCut := s.cut.stopT.setWidth 40, done := [], anyLate := false } }).raise
        .cutdone { unit := 13 } 0 (b2n late) s.cut.stopT.toNat
  else s

/-- CUT_LOCAL_DONE: every instruction dispatched by T retired or waits for end markers only, every write is
acknowledged and no stash move runs (R491, R492, R495). A saved gang has not retired (R437). In DEEP a node is done as soon
as it schedules the cut (R561). -/
def execCutLocalDone (s : State) : Host.Outcome State Fault Refusal :=
  let s := s.sweep
  .next (if !(s.cstate = .stopping ∧ (s.pwr.st = .deep ∨ s.hg.flight.all fun f => !f.parked)
      ∨ s.cstate = .scheduled ∧ s.pwr.st = .deep) ∨ !s.cutDone then s
    else if s.cut.broken then s.abandonCut
    else s.sayDone.tryCommit)

/-- CUT_DONE_NOTICE (R492): a notice may come before this node is itself done. -/
def execCutDoneNotice (node : BitVec 12) (late : Bool) (s : State) : Host.Outcome State Fault Refusal :=
  .next (if !s.others.contains node ∨ s.cut.st = .committed ∨ s.cut.st = .abandoned ∨ s.cut.st = .partFrozen then s
    else ({ s with cut := { s.cut with
      done := insertNew node s.cut.done, anyLate := s.cut.anyLate || late } }).tryCommit)

/-- A cut at rest: nothing scheduled, and nothing of a later stop remains (R493). -/
def Cut.clear (c : Cut) (st : CutSt) : Cut :=
  { c with st := st, stopT := 0, myLate := false, done := [], anyLate := false, broken := false, forwarded := [] }

/-- A resume: the cut is over and the other nodes hear of it (R494). -/
def State.resume (s : State) : State :=
  if s.cut.st = .committed ∨ s.cut.st = .abandoned then
    ({ s with cut := s.cut.clear .run }).toLive (.resumed s.hall.nid)
  else s

/-- RESUME. -/
def execResume (s : State) : Host.Outcome State Fault Refusal := .next (s.sweep.resume.answer 0)

/-- RESUME_NOTICE: requests held for the resumed node go again (R494). -/
def execResumeNotice (node : BitVec 12) (s : State) : Host.Outcome State Fault Refusal :=
  let s := s.sweep
  .next ({ s with rem := { s.rem with frozen := s.rem.frozen.filter (· != node) } }.resend fun q => q.f.dst == node).showWaits

-- The hall.

/-- The acting manager of a part (R499). -/
def Hall.manager (h : Hall) (part : List (BitVec 12)) (continues : Bool) : BitVec 12 :=
  if part.contains h.mgr then h.mgr
  else if part.contains h.backup && continues then h.backup
  else part.foldl (fun a n => if n.toNat < a.toNat then n else a) h.nid

/-- The lowest node of a part. -/
def Hall.lowest (h : Hall) (part : List (BitVec 12)) : BitVec 12 :=
  part.foldl (fun a n => if n.toNat < a.toNat then n else a) h.nid

/-- The time root follows the part; LOCK with it (R481, R485, R499). -/
def State.setRoot (s : State) (part : List (BitVec 12)) (continues : Bool) : State :=
  let root := if continues then s.hall.actMgr == s.hall.nid else s.hall.lowest part == s.hall.nid
  let t := s.tm
  if root then
    { s with tm := { t with root := true, lock := continues, parent := 7, hops := 0, joining := false, slew := 0 } }
  else if t.root then
    ({ s with tm := { t with root := false, lock := false, good := 0, bad := 0 } }).chooseParent
  else s

/-- A hall of one node is its own live set, part, manager and root (R485, R499). -/
def State.soleHall (s : State) : State :=
  { s with
    hall := { s.hall with live := [s.hall.nid], evald := [], offer := [], acks := [], cont := true, actMgr := s.hall.nid }
    tm := { s.tm with root := true, lock := true, parent := 7, hops := 0, joining := false, slew := 0 } }

/-- A node of a larger hall before it is admitted: no live set, no manager, no root. -/
def State.strangerHall (s : State) : State :=
  { s with
    hall := { s.hall with live := [], evald := [], offer := [], acks := [], cont := false, actMgr := 0 }
    tm := { s.tm with root := false, lock := false, parent := 7, hops := 0x1F, joining := true } }

/-- The cable at a node's port carries traffic as far as this node was told (R469, R500). -/
def Hall.cableUp (h : Hall) (n : BitVec 12) (p : Nat) : Bool :=
  h.dim (portDim p) != 1 && (h.stOf n p).usable
    && (h.stOf (BitVec.ofNat 12 (h.neighbour n.toNat p)) (farPort p)).usable

/-- One round of the search: the neighbours of the nodes reached, among those that `ok` admits. -/
def Hall.reachMore (h : Hall) (ok : BitVec 12 → Bool) (l : List (BitVec 12)) : List (BitVec 12) :=
  l.foldl (fun a n => (List.range 6).foldl (fun a p =>
    let m := BitVec.ofNat 12 (h.neighbour n.toNat p)
    if h.cableUp n p && ok m && !a.contains m then a ++ [m] else a) a) l

/-- The part of this node: the live nodes it can reach over UP ports (R500). -/
def Hall.part (h : Hall) : List (BitVec 12) :=
  forN h.live.length [h.nid] fun l _ => h.reachMore h.live.contains l

/-- Nodes outside the live set that can be reached from the part, through others of them too: they can be admitted
(R503). -/
def Hall.admissible (h : Hall) (part : List (BitVec 12)) : List (BitVec 12) :=
  (forN (h.xdim.toNat * h.ydim.toNat * h.zdim.toNat) part fun l _ => h.reachMore (fun n => !h.live.contains n) l).filter
    fun n => !part.contains n

/-- The decision of R500 for a part of a live set. -/
def Hall.continues (h : Hall) (part : List (BitVec 12)) : Bool :=
  let l := h.live.length
  decide (l < 2 * part.length) || (2 * part.length == l && part.contains h.mgr)

/-- This node's hall under the set it is offered. -/
def Hall.under (h : Hall) : Hall :=
  let n := { h with live := h.offer, cont := true, evald := [], offer := [], acks := [] }
  { n with actMgr := n.manager n.part true }

/-- An offered set takes effect once every node of it acknowledged it (R498, R499). A frozen node rejoins first (R503), and
one that joins has loaded its count, which is not stepped from then on, unless it is the root (R479, R485). A set that
lacks a live node of the part says that it is lost (R495). -/
def State.takeOffer (s : State) : State :=
  let h := s.hall.under
  if s.hall.offer = [] ∨ s.cut.st = .partFrozen ∨ (s.tm.joining ∧ h.actMgr ≠ h.nid)
      ∨ (s.hall.offer.any fun n => n != s.hall.nid && !s.hall.acks.contains n) then s
  else
    let s := s.loseNodes fun n => !s.hall.offer.contains n
    (({ s with hall := h, tm := { s.tm with joining := false } }).setRoot h.part true).tryCommit

/-- TIME_FLIT: the far end's send tick `send`, its receive tick `farRecv` of our last flit and that flit's send tick
`echoed`, all in 1/16 tk, received in the tick that the count shows, at its sixteenth `recv` (R481, R482). -/
def execTimeFlit (port : Fin 6) (send recv farRecv echoed : Nat) (hops : BitVec 5) (s : State) :
    Host.Outcome State Fault Refusal :=
  .next (if !(s.port port).st.usable || (s.port port).awaiting.isSome then s
    else
      let at_ : Nat := 16 * s.tm.tick.toNat + recv % 16
      let s : State := { s with tm := { s.tm with
        lastRecv := s.tm.lastRecv.set port at_, lastSend := s.tm.lastSend.set port send
        nbHops := s.tm.nbHops.set port hops } }
      let s := s.chooseParent
      if s.tm.root = true ∨ s.tm.parent.toNat ≠ port.val ∨ echoed = 0 then s
      else (s.measured (exchange send at_ echoed farRecv).1).takeOffer)

/-- A part that freezes (R502): a cut that this node is done with is abandoned first (R495), and a rebuild stops (R533). -/
def State.freeze (s : State) (part : List (BitVec 12)) : State :=
  let s := if s.cstate = .localDone then s.abandonCut else s
  let s := { s with hall := { s.hall with
    cont := false, evald := part, offer := [], acks := [], actMgr := s.hall.manager part false } }
  let s := { s with cut := s.cut.clear .partFrozen }
  (if s.rebuilding then { s with snap := { s.snap with rb := .idle, loads := [] } } else s).setRoot part false

/-- Send a sluice flit to every other node of a list. -/
def State.tell (s : State) (l : List (BitVec 12)) (m : Sluice) : State :=
  (l.filter (· != s.hall.nid)).foldl (fun s n => (s.sluiceTo n m).1) s

/-- The part of a node that runs is known: its manager and root follow (R481, R499). -/
def State.knowPart (s : State) (part : List (BitVec 12)) : State :=
  ({ s with hall := { s.hall with evald := part, actMgr := s.hall.manager part true } }).setRoot part true

/-- A part that goes on without the others (R501): the acting manager removes them and declares them lost. -/
def State.goOn (s : State) (part : List (BitVec 12)) : State :=
  let s := s.breakCut.knowPart part
  let gone := s.hall.live.filter fun n => !part.contains n
  if s.hall.actMgr != s.hall.nid ∨ gone = [] then s else (s.tell part (.liveSet part)).tell part (.lost gone)

/-- Frozen parts that meet and hold more than half of the live set go on (R500): the node runs again, and the others send
what they held for it (R494, log 101). -/
def State.thaw (s : State) : State :=
  ({ s with cut := s.cut.clear .run, hall := { s.hall with cont := true } }).toLive (.resumed s.hall.nid)

/-- The acting manager of a part that continues admits the nodes that can be reached from it again (R498, R503). -/
def State.offerSet (s : State) (part : List (BitVec 12)) : State :=
  let new := s.hall.admissible part
  if new = [] ∨ !s.hall.cont ∨ s.hall.actMgr ≠ s.hall.nid then s
  else s.tell (part ++ new) (.liveSet (s.hall.live ++ new))

/-- PARTITION_EVALUATION (R500 to R503). A node of a frozen part evaluates too: its manager and root follow, and where the
part has grown enough it goes on; with `contNear` it has met a part that continues, and waits to rejoin that. -/
def execPartitionEvaluation (s : State) (contNear : Bool := false) : Host.Outcome State Fault Refusal :=
  let s := s.sweep
  .next (if s.cut.st = .partFrozen ∧ contNear then s
    else
    let part := s.hall.part
    let small := decide (part.length < s.hall.live.length)
    let go := s.hall.continues part
    let was := s.cut.st == .partFrozen
    if !s.hall.live.contains s.hall.nid then s
    else if !small && !was then (s.knowPart part).offerSet part
    else
      let s := if small then s.raise .partition { unit := 13 } part.length s.hall.live.length (b2n go) else s
      if go then (if was then s.thaw else s).goOn part else s.freeze part)

/-- LIVE_SET_CHANGE: a new set that holds this node is acknowledged to its acting manager, once, and takes effect when the
nodes of it are known to have acknowledged it (R498, log 102). -/
def execLiveSetChange (set : List (BitVec 12)) (s : State) (acked : List (BitVec 12) := []) :
    Host.Outcome State Fault Refusal :=
  let s := s.sweep
  .next (if s.hall.single ∨ !set.contains s.hall.nid then s
    else if s.hall.offer = set then
      ({ s with hall := { s.hall with acks := acked.foldl (fun l n => insertNew n l) s.hall.acks } }).takeOffer
    else
      let s := { s with hall := { s.hall with offer := set, acks := acked } }
      let lead := s.hall.under.actMgr
      (if lead = s.hall.nid then s else (s.sluiceTo lead (.liveAck s.hall.nid)).1).takeOffer)

/-- A node that comes back holds no images and no parity, and is a new member to RESTORE as well (R505, R537). It is lost
itself, as a holder of parity, until a later snapshot's parity is complete (R504, R524). -/
def Snap.emptied (x : Snap) : Snap :=
  { x with
    rb := .idle, buf := Vector.replicate 2 .empty, bufSnum := Vector.replicate 2 0
    parSnum := Vector.replicate 4 0, newest := 0, first := 0, newestTick := 0, dueFor := [], readies := [], dones := []
    notices := [], copying := [], target := 0, loads := [], ownImage := none }

/-- The held requests go; an instruction that waits for a discarded read stops without retiring. -/
def State.discardHeld (s : State) : State :=
  let gone := s.rem.heldReq
  let lostReads := s.rem.reads.filter fun q => gone.contains q
  let stuck := fun f : Flight => lostReads.any fun q => q.slot == f.slot && q.node == f.node
  { s with
    rem := { s.rem with
      heldReq := [], frozen := [], owedEnds := [], unacked := s.rem.unacked.filter (fun q => !gone.contains q)
      reads := s.rem.reads.filter fun q => !gone.contains q }
    hg := { s.hg with flight := s.hg.flight.filter fun f => !stuck f } }

/-- REJOIN: a frozen or restarted node steps its count to its parent's, abandons its slots, discards what it held and
is back (R503, R505). The acting manager tells it which nodes are lost to the snapshots (R504, log 53). -/
def execRejoin (count : BitVec 64) (s : State) (lost : List (BitVec 12) := []) : Host.Outcome State Fault Refusal :=
  let s := s.sweep
  .next (if s.hall.single ∨ s.hall.cont then s
    else
      let s := s.setWaits []
      let s := { s with tm := { s.tm with
        tick := count, stepped := true, joining := false, slew := 0, lock := false, root := false
        good := 0, bad := 0 } }
      let s := allSlots.foldl (fun s i => s.abandon i) s
      let s := allSlots.foldl (fun s i => s.settle i) s.discardHeld
      ({ s with
        snap := { s.snap.emptied with lost := lost }
        cut := s.cut.clear .run
        hall := { s.hall with cont := true, evald := [] } }).chooseParent.takeOffer)

end Sys2Proof.Machine
end

