-- ==== Sys2Proof/Machine/LinkUnit.lean ====
section
/-! DEFINITION. The link ports: training and lanes (R453 to R459), sessions (R465), reception of flits (R450, R467),
remote requests and their answers (R470 to R474, R210, R477), and the notices of the sluice (R469, R586). -/
namespace Sys2Proof.Machine

-- Sessions.

/-- Send a handshake flit on a port that is trained or up; where no counter value is left, the port goes DOWN (R463). -/
def State.handshake (s : State) (p : Fin 6) (m : Sluice) : State :=
  let q := s.port p
  if !q.linked then s else if q.exhausted then s.downExhausted p else s.putSluice p m

/-- What this node was told of the ports of others goes out on a port that joins another piece of the hall (R469, log 99). -/
def State.tellPorts (s : State) (p : Fin 6) : State :=
  (s.hall.portSts.filter fun x => x.1.1 != s.hall.nid).foldl
    (fun s x => s.sluiceOn p (.portNotice x.1.1 x.1.2 x.2)) s

/-- A port carries data again: what waited at it goes, with its credits, and the hall hears of it (R447). -/
def State.portUp (s : State) (p : Fin 6) : State :=
  ((s.setPort p { s.port p with st := .up, farDeep := false }).release p).announce p

/-- A port whose first flits under the new keys passed both ways is UP (R465): the hall hears of it, and what waited
for a route goes. -/
def State.sessionUp (s : State) (p : Fin 6) : State :=
  let q := s.port p
  if q.st = .trained ∧ q.txNew ∧ q.rxNew then
    let s := (((s.setPort p { q with txNew := false, rxNew := false }).portUp p).tellPorts p).sendMarkers.drainTelem p
    (s.resend fun r => (s.rem.unacked.contains r || s.rem.reads.contains r) && !s.rem.frozen.contains r.f.dst).showWaits
  else s

/-- The link acknowledgement, which an idle sluice flit carries: it takes a counter value and is not counted
(R447, R573). -/
def State.linkAck (s : State) (p : Fin 6) (pseq : BitVec 16) : State :=
  let q := s.port p
  if q.linked ∧ !q.exhausted then
    { s.setPort p (q.took (.inr (.linkAck pseq)) s.stamp) with
      out := { s.out with links := s.out.links ++ [.sluice p (.linkAck pseq) s.stamp] } }
  else s

/-- A flit under a new key is the first to be acknowledged: it passed the far receiver's check (R465). -/
def State.txPassed (s : State) (p : Fin 6) : State :=
  let q := s.port p
  if q.txOut then (s.setPort p { q with txOut := false, txNew := true }).sessionUp p else s

/-- The transmitter switches to its staged key once key-ready was seen: key-switch goes out, and the counter restarts
(R463, R465). The port waits for the first flit under the key to pass at the far end. -/
def State.switchTx (s : State) (p : Fin 6) : State :=
  let q := s.port p
  match q.stTx with
  | some k =>
    if q.farReady ∧ q.linked then
      let s := s.handshake p .keySwitch
      if !(s.port p).linked then s
      else s.setPort p { s.port p with
        keyTx := some k, stTx := none, txCount := 0, farReady := false, txOut := true
        txOld := (s.port p).replay.length }
    else s
  | none => s

/-- A receiver with a staged key says so (R465). -/
def State.sayReady (s : State) (p : Fin 6) : State :=
  if (s.port p).stRx.isSome then s.handshake p .keyReady else s

/-- KEY_READY (R465). -/
def execKeyReady (port : Fin 6) (s : State) : Host.Outcome State Fault Refusal :=
  .next (s.sluiceIn port fun s => (s.setPort port { s.port port with farReady := true }).switchTx port)

/-- KEY_SWITCH: the receiver moves to its staged key. The first flit under it passes its tag check, and is acknowledged, or
it counts in LINK_TAGFAIL (R450, R465): a TRAINED port sets KEYERR, and another asks for the flit again. -/
def execKeySwitch (port : Fin 6) (tagOk : Bool) (s : State) : Host.Outcome State Fault Refusal :=
  .next (s.sluiceIn port fun s =>
    let q := s.port port
    match q.stRx with
    | some k =>
      let s := s.setPort port { q with keyRx := some k, stRx := none, rxCount := 0, rxNew := tagOk, fails := [] }
      if tagOk then (s.linkAck port 0).sessionUp port
      else
        let s := s.bump (9 + port.val) 0 1
        if q.st = .trained then { s with key := { s.key with keyErr := true } }
        else ((s.setPort port { s.port port with awaiting := some 0 }).bump (9 + port.val) 2 1).sluiceOn port
          (.replayReq 0)
    | none => s)

-- Training.

/-- Fence a receive lane. -/
def Port.fence (q : Port) (lane code : Nat) : Port :=
  { q with fenced := q.fenced ||| BitVec.ofNat 9 (2 ^ lane), faults := q.faults ++ [(lane, code)] }

def Port.isFenced (q : Port) (lane : Nat) : Bool := q.fenced.getLsbD lane

/-- Raise LANEFAULT for the lanes fenced and not yet raised (R457). -/
def State.raiseFaults (s : State) (p : Fin 6) : State :=
  let q := s.port p
  q.faults.foldl (fun s f => s.raise .lanefault { unit := 15 } p.val f.1 f.2)
    (s.setPort p { q with faults := [] })

/-- The test of step 1 on a lane (R454). -/
def wiringFault (o : LaneObs) : Option Nat :=
  if o.pmv < 50 ∨ o.nmv < 50 then some 1
  else if o.pmv - o.nmv ≤ 20 ∧ o.nmv - o.pmv ≤ 20 ∧ 50 < o.pmv ∧ 50 < o.nmv then some 2
  else if 350 < o.pmv ∨ 350 < o.nmv then some 3
  else none

/-- The lanes still in training, with what the receiver finds on them. -/
def Port.inTest (q : Port) (lanes : List LaneObs) : List (Nat × LaneObs) :=
  (lanes.take 9).zipIdx.filterMap fun x => if q.isFenced x.2 then none else some (x.2, x.1)

/-- Fence the lanes that fail a test. -/
def Port.fenceAll (q : Port) (l : List (Nat × Nat)) : Port := l.foldl (fun q x => q.fence x.1 x.2) q

/-- Step 2: sync words give polarity and order; dead lanes and conflicts are fenced (R454, R455). -/
def Port.syncStep (q : Port) (ls : List (Nat × LaneObs)) : Port :=
  let from_ := ls.filterMap fun x => x.2.sync.map fun w => (x.1, w.2.2.1)
  let bad := ls.filterMap fun x => match x.2.sync with
    | none => some (x.1, 4)
    | some w => if (from_.filter fun y => y.2 == w.2.2.1).length ≤ 1 then none else some (x.1, 5)
  let q := { q.fenceAll bad with synced := !from_.isEmpty }
  let good := ls.filter fun x => !q.isFenced x.1
  { q with
    laneOf := good.filterMap fun x => x.2.sync.map fun w => (w.2.2.1, x.1)
    invert := good.foldl (fun a x => match x.2.sync with
      | some w => if w.2.2.2 then a ||| BitVec.ofNat 9 (2 ^ x.1) else a
      | none => a) 0 }

/-- Some sync word names a node or port other than the neighbour of R442 (R455). -/
def State.miswired (s : State) (p : Fin 6) (ls : List (Nat × LaneObs)) : Bool :=
  ls.any fun x => match x.2.sync with
    | some w => w.1.toNat != s.hall.neighbour s.hall.nid.toNat p.val || w.2.1 != farPort p.val
    | none => false

/-- Insert a lane number in rising order. -/
def insertLane (x : Nat) : List Nat → List Nat
  | [] => [x]
  | y :: r => if x ≤ y then x :: y :: r else y :: insertLane x r

/-- Logical lanes and spare of a direction, from its good transmitter lanes in order (R456). -/
def chooseLanes (good : List Nat) : Dir :=
  let l := good.foldr insertLane []
  { lanes := l.take 8, spare := l[8]? }

/-- A lane's training is complete: after its first, each counts in the service record (R457). -/
def State.laneTrained (s : State) (p : Fin 6) (lane : Nat) : State :=
  let q := s.port p
  if q.trained.getLsbD lane then s.svcAdd (144 + 9 * p.val + lane) 1
  else s.setPort p { q with trained := q.trained ||| BitVec.ofNat 9 (2 ^ lane) }

/-- Step 6: lanes are chosen, or too few are left (R456, R457). `far` are the transmit lanes as the far receiver
reports them. -/
def State.chooseStep (s : State) (p : Fin 6) (far : List LaneObs) : State :=
  let q := s.port p
  let rxTx := chooseLanes (q.laneOf.filterMap fun m => if q.isFenced m.2 then none else some m.1)
  let rx : Dir := {
    lanes := rxTx.lanes.filterMap fun t => (q.laneOf.find? fun m => m.1 == t).map (·.2)
    spare := rxTx.spare.bind fun t => (q.laneOf.find? fun m => m.1 == t).map (·.2) }
  let tx := chooseLanes ((far.take 9).zipIdx.filterMap fun x => if x.1.locked then some x.2 else none)
  if rx.lanes.length < 7 ∨ tx.lanes.length < 7 then s.portDown p .down q.synced
  else
    let s := (s.setPort p { q with st := .trained, tstep := 7, rx := rx, tx := tx }).announce p
    (s.sayReady p).switchTx p

/-- Start training an enabled port and tell the hall (R453), from INIT on (R547). -/
def State.startTraining (s : State) (p : Fin 6) : State :=
  if s.portUnused p ∨ !s.pen.getLsbD p.val ∨ s.phase = .power ∨ s.phase = .fuse ∨ s.phase = .scan then s
  else (s.train p).announce p

/-- TRAIN_STEP_END: the step under way ends with what the receiver found on its lanes, in step 6 with the far
receiver's report on the transmit lanes (R453 to R457). -/
def execTrainStepEnd (port : Fin 6) (lanes : List LaneObs) (s : State) : Host.Outcome State Fault Refusal :=
  .next (
    let s := s.sweep
    let q := s.port port
    let ls := q.inTest lanes
    let next := fun q : Port => s.setPort port { q with tstep := q.tstep + 1 }
    if q.st ≠ .train then s
    else match q.tstep with
      | 1 => next (q.fenceAll (ls.filterMap fun x => (wiringFault x.2).map fun c => (x.1, c)))
      | 2 =>
        let q := q.syncStep ls
        if !q.synced then (s.setPort port { q with faults := [] }).portDown port .down false
        else
          let s := (next q).raiseFaults port
          if s.miswired port ls then s.portDown port .miswired true else s
      | 3 => (next (q.fenceAll (ls.filterMap fun x => if x.2.locked then none else some (x.1, 6)))).raiseFaults port
      | 4 => (next (q.fenceAll (ls.filterMap fun x => if 3 < x.2.errors then some (x.1, 7) else none))).raiseFaults
          port
      | 5 => ls.foldl (fun s x => s.laneTrained port x.1) (next q)
      | 6 => s.chooseStep port lanes
      | _ => s)

/-- TRAINING_RETRY: an enabled port that is DOWN trains again from step 1 (R453, R457). -/
def execTrainingRetry (port : Fin 6) (s : State) : Host.Outcome State Fault Refusal :=
  .next (let s := s.sweep; if (s.port port).st = .down then s.startTraining port else s)

-- Lanes in service. A lane number is that of the receive lane; for the transmit direction, of the transmit lane.

/-- Take a lane out of a direction; the spare takes its logical number. The flag says whether a spare was used
(R458). -/
def Dir.remove (d : Dir) (lane : Nat) : Dir × Bool :=
  if lane ∈ d.lanes then
    match d.spare with
    | some sp => ({ d with lanes := d.lanes.map fun l => if l = lane then sp else l, spare := none,
                           away := d.away ++ [lane] }, true)
    | none => ({ d with lanes := d.lanes.filter (· != lane), away := d.away ++ [lane] }, false)
  else if d.spare = some lane then ({ d with spare := none, away := d.away ++ [lane] }, false)
  else (d, false)

/-- A lane that trained again comes back: as a logical lane where one is missing, else as the spare (R458). -/
def Dir.comeBack (d : Dir) (lane : Nat) : Dir :=
  let d := { d with away := d.away.filter (· != lane) }
  if d.lanes.length < 8 then { d with lanes := d.lanes ++ [lane] } else { d with spare := some lane }

/-- Fewer than seven lanes in a direction hold the port's data flits (R459). -/
def State.restall (s : State) (p : Fin 6) : State :=
  let q := s.port p
  let short := decide (q.rx.lanes.length < 7) || decide (q.tx.lanes.length < 7)
  if q.st ≠ .up then s
  else
    let s := s.setPort p { q with stalled := short }
    if short then s else s.release p

/-- The keep-alive lane, logical lane 0, fails: the next logical lane takes its place (R461). The other lanes are powered
down. -/
def Dir.nextAlive (d : Dir) (lane : Nat) : Dir :=
  if d.lanes.head? = some lane then { d with lanes := d.lanes.tail, away := d.away ++ [lane] } else d

/-- The spare comes in for a logical lane that is missing after a keep-alive time (R458, log 97). -/
def Dir.refill (d : Dir) : Dir × Bool :=
  match d.spare with
  | some sp => if d.lanes.length < 8 then ({ d with lanes := d.lanes ++ [sp], spare := none }, true) else (d, false)
  | none => (d, false)

/-- The receiver takes a lane out of service and tells the transmitter (R458); a keep-alive lane gives way to the next
(R461). -/
def State.laneLost (s : State) (port : Fin 6) (lane : Nat) : State :=
  let q := s.port port
  let alive := q.st == .keepalive
  if !q.st.usable ∨ !(if alive then q.rx.lanes.head? == some lane else q.rx.lanes.contains lane || q.rx.spare == some lane)
  then s
  else
    let (rx, used) := if alive then (q.rx.nextAlive lane, false) else q.rx.remove lane
    let s := s.setPort port { q with rx := rx, fails := q.fails.filter fun x => x.1 != lane }
    let s := if used then s.svcAdd (198 + port.val) 1 else s
    let far := ((q.laneOf.find? fun m => m.2 == lane).map (·.1)).getD lane
    if alive ∧ rx.lanes = [] then s.portDown port .down true
    else (s.sluiceOn port (.laneRemoved far)).restall port

/-- LANE_SIGNAL_LOSS (R458, R461). -/
def execLaneSignalLoss (port : Fin 6) (lane : Nat) (s : State) : Host.Outcome State Fault Refusal :=
  .next (s.sweep.laneLost port lane)

/-- LANE_REMOVAL_NOTICE: the transmitter deals over the remaining lanes, and the spare comes in (R458, R461). -/
def execLaneRemovalNotice (port : Fin 6) (lane : Nat) (s : State) : Host.Outcome State Fault Refusal :=
  .next (s.sluiceIn port fun s =>
    let q := s.port port
    if !q.st.usable then s
    else
      let tx := if q.st = .keepalive then q.tx.nextAlive lane else (q.tx.remove lane).1
      let s := s.setPort port { q with tx := tx }
      if q.st = .keepalive ∧ tx.lanes = [] then s.portDown port .down true else s.restall port)

/-- LANE_RETRAIN_DONE: a removed receive lane passed or is fenced with code 0x8 (R457, R458). Lanes 9 to 17 stand
for transmit lanes 0 to 8, as the far receiver reports them. -/
def execLaneRetrainDone (port : Fin 6) (lane : Nat) (pass : Bool) (s : State) : Host.Outcome State Fault Refusal :=
  .next (
    let s := s.sweep
    let q := s.port port
    if !q.st.usable then s
    else if 9 ≤ lane then
      let l := lane - 9
      if !q.tx.away.contains l then s
      else
        let tx := if pass then q.tx.comeBack l else { q.tx with away := q.tx.away.filter (· != l) }
        (s.setPort port { q with tx := tx }).restall port
    else if !q.rx.away.contains lane then s
    else if pass then
      ((s.setPort port { q with rx := q.rx.comeBack lane }).laneTrained port lane).restall port
    else
      ((s.setPort port ({ q with rx := { q.rx with away := q.rx.away.filter (· != lane) } }.fence lane 8)).raiseFaults
        port).restall port)

/-- LANE_RECOVERY_TIMEOUT: a direction still has fewer than seven lanes after 50 ms (R459). -/
def execLaneRecoveryTimeout (port : Fin 6) (transmit : Bool) (s : State) : Host.Outcome State Fault Refusal :=
  .next (
    let s := s.sweep
    let q := s.port port
    let d := if transmit then q.tx else q.rx
    if q.st = .up ∧ d.lanes.length < 7 then s.portDown port .down true else s)

-- Reception.

/-- The flit counter of a flit that comes in, from its low 16 bits and those received so far (R449). -/
def Port.countOf (q : Port) (pseq : BitVec 16) : Nat := q.rxCount.toNat + (pseq - q.rxCount.setWidth 16).toNat

/-- A failed tag counts at the lane that the flit was dealt to, counter values going to the logical lanes in turn (R446,
R449, log 98); with 16 in 2²⁰ slots of the lane it leaves its logical set (R458). -/
def State.laneFailed (s : State) (p : Fin 6) (f : Flit) : State :=
  let q := s.port p
  let n := q.rx.lanes.length
  if n = 0 ∨ q.st ≠ .up then s
  else
    let c := q.countOf f.pseq
    let lane := nth q.rx.lanes (c % n) 0
    let slot := c / n
    let near := fun x : Nat × Nat => decide (slot < x.2 + 2 ^ 20)
    let fails := (lane, slot) :: q.fails.filter near
    let s := s.setPort p { q with fails := fails }
    if 16 ≤ (fails.filter fun x => x.1 == lane).length then s.laneLost p lane else s

/-- A flit that fails its tag, or is of a reserved type, counts and is discarded; it is asked for again, and those after
it are discarded until it comes (R450, R452). A failed tag counts at its lane too (R458). -/
def State.tagFailure (s : State) (p : Fin 6) (f : Flit) (tagOk : Bool) : State :=
  let s := s.bump (9 + p.val) 0 1
  let s := if tagOk then s else s.laneFailed p f
  let q := s.port p
  let ask := fun s : State => (s.bump (9 + p.val) 2 1).handshake p (.replayReq f.pseq)
  match q.awaiting with
  | some k => if k = f.pseq then ask s else s
  | none => ask (s.setPort p { q with awaiting := some f.pseq })

/-- A data flit: of a request or a response (R452). The others are idle and sluice flits. -/
def isData (f : Flit) : Bool := decide (1 ≤ f.typ.toNat) && decide (f.typ.toNat ≤ 7)

/-- Reception of a flit: tag and acknowledgement, then a data flit's way; it leaves its receive queue, and its credit
returns, when it is served or goes out (R449, R450, R467 to R469). `serve` takes it at its destination. -/
def State.receive (s : State) (p : Fin 6) (f : Flit) (tagOk : Bool) (serve : State → Flit → State) : State :=
  let s := s.sweep
  let q := s.port p
  if !q.linked ∨ (isData f ∧ q.st ≠ .up) then s
  else if !tagOk ∨ 11 ≤ f.typ.toNat then s.tagFailure p f tagOk
  else if q.awaiting.isSome ∧ q.awaiting ≠ some f.pseq then s
  else
    let s := (s.setPort p { q with
      awaiting := none, rxCount := BitVec.ofNat 64 (q.countOf f.pseq + 1) }).linkAck p f.pseq
    if !isData f then s
    else
      let s := s.bump (9 + p.val) 4 1
      let came := some (p, queueOf f)
      match s.route f with
      | .here => serve (s.freeQueue came) f
      | .out o g => s.transmit o { g with vc := s.channel (some p) o g } came (some (p, f.vc))
      | .unreachable => (s.freeQueue came).nak f 1

/-- Whether the destination is frozen for a request (R494, R502). Until the cut commits it serves what work dispatched by T
sends (R490), which a node that said it was done, and may have resumed since, has none of (log 49). -/
def State.frozenFor (s : State) (f : Flit) : Bool :=
  match s.cstate with
  | .partFrozen => true
  | .run | .scheduled => false
  | .stopping | .localDone => s.cut.done.contains f.src && stampBefore (s.cut.stopT.setWidth 40) f.stamp
  | _ => stampBefore (s.cut.stopT.setWidth 40) f.stamp

/-- `n` bytes from a local address lie in this node's stacks. -/
def inStacks (h n : Nat) : Bool := decide (hallOff h + n ≤ stackBytes)

/-- READ_REQUEST: the bytes as they stand, in a read response (R470, R474). -/
def execReadRequest (port : Fin 6) (f : Flit) (tagOk : Bool) (s : State) : Host.Outcome State Fault Refusal :=
  .next (s.receive port f tagOk fun s f =>
    let n := 64 * f.len.toNat
    if s.frozenFor f then s.nak f 3
    else if !inStacks f.addr.toNat n then s.nak f 2
    else (s.launch {
      typ := 5, dst := f.src, src := s.hall.nid, sslot := f.sslot, stamp := s.stamp, addr := f.addr
      eseq := f.eseq, len := f.len
      payload := (List.range n).map fun k => Mem.get s.mem (hallLoc f.addr.toNat + k) }).1)

/-- What this node keeps of a source. -/
def Remote.appliedOf (r : Remote) (src : BitVec 12) : Applied :=
  (r.applied.find? fun a => a.src == src).getD ⟨src, 0, []⟩

/-- Numbers from the base on that are applied lower the window (R471). -/
def slideWindow : Nat → Nat → List Nat → Nat × List Nat
  | 0, base, win => (base, win)
  | k + 1, base, win => if base ∈ win then slideWindow k ((base + 1) % 2 ^ 32) (win.filter (· != base)) else (base, win)

/-- Whether a request was applied before (R471): below the base, modulo 2³², or in the window. -/
def Applied.seen (a : Applied) (e : Nat) : Bool :=
  decide (2 ^ 31 ≤ (e + 2 ^ 32 - a.base) % 2 ^ 32) || a.win.contains e

/-- The request is applied. -/
def Remote.apply (r : Remote) (src : BitVec 12) (e : Nat) : Remote :=
  let a := r.appliedOf src
  let (base, win) := slideWindow 1024 a.base (e :: a.win)
  { r with applied := ⟨src, base, win⟩ :: r.applied.filter fun x => x.src != src }

/-- The acknowledgement of R471. -/
def State.endAck (s : State) (f : Flit) : State :=
  (s.launch {
    typ := 6, dst := f.src, src := s.hall.nid, sslot := f.sslot, stamp := s.stamp, addr := f.addr
    eseq := f.eseq }).1

/-- A store or accumulate-write at its destination: turned away while frozen or beyond the stacks, applied at most
once, and acknowledged (R471, R474). -/
def State.applyOnce (s : State) (f : Flit) (fits : Bool) (effect : State → State) : State :=
  let a := s.rem.appliedOf f.src
  if a.seen f.eseq.toNat then s.endAck f
  else if s.frozenFor f then s.nak f 3
  else if !fits then s.nak f 2
  else
    let s := effect s
    ({ s with rem := s.rem.apply f.src f.eseq.toNat }).endAck f

/-- Bytes as one number. -/
def bytesNat (l : List Byte) : Nat := l.foldr (fun b a => b.toNat + 256 * a) 0

/-- Bytes of memory that a store reaches. -/
def storeSpan (f : Flit) : Nat :=
  match f.merge with
  | .plain | .block _ => f.bytes.length
  | .bits _ => 4
  | .stat | .rows _ => 8
  | .index | .carried _ => 16

/-- A store takes effect: its bytes are written; or the stack adapter puts the bits of one element into its word (R112,
R344), or the basin merges a record (R159, R171, R228, R231, R248, log 81). -/
def State.takeStore (s : State) (f : Flit) : State :=
  let a := f.addr.toNat
  let v := bytesNat f.bytes
  match f.merge with
  | .plain => f.bytes.zipIdx.foldl (fun s b => s.wrN (a + b.2) 1 b.1.toNat) s
  | .bits keep => s.wrN a 4 ((s.rdN a 4 &&& keep.toNat) ||| v)
  | .stat => s.wrN a 8 (Stat.merge (s.rdN a 8) ⟨fld v 0 32, fld v 32 32⟩).record
  | .index => s.wrN a 16 (MaxRec.merge (s.rdN a 16) ⟨fld v 0 32, fld v 32 32, fld v 64 32, fld v 96 32⟩).pack
  | .rows exps => s.wrN a 8 (mergeRow exps (RowStat.ofCode (s.rdN a 8)) (RowStat.ofCode v)).code
  | .carried p => (s.takePiece a p).1
  | .block l => s.takeBlock l.toNat v

/-- STORE (R470). -/
def execStore (port : Fin 6) (f : Flit) (tagOk : Bool) (s : State) : Host.Outcome State Fault Refusal :=
  .next (s.receive port f tagOk fun s f =>
    s.applyOnce f (inStacks f.addr.toNat (storeSpan f)) fun s => s.takeStore f)

/-- The payload of a flit as one number. -/
def flitBits (f : Flit) : Nat := bytesNat f.payload

/-- Place of target element `j` (R477). -/
def flitTarget (f : Flit) (j : Nat) : Place :=
  let w := if f.bfmt then 64 else 32
  ⟨((f.addr.toNat : Int) + (j : Int) * f.estr.toInt * (w / 8 : Nat)).toNat, 0, w, 0, 0⟩

/-- The target basin format. -/
def flitBasin (f : Flit) : EFmt := if f.bfmt then .w64 f.bexp.toInt else .op .fp32

/-- Every element a flit adds to lies in the stack it names. -/
def flitFits (f : Flit) (n : Nat) : Bool :=
  (List.range n).all fun j =>
    let d := (j : Int) * f.estr.toInt * (if f.bfmt then 8 else 4 : Nat)
    decide (0 ≤ (hallOff f.addr.toNat : Int) + d)
      && decide ((hallOff f.addr.toNat : Int) + d + (if f.bfmt then 8 else 4 : Nat) ≤ (stackBytes : Int))

/-- Add values into the elements a flit names, counted in the reduction bank (R210, R572). -/
def State.remoteAdd (s : State) (f : Flit) (vs : List Val) : State :=
  let (s, c) := vs.zipIdx.foldl (fun (a : State × Counts) v =>
    let (s, c) := a.1.addPlace (flitTarget f v.2) (flitBasin f) v.1
    (s, a.2.plus c)) (s, ({} : Counts))
  ((s.bump 8 0 c.sat).bump 8 1 c.uflow).bump 8 2 vs.length

/-- Elements of an accumulate-write of type 0x3, whose header gives no count but LEN (R451). -/
def plainVals (f : Flit) : List Val :=
  let w := if f.lw64 then 64 else 32
  (List.range (f.bytes.length / (w / 8))).map fun j =>
    let c := fld (flitBits f) (w * j) w
    if f.lw64 then (EFmt.w64 f.sexp.toInt).decode c else (EFmt.op .fp32).decode c

/-- Elements of a compressed accumulate-write, exactly: SCALE × (code − ZP), or SCALE × code (R477). -/
def packedVals (f : Flit) : List Val :=
  match Fmt.ofCode f.lfmt.toNat with
  | none => []
  | some g => (List.range f.cnt.toNat).map fun j =>
      let c := fld (flitBits f) (32 * (j / g.perWord) + g.bits * (j % g.perWord)) g.bits
      g.value c (readScale f.scale.toNat).1 f.zp.toNat

/-- ACCUMULATE_WRITE (R207, R210, R470). -/
def execAccumulateWrite (port : Fin 6) (f : Flit) (tagOk : Bool) (s : State) : Host.Outcome State Fault Refusal :=
  .next (s.receive port f tagOk fun s f =>
    s.applyOnce f (flitFits f (plainVals f).length) fun s => s.remoteAdd f (plainVals f))

/-- ACCUMULATE_WRITE_COMPRESSED (R210, R477). -/
def execAccumulateWriteCompressed (port : Fin 6) (f : Flit) (tagOk : Bool) (s : State) :
    Host.Outcome State Fault Refusal :=
  .next (s.receive port f tagOk fun s f =>
    s.applyOnce f (flitFits f (packedVals f).length) fun s => s.remoteAdd f (packedVals f))

-- Answers at the source.

/-- With the last read of a ready node its operands are here, those of a gang once a core holds them (R587). The stash
controller and the steward have no dependence word. -/
def State.showRead (s : State) (q : Req) : State :=
  if pastNode ≤ q.node ∨ 0x100000 ≤ q.node then s else
  let s := if s.rem.heldReq.any fun r => r.slot == q.slot && r.node == q.node then s else s.clearWait q.slot q.node 0x0A
  if q.node = stashNode ∨ (s.rem.reads.any fun r => r.slot == q.slot && r.node == q.node)
      ∨ (isProduct (twOpc (s.taskWord q.slot q.node))
        ∧ !s.hg.resident.any fun r => r.slot == q.slot && r.node == q.node && !r.waits) then s
  else s.clearWait q.slot q.node 0x02

/-- The bytes of an answered read are kept for the instruction it serves, in 64-byte units. -/
def State.keepRead (s : State) (q : Req) (bytes : List Byte) : State :=
  let n := 64 * q.f.len.toNat
  let a := q.f.addr.toNat
  let data := (List.range n).foldl (fun m k => Mem.set m (a + k) (nth bytes k 0)) s.rem.data
  { s with rem := { s.rem with
    reads := s.rem.reads.erase q, heldReq := s.rem.heldReq.filter (· != q), data := data
    got := s.rem.got ++ (List.range q.f.len.toNat).map fun k => (q.slot.val, q.node, a + 64 * k) } }.showRead q

/-- READ_RESPONSE (R470). -/
def execReadResponse (port : Fin 6) (f : Flit) (tagOk : Bool) (s : State) : Host.Outcome State Fault Refusal :=
  .next (s.receive port f tagOk fun s f =>
    match s.rem.reads.find? fun q => q.f.dst == f.src && q.f.addr == f.addr with
    | some q => s.keepRead q f.bytes
    | none => s)

/-- A request that needs no answer any more: a moved stash entry leaves its ring (R287), end markers, a STEP's step-ready
(R264) and a SNAP's Hold follow, and then requests held for the window go, with the wakes they may ask for (R447, R470). -/
def State.writeDone (s : State) (q : Req) : State :=
  let s := { s with rem := { s.rem with
    unacked := s.rem.unacked.erase q, heldReq := s.rem.heldReq.filter (· != q) } }
  let s := ((if q.node = stashNode then s.stashMoved q.slot else s).sendMarkers).stepPump.snapPump
  (s.resend fun r => r.f.dst == q.f.dst && !s.rem.unacked.contains r && !s.rem.reads.contains r).showWaits

/-- The unacknowledged request an answer names. -/
def State.requestOf (s : State) (f : Flit) : Option Req :=
  s.rem.unacked.find? fun q => q.f.dst == f.src && q.f.eseq == f.eseq

/-- The instruction that a request serves, in a record of the link ports (R370, R580); the stash controller and the
steward send some for none. -/
def State.whoAsked (s : State) (q : Req) : Who :=
  if pastNode ≤ q.node then { unit := 15, slot := q.slot.val, node := q.node - pastNode }
  else if 0x100000 ≤ q.node ∨ (s.slot q.slot).st = .free then { unit := 15, slot := q.slot.val, node := min q.node 0xFFFFF }
  else { whoOf q.slot q.node (s.taskWord q.slot q.node) 0 with unit := 15 }

/-- RANGE for a request beyond the destination's stacks (R474, R583). -/
def State.raiseNak (s : State) (p : Fin 6) (q : Req) : State :=
  (s.bump (9 + p.val) 1 1).raise .range (s.whoAsked q) 2 s.hall.nid.toNat q.f.addr.toNat

/-- The unacknowledged request a negative response names. One of `STATUS` 0x1 comes from the node that found no route
(R469), so its source says nothing; the address holds the destination (R466). -/
def State.refused (s : State) (f : Flit) : Option Req :=
  s.rem.unacked.find? fun q => q.f.eseq == f.eseq && q.f.addr == f.addr && (f.status == 1 || q.f.dst == f.src)

/-- FLIT_FORWARD: a flit in transit goes on, on a detour where it must, or back to its source (R467 to R469). -/
def execFlitForward (port : Fin 6) (f : Flit) (tagOk : Bool) (s : State) : Host.Outcome State Fault Refusal :=
  .next (s.receive port f tagOk fun s _ => s)

-- Link control.

/-- REPLAY_REQUEST: the flits from the named one on go out again, in order (R450); data flits wait while the port carries
none (R459, R461). -/
def execReplayRequest (port : Fin 6) (pseq : BitVec 16) (s : State) : Host.Outcome State Fault Refusal :=
  .next (s.sluiceIn port fun s => s.sendAgain port ((s.port port).replay.dropWhile fun k => k.pseq != pseq))

/-- A link acknowledgement names a flit under the key in use: until the first of those is acknowledged, one that can be of
them and does not repeat the last acknowledgement (R465, log 56). Flits under a new key count from 0; the first may be an
idle one. -/
def Port.acksNew (q : Port) (pseq : BitVec 16) : Bool :=
  !q.txOut || (decide (pseq.toNat < max 1 q.txCount.toNat) && q.lastAck != some pseq)

/-- What a link acknowledgement leaves in the replay buffer (R450). One for a flit under a new key covers all those under the
old one: flits are acknowledged in their order. -/
def Port.acked (q : Port) (pseq : BitVec 16) : Port :=
  let open' := fun f : Kept => decide (32768 ≤ (pseq - f.pseq).toNat)
  let old := q.replay.take q.txOld
  let new := q.replay.drop q.txOld
  let (old, new) := if q.acksNew pseq then ([], new.filter open') else (old.filter open', new)
  { q with
    replay := old ++ new, txOld := old.length, lastAck := some pseq
    owed := q.owed.filter fun k => (old ++ new).contains k }

/-- LINK_ACKNOWLEDGEMENT: the covered flits leave the replay buffer (R450); the first one under a new key brings the port
UP (R465). -/
def execLinkAcknowledgement (port : Fin 6) (pseq : BitVec 16) (s : State) : Host.Outcome State Fault Refusal :=
  .next (s.sluiceIn port fun s =>
    let q := s.port port
    let s := s.setPort port (q.acked pseq)
    (if q.acksNew pseq then s.txPassed port else s).release port)

/-- CREDIT_RETURN (R449): a queue has 64 places. -/
def execCreditReturn (port : Fin 6) (queue : Fin 4) (n : Nat) (s : State) : Host.Outcome State Fault Refusal :=
  .next (s.sluiceIn port fun s =>
    let q := s.port port
    (s.setPort port { q with credits := q.credits.set queue (min 64 (q.credits[queue] + n)) }).release port)

/-- TELEMETRY_FLIT: the acting manager of a part, frozen or not, records a report (R499, R581, R586). -/
def execTelemetryFlit (src : BitVec 12) (body : BitVec 106) (s : State) : Host.Outcome State Fault Refusal :=
  .next (if s.hall.actMgr = s.hall.nid ∧ s.tr.live.telem then
      s.trace [recHeader 0x07 0 s.stamp { unit := 14 } 0 + put 144 12 src.toNat + (body.toNat <<< 278)]
    else s)

/-- All lanes of a port run again (R462): spares come in for lanes lost meanwhile, receive lanes with bit errors on the way
leave their logical set (R563), and what waited goes where lanes enough are left (R459). Answers the lanes taken out, by
their transmitters' numbers. -/
def State.lanesUp (s : State) (p : Fin 6) (bad : List Nat) : State × List Nat :=
  let q := s.port p
  let (rx, used) := q.rx.refill
  let out := bad.filter fun l => rx.lanes.contains l || rx.spare == some l
  let (rx, n) := out.foldl (fun (a : Dir × Nat) l => ((a.1.remove l).1, a.2 + b2n (a.1.remove l).2)) (rx, b2n used)
  let s := s.setPort p { q with
    rx := rx, tx := q.tx.refill.1, st := .up, farDeep := false, fails := q.fails.filter fun x => !out.contains x.1 }
  let s := if n = 0 then s else s.svcAdd (198 + p.val) n
  (s.restall p, out.map fun l => ((q.laneOf.find? fun m => m.2 == l).map (·.1)).getD l)

/-- A port that changed between all its lanes and one says so, with the lanes taken out (R458, R469). -/
def State.tellLanes (s : State) (p : Fin 6) (out : List Nat) : State :=
  out.foldl (fun s l => s.sluiceOn p (.laneRemoved l)) (s.announce p)

/-- Whether a port of this node is at the other end of a cable. -/
def State.cableTo (s : State) (p : Fin 6) (node : BitVec 12) (port : Nat) : Bool :=
  s.hall.neighbour s.hall.nid.toNat p.val == node.toNat && farPort p.val == port

/-- A port whose far end changed its state follows it: to one lane kept alive, or to all lanes again, which in DEEP waits
for the wake (R461, R462). What its lanes now carry goes first, with its credits. -/
def State.followFar (s : State) (p : Fin 6) (st : PortSt) : State :=
  let q := s.port p
  if st = .keepalive ∧ q.st = .up then s.setPort p (q.keepAlive true)
  else if st = .up ∧ q.st = .keepalive then
    if s.asleep then s else (s.lanesUp p []).1
  else s

/-- A port that keeps one lane alive asks for a wake where data flits wait at it (R462). -/
def State.wakeIfWaits (s : State) (p : Fin 6) : State :=
  let q := s.port p
  if q.st = .keepalive ∧ (q.hold ≠ [] ∨ q.owed ≠ []) then s.sluiceOn p .wake else s

/-- A port state is told: the port at the other end of the cable follows, with the credits that frees; the notices go out,
this one and that port's own, with the end markers that found no route; and then the wake that waiting flits ask for (R447,
R461, R462, R469, R478). -/
def State.portTold (s : State) (node : BitVec 12) (port : Nat) (st : PortSt) (new : Bool) : State :=
  let moved := allPorts.filter fun p => s.cableTo p node port
    && ((st == .keepalive && (s.port p).st == .up) || (st == .up && (s.port p).st == .keepalive))
  let s := moved.foldl (fun s p => s.followFar p st) s
  let s := if new then s.sluiceAll (.portNotice node port st) else s
  let s := (moved.foldl (fun s p => s.announce p) s).sendMarkers
  moved.foldl (fun s p => s.wakeIfWaits p) s

/-- PORT_STATE_NOTICE: routes follow, the notice of a change floods on (R469), unreachable requests are sent again (R469),
and after a port went DOWN all that are not acknowledged (R472). A node that hears an old state of its own port tells the
true one. Telemetry goes last (R447). -/
def execPortStateNotice (node : BitVec 12) (port : Fin 6) (state : BitVec 3) (s : State) :
    Host.Outcome State Fault Refusal :=
  .next (
    let s := s.sweep
    let st := PortSt.ofCode state.toNat
    let known := s.hall.stOf node port.val
    let own := node == s.hall.nid
    let s := if own then (if st = (s.port port).st then s else s.announce port)
      else (if known = st then s else { s with hall := s.hall.told node port.val st }).portTold node port.val st
        (known != st)
    let s := if !own ∧ known.usable ∧ !st.usable then s.retransmit else s
    let s := (s.resend fun q =>
      (s.rem.unacked.contains q || s.rem.reads.contains q) && !s.rem.frozen.contains q.f.dst).showWaits
    allPorts.foldl (fun s p => s.drainTelem p) s)

end Sys2Proof.Machine
end

