-- ==== Sys2Proof/Machine/StartUp.lean ====
section
/-! DEFINITION. Resets and start-up (R543 to R547), self-test and repair (R548 to R554), grades (R9 to R14) and scan
access (R555). -/
namespace Sys2Proof.Machine

/-- Grade and usable arrays that a set of good arrays gives: the lower grade, surplus disabled from the highest number
on (R12, R13). -/
def gradeOf (ok : List Nat) : Nat × List Nat :=
  if ok.length = 32 then (3, ok)
  else if 30 ≤ ok.length then (2, ok.take 30)
  else if 28 ≤ ok.length then (1, ok.take 28)
  else (0, ok)

/-- A set of arrays as bits. -/
def arrayBits (l : List Nat) : BitVec 32 := l.foldl (fun a n => a ||| BitVec.ofNat 32 (2 ^ n)) 0

/-- `FGE_CAPS` follows the arrays that are good (R14). -/
def State.regrade (s : State) (ok : List Nat) : State :=
  let (g, l) := gradeOf ok
  { s with grade := BitVec.ofNat 4 g, present := arrayBits l }

/-- Arrays that are built and not fused off, in rising order. -/
def State.unfused (s : State) : List Nat := (List.range 32).filter fun n => !(s.diagOf n).fuseOff

/-- From INIT on a hall of one node is whole by itself (R485, R499), and the enabled ports train (R547). -/
def State.enterInit (s : State) : State :=
  let s := { s with phase := .init }
  let s := if s.hall.single then s.soleHall else s
  allPorts.foldl (fun s p => if (s.port p).st = .down then s.startTraining p else s) s

/-- COLD_RESET: every register takes its reset value, the fuses are read, and start-up begins (R544, R16). What fuses
hold and the stacks are kept. Until the first self-test `FGE_CAPS` grades the arrays that are not fused off, where R14 has
it read from fuses of its own (log 85). -/
def execColdReset (s : State) : Host.Outcome State Fault Refusal :=
  .next (
    let fuses := fun d : Diag => ({ frow := d.frow, fcol := d.fcol, fuseOff := d.fuseOff } : Diag)
    let z : State := {}
    let t : State := { z with
      pending := s.pending, mem := s.mem, phase := .fuse, out := s.out, free := s.free
      scanAsked := s.phase == .power && s.scanAsked -- a request that came in cold reset waits for FUSE to end (R555)
      st := { z.st with diag := s.st.diag.map fuses } }
    t.regrade t.unfused)

/-- Active-clk counts reach the always-on rail (R557). -/
def State.crossActive (s : State) : State :=
  let l := s.svc.active
  let s := { s with svc := { s.svc with active := List.replicate 32 0 } }
  l.zipIdx.foldl (fun s a => s.svcAdd a.2 a.1) s

/-- ACTIVE_CLK_CROSSING. -/
def execActiveClkCrossing (s : State) : Host.Outcome State Fault Refusal := .next s.crossActive

/-- A port after warm reset: DOWN or UNUSED, with no key. -/
def State.deadPort (s : State) (p : Fin 6) : Port :=
  { trained := (s.port p).trained, st := if s.portUnused p then .unused else .down }

/-- The registers of R589 under warm reset: what is kept, the rest at its reset value. -/
def State.warmed (s : State) : State :=
  let z : State := {}
  { z with
    pending := s.pending, mem := s.mem, out := s.out, free := s.free
    loadOpen := s.loadOpen, warm := true, present := s.present, grade := s.grade
    arrs := s.arrs.map fun a => ({ dot := a.dot, unuse := a.unuse } : Arr)
    tm := { z.tm with tick := s.tm.tick }
    hall := { z.hall with
      mgr := s.hall.mgr, backup := s.hall.backup, nid := s.hall.nid, xdim := s.hall.xdim, ydim := s.hall.ydim
      zdim := s.hall.zdim, topoErr := s.hall.topoErr }
    pwr := { z.pwr with target := s.pwr.target, autoIdle := s.pwr.autoIdle }
    gov := { z.gov with
      tlim := s.gov.tlim, tcrit := s.gov.tcrit, stage := s.gov.stage, tmax := s.gov.tmax, plim := s.gov.plim }
    st := { z.st with
      warmSt := s.st.warmSt, mode := s.st.mode, pass := s.st.pass, tested := s.st.tested, asel := s.st.asel
      diag := s.st.diag }
    pen := s.pen
    ports := #v[s.deadPort 0, s.deadPort 1, s.deadPort 2, s.deadPort 3, s.deadPort 4, s.deadPort 5]
    snap := { z.snap with
      sbase := s.snap.sbase, pbase := s.snap.pbase, imgpg := s.snap.imgpg, pgcnt := s.snap.pgcnt
      drain := s.snap.drain, minit := s.snap.minit, costs := s.snap.costs, intervals := s.snap.intervals
      lastLoss := s.snap.lastLoss }
    svc := { s.svc with sel := 0 } }

/-- Every slot ends without completion records; a graph that loads is refused (R545, R425). -/
def State.endAll (s : State) : State :=
  let s := match s.hg.loading with
    | some l => s.abandon l.slot
    | none => s
  allSlots.foldl (fun s i => if (s.slot i).st = .free then s else s.endSlot i) s

/-- WARM_RESET (R545, R557). -/
def execWarmReset (s : State) : Host.Outcome State Fault Refusal :=
  .next (if s.phase = .power ∨ s.phase = .fuse ∨ s.phase = .scan then s
    else s.endAll.crossActive.warmed.enterInit)

/-- Every secret is erased: keys in use and staged, salts, the snapshot key (R555). -/
def State.eraseKeys (s : State) : State :=
  allPorts.foldl (fun s p => s.setPort p { s.port p with
    keyTx := none, keyRx := none, stTx := none, stRx := none }) { s with key := { s.key with
      words := [], salt := 0, snapKey := none } }

/-- Scan access is granted: secrets erased, then every port DOWN with LINKDOWN (R555). No port is left by which the
hall could be told. -/
def State.grantScan (s : State) : State :=
  let gone := allPorts.filter fun p => !((s.port p).st == .down || (s.port p).st == .unused)
  let s := gone.foldl (fun s p => s.setPort p { (s.port p).rest .down with hold := [] }) s.eraseKeys
  let s := gone.foldl (fun s p => (s.raise .linkdown { unit := 15 } p.val PortSt.down.code 0).noteOwnPort p) s
  { s.chooseParent with phase := .scan, scanAsked := false, pwr := { s.pwr with startAfter := false } }

/-- SCAN_REQUEST: in cold reset it waits for the end of FUSE (R555). -/
def execScanRequest (s : State) : Host.Outcome State Fault Refusal :=
  .next (if s.phase = .power ∨ s.phase = .fuse then { s with scanAsked := true } else s.grantScan)

/-- A self-test run begins (R548). -/
def State.beginRun (s : State) : State :=
  { s with
    phase := .selftest
    st := { s.st with busy := true, batch := 0, retest := [], failed := [], toFuse := [] } }

/-- STARTUP_PHASE_END: FUSE or INIT ends (R544, R545). -/
def execStartupPhaseEnd (s : State) : Host.Outcome State Fault Refusal :=
  .next (match s.phase with
    | .fuse => if s.scanAsked then s.grantScan else s.enterInit
    | .init => if s.warm && !s.st.warmSt then { s with phase := .ready } else s.beginRun
    | _ => s)

-- Self-test.

/-- Rows and columns that together hold every failing plot, where a fused repair leaves its spare taken (R551). -/
def covers2 (plots : List (Nat × Nat)) (frow fcol : Option Nat) : List (Option Nat × Option Nat) :=
  let rows : List (Option Nat) := none :: (if frow.isSome then [] else plots.map fun p => some p.1)
  let cols : List (Option Nat) := none :: (if fcol.isSome then [] else plots.map fun p => some p.2)
  (rows.flatMap fun r => cols.map fun c => (r, c)).filter fun x =>
    plots.all fun p => x.1 == some p.1 || x.2 == some p.2

/-- The repair mode in force: the reserved one is DISABLE (R550). -/
def SelfTest.rule (t : SelfTest) : Nat := if t.mode = 3 then 0 else t.mode.toNat

/-- Record the outcome of one array's test and act under the repair mode (R550, R551, R554). Which of several
covering repairs is mapped in is free (log 12). -/
def State.testArray (s : State) (n : Nat) (plots : List (Nat × Nat)) (shared : Bool) : State :=
  let d := s.diagOf n
  let bad := (plots.filter fun p => d.frow != some p.1 && d.fcol != some p.2).eraseDups
  let cs := if shared then [] else covers2 bad d.frow d.fcol
  let d := { d with srow := none, scol := none, unrep := cs.isEmpty, nfail := min 255 bad.length, retFail := false }
  if bad = [] ∧ !shared then s.setDiag n d
  else if s.st.rule = 0 ∨ cs = [] then
    { s.setDiag n d with st := { (s.setDiag n d).st with
      failed := s.st.failed ++ [n]
      toFuse := if s.st.rule = 2 ∧ cs = [] then s.st.toFuse ++ [n] else s.st.toFuse } }
  else
    let (x, s) := s.draw
    let c := nth cs (x.toNat % cs.length) (none, none)
    let s := s.setDiag n { d with srow := c.1, scol := c.2 }
    { s with st := { s.st with retest := s.st.retest ++ [n] } }

/-- The outcome of a retest (R552). -/
def State.retestArray (s : State) (n : Nat) (ok : Bool) : State :=
  let s := if ok then s else s.setDiag n { s.diagOf n with retFail := true }
  { s with st := { s.st with
    failed := if ok then s.st.failed else s.st.failed ++ [n]
    toFuse := if s.st.rule = 2 then s.st.toFuse ++ [n] else s.st.toFuse } }

/-- What a batch found on one array. -/
def findingOf (l : List ArrayFinding) (n : Nat) : List (Nat × Nat) × Bool :=
  match l.find? fun x => x.array == n with
  | some x => (x.plots, x.shared)
  | none => ([], false)

/-- SELFTEST_BATCH_END: a batch of one core's arrays, or after all eight a retest of up to four arrays (R548 to
R552). -/
def execSelftestBatchEnd (found : List ArrayFinding) (s : State) : Host.Outcome State Fault Refusal :=
  .next (if s.phase ≠ .selftest ∨ s.pwr.startAfter then s
    else
      let b := s.st.batch
      if b < 8 then
        let s := (s.unfused.filter fun n => n / 4 == b).foldl (fun s n =>
          let (p, sh) := findingOf found n
          s.testArray n p sh) s
        { s with st := { s.st with batch := b + 1 } }
      else
        let now := s.st.retest.take 4
        let s := { s with st := { s.st with retest := s.st.retest.drop 4, batch := b + 1 } }
        now.foldl (fun s n => s.retestArray n (findingOf found n == ([], false))) s)

/-- Fuse programming of one array: its repair, or the array off (R552). -/
def State.blow (s : State) (n : Nat) : State :=
  let d := s.diagOf n
  let s := { s with out := { s.out with fused := s.out.fused ++ [n] } }
  if n ∈ s.st.failed then s.setDiag n { d with fuseOff := true }
  else s.setDiag n { d with
    frow := d.frow.or d.srow, fcol := d.fcol.or d.scol, srow := none, scol := none }

/-- The service record of a run: one outcome per array, and the spare elements mapped in (R553). -/
def State.recordRun (s : State) (tested : List Nat) : State :=
  tested.foldl (fun s n =>
    let d := s.diagOf n
    let s := s.svcAdd ((if n ∈ s.st.failed then 64 else 32) + n) 1
    s.svcAdd (96 + n) (b2n d.srow.isSome + b2n d.scol.isSome)) s

/-- SELFTEST_RUN_END (R552, R553), once every batch and retest is done. -/
def execSelftestRunEnd (s : State) : Host.Outcome State Fault Refusal :=
  .next (if s.phase ≠ .selftest ∨ s.st.batch < 8 ∨ s.st.retest ≠ [] then s
    else
      let tested := s.unfused
      let ok := tested.filter fun n => !s.st.failed.contains n
      let s := s.recordRun tested
      let s := s.st.toFuse.foldl (fun s n => s.blow n) s
      let s := ok.foldl (fun s n => s.setArr n { s.arr n with dot := false, unuse := false }) (s.regrade ok)
      let s := { s with
        phase := .ready
        st := { s.st with busy := false, pass := arrayBits ok, tested := arrayBits tested } }
      s.raise .selftest { unit := 8 } ok.length tested.length 0)

/-- A START write: an in-service run begins, with a wake before its first batch where the engine sleeps, or STERR is set
(R554). `PHASE` reads SELFTEST from here on. -/
def State.startTest (s : State) : State :=
  let free := allSlots.all fun i => (s.slot i).st == .free
  if s.phase ≠ .ready ∨ !free ∨ s.rebuilding ∨ s.pwr.st = .waking ∨ s.pwr.st = .entering then
    { s with st := { s.st with stErr := true } }
  else if s.pwr.st = .nap ∨ s.pwr.st = .deep then
    { s with pwr := { s.pwr with
      wakeFrom := s.pwr.st, st := .waking, target := 0, pending := false, startAfter := true } }.beginRun
  else s.beginRun

/-- START. -/
def execStart (s : State) : Host.Outcome State Fault Refusal := .next (s.startTest.answer 0)

end Sys2Proof.Machine
end

