-- ==== Sys2Proof/Machine/PowerUnit.lean ====
section
/-! DEFINITION. Power states (R558 to R563) and the governor (R564 to R569). -/
namespace Sys2Proof.Machine

/-- No instruction is in flight on any core. -/
def State.coresFree (s : State) : Bool := s.hg.flight.all fun f => !f.onCore || f.parked

/-- AUTOIDLE: the engine enters IDLE by itself (R559). -/
def execAutoidle (s : State) : Host.Outcome State Fault Refusal :=
  .next (if s.pwr.st = .run ∧ s.pwr.autoIdle ∧ s.coresFree then { s with pwr := { s.pwr with st := .idle } } else s)

/-- A wake to RUN begins, after which TARGET reads RUN (R560, R561). -/
def State.wake (s : State) : State :=
  { s with pwr := { s.pwr with st := .waking, wakeFrom := s.pwr.st, target := 0, pending := false } }

/-- A write of TARGET (R560, R561); 3 is reserved and ignored. -/
def State.setTarget (s : State) (t : Nat) : State :=
  match t with
  | 0 =>
    let s := { s with pwr := { s.pwr with target := 0, pending := false } }
    if s.pwr.st = .nap ∨ s.pwr.st = .deep then s.wake else s
  | 1 => { s with pwr := { s.pwr with target := 1, pending := s.pwr.st != .nap } }
  | 2 => { s with pwr := { s.pwr with target := 2, pending := s.pwr.st != .deep } }
  | _ => s

/-- TARGET_RUN. -/
def execTargetRun (s : State) : Host.Outcome State Fault Refusal := .next ((s.setTarget 0).answer 0)
/-- TARGET_NAP. -/
def execTargetNap (s : State) : Host.Outcome State Fault Refusal := .next ((s.setTarget 1).answer 0)
/-- TARGET_DEEP. -/
def execTargetDeep (s : State) : Host.Outcome State Fault Refusal := .next ((s.setTarget 2).answer 0)

/-- NAP_ENTER: no instruction is in flight on a core (R557, R560). -/
def execNapEnter (s : State) : Host.Outcome State Fault Refusal :=
  .next (if s.pwr.pending ∧ s.pwr.target = 1 ∧ (s.pwr.st = .run ∨ s.pwr.st = .idle) ∧ s.coresFree then
      let s := s.crossActive
      { s with pwr := { s.pwr with st := .nap, pending := false } }
    else s)

/-- What DEEP waits for (R561). -/
def State.deepReady (s : State) : Bool :=
  (s.hg.flight.all fun f => f.parked) && (allSlots.all fun i => (s.slot i).st == .free || (s.slot i).st == .saved)
    && s.cstate == .run && !s.rebuilding && (s.snap.buf.all fun b => b == .empty || b == .held)
    && allSlots.all fun i => (s.slot i).stash.still

/-- The ports that are UP keep one lane alive (R461). What the far ends did before is known again only at the wake. -/
def State.allKeepAlive (s : State) : State :=
  allPorts.foldl (fun s p =>
    let q := s.port p
    if q.st = .up then (s.setPort p (q.keepAlive false)).announce p
    else if q.st = .keepalive then s.setPort p { q with farDeep := false } else s) s

/-- Ports come back with all lanes, but for the `dark` ones, whose far ends are in DEEP (R462, log 129); receive lanes with
a bit error in the shortened step 4 leave their logical sets (R563). Credits go first, then notices, then the wakes that
flits at dark ports ask for, and telemetry (R447). -/
def State.allBackUp (s : State) (errors : List (Fin 6 × Nat)) (dark : List (Fin 6)) : State :=
  let back := allPorts.filter fun p => (s.port p).st == .keepalive && !dark.contains p
  let (s, outs) := back.foldl (fun (a : State × List (Fin 6 × List Nat)) p =>
    let (s, out) := a.1.lanesUp p ((errors.filter fun e => e.1 == p).map (·.2))
    (s, a.2 ++ [(p, out)])) (s, [])
  let s := outs.foldl (fun s x => s.tellLanes x.1 x.2) s
  let s := dark.foldl (fun s p =>
    if (s.port p).st = .keepalive then (s.setPort p { s.port p with farDeep := true }).wakeIfWaits p else s) s
  allPorts.foldl (fun s p => s.drainTelem p) s

/-- DEEP_ENTER: operand stores and counters are lost (R557, R558, R561, R570). -/
def execDeepEnter (s : State) : Host.Outcome State Fault Refusal :=
  .next (if s.pwr.pending ∧ s.pwr.target = 2 ∧ (s.pwr.st = .run ∨ s.pwr.st = .idle ∨ s.pwr.st = .nap)
      ∧ s.deepReady then
      let s := s.sweep.crossActive
      let s := { s with
        pwr := { s.pwr with st := .deep, pending := false }
        hg := { s.hg with resident := [] }
        obs := { s.obs with banks := s.obs.banks.map fun (b : Bank) => { b with vals := List.replicate 32 0 } } }
      s.allKeepAlive
    else s)

/-- Arrays as R63 states them; what the always-on rail marks stays. -/
def State.arraysFresh (s : State) : State :=
  { s with arrs := s.arrs.map fun a => ({ dot := a.dot, unuse := a.unuse } : Arr) }

/-- The end of a wake: RUN, and a self-test that waited for it tests (R554). -/
def State.awake (s : State) : State :=
  { s.arraysFresh with pwr := { s.pwr with st := .run, startAfter := false } }

/-- NAP_WAKE_DONE (R562). -/
def execNapWakeDone (s : State) : Host.Outcome State Fault Refusal :=
  .next (if s.pwr.st = .waking ∧ s.pwr.wakeFrom = .nap then s.awake else s)

/-- WAKE_REQUEST: a data flit waits for this node (R462, R561). -/
def execWakeRequest (port : Fin 6) (s : State) : Host.Outcome State Fault Refusal :=
  .next (s.sluiceIn port fun s => if s.pwr.st = .deep ∧ (s.port port).st.usable then s.wake else s)

-- The governor. Rails come in the order VARR, VLOG, VLNK, then others.

/-- Samples that the last 1 ms holds: one every 64 tk. -/
def samplesPerMs : Nat := 62500

/-- Mean power of the last 1 ms of rail `k`, in mW, and of the whole engine. -/
def Governor.railMean (g : Governor) (k : Nat) : Nat :=
  if g.hist = [] then 0 else sumN (g.hist.map fun x => nth x k 0) / g.hist.length
def Governor.total (g : Governor) : Nat := sumN (g.hist.map sumN)
def Governor.mean (g : Governor) : Nat := if g.hist = [] then 0 else g.total / g.hist.length

/-- CURRENT_SAMPLE: currents and the reported voltages give the power of each rail (R564). -/
def execCurrentSample (ma : List Nat) (mv : List Nat) (s : State) : Host.Outcome State Fault Refusal :=
  .next (
    let mw := (ma.zip mv).map fun x => x.1 * x.2 / 1000
    let g := { s.gov with hist := (mw :: s.gov.hist).take samplesPerMs }
    { s with gov := { g with power := BitVec.ofNat 16 (min 0xFFFF (g.mean / 1000)) } })

/-- Sensor of the hottest reading, the lowest of equals, and the reading. -/
def hottest (l : List (BitVec 16)) : Nat × Int :=
  l.zipIdx.foldl (fun a x => if a.2 < x.1.toInt then (x.2, x.1.toInt) else a) (0, (l.headD 0).toInt)

/-- A peak temperature rises to a reading (R15). -/
def State.svcPeak (s : State) (k : Nat) (t : Int) : State :=
  let i := 128 + k
  { s with svc := { s.svc with count := s.svc.count.set i (max (s.svc.count.getD i 0) t) } }

/-- Highest throttle level (R567): larger values count as 12. -/
def Governor.top (g : Governor) : Nat := min 12 g.tmax.toNat

/-- Mean power above the limit, or below 0.95 of it (R568). -/
def Governor.overPower (g : Governor) : Bool := decide (g.plim.toNat * 1000 * g.hist.length < g.total)
def Governor.lowPower (g : Governor) : Bool :=
  g.hist.isEmpty && g.plim != 0 || decide (100 * g.total < 95 * (g.plim.toNat * 1000 * g.hist.length))

/-- Every sensor reads at least 3 °C below the throttle temperature. -/
def Governor.cool (g : Governor) : Bool := g.temps.all fun t => decide (t.toInt + 24 ≤ (8 * g.tlim.toNat : Nat))

/-- Some sensor reads above a temperature in °C. -/
def Governor.above (g : Governor) (c : BitVec 8) : Bool := g.temps.any fun t => decide ((8 * c.toNat : Nat) < t.toInt)

/-- Level and calm periods after a period of 100 µs (R568). -/
def Governor.next (g : Governor) : Nat × Nat :=
  let l := min g.level.toNat g.top
  if g.above g.tcrit then (g.top, 0)
  else if g.above g.tlim || g.overPower then (min g.top (l + 1), 0)
  else if g.cool && g.lowPower then (if g.calm + 1 < 10 then (l, g.calm + 1) else (l - 1, 0))
  else (l, 0)

/-- The level and the calm periods change; THROTTLE is raised where the level rises from 0 (R568). -/
def State.setLevel (s : State) (l calm : Nat) : State :=
  let g := s.gov
  let (k, t) := hottest g.temps
  let s := { s with gov := { g with level := BitVec.ofNat 4 l, calm := calm } }
  if g.level = 0 ∧ 0 < l then s.raise .throttle { unit := 14 } k (unsgn 32 t) 0 else s

/-- SENSOR_READ: the sixteen readings, in 0.125 °C (R564). One above the critical temperature sets the level to the highest
at once and raises THERMAL (R568). -/
def execSensorRead (temps : List (BitVec 16)) (s : State) : Host.Outcome State Fault Refusal :=
  .next (
    let l := (List.range 16).map fun k => nth temps k 0
    let (k, t) := hottest l
    let s := l.zipIdx.foldl (fun s x => s.svcPeak x.2 x.1.toInt) s
    let s := { s with gov := { s.gov with
      temps := l, hsens := BitVec.ofNat 4 k, temp := BitVec.ofInt 16 t
      hot := decide ((8 * s.gov.tlim.toNat : Nat) < t), crit := decide ((8 * s.gov.tcrit.toNat : Nat) < t) } }
    if s.gov.above s.gov.tcrit then (s.setLevel s.gov.top 0).raise .thermal { unit := 14 } k (unsgn 32 t) 0 else s)

/-- THROTTLE_LEVEL_UPDATE, at the end of a period (R568). -/
def execThrottleLevelUpdate (s : State) : Host.Outcome State Fault Refusal :=
  .next (s.setLevel s.gov.next.1 s.gov.next.2)

/-- FORECAST: one record for each rail; what the engine foresees is free (R566). The last five are kept, those whose
windows are still to come. -/
def execForecast (s : State) : Host.Outcome State Fault Refusal :=
  .next (
    let (a, s) := s.draw
    let (b, s) := s.draw
    let (c, s) := s.draw
    { s with gov := { s.gov with forecasts := ([a, b, c] :: s.gov.forecasts).take 5 } })

/-- The body of a governor report (R586), from bit 278 of the flit on. -/
def Governor.report (g : Governor) : BitVec 106 :=
  let (k, t) := hottest g.temps
  let w := fun k => min 0xFFFF (g.railMean k / 1000)
  BitVec.ofNat 106 (1 + put 4 4 g.level.toNat + put 8 16 (w 0) + put 24 16 (w 1) + put 40 16 (w 2)
    + put 56 16 (unsgn 16 t) + put 72 4 k)

/-- GOVERNOR_TELEMETRY: a report goes to the acting manager, where that is another node (R569). -/
def execGovernorTelemetry (s : State) : Host.Outcome State Fault Refusal :=
  let s := s.sweep
  .next (match s.route { dst := s.hall.actMgr } with
    | .out p _ => s.telemetryOn p s.gov.report
    | _ => s)

end Sys2Proof.Machine
end

