-- ==== Sys2Proof/Machine/UpdateUnit.lean ====
section
/-! DEFINITION. The update unit: UPDATE (R309 to R317) with the body of R402 and R403. -/
namespace Sys2Proof.Machine

-- Body fields of R402.
def uGrad (w : Nat) : Nat := fld w 160 16
def uPar (w : Nat) : Nat := fld w 176 16
def uM (w : Nat) : Nat := fld w 192 16
def uV (w : Nat) : Nat := fld w 208 16
def uRule (w : Nat) : Nat := fld w 224 2
def uClr (w : Nat) : Bool := bit w 226

/-- A value read from memory: an infinity is the largest finite FP32 magnitude and counts saturating; other
values stay exact (R294, R313). -/
def exInput (v : Val) : Val × Counts :=
  match v with
  | .inf _ => (v.extreme.val, ({} : Counts).add1 .sat)
  | v => (v, {})

/-- FP32 code of a value's sign and NaN, for the sign of a NaN result. -/
def exCode (v : Val) : Nat := (toFp32 v).1

/-- Product of an FP32 value and an exact one, rounded once. -/
def mulEx (a : Fp) (v : Val) : Fp :=
  if a.val.isNan || v.isNan then ⟨fpNan a.c (exCode v), a.k⟩ else fpRound a.k (a.val.dy.mul v.dy).val

/-- Difference of an exact value and an FP32 one, rounded once. -/
def subEx (v : Val) (b : Fp) : Fp :=
  if b.val.isNan || v.isNan then ⟨fpNan (exCode v) b.c, b.k⟩ else fpRound b.k (addVal v b.neg.val)

/-- The parameters of R312 and the two terms formed once per instruction (R313). -/
structure UpdPar where
  lr : Fp
  wd : Fp
  b1 : Fp
  b2 : Fp
  eps : Fp
  c1 : Fp
  c2 : Fp
  gs : Fp
  nb1 : Fp
  nb2 : Fp
  deriving DecidableEq, Repr

/-- Read the parameter record; the counts are those of its infinite fields and of the terms. -/
def updPar (r rule : Nat) : UpdPar × Counts :=
  let one : Fp := ⟨0x3F800000, {}⟩
  let f := fun j => fpInput (ofFp32 (fld r (32 * j) 32))
  let b1 := f 2
  let b2 := f 3
  let n1 := one.sub b1.pure
  let n2 := one.sub b2.pure
  let k := [f 0, f 1, b1, b2, f 4, f 5, f 6, f 7].foldl (fun a x => a.plus x.k) ({} : Counts)
  let k := if rule = 2 then (k.plus n1.k).plus n2.k else k
  (⟨(f 0).pure, (f 1).pure, b1.pure, b2.pure, (f 4).pure, (f 5).pure, (f 6).pure, (f 7).pure, n1.pure,
    n2.pure⟩, k)

/-- New weight, m and v of one element, with counts (R313). -/
structure UpdOut where
  w : Fp
  m : Fp := ⟨0, {}⟩
  v : Fp := ⟨0, {}⟩
  k : Counts := {}
  deriving DecidableEq, Repr

/-- The update of R313. -/
def updElem (p : UpdPar) (rule : Nat) (d w m v : Val) : UpdOut :=
  let g := mulEx p.gs d
  let kg := g.k
  let g := g.pure
  let decay := mulEx p.wd w
  if rule = 0 then
    let o := subEx w (p.lr.mul (g.add decay))
    { w := o.pure, k := kg.plus o.k }
  else if rule = 1 then
    let m' := (mulEx p.b1 m).add g
    let o := subEx w (p.lr.mul (m'.pure.add decay))
    { w := o.pure, m := m'.pure, k := (kg.plus m'.k).plus o.k }
  else
    let m' := (mulEx p.b1 m).add (p.nb1.mul g)
    let v' := (mulEx p.b2 v).add (p.nb2.mul (g.mul g))
    let den := ((v'.pure.mul p.c2).sqrt).add p.eps
    let o := subEx w (p.lr.mul (((m'.pure.mul p.c1).div den).add decay))
    { w := o.pure, m := m'.pure, v := v'.pure, k := ((kg.plus m'.k).plus v'.k).plus o.k }

/-- The state tensors a rule uses (R313, R314): descriptor indices of m and v. -/
def updStates (w : Nat) : List Nat :=
  if uRule w = 1 then [uM w] else if uRule w = 2 then [uM w, uV w] else []

/-- Whether the named version is held in the newer buffer (R309). -/
def State.updBuf (s : State) (w : Nat) : Option Bool :=
  let r := s.verRec (twVrec w)
  (s.verBuf w).bind fun b => if verNewB r == b then some b else none

/-- Master copies of UPDATE: read, and written (R306); none without `VEN` (R403). -/
def State.updMasters (s : State) (w : Nat) : Option (Nat × Nat) :=
  if twVen w then (s.verBuf w).map fun b =>
    let r := s.verRec (twVrec w)
    (verMaster r b, verMaster r !b)
  else none

/-- The checks of UPDATE (R307, R314, R342, R403). What is read alone may be a view, the old master and, without GCLR, the
gradient (R358); R345 does not list UPDATE among the readers of views (DESIGN CHOICE, log 118). What is written plainly is
none (R342). -/
def State.updateCheck (s : State) (i : Fin 16) (w : Nat) : Option Fail :=
  let ms := s.updMasters w
  let st := updStates w
  let used := st.filter (· != 0xFFFF)
  firstFail ([s.need i (uGrad w), s.need i (uPar w)] ++ used.map (s.need i) ++
    [ms.bind fun m => s.need i m.1, ms.bind fun m => s.need i m.2,
     failWhen (!twVen w || uRule w == 3 || st.any (· == 0xFFFF)) failF,
     match s.tensor i (uGrad w), s.tensor i (uPar w) with
     | some g, some p =>
       let old := ms.bind fun m => s.tensor i m.1
       let wr := ms.bind fun m => s.tensor i m.2
       let mts := [(old, false), (wr, true)].filterMap fun x => x.1.map fun t => (t, x.2)
       let sts := used.filterMap (s.tensor i)
       let named := [uM w, uV w].filterMap (s.optional i)
       firstFail ([
         failWhen (p.kind != 3 || p.fmtCode != 1 || p.exts != [4] || p.str 0 != 1) (failF p.ix),
         failWhen (decide (2 ≤ g.kind) || (s.fmtOf i g).isNone) (failF g.ix), s.steerFail i w g (uClr w)]
         ++ mts.map (fun x => firstFail [
           failWhen (decide (2 ≤ x.1.kind) || !(s.fmtOf i x.1 == some (.op .bf16) || s.fmtOf i x.1 == some (.op .fp16)
             || s.fmtOf i x.1 == some (.op .fp32))) (failF x.1.ix),
           s.steerFail i w x.1 x.2])
         ++ named.map (fun t => failWhen (decide (2 ≤ t.kind) || !t.isView && (t.carried || (s.side i t t.olIx).isSome)) (failF t.ix))
         ++ sts.map (fun t => firstFail [
           failWhen ((s.under i t).accf != 0) (failF t.ix),
           s.steerFail i w t true,
           failWhen (s.fmtOf i t).isNone (failF t.ix),
           if t.isView then none else s.residualFail i t ((s.fmtOf i t).getD .a16)])
         ++ (mts.map (·.1) ++ named).map (fun t => failWhen (!sameShape (s.extents i t) (s.extents i g)) (failF t.ix))
         ++ [wr.bind fun t => s.useFail i t true]
         ++ sts.map (fun t => firstFail [s.useFail i t true, s.sideUse i [s.scaleTensor i t, s.zpTensor i t],
           s.residualUse i t ((s.fmtOf i t).getD .a16)])
         ++ [if uClr w then s.useFail i g true else none])
     | _, _ => none,
     failWhen (s.updBuf w).isNone (some { err := .version, w0 := some (twVrec w), w1 := twVtag w })])

/-- UPDATE waits while the other buffer holds a version with uses (R309). -/
def State.updateWaits (s : State) (w : Nat) : Bool :=
  let r := s.verRec (twVrec w)
  match s.updBuf w with
  | some b => verHeld r (!b) && (useOf r (verNum r !b)).isSome
  | none => false

/-- At dispatch the other buffer stops being held and `PREP` names it (R310); the flight keeps its name. -/
def State.updatePrep (s : State) (f : Flight) : State :=
  let w := f.word
  let r := s.verRec (twVrec w)
  match s.updBuf w with
  | some b =>
    let r := setFld r (if b then 56 else 120) 1 0
    (s.wrN (s.verAddr (twVrec w)) 64 (setFld r 194 2 (if b then 1 else 2))).setFlight { f with bufB := !b }
  | none => s

/-- At retirement that buffer takes version v + 1 and the stamp, and is held and newer (R310). -/
def State.updateCommit (s : State) (f : Flight) : State :=
  let w := f.word
  let r := s.verRec (twVrec w)
  let b := f.bufB
  let lo := if b then 64 else 0
  let r := setFld r lo 16 ((twVtag w + 1) % 2 ^ 16)
  let r := setFld r (lo + 16) 40 s.stamp.toNat
  let r := setFld r (lo + 56) 1 1
  s.wrN (s.verAddr (twVrec w)) 64 (setFld (setFld r 194 2 0) 196 1 (b2n b))

/-- Write a state tensor's new values: scale and zero point of each group from its exact extremes, with
residuals added, and the conversions (R315). Without a zero-point tensor the derived zero point converts and is stored
nowhere; without a scale tensor nothing is derived, and the stored zero point converts (DESIGN CHOICE, log 140). -/
def State.putState (s : State) (k : Sink) (y : Tally) (f : Fmt) (vs : List (List Nat × Val)) : State × Tally :=
  let s0 := s
  let named := (s.scaleTensor k.i k.t).isSome
  let groups := vs.foldl (fun a v => insertNew (groupCoord k.t v.1) a) ([] : List (List Nat))
  let fix := groups.map fun g =>
    (g, if named then deriveFrom ((vs.filter fun v => groupCoord k.t v.1 == g).map fun v =>
        withResidual v.2 (s0.residual k v.1).1) f
      else s0.scaleAt k.i k.t g)
  let get := fun c : List Nat => ((fix.find? fun e => e.1 == groupCoord k.t c).map (·.2)).getD (0x3F80, 0)
  let (s, y) := vs.foldl (fun (a : State × Tally) v =>
    let (sc, z) := get v.1
    let use : Option (Dy × Nat) := if named || f.isInt then some ((readScale sc).1, z) else none
    a.1.convWrite k a.2 v.1 v.2 use) (s, y)
  (if named then fix.foldl (fun s g => s.putCodes k.i k.n k.t g.1 g.2.1 g.2.2) s else s, y)

/-- The elements UPDATE works on: those that lie in this node's stacks (R317). One of which any
operand's element lies on another node is left out; side tensors and the parameter record may lie there (DESIGN CHOICE, log
141). -/
def State.updateCover (s : State) (i : Fin 16) (w : Nat) (g a b : Tensor) : List (List Nat) :=
  s.coverage i ([g, a, b] ++ (updStates w).filterMap (s.tensor i)) true (s.extents i g)

/-- Remote units UPDATE reads: side tensors of its elements, and its parameter record. -/
def State.updateNeeds (s : State) (i : Fin 16) (w : Nat) : List Nat :=
  let ms := s.updMasters w
  match s.tensor i (uGrad w), s.tensor i (uPar w), (ms.map (·.1)).bind (s.tensor i),
      (ms.map (·.2)).bind (s.tensor i) with
  | some g, some p, some a, some b =>
    let sts := (updStates w).filterMap (s.tensor i)
    unite (s.coverUnits i ([(g, false), (a, false)] ++ sts.map (·, false) ++ sts.map (·, true))
      (s.updateCover i w g a b)) (s.recordUnits i p [[0]])
  | _, _, _, _ => []

/-- UPDATE's data effect: the elements of this node (R313 to R317). -/
def State.updateEffect (s : State) (fl : Flight) : State :=
  let i := fl.slot
  let n := fl.node
  let w := fl.word
  let core := n % 8
  let ms := s.updMasters w
  match s.tensor i (uGrad w), s.tensor i (uPar w), (ms.map (·.1)).bind (s.tensor i),
      (ms.map (·.2)).bind (s.tensor i) with
  | some g, some p, some a, some b =>
    match s.fmtOf i g, s.fmtOf i a, s.fmtOf i b with
    | some gf, some af, some bf =>
      let s0 := s
      let rule := uRule w
      let sts := ((updStates w).filterMap (s.tensor i)).filterMap fun t => (s.fmtOf i t).map fun f => (t, f)
      let (par, kp) := updPar (s.rdN (s.recPlace i p [0]) 64) rule
      let cs := s.updateCover i w g a b
      let rd := fun (t : Tensor) (f : EFmt) (c : List Nat) => exInput (s0.elemVal i t f c).1
      let outs : List (List Nat × UpdOut) := cs.map fun c =>
        let (d, k1) := rd g gf c
        let (x, k2) := rd a af c
        let (m, k3) := match sts[0]? with
          | some t => rd t.1 t.2 c
          | none => (Val.zero, {})
        let (v, k4) := match sts[1]? with
          | some t => rd t.1 t.2 c
          | none => (Val.zero, {})
        let o := updElem par rule d x m v
        (c, { o with k := (((o.k.plus k1).plus k2).plus k3).plus k4 })
      let kk := outs.foldl (fun a o => a.plus o.2.k) kp
      let kk := (kk.plus (s0.scaleConv i g gf cs)).plus (s0.scaleConv i a af cs)
      let kk := sts.foldl (fun k t => k.plus (s0.scaleConv i t.1 t.2 cs)) kk
      let who := whoOf i n w core
      let step := fl.stepNo.toNat
      -- w′ into the other buffer's master
      let kw := { s.sink i n b bf with res := none }
      let (s, y) := outs.foldl (fun (acc : State × Tally) o =>
        acc.1.convWrite kw acc.2 o.1 o.2.w.val none) (s, ({} : Tally))
      -- R128 converts plainly, so carried records stay as they are
      let (s, y, fl0) := s.closeSink { kw with t := { b with d := setFld b.d 78 1 0 } } y step who core
      -- m′ and v′ into their tensors
      let (s, y, fl1) := sts.zipIdx.foldl (fun (acc : State × Tally × Nat) t =>
        match t.1.2 with
        | .op f =>
          let k := s0.sink i n t.1.1 (.op f)
          let vs := outs.map fun o => (o.1, if t.2 = 0 then o.2.m.val else o.2.v.val)
          let (s, y) := acc.1.putState k { gather := acc.2.1.gather } f vs
          let (s, y, fl) := s.closeSink k y step who core
          (s, y, acc.2.2 ||| fl)
        | _ => acc) (s, y, fl0)
      -- the gradient is cleared after it is read (R316)
      let s := if uClr w then cs.foldl (fun s c =>
          let z := if gf.isInt then (s0.scaleAt i g (groupCoord g c)).2 else 0
          s.writePlace i n (s0.place i g gf c) z) s else s
      (s.bumpCounts core kk).made fl fl1 y.gather
    | _, _, _ => s.made fl 0 {}
  | _, _, _, _ => s.made fl 0 {}

def State.updateNames (s : State) (i : Fin 16) (w : Nat) : List Tensor :=
  ((updStates w ++ [uGrad w]).filterMap (s.tensor i)) ++ (match s.updMasters w with
    | some m => [s.tensor i m.1, s.tensor i m.2].filterMap id
    | none => [])

/-- UPDATE's dispatch: it waits for the uses of the other buffer's version, and at dispatch takes that buffer
(R309, R310). -/
def State.startUpdate (s : State) (i : Fin 16) (n : Nat) : State :=
  s.attempt i n 0x41 fun s =>
    let w := s.taskWord i n
    let ts := s.updateNames i w
    let ready := s.firstUnits i n ts [] == []
    if ready && ((s.initFor i ts).updateCheck i w).isNone && s.updateWaits w then
      s.setWait i n 1 0x04 (twVrec w) 0xFFF
    else
      let s := s.issue i n 0x41 0 false (fun s w => s.updateNames i w) (fun s w => s.updateCheck i w)
        (fun s w => s.updateNeeds i w) (fun s f => s.updateEffect f)
      match s.hg.flight.find? fun f => f.slot == i && f.node == n with
      | some f => s.updatePrep f
      | none => s

end Sys2Proof.Machine
end

