-- ==== Sys2Proof/Machine/Headgate.lean ====
section
/-! DEFINITION. The headgate's own instructions, FENCE, STOPAT and NOP (R406 to R410), and the retirement of every
instruction (R427), with what each unit does at it. -/
namespace Sys2Proof.Machine

-- FENCE.

/-- Nodes of a slot that retired with requests still open, those of its earlier graphs among them (R407); the stores of the
stash controller and the steward are no instruction's. -/
def State.openNodes (s : State) (i : Fin 16) : List Nat :=
  s.openReqs.foldl (fun l q =>
    if q.slot == i && (decide (pastNode ≤ q.node) || decide (q.node < 0x100000)
        && !s.hg.flight.any fun f => f.slot == i && (f.node == q.node || f.results.any fun r => r.node == q.node))
    then insertNew q.node l else l) []

/-- FENCE's dispatch. -/
def State.startFence (s : State) (i : Fin 16) (n : Nat) : State :=
  s.issue i n 0x50 0 false (fun _ _ => [])
    (fun _ w => firstFail [commonForm w false false, failWhen (decide (2 ≤ fMode w)) failF]) (fun _ _ => [])
    (fun s f => (s.setFlight { f with phase := .effected, fence := s.openNodes f.slot }).showWaits)

-- STOPAT.

/-- Tick of a STOPAT: absolute, or from its dispatch on (R408). -/
def stopTick (w : Nat) (now : BitVec 64) : BitVec 64 :=
  BitVec.ofNat 64 (fld w 160 64) + (if bit w 224 then now else 0)

/-- STOPAT's dispatch: the stop is scheduled and the instruction retires at once (R409). -/
def State.startStopat (s : State) (i : Fin 16) (n : Nat) : State :=
  s.issue i n 0x51 0 false (fun _ _ => [])
    (fun s w => firstFail [commonForm w false false,
      failWhen (decide ((stopTick w s.tm.tick).toNat ≤ s.tm.tick.toNat)) failR]) (fun _ _ => [])
    (fun s f => (s.scheduleStop (stopTick f.word s.tm.tick)).retire f)

/-- NOP's dispatch: it retires at once and does nothing else (R410). -/
def State.startNop (s : State) (i : Fin 16) (n : Nat) : State :=
  s.issue i n 0x5F 0 false (fun _ _ => []) (fun _ w => commonForm w false false) (fun _ _ => [])
    (fun s f => s.retire f)

-- Retirement.

/-- The 64-byte units of other nodes that an instruction without a gang reads. -/
def State.needsOf (s : State) (f : Flight) : List Nat :=
  let i := f.slot
  let w := f.word
  match f.opc with
  | 0x05 => s.maxidxNeeds i w
  | 0x10 => s.qstatNeeds i w
  | 0x11 => s.qconvNeeds i w
  | 0x12 => s.rescaleNeeds i w
  | 0x20 => s.pushNeeds i w
  | 0x21 => s.popNeeds i w
  | 0x22 => s.rowrecNeeds i w
  | 0x23 => s.derivNeeds i w
  | 0x30 | 0x31 | 0x32 => s.moveNeeds i w
  | 0x40 => s.reduceNeeds i w
  | 0x41 => s.updateNeeds i w
  | _ => []

/-- The data effect of an instruction whose operands had to come from other nodes. -/
def State.effectOf (s : State) (f : Flight) : State :=
  match f.opc with
  | 0x05 => s.maxidxEffect f
  | 0x10 => s.qstatEffect f.slot f
  | 0x11 => s.qconvEffect f.slot f
  | 0x12 => s.rescaleEffect f.slot f
  | 0x20 => s.pushEffect f
  | 0x21 => s.popEffect f
  | 0x22 => s.rowrecEffect f
  | 0x23 => s.derivEffect f
  | 0x30 | 0x31 | 0x32 => s.movement f
  | 0x40 => s.reduceEffect f
  | 0x41 => s.updateEffect f
  | _ => s

/-- An instruction that waited for remote operands, or for its row unit (R292), acts once they are all here. -/
def State.actLate (s : State) (f : Flight) : State :=
  if f.phase ≠ .dispatched ∨ isProduct f.opc then s
  else if s.missing f.slot f.node (s.needsOf f) = [] then
    if s.rowBusy f.opc f.core f.slot f.node then s else s.effectOf f
  else s

/-- What a unit does at a retirement besides the completion record. -/
def State.unitRetire (s : State) (f : Flight) : State :=
  match f.opc with
  | 0x20 | 0x21 => s.stashRetire f
  | 0x40 => s.takeMarkers f
  | 0x41 => s.updateCommit f
  | 0x42 | 0x43 => s.snapRetire f
  | _ => s

/-- CTXSAVE retires when every instruction of its slot that is no gang has retired; a slot in RUN is then SAVED. A gang
in its drain goes on to its own retirement (R433, R435). -/
def State.saveDone (s : State) (f : Flight) : Bool :=
  s.hg.flight.all fun g => g.slot != cSlot f.word || g.jobs != []
def State.markSaved (s : State) (f : Flight) : State :=
  let c := cSlot f.word
  if (s.slot c).st = .run then (s.endWaits c).setSlot c { s.slot c with st := .saved, saveBase := cBase f.word } else s

/-- Whether an instruction has only its retirement left. -/
def State.canRetire (s : State) (f : Flight) : Bool :=
  match f.opc with
  | 0x40 => f.phase == .effected && s.reduceDone f
  | 0x42 | 0x43 => f.phase == .waiting 6
  | 0x50 => f.phase == .effected && s.fenceDone f
  | 0x52 => f.phase == .waiting 3
  | 0x53 => f.phase == .effected && s.saveDone f
  | 0x54 => f.phase == .effected && (s.slot (cSlot f.word)).saved == []
  | _ => if isProduct f.opc then f.canDrain && !f.parked else f.phase == .effected

/-- Units that wait for the retirement of others go on: a STEP (R257), a SNAP or RESTORE (R519), end markers
(R478). -/
def State.pumpAll (s : State) : State := s.sendMarkers.stepPump.snapPump

/-- The retirement of a flight entry. -/
def State.finish (s : State) (f : Flight) : State :=
  if isProduct f.opc then
    let (s, f) : State × Flight := s.drainGang f
    (s.retire f).pumpAll
  else if f.opc = 0x52 then ((s.retire f).finishStep).pumpAll
  else if f.opc = 0x53 then ((s.markSaved f).retire f).pumpAll
  else ((s.unitRetire f).retire f).pumpAll

/-- A member that found no usable array takes one that has become usable, and streams there where its gang has begun;
other gangs that stream on that core have entered their last steps then (R36, R103). -/
def State.seatWaiting (s : State) (f : Flight) : State :=
  let waits := fun j : Job => decide (32 ≤ j.array)
  if f.jobs.any waits then
    let new := s.freeArray f.core
    let g := f.withJobs waits fun j => s.rejob f.slot j new j.part
    if 32 ≤ new ∨ (f.phase ≠ .streaming ∧ f.phase ≠ .draining) then s.setFlight g
    else (s.drainOthers f [new / 4]).stream { g with phase := .streaming }
  else s


end Sys2Proof.Machine
end

