-- ==== Sys2Proof/Machine/ObserveUnit.lean ====
section
/-! DEFINITION. The observation unit: counter commands and samples (R574 to R576, R581), position samples (R582),
HANG (R588), and the reads that change state (R576, R591). -/
namespace Sys2Proof.Machine

/-- A counter command (R574): sample before reset (R575); ignored in DEEP (R592). -/
def State.counterCmd (s : State) (bank : BitVec 4) (op : Nat) (cmdid : BitVec 16) : State :=
  if s.pwr.st = .deep then s
  else
    let s := s.countWaits
    let s := if op = 0 ∨ op = 2 then (banksOf bank).foldl (fun s b => s.sampleBank b) s else s
    if op = 1 ∨ op = 2 then (banksOf bank).foldl (fun s b => s.resetBank b cmdid) s else s

/-- COUNTER_SAMPLE. -/
def execCounterSample (bank : BitVec 4) (cmdid : BitVec 16) (s : State) : Host.Outcome State Fault Refusal :=
  .next ((s.counterCmd bank 0 cmdid).answer 0)
/-- COUNTER_RESET. -/
def execCounterReset (bank : BitVec 4) (cmdid : BitVec 16) (s : State) : Host.Outcome State Fault Refusal :=
  .next ((s.counterCmd bank 1 cmdid).answer 0)
/-- SAMPLE_AND_RESET. -/
def execSampleAndReset (bank : BitVec 4) (cmdid : BitVec 16) (s : State) : Host.Outcome State Fault Refusal :=
  .next ((s.counterCmd bank 2 cmdid).answer 0)

/-- The latch entry that `FGE_CNT_RSEL` selects: tag with stamp, and value (R576, R612). -/
def Observe.entry (o : Observe) : BitVec 64 × BitVec 64 :=
  if h : o.rbank.toNat < 15 then
    let l := (o.banks[o.rbank.toNat]).latch
    (BitVec.ofNat 64 (put 0 16 (nth l.tags o.ridx.toNat 0) + put 16 40 l.stamp.toNat),
     BitVec.ofNat 64 (nth l.vals o.ridx.toNat 0))
  else (0, 0)

/-- What a read returns of a register's 64 bits: all of them, or its lower or upper half (R3). -/
def halfOf (half : Option Bool) (v : BitVec 64) : BitVec 64 :=
  match half with
  | none => v
  | some false => (v.setWidth 32).setWidth 64
  | some true => v >>> 32

/-- CNT_TAG_READ: the selected entry goes into the hold, whichever half is read, and its tag and stamp are returned
(R576, R612). -/
def execCntTagRead (s : State) (half : Option Bool := none) : Host.Outcome State Fault Refusal :=
  let (t, v) := s.obs.entry
  .next ({ s with obs := { s.obs with hold := v } }.answer (halfOf half t))

/-- TRACE_LOST_READ: a read of the register, or of its lower half, returns the count and clears it (R591); the upper half
has no field. -/
def execTraceLostRead (s : State) (half : Option Bool := none) : Host.Outcome State Fault Refusal :=
  .next ((if half = some true then s else { s with tr := { s.tr with lost := 0 } }).answer
    (halfOf half (s.tr.lost.setWidth 64)))

/-- AUTOMATIC_SAMPLE: every bank, where a period is set (R581). -/
def execAutomaticSample (s : State) : Host.Outcome State Fault Refusal :=
  .next (if s.tr.live.cper = 0 ∨ s.pwr.st = .deep then s
    else (List.range 15).foldl (fun s b => s.sampleBank b) s.countWaits)

/-- The gang on a core: the one that streams there, else the first dispatched there and waiting for its stream, else one
that drains. -/
def State.gangOn (s : State) (c : Fin 8) : Option Flight :=
  let here := s.hg.flight.filter fun f => f.onCore && f.core == c && f.jobs != [] && !f.parked
  ((here.find? fun f => f.phase == .streaming).or (here.find? fun f => f.phase != .draining)).or here.head?

/-- Ready product nodes of all slots, in order. -/
def State.readyProducts (s : State) : List (Fin 16 × Nat) :=
  allSlots.flatMap fun i => if (s.slot i).st != .run then [] else
    ((List.range (s.slot i).hdr.twCount).filter fun n =>
      depSt (s.depWord i n) == 1 && isProduct (twOpc (s.taskWord i n))).map fun n => (i, n)

/-- Some gang is ready, with all its members, and no core holds its operands (R36). -/
def State.gangsWait (s : State) : Bool :=
  allSlots.any fun i => (s.slot i).st == .run && (s.gangs i).any fun g =>
    (g.nodes.all fun m => depSt (s.depWord i m) == 1)
      && !s.hg.resident.any fun r => r.slot == i && r.node == g.first && !r.waits

/-- Stall reason of a core that streams nothing, the first that applies (R582). -/
def State.stallOf (s : State) (c : Fin 8) : Nat :=
  let ready := s.readyProducts
  if s.gangsWait then 0x06
  else if s.hg.flight.any fun f => f.parked && f.core == c && ((s.slot f.slot).st == .run || s.saving f.slot) then 0x07
  else if s.flying 0x52 then 0x09
  else if !s.cutOpen then 0x0A
  else if s.pwr.st != .run then 0x0B
  else if ready.isEmpty then 0x0C
  else if (s.coreArrays c.val).isEmpty then 0x0D
  else 0x06

/-- Stall reasons that the state allows a gang on a core (R582): while it streams, a pause only where its operands need one
(R33), a drain only with no next gang there, a change of configuration only of a later part or after a restart (R38, R66, R103), a restart only after one (R96); before, a change of configuration only where
its arrays need one (R66, R80), and a throttle wait only where they owe one (R567). -/
def State.mayStall (s : State) (f : Flight) : List Nat :=
  let (steps, clk) := f.streamClk
  let next := s.hg.flight.any fun g => g.onCore && g.core == f.core && g.jobs != [] && g.phase == .dispatched
  if f.phase = .streaming then
    let again := f.results.any fun r => bit r.flags 4
    [0] ++ (if steps < clk then [1] else []) ++ (if again || decide (1 < f.parts) then [2] else [])
      ++ (if next then [] else [3]) ++ (if again then [8] else [])
  else (if f.seated.jobs.any fun j => j.part == 0 && s.mustSetUp j then [2] else []) ++ (if s.gov.level ≠ 0 ∧ f.seated.arrays.any (fun a => (s.arr a).lastStream != 0) then [4] else []) ++ [5]

/-- The position record of a core. Where in its stream a gang stands is not kept by this model: its stall reason among
those that the state allows, its step and its streaming arrays are free (log 13). -/
def State.positionOf (s : State) (c : Fin 8) : State :=
  let body := fun (slot stall node step arrays : Nat) =>
    recHeader 0x05 0 s.stamp { unit := c.val, slot := slot } 0 + put 144 8 stall + put 152 20 node
      + put 172 20 step + put 192 4 arrays + put 196 4 s.gov.level.toNat
  match s.gangOn c with
  | none => s.trace [body 0 (s.stallOf c) 0xFFFFF 0 0]
  | some f =>
    let (x, s) := s.draw
    let klen := f.jobs.foldl (fun a j => max a j.klen) 0
    if f.phase = .streaming then
      let l := s.mayStall f
      let stall := nth l (x.toNat % l.length) 0
      -- the arrays of the part that streams; twins share theirs
      let arrays := (f.partOf (x.toNat / 8 / (klen + 1) % f.parts)).arrays.length
      s.trace [body f.slot.val stall f.node (x.toNat / 8 % (klen + 1)) (if stall = 0 then arrays else 0)]
    else if f.phase = .draining then s.trace [body f.slot.val 0x03 f.node klen 0]
    else s.trace [body f.slot.val (nth (s.mayStall f) (x.toNat % (s.mayStall f).length) 5) f.node 0 0]

/-- POSITION_SAMPLE: one record for each core, where a period is set (R582). -/
def execPositionSample (s : State) : Host.Outcome State Fault Refusal :=
  .next (if s.tr.live.pper = 0 ∨ s.pwr.st = .deep then s
    else ([0, 1, 2, 3, 4, 5, 6, 7] : List (Fin 8)).foldl (fun s c => s.positionOf c) s)

/-- HANG: a slot in RUN neither dispatched nor retired for `HANGT` ms; raised once until it makes progress
(R588). -/
def execHang (slot : Fin 16) (s : State) : Host.Outcome State Fault Refusal :=
  .next (
    let x := s.slot slot
    let idle := (s.tm.tick - x.lastProg).toNat
    if x.st ≠ .run ∨ x.hung ∨ s.tr.live.hangt = 0 ∨ idle < s.tr.live.hangt.toNat * 4000000 then s
    else (s.setSlot slot { x with hung := true }).raise .hang { unit := 8, slot := slot.val } slot.val 0
      x.lastProg.toNat)

end Sys2Proof.Machine
end

