-- ==== Sys2Proof/Machine/Turn.lean ====
section
/-! DEFINITION. The order of dispatch (R430) and of operand fetches (R431) over the slots, why a node has not moved on
(R587), the dispatch of every instruction, and the other commands that change what nodes wait for. -/
namespace Sys2Proof.Machine

/-- A dispatch attempt of a node on a core, whatever its opcode, before the order of R430. -/
def State.attemptOn (s : State) (i : Fin 16) (n : Nat) (core : Fin 8) : State :=
  match twOpc (s.taskWord i n) with
  | 0x01 => s.prodDispatch i n 0x01 core []
  | 0x02 => s.prodDispatch i n 0x02 core []
  | 0x03 => s.prodDispatch i n 0x03 core []
  | 0x04 => s.prodDispatch i n 0x04 core []
  | 0x05 => s.startMaxidx i n core
  | 0x10 => s.startQstat i n core
  | 0x11 => s.startQconv i n core
  | 0x12 => s.startRescale i n core
  | 0x22 => s.startRowrec i n core
  | 0x23 => s.startDeriv i n core
  | 0x20 => s.startPush i n
  | 0x21 => s.startPop i n
  | 0x30 => s.startMove i n
  | 0x31 => s.startGather i n
  | 0x32 => s.startScatter i n
  | 0x40 => s.startReduce i n
  | 0x41 => s.startUpdate i n
  | 0x42 => s.startSnap i n
  | 0x43 => s.startRestore i n []
  | 0x50 => s.startFence i n
  | 0x51 => s.startStopat i n
  | 0x52 => s.startStep i n
  | 0x53 => s.startCtxsave i n []
  | 0x54 => s.startCtxload i n []
  | 0x5F => s.startNop i n
  | _ => s

/-- A node ready in a slot in RUN. -/
def State.readyIn (s : State) (i : Fin 16) (n : Nat) : Bool :=
  (s.slot i).st == .run && decide (n < (s.slot i).hdr.twCount) && depSt (s.depWord i n) == 1

/-- A ready node of `s` is dispatched in `t`: it is ready no more. -/
def State.went (s t : State) (i : Fin 16) (n : Nat) : Bool := s.readyIn i n && !t.readyIn i n

/-- A node that can be dispatched now, on some core (R429). -/
def State.canGo (s : State) (i : Fin 16) (n : Nat) : Bool :=
  s.readyIn i n && ([0, 1, 2, 3, 4, 5, 6, 7] : List (Fin 8)).any fun c => s.went (s.attemptOn i n c) i n

/-- Slot `k` goes before slot `i`: it has the higher priority, or the same and the turn (R430). -/
def State.before (s : State) (turn : List (Fin 16)) (k i : Fin 16) : Bool :=
  let p := (s.slot k).hdr.prio
  let q := (s.slot i).hdr.prio
  k != i && (s.slot k).st == .run && (decide (q < p) || (p == q && turn.contains i && !turn.contains k))

/-- A node of another slot that can be dispatched goes before those of slot `i` (R430). -/
def State.yields (s : State) (i : Fin 16) : Bool :=
  allSlots.any fun k => s.before s.hg.turn k i &&
    (List.range (s.slot k).hdr.twCount).any fun n => s.canGo k n

/-- A slot takes its turn; one that has had it begins the next round of its priority. -/
def State.nextTurn (s : State) (turn : List (Fin 16)) (i : Fin 16) : List (Fin 16) :=
  if turn.contains i then i :: turn.filter fun k => (s.slot k).hdr.prio != (s.slot i).hdr.prio else i :: turn

/-- The headgate dispatches nothing of the node's slot: a STEP is in flight, or the slot is SAVED, being saved or loaded
again (R257, R433, R436); no STEP while any slot is SAVED (R437). -/
def State.kept (s : State) (i : Fin 16) (opc : Nat) : Bool :=
  s.flying 0x52 || s.saving i || (s.slot i).saved != [] || (s.slot i).st == .saved
    || (opc == 0x52 && allSlots.any fun j => (s.slot j).st == .saved || s.saving j)

/-- The core that holds a gang's operands has no room for its outputs (R78). -/
def State.storeFull (s : State) (i : Fin 16) (g : Span) : Bool :=
  let t := s.initFor i (g.nodes.flatMap fun m => s.prodNames i (s.taskWord i m))
  s.hg.resident.any fun r => r.slot == i && r.node == g.first && !r.waits &&
    decide (storeRoom < s.storeUsed r.core + sumN ((t.fetchNodes i g).map fun m => outRoom (t.taskWord i m)))

/-- What `WAIT` and `WAUX` a ready product node shows where nothing of its slot holds it, `cur` what it shows (R587): no
usable array, its operands not resident, or no room; the gang's first node shows it. -/
def State.gangReason (s : State) (i : Fin 16) (n cur : Nat) : Option (Nat × Nat) :=
  match s.gangOf i n with
  | none => none
  | some g =>
    if g.first ≠ n ∨ (g.nodes.any fun m => depSt (s.depWord i m) != 1) then none
    else if (List.range 8).all fun c => s.coreArrays c == [] then some (0x01, 0)
    else match s.hg.resWait.find? fun x => x.1 == (i, n) with
      | some x => some (0x02, x.2.val)
      | none => if cur = 0x02 then none else if cur = 0x01 ∧ s.storeFull i g then some (0x01, 0) else some (0, 0)

/-- What a ready node shows, where nothing of its slot holds it: its unit's reason, `cur` what it shows (R587). One that
waits for remote bytes shows 0x02 until they are here. -/
def State.unitReason (s : State) (i : Fin 16) (n opc cur : Nat) : Option (Nat × Nat) :=
  match opc with
  | 0x20 => if s.stashBusy i then some (0x01, 0) else match s.pushShort i n with
    | some b => some (0x03, cdiv b (2 ^ 20))
    | none => if cur = 0x02 then none else some (0, 0)
  | 0x21 => if s.popBusy i then some (0x01, 0) else if cur = 0x02 then none else some (0, 0)
  | 0x41 =>
    let w := s.taskWord i n
    let ts := s.updateNames i w
    if s.updateWaits w ∧ s.firstUnits i n ts [] = [] ∧ (s.initFor i ts).updateCheck i w = none then some (0x04, twVrec w)
    else if cur = 0x02 then none else some (0, 0)
  | 0x42 | 0x43 => if s.snap.rb = .running ∨ s.snap.rb = .fallback then some (0x06, 0)
    else if cur = 0x02 then none else some (0, 0)
  | _ => if isProduct opc then s.gangReason i n cur else if cur = 0x02 then none else some (0, 0)

/-- What the dependence word of a node shows as `WAIT` and `WAUX` (R587); none where the word stands. A ready node that
showed 0x01 for the order of R430 shows it while its slot still yields; an instruction of a row unit shows it until the
unit is its own (R292). That a ready node shows the order of R430 only once the headgate tried to dispatch it is the model's
choice (DESIGN CHOICE, log 133). -/
def State.reasonOf (s : State) (i : Fin 16) (n : Nat) : Option (Nat × Nat) :=
  let w := s.depWord i n
  let cur := depWait w
  let opc := twOpc (s.taskWord i n)
  if depSt w = 1 then
    if s.hg.slotEn.getLsbD i.val = false then some (0x08, 0)
    else if s.kept i opc then some (0x09, 0)
    else match s.unitReason i n opc cur with
      | some (0, a) => if cur = 0x01 ∧ s.yields i then some (0x01, 0) else some (0, a)
      | r => r
  else if depSt w = 2 ∧ isRowOp opc then
    match s.hg.flight.find? fun f => f.slot == i && f.node == n && f.phase == .dispatched with
    | some f => if s.rowBusy opc f.core i n then some (0x01, 0) else if cur = 0x01 then some (0, 0) else none
    | none => none
  else none

/-- A node's dependence word shows its reason (R587). -/
def State.showReason (s : State) (i : Fin 16) (n : Nat) : State :=
  let w := s.depWord i n
  match s.reasonOf i n with
  | some (wait, aux) => if depWait w = wait ∧ fld w 20 20 = aux then s else s.setWait i n (depSt w) wait aux 0xFFF
  | none => s

/-- The slots whose nodes show why they wait: in RUN, and SAVED. -/
def State.shown (s : State) (i : Fin 16) : Bool := (s.slot i).st == .run || (s.slot i).st == .saved

/-- Dependence words change with what their nodes wait for (R587): after a dispatch, a retirement, and whatever else takes
or gives back what a node waits for. -/
def State.showReasons (s : State) : State :=
  allSlots.foldl (fun s i => if s.shown i then forN (s.slot i).hdr.twCount s fun s n => s.showReason i n else s) s

/-- Note the turn that a dispatch of `s` into `t` took; what other nodes wait for changes with it. -/
def State.tookTurn (s t : State) (i : Fin 16) (n : Nat) : State :=
  if s.went t i n then { t with hg := { t.hg with turn := s.nextTurn s.hg.turn i } }.showReasons else t

/-- A dispatch attempt in the order of R430: a ready node whose slot yields shows so (R587). -/
def State.inTurn (s : State) (i : Fin 16) (n opc : Nat) (go : State → State) : State :=
  let s := s.sweep
  if s.hg.slotEn.getLsbD i.val && s.yields i then if s.readyNode i n opc then s.setWait i n 1 0x01 0 0xFFF else s
  else s.tookTurn (go s) i n

/-- Fetching for a product node comes nearer its end: it asks for units or holds its operands (R431). -/
def State.fetches (s : State) (i : Fin 16) (n : Nat) : Bool :=
  isProduct (twOpc (s.taskWord i n)) && ([0, 1, 2, 3, 4, 5, 6, 7] : List (Fin 8)).any fun c =>
    let t := s.fetch i n c none
    decide (s.hg.resident.length < t.hg.resident.length) || decide (s.rem.reads.length < t.rem.reads.length)

/-- A product node of another slot is fetched before those of slot `i` (R431). -/
def State.fetchYields (s : State) (i : Fin 16) : Bool :=
  allSlots.any fun k => s.before s.hg.fetchTurn k i &&
    (List.range (s.slot k).hdr.twCount).any fun n => s.fetches k n

/-- OPERAND_FETCH: the operands of a product node come into a core's operand store, in the order of R431; what another
instruction's operand assembly meets is noted for its dispatch (R181). -/
def execOperandFetch (slot : Fin 16) (node : Nat) (core : Fin 8) (skew : Option TagSkew) (s : State) :
    Host.Outcome State Fault Refusal :=
  let s := s.sweep
  .next (if isProduct (twOpc (s.taskWord slot node)) then
      if s.fetchYields slot then s
      else
        let t := s.fetch slot node core skew
        let t := if s.hg.resident.length < t.hg.resident.length then
            { t with hg := { t.hg with fetchTurn := s.nextTurn s.hg.fetchTurn slot } }
          else t
        -- a gang that waits at another core than before shows it
        if t.hg.resWait != s.hg.resWait && t.hg.resWait.any fun x => x.1 == (slot, node) then t.showReason slot node
        else t
    else s.fetch slot node core skew)

/-- FPROD. -/
def execFprod (slot : Fin 16) (node : Nat) (core : Fin 8) (hits : List ParityHit) (s : State) :
    Host.Outcome State Fault Refusal :=
  .next (s.inTurn slot node 0x03 fun s => s.prodDispatch slot node 0x03 core hits)

/-- GDX. -/
def execGdx (slot : Fin 16) (node : Nat) (core : Fin 8) (hits : List ParityHit) (s : State) :
    Host.Outcome State Fault Refusal :=
  .next (s.inTurn slot node 0x01 fun s => s.prodDispatch slot node 0x01 core hits)

/-- GDW. -/
def execGdw (slot : Fin 16) (node : Nat) (core : Fin 8) (hits : List ParityHit) (s : State) :
    Host.Outcome State Fault Refusal :=
  .next (s.inTurn slot node 0x02 fun s => s.prodDispatch slot node 0x02 core hits)

/-- DIST. -/
def execDist (slot : Fin 16) (node : Nat) (core : Fin 8) (hits : List ParityHit) (s : State) :
    Host.Outcome State Fault Refusal :=
  .next (s.inTurn slot node 0x04 fun s => s.prodDispatch slot node 0x04 core hits)

/-- MAXIDX. -/
def execMaxidx (slot : Fin 16) (node : Nat) (core : Fin 8) (s : State) : Host.Outcome State Fault Refusal :=
  .next (s.inTurn slot node 0x05 fun s => s.startMaxidx slot node core)

/-- QSTAT. -/
def execQstat (slot : Fin 16) (node : Nat) (core : Fin 8) (s : State) : Host.Outcome State Fault Refusal :=
  .next (s.inTurn slot node 0x10 fun s => s.startQstat slot node core)

/-- QCONV. -/
def execQconv (slot : Fin 16) (node : Nat) (core : Fin 8) (s : State) : Host.Outcome State Fault Refusal :=
  .next (s.inTurn slot node 0x11 fun s => s.startQconv slot node core)

/-- RESCALE. -/
def execRescale (slot : Fin 16) (node : Nat) (core : Fin 8) (s : State) : Host.Outcome State Fault Refusal :=
  .next (s.inTurn slot node 0x12 fun s => s.startRescale slot node core)

/-- ROWREC. -/
def execRowrec (slot : Fin 16) (node : Nat) (core : Fin 8) (s : State) : Host.Outcome State Fault Refusal :=
  .next (s.inTurn slot node 0x22 fun s => s.startRowrec slot node core)

/-- DERIV. -/
def execDeriv (slot : Fin 16) (node : Nat) (core : Fin 8) (s : State) : Host.Outcome State Fault Refusal :=
  .next (s.inTurn slot node 0x23 fun s => s.startDeriv slot node core)

/-- PUSH. -/
def execPush (slot : Fin 16) (node : Nat) (s : State) : Host.Outcome State Fault Refusal :=
  .next (s.inTurn slot node 0x20 fun s => s.startPush slot node)

/-- POP. -/
def execPop (slot : Fin 16) (node : Nat) (s : State) : Host.Outcome State Fault Refusal :=
  .next (s.inTurn slot node 0x21 fun s => s.startPop slot node)

/-- MOVE. -/
def execMove (slot : Fin 16) (node : Nat) (s : State) : Host.Outcome State Fault Refusal :=
  .next (s.inTurn slot node 0x30 fun s => s.startMove slot node)

/-- GATHER. -/
def execGather (slot : Fin 16) (node : Nat) (s : State) : Host.Outcome State Fault Refusal :=
  .next (s.inTurn slot node 0x31 fun s => s.startGather slot node)

/-- SCATTER. -/
def execScatter (slot : Fin 16) (node : Nat) (s : State) : Host.Outcome State Fault Refusal :=
  .next (s.inTurn slot node 0x32 fun s => s.startScatter slot node)

/-- REDUCE. -/
def execReduce (slot : Fin 16) (node : Nat) (s : State) : Host.Outcome State Fault Refusal :=
  .next (s.inTurn slot node 0x40 fun s => s.startReduce slot node)

/-- UPDATE. -/
def execUpdate (slot : Fin 16) (node : Nat) (s : State) : Host.Outcome State Fault Refusal :=
  .next (s.inTurn slot node 0x41 fun s => s.startUpdate slot node)

/-- SNAP. -/
def execSnap (slot : Fin 16) (node : Nat) (s : State) : Host.Outcome State Fault Refusal :=
  .next (s.inTurn slot node 0x42 fun s => s.startSnap slot node)

/-- RESTORE. -/
def execRestore (slot : Fin 16) (node : Nat) (s : State) (images : List Image := []) : Host.Outcome State Fault Refusal :=
  .next (s.inTurn slot node 0x43 fun s => s.startRestore slot node images)

/-- FENCE. -/
def execFence (slot : Fin 16) (node : Nat) (s : State) : Host.Outcome State Fault Refusal :=
  .next (s.inTurn slot node 0x50 fun s => s.startFence slot node)

/-- STOPAT. -/
def execStopat (slot : Fin 16) (node : Nat) (s : State) : Host.Outcome State Fault Refusal :=
  .next (s.inTurn slot node 0x51 fun s => s.startStopat slot node)

/-- STEP. -/
def execStep (slot : Fin 16) (node : Nat) (s : State) : Host.Outcome State Fault Refusal :=
  .next (s.inTurn slot node 0x52 fun s => s.startStep slot node)

/-- NOP. -/
def execNop (slot : Fin 16) (node : Nat) (s : State) : Host.Outcome State Fault Refusal :=
  .next (s.inTurn slot node 0x5F fun s => s.startNop slot node)

/-- CTXSAVE. -/
def execCtxsave (slot : Fin 16) (node : Nat) (stops : List (Nat × Nat)) (s : State) :
    Host.Outcome State Fault Refusal :=
  .next (s.inTurn slot node 0x53 fun s => s.startCtxsave slot node stops)

/-- CTXLOAD. -/
def execCtxload (slot : Fin 16) (node : Nat) (cores : List (Nat × Fin 8)) (s : State) :
    Host.Outcome State Fault Refusal :=
  .next (s.inTurn slot node 0x54 fun s => s.startCtxload slot node cores)

/-- GRAPH_LOAD_COMPLETE (R418 to R421): without a SUBMIT being loaded nothing happens. -/
def execGraphLoadComplete (s : State) : Host.Outcome State Fault Refusal :=
  match s.hg.loading with
  | none => .next s
  | some l =>
    let t := s.endLoad l
    .next (if (t.slot l.slot).st = .run then t.showReasons else t)

/-- INSTRUCTION_RETIRE: an instruction whose work is done retires (R427); one whose work is not done shows why. The drain
of a gang reads the spilled sums that it adds first (R219). -/
def execInstructionRetire (slot : Fin 16) (node : Nat) (s : State) : Host.Outcome State Fault Refusal :=
  let s := s.sweep
  .next (match s.flightOf slot node with
    | none => s
    | some f =>
      let s := (s.actLate f).seatWaiting f
      let s := if f.opc = 0x40 then s.sendMarkers else s
      match s.flightOf slot node with
      | none => s
      | some f =>
        if !s.canRetire f then s.showWaits
        else if s.spillMissing f ≠ [] then s.askAll slot node (s.spillMissing f)
        else (s.finish f).showReasons)

/-- GANG_STREAM_START (R80, R436): a dispatched gang's first step enters, or a saved gang whose operands are resident
again, with room for its output, restarts. IDLE ends with it, and NAP does first (R559, R560). -/
def execGangStreamStart (slot : Fin 16) (node : Nat) (s : State) (hits : List ParityHit := []) :
    Host.Outcome State Fault Refusal :=
  let s := s.sweep
  .next (match s.flightOf slot node with
  | none => s
  | some f =>
    if f.jobs = [] then s
    else match f.phase, (s.slot slot).saved.find? fun g => g.node == node with
      | .dispatched, _ => s.startGang f hits
      | .waiting _, some g =>
        match s.hg.resident.find? fun r => r.slot == slot && r.node == node && !r.waits with
        | none => s
        | some r =>
          let room := sumN (f.jobs.map fun j => outRoom j.word)
          if ((s.slot slot).st = .run ∨ (s.slot slot).st = .halt) ∧ s.takes f r.core
              ∧ s.storeUsed r.core + room ≤ storeRoom then
            if s.coreAwake then (s.busy.resumeGang f g r hits).showReasons else s.wakeForCore
          else s
      | _, _ => s)

/-- Where the stash of a slot has changed, so has what its PUSH and POP nodes wait for. -/
def State.stashChanged (s : State) (i : Fin 16) (t : State) : State :=
  if (t.slot i).stash = (s.slot i).stash then t else t.showReasons

/-- STASH_MOVE. -/
def execStashMove (slot : Fin 16) (s : State) : Host.Outcome State Fault Refusal := 
  let s := s.sweep
  .next (s.stashChanged slot (s.stashMove slot))

/-- STASH_RETURN. -/
def execStashReturn (slot : Fin 16) (s : State) : Host.Outcome State Fault Refusal :=
  let s := s.sweep
  .next (s.stashChanged slot (s.stashReturn slot))

/-- STASH_RETURN_END: the entry under return stands in the ring (R289). A SNAP or
RESTORE that held for it goes on (R519). -/
def execStashReturnEnd (slot : Fin 16) (s : State) : Host.Outcome State Fault Refusal :=
  let s := s.sweep
  .next (s.stashChanged slot (s.stashReturnEnd slot).snapPump)

/-- REBUILD_DONE: every page is rebuilt from the surviving images, or in fallback the lost images are loaded from
the store and every load is acknowledged (R530, R532, R533). -/
def execRebuildDone (images : List Image) (s : State) : Host.Outcome State Fault Refusal :=
  .next (
    -- the pages are there, so their buffer holds them (R524)
    let ended := fun s : State =>
      let s := if s.snap.buf[s.captureBuf] = .rebuild then s.setBuf s.captureBuf .held else s
      (({ s with snap := { s.snap with rb := .done } }).raiseRebuild 1 s.snap.target).showReasons
    if s.snap.rb = .fallback then
      if s.snap.loads ≠ [] ∨ s.snap.copying.any (fun c => c.2 == 4) ∨ images.map Image.node ≠ s.snap.lost then s
      else if s.snap.buf[s.captureBuf] ≠ .rebuild then ended s
      else
        let mine := (s.dealt (images.map fun x => (x.node, x.cells))).1
        ended (s.takePages mine)
    else if s.snap.rb ≠ .running ∨ images.map Image.node ≠ s.rebuildReads then s
    else
      let (mine, most) := s.dealt (s.solveAll images)
      if s.snap.imgpg.toNat < most then s.dropPages.fallback
      else ended (s.takePages mine))

/-- What an answer to a write ends (R471); a moved stash entry leaves room (R587). -/
def State.wroteEnd (s : State) (q : Req) : State :=
  let t := s.writeDone q
  if q.node = stashNode then t.showReasons else t

/-- END_TO_END_ACK (R471, R478). -/
def execEndToEndAck (port : Fin 6) (f : Flit) (tagOk : Bool) (s : State) : Host.Outcome State Fault Refusal :=
  .next (s.receive port f tagOk fun s f =>
    match s.requestOf f with
    | some q => s.wroteEnd q
    | none => s)

/-- NEGATIVE_RESPONSE (R469, R474, R494). -/
def execNegativeResponse (port : Fin 6) (f : Flit) (tagOk : Bool) (s : State) : Host.Outcome State Fault Refusal :=
  .next (s.receive port f tagOk fun s f =>
    let write := s.refused f
    let read := s.rem.reads.find? fun q => q.f.addr == f.addr
    match write, read with
    | some q, _ =>
      if f.status = 1 then s.holdReq q
      else if f.status = 2 then (s.raiseNak port q).wroteEnd q
      else if f.status = 3 then
        { s with rem := { s.rem with frozen := insertNew f.src s.rem.frozen } }.holdReq q
      else s
    | none, some q =>
      if f.status = 1 then s.holdReq q
      else if f.status = 2 then (s.raiseNak port q).keepRead q []
      else if f.status = 3 then
        { s with rem := { s.rem with frozen := insertNew f.src s.rem.frozen } }.holdReq q
      else s
    | none, none => s).showWaits

end Sys2Proof.Machine
end

