-- ==== Sys2Proof/Machine/Regs.lean ====
section
/-! DEFINITION. The control window (R589 to R614): reading, writing, what a write sets off, and the commands that are
such writes. -/
namespace Sys2Proof.Machine

-- Reading.

def SlotSt.code : SlotSt → Nat
  | .free => 0 | .load => 1 | .run => 2 | .halt => 3 | .saved => 4
def Phase.code : Phase → Nat
  | .power => 0 | .fuse => 1 | .init => 2 | .selftest => 3 | .ready => 4 | .scan => 5
def PwrSt.code : PwrSt → Nat
  | .run => 0 | .idle => 1 | .nap => 2 | .deep => 3 | .waking => 4 | .entering => 5
def CutSt.code : CutSt → Nat
  | .run => 0 | .scheduled => 1 | .stopping => 2 | .localDone => 3 | .committed => 4 | .abandoned => 5
  | .partFrozen => 6
def BufSt.code : BufSt → Nat
  | .empty => 0 | .capture => 1 | .parity => 2 | .copy => 3 | .held => 4 | .rebuild => 5 | .load => 6
def RbSt.code : RbSt → Nat
  | .idle => 0 | .running => 1 | .done => 2 | .fallback => 3 | .lost => 4

/-- `FGE_PORT_STATUS` (R460). -/
def Port.status (q : Port) : Nat :=
  let n := fun d : Dir => if q.st = .up then d.lanes.length else 0
  q.st.code + put 3 4 (n q.tx) + put 7 4 (n q.rx) + put 11 9 q.fenced.toNat + put 20 9 q.invert.toNat
    + forN q.rx.lanes.length 0 fun a k => a + put (29 + 4 * k) 4 (nth q.rx.lanes k 0)

/-- `FGE_ST_DIAG` (R554). -/
def State.diagReg (s : State) : Nat :=
  let d := s.diagOf s.st.asel.toNat
  let r := d.frow.or d.srow
  let c := d.fcol.or d.scol
  s.st.asel.toNat + put 5 6 (r.getD 0) + put 11 1 (b2n r.isSome) + put 12 6 (c.getD 0) + put 18 1 (b2n c.isSome)
    + put 19 1 (b2n (d.frow.isSome || d.fcol.isSome)) + put 20 1 (b2n d.fuseOff) + put 21 1 (b2n d.unrep)
    + put 22 8 d.nfail + put 30 1 (b2n d.retFail) + put 31 1 (b2n d.frow.isSome) + put 32 1 (b2n d.fcol.isSome)

/-- Bits over the arrays that satisfy a test. -/
def State.arrBits (s : State) (p : Arr → Bool) : Nat := forN 32 0 fun a n => a + put n 1 (b2n (p (s.arr n)))

/-- Bits over the ports that satisfy a test. -/
def State.portBits (s : State) (p : Port → Bool) : Nat :=
  allPorts.foldl (fun a q => a + put q.val 1 (b2n (p (s.port q)))) 0

def StwRegs.ctrl (r : StwRegs) : Nat := b2n r.en + put 1 1 (b2n r.freeze)

def TraceRegs.ctrl (t : TraceRegs) : Nat :=
  b2n t.en + put 1 1 (b2n t.stopFull) + put 2 1 (b2n t.evt) + put 3 1 (b2n t.inst) + put 4 1 (b2n t.stw)
    + put 5 1 (b2n t.telem) + put 8 16 t.cper.toNat + put 24 16 t.pper.toNat + put 40 16 t.hangt.toNat

/-- Registers of identity, slots, events and time. -/
def State.readLow (s : State) (off : Nat) : Nat :=
  match off with
  | 0x000 => 0xF1E50ECE + put 32 8 1 + put 40 8 1
  | 0x008 => 0x48 + put 8 32 s.present.toNat + put 40 6 0x20 + put 46 3 6 + put 49 4 s.grade.toNat + put 53 6 0x30
      + put 59 4 0xC
  | 0x010 => s.phase.code + put 3 1 (b2n s.loadOpen) + put 4 1 (b2n s.warm)
  | 0x018 => put 1 1 (b2n s.stw.set.isSome) + put 2 1 (b2n s.stw.cerr)
  | 0x100 => allSlots.foldl (fun a i => a + put (4 * i.val) 4 (s.slot i).st.code) 0
  | 0x110 => s.hg.slotEn.toNat
  | 0x118 => s.hg.stepNo.toNat
  | 0x120 => s.hg.verBase.toNat
  | 0x200 => s.evt.pend.toNat
  | 0x208 => s.evt.mask.toNat
  | 0x300 => s.tm.tick.toNat
  | 0x308 => b2n s.tm.lock + put 1 1 (b2n s.tm.root) + put 2 3 s.tm.parent.toNat + put 5 5 s.tm.hops.toNat
      + put 10 1 (b2n s.tm.stepped) + put 32 16 s.tm.offset.toNat
  | 0x310 => s.cut.stopT.toNat
  | 0x318 => s.cstate.code + put 3 1 (b2n s.cut.late) + put 4 1 (b2n s.cut.stopErr) + put 24 40 s.cut.lastCut.toNat
  | 0x320 => s.hall.mgr.toNat + put 12 12 s.hall.backup.toNat + put 24 12 s.hall.actMgr.toNat
      + put 36 13 s.hall.live.length + put 49 1 (b2n s.hall.cont)
  | _ => 0

/-- Registers of power, governor, self-test and links. -/
def State.readMid (s : State) (off : Nat) : Nat :=
  match off with
  | 0x400 => s.pwr.target.toNat + put 2 1 (b2n s.pwr.autoIdle)
  | 0x408 => s.pwr.st.code + put 3 1 (b2n s.pwr.pending)
  | 0x410 => s.gov.tlim.toNat + put 8 8 s.gov.tcrit.toNat + put 16 4 s.gov.stage.toNat + put 20 4 s.gov.tmax.toNat
      + put 24 16 s.gov.plim.toNat
  | 0x418 => s.gov.level.toNat + put 4 1 (b2n s.gov.hot) + put 5 1 (b2n s.gov.crit) + put 6 4 s.gov.hsens.toNat
      + put 10 16 s.gov.temp.toNat + put 26 16 s.gov.power.toNat
  | 0x500 => put 1 1 (b2n s.st.warmSt) + put 2 1 (b2n s.st.busy) + put 3 1 (b2n s.st.stErr)
  | 0x508 => s.st.mode.toNat
  | 0x510 => s.st.pass.toNat + put 32 32 s.st.tested.toNat
  | 0x518 => s.diagReg
  | 0x520 => s.arrBits (·.dot) + put 32 32 (s.arrBits (·.unuse))
  | 0x528 => s.hg.aen.toNat
  | 0x600 => s.hall.nid.toNat
  | 0x608 => s.hall.xdim.toNat + put 5 5 s.hall.ydim.toNat + put 10 5 s.hall.zdim.toNat
      + put 15 1 (b2n s.hall.topoErr)
  | 0x610 => s.pen.toNat
  | 0x640 => (s.port 0).status
  | 0x648 => (s.port 1).status
  | 0x650 => (s.port 2).status
  | 0x658 => (s.port 3).status
  | 0x660 => (s.port 4).status
  | 0x668 => (s.port 5).status
  | 0x700 => s.key.kport.toNat + put 3 1 (b2n s.key.kdir) + put 5 1 (b2n s.key.keyErr) + put 6 3 s.key.words.length
  | 0x718 => s.portBits (·.stTx.isSome) + put 6 6 (s.portBits (·.stRx.isSome)) + put 12 1 (b2n s.key.snapKey.isSome)
  | _ => 0

/-- Registers of steward, snapshots, observation and the service record. -/
def State.readHigh (s : State) (off : Nat) : Nat :=
  match off with
  | 0x800 => s.stw.live.base.toNat
  | 0x808 => s.stw.live.ctrl
  | 0x810 => s.stw.live.slim.toNat
  | 0x900 => s.snap.sbase.toNat
  | 0x908 => s.snap.pbase.toNat
  | 0x910 => s.snap.imgpg.toNat + put 28 12 s.snap.pgcnt.toNat + put 40 4 s.snap.drain.toNat
      + put 44 20 s.snap.minit.toNat
  | 0x920 => s.snap.durPar.toNat + put 32 32 s.snap.durFlash.toNat
  | 0x928 => s.snap.durStore.toNat + put 32 3 s.snap.rb.code + put 35 1 (b2n s.degraded)
      + put 36 1 (b2n s.snap.cfgErr) + put 37 3 (s.snap.buf[0]).code + put 40 3 (s.snap.buf[1]).code
  | 0x930 => s.snap.interval.toNat + put 20 20 s.snap.meanM.toNat + put 40 24 s.snap.costC.toNat
  | 0xA08 => s.obs.rbank.toNat + put 4 5 s.obs.ridx.toNat
  | 0xA10 => s.obs.entry.1.toNat
  | 0xA18 => s.obs.hold.toNat
  | 0xB00 => s.tr.live.base.toNat
  | 0xB08 => s.tr.live.size.toNat
  | 0xB10 => s.tr.live.ctrl
  | 0xB18 => s.tr.wr.toNat
  | 0xB20 => s.tr.rd.toNat
  | 0xB28 => s.tr.lost.toNat
  | 0xC00 => s.svc.sel.toNat
  | 0xC08 => unsgn 64 (s.svcVal s.svc.sel.toNat)
  | _ => 0

/-- A register as a read returns it (R5, R439, R589, R591, R608): live copies; write-only fields, keys and unassigned
offsets read zero. -/
def State.readReg (s : State) (off : Nat) : BitVec 64 :=
  BitVec.ofNat 64 (if off < 0x400 then s.readLow off else if off < 0x800 then s.readMid off else s.readHigh off)

/-- What a 64-bit read, or a 32-bit read of one half, returns (R3). -/
def State.readHalf (s : State) (off : Nat) (half : Option Bool) : BitVec 64 := halfOf half (s.readReg off)

-- Writing.

/-- The bits of a register that a write reaches: all, or a half (R3). -/
def reachOf : Option Bool → BitVec 64
  | none => 0xFFFFFFFFFFFFFFFF
  | some false => 0x00000000FFFFFFFF
  | some true => 0xFFFFFFFF00000000

/-- A write: its value within its reach, and the reach. -/
structure Wr where
  v : BitVec 64
  reach : BitVec 64
  deriving DecidableEq, Repr

/-- Field of a write, where the write reaches it; its old value otherwise. -/
def Wr.get (w : Wr) (lo n old : Nat) : Nat := fld ((w.v &&& w.reach) ||| (BitVec.ofNat 64 (old <<< lo) &&& ~~~w.reach)).toNat lo n
/-- A bit written as 1. -/
def Wr.one (w : Wr) (k : Nat) : Bool := (w.v &&& w.reach).getLsbD k
/-- A bit of an RW field. -/
def Wr.bit (w : Wr) (k : Nat) (old : Bool) : Bool := if w.reach.getLsbD k then w.v.getLsbD k else old
/-- Both halves are written. -/
def Wr.whole (w : Wr) : Bool := w.reach == 0xFFFFFFFFFFFFFFFF

/-- The cases in which a commit is refused (R596). -/
def State.commitBad (s : State) : Bool :=
  let b := s.stw.pend.base.toNat
  let t := s.tr.pend
  b % 4096 != 0 || !s.mine b (16 * 2 ^ 20) || (t.en && t.size == 0)
    || decide (stackBytes < t.base.toNat + 4096 * t.size.toNat)

/-- GO: every pending copy is taken together, or none (R439, R440, R595 to R598). -/
def State.commit (s : State) : State :=
  if s.commitBad then { s with stw := { s.stw with cerr := true } }
  else
    let t := s.tr
    let moved := t.pend.base != t.live.base || t.pend.size != t.live.size
    { s with
      stw := { s.stw with set := some s.stw.pend }
      tr := if moved then { t with live := t.pend, wr := 0, rd := 0 } else { t with live := t.pend } }

/-- Abandon the slots of a mask (R425, R600). -/
def State.abortSlots (s : State) (mask : BitVec 16) : State :=
  (allSlots.foldl (fun s i => if mask.getLsbD i.val then s.abandon i else s) s.sweep).pumpAll.showReasons

/-- `FGE_SLOT_EN`: ready nodes of a slot that is disabled or enabled show it (R587, R600). -/
def State.setSlotEn (s : State) (en : BitVec 16) : State :=
  { s with hg := { s.hg with slotEn := en } }.showReasons

/-- `FGE_VER_BASE` (R602). -/
def State.setVerBase (s : State) (b : Nat) : State :=
  if (allSlots.any fun i => (s.slot i).st != .free) || b % 4096 != 0 || !s.mine b (4 * 2 ^ 20) then s
  else { s with hg := { s.hg with verBase := BitVec.ofNat 60 b } }

/-- Every port is DOWN or UNUSED (R444). -/
def State.portsDown (s : State) : Bool := allPorts.all fun p => (s.port p).st == .down || (s.port p).st == .unused

/-- The hall's place and shape changed: ports of a dimension of size 1 are UNUSED, the others DOWN; a hall of one node
is whole by itself from INIT on (R443, R485, R499). -/
def State.placed (s : State) : State :=
  let s := allPorts.foldl (fun s p =>
    s.setPort p { s.port p with st := if s.portUnused p then .unused else .down }) s
  if s.phase = .power ∨ s.phase = .fuse ∨ s.phase = .scan then s
  else if s.hall.single then s.soleHall else s.strangerHall

/-- A node ID fits a torus (R441, R606). -/
def fitsTorus (n x y z : Nat) : Bool :=
  decide (coord n 0 < x) && decide (coord n 1 < y) && decide (coord n 2 < z)

/-- A write of `FGE_NODE_ID` (R444, R606). -/
def State.setNodeId (s : State) (n : Nat) : State :=
  let h := s.hall
  if !s.portsDown || !fitsTorus n h.xdim.toNat h.ydim.toNat h.zdim.toNat then
    { s with hall := { h with topoErr := true } }
  else ({ s with hall := { h with nid := BitVec.ofNat 12 n } }).placed

/-- A write of `FGE_HALL_TOPO` (R444, R606), with TOPOERR cleared where a 1 is written to it. -/
def State.setTopo (s : State) (x y z : Nat) (clear : Bool) : State :=
  let h := s.hall
  let dimOk := fun d : Nat => 1 ≤ d && d ≤ 16
  if !s.portsDown || !dimOk x || !dimOk y || !dimOk z || decide (4096 < x * y * z) || !fitsTorus h.nid.toNat x y z then
    { s with hall := { h with topoErr := true } }
  else
    ({ s with hall := { h with
      xdim := BitVec.ofNat 5 x, ydim := BitVec.ofNat 5 y, zdim := BitVec.ofNat 5 z
      topoErr := h.topoErr && !clear } }).placed

/-- One port under a write of `FGE_LINK_CTRL` (R607). -/
def State.linkCtrl (s : State) (pen : BitVec 6) (retrain : Nat) (p : Fin 6) : State :=
  let was := s.pen.getLsbD p.val
  let now := pen.getLsbD p.val
  let s := { s with pen := if now then s.pen ||| BitVec.ofNat 6 (2 ^ p.val) else s.pen &&& ~~~BitVec.ofNat 6 (2 ^ p.val) }
  let st := (s.port p).st
  if st = .unused then s
  else if !was && now then (s.startTraining p)
  else if was && !now then (if st = .down then s else s.portDown p .down true)
  else if now && bit retrain p.val then (s.portDown p .down true).startTraining p
  else s

/-- The key words held as one key. -/
def KeyPort.key (k : KeyPort) : Key :=
  ⟨BitVec.ofNat 256 ((k.words.take 4).zipIdx.foldl (fun a w => a + put (64 * w.2) 64 w.1.toNat) 0), k.salt⟩

/-- STAGE (R464, R465, R609). -/
def State.stageKey (s : State) : State :=
  let k := s.key
  let n := k.kport.toNat
  let bad := decide (k.words.length < 4) || n == 6 || (decide (n < 6) && s.hall.dim (n / 2) == 1)
  if bad then { s with key := { k with keyErr := true } }
  else
    let key := k.key
    let s := { s with key := { k with words := [], salt := 0 } }
    if h : n < 6 then
      let p : Fin 6 := ⟨n, h⟩
      if k.kdir then (s.setPort p { s.port p with stRx := some key }).sayReady p
      else (s.setPort p { s.port p with stTx := some key }).switchTx p
    else { s with key := { s.key with snapKey := some key } }

/-- A write of `FGE_KEY_SEL` (R608, R609). -/
def State.keySelWrite (s : State) (kport : BitVec 3) (kdir stage clear : Bool) : State :=
  let s := if clear then { s with key := { s.key with keyErr := false } } else s
  if stage then s.stageKey
  else { s with key := { s.key with kport := kport, kdir := kdir, words := [], salt := 0 } }

/-- A key word; a fifth is ignored and sets KEYERR (R609). -/
def State.keyWord (s : State) (w : BitVec 64) : State :=
  if 4 ≤ s.key.words.length then { s with key := { s.key with keyErr := true } }
  else { s with key := { s.key with words := s.key.words ++ [w] } }

/-- Snapshot configuration cannot change now (R510). -/
def State.snapBusy (s : State) : Bool :=
  s.flying 0x42 || s.flying 0x43 || s.rebuilding || s.snap.buf.any fun b => !(b == .empty || b == .held)

/-- A write of one of the registers of R508. -/
def State.snapWrite (s : State) (which : Nat) (w : Wr) : State :=
  let x := s.snap
  if s.snapBusy then { s with snap := { x with cfgErr := true } }
  else match which with
    | 0 => { s with snap := { x with sbase := BitVec.ofNat 60 (w.get 0 60 x.sbase.toNat) } }
    | 1 => { s with snap := { x with pbase := BitVec.ofNat 60 (w.get 0 60 x.pbase.toNat) } }
    | _ => { s with snap := { x with
        imgpg := BitVec.ofNat 28 (w.get 0 28 x.imgpg.toNat), pgcnt := BitVec.ofNat 12 (w.get 28 12 x.pgcnt.toNat)
        drain := BitVec.ofNat 4 (w.get 40 4 x.drain.toNat), minit := BitVec.ofNat 20 (w.get 44 20 x.minit.toNat) } }

/-- A load of the selected service-record counter (R17). -/
def State.svcLoadWrite (s : State) (v : BitVec 64) : State :=
  let i := s.svc.sel.toNat
  if !s.loadOpen || decide (204 ≤ i) then s
  else
    let x : Int := if 128 ≤ i ∧ i < 144 then v.toInt else v.toNat
    { s with svc := { s.svc with load := s.svc.load.set i x, loaded := insertNew i s.svc.loaded } }

/-- Software's read index (R614). -/
def State.setTraceRd (s : State) (r : Nat) : State :=
  if s.tr.wr.toNat < r ∨ r + s.tr.live.records < s.tr.wr.toNat then s
  else { s with tr := { s.tr with rd := BitVec.ofNat 40 r } }

/-- The pending `FGE_TRACE_CTRL` (R578). -/
def TraceRegs.write (t : TraceRegs) (w : Wr) : TraceRegs :=
  { t with
    en := w.bit 0 t.en, stopFull := w.bit 1 t.stopFull, evt := w.bit 2 t.evt, inst := w.bit 3 t.inst
    stw := w.bit 4 t.stw, telem := w.bit 5 t.telem, cper := BitVec.ofNat 16 (w.get 8 16 t.cper.toNat)
    pper := BitVec.ofNat 16 (w.get 24 16 t.pper.toNat), hangt := BitVec.ofNat 16 (w.get 40 16 t.hangt.toNat) }

/-- `FGE_SNAP_ACK` (R523, R590). -/
def State.snapAck (s : State) (v : Nat) : State :=
  let s := s.sweep
  let num := BitVec.ofNat 32 (fld v 0 32)
  match fld v 32 2 with
  | 1 => (s.ackCopy 1 num (bit v 35)).snapPump
  | 2 => (s.ackCopy 2 num (bit v 35)).snapPump
  | 3 => s.ackLoad num (bit v 34) (bit v 35)
  | _ => s

/-- Writes of slots, events, time and hall. -/
def State.writeLow (s : State) (off : Nat) (w : Wr) : State :=
  match off with
  | 0x018 =>
    let s := if w.one 2 then { s with stw := { s.stw with cerr := false } } else s
    if w.one 0 then s.commit else s
  | 0x108 => s.abortSlots ((w.v &&& w.reach).setWidth 16)
  | 0x110 => s.setSlotEn (BitVec.ofNat 16 (w.get 0 16 s.hg.slotEn.toNat))
  | 0x120 => s.setVerBase (w.get 0 60 s.hg.verBase.toNat)
  | 0x200 => { s with evt := { s.evt with pend := s.evt.pend &&& ~~~(w.v &&& w.reach).setWidth 26 } }
  | 0x208 => { s with evt := { s.evt with mask := BitVec.ofNat 26 (w.get 0 26 s.evt.mask.toNat) } }
  | 0x308 => { s with tm := { s.tm with stepped := s.tm.stepped && !w.one 10 } }
  | 0x310 => if w.whole then s.stopWrite w.v else s
  | 0x318 =>
    let s := { s with cut := { s.cut with late := s.cut.late && !w.one 3, stopErr := s.cut.stopErr && !w.one 4 } }
    if w.one 5 then s.sweep.resume else s
  | 0x320 => if !s.portsDown then s else { s with hall := { s.hall with
      mgr := BitVec.ofNat 12 (w.get 0 12 s.hall.mgr.toNat)
      backup := BitVec.ofNat 12 (w.get 12 12 s.hall.backup.toNat) } }
  | _ => s

/-- Writes of power, governor, self-test, links and keys. -/
def State.writeMid (s : State) (off : Nat) (w : Wr) : State :=
  match off with
  | 0x400 =>
    let t := w.get 0 2 s.pwr.target.toNat
    if t = 3 ∨ w.reach.getLsbD 0 = false then s
    else { s.setTarget t with pwr := { (s.setTarget t).pwr with autoIdle := w.bit 2 s.pwr.autoIdle } }
  | 0x410 => { s with gov := { s.gov with
      tlim := BitVec.ofNat 8 (w.get 0 8 s.gov.tlim.toNat), tcrit := BitVec.ofNat 8 (w.get 8 8 s.gov.tcrit.toNat)
      stage := BitVec.ofNat 4 (w.get 16 4 s.gov.stage.toNat), tmax := BitVec.ofNat 4 (w.get 20 4 s.gov.tmax.toNat)
      plim := BitVec.ofNat 16 (w.get 24 16 s.gov.plim.toNat) } }
  | 0x500 =>
    -- a refused START leaves the other fields as they are (R554, R593)
    let t := if w.one 0 then s.startTest else s
    if t.st.stErr && !s.st.stErr then t
    else if w.one 0 && s.startTest == { s with st := { s.st with stErr := true } } then t
    else { t with st := { t.st with warmSt := w.bit 1 t.st.warmSt, stErr := t.st.stErr && !w.one 3 } }
  | 0x508 => { s with st := { s.st with mode := BitVec.ofNat 2 (w.get 0 2 s.st.mode.toNat) } }
  | 0x518 => { s with st := { s.st with asel := BitVec.ofNat 5 (w.get 0 5 s.st.asel.toNat) } }
  | 0x528 => { s with hg := { s.hg with aen := BitVec.ofNat 32 (w.get 0 32 s.hg.aen.toNat) } }
  | 0x600 => if w.reach.getLsbD 0 then s.setNodeId (w.get 0 12 0) else s
  | 0x608 => if w.reach.getLsbD 0 then s.setTopo (w.get 0 5 0) (w.get 5 5 0) (w.get 10 5 0) (w.one 15) else s
  | 0x610 =>
    let pen := BitVec.ofNat 6 (w.get 0 6 s.pen.toNat)
    allPorts.foldl (fun s p => s.linkCtrl pen ((w.v &&& w.reach).toNat >>> 6) p) s.sweep
  | 0x700 => if w.reach.getLsbD 0 then
      s.keySelWrite (BitVec.ofNat 3 (w.get 0 3 0)) (w.one 3) (w.one 4) (w.one 5) else s
  | 0x708 => if w.whole then s.keyWord w.v else s
  | 0x710 => { s with key := { s.key with salt := BitVec.ofNat 32 (w.get 0 32 s.key.salt.toNat) } }
  | _ => s

/-- Writes of steward, snapshots, observation and the service record. -/
def State.writeHigh (s : State) (off : Nat) (w : Wr) : State :=
  match off with
  | 0x800 => { s with stw := { s.stw with pend := { s.stw.pend with
      base := BitVec.ofNat 60 (w.get 0 60 s.stw.pend.base.toNat) } } }
  | 0x808 => { s with stw := { s.stw with pend := { s.stw.pend with
      en := w.bit 0 s.stw.pend.en, freeze := w.bit 1 s.stw.pend.freeze } } }
  | 0x810 => { s with stw := { s.stw with pend := { s.stw.pend with
      slim := BitVec.ofNat 16 (w.get 0 16 s.stw.pend.slim.toNat) } } }
  | 0x900 => s.snapWrite 0 w
  | 0x908 => s.snapWrite 1 w
  | 0x910 => s.snapWrite 2 w
  | 0x918 => if w.whole then s.snapAck w.v.toNat else s
  | 0x928 => { s with snap := { s.snap with cfgErr := s.snap.cfgErr && !w.one 36 } }
  | 0xA00 => if w.reach.getLsbD 0 then
      s.counterCmd (BitVec.ofNat 4 (w.get 0 4 0)) (w.get 4 2 0) (BitVec.ofNat 16 (w.get 16 16 0)) else s
  | 0xA08 => { s with obs := { s.obs with
      rbank := BitVec.ofNat 4 (w.get 0 4 s.obs.rbank.toNat), ridx := BitVec.ofNat 5 (w.get 4 5 s.obs.ridx.toNat) } }
  | 0xB00 =>
    let b := w.get 0 64 s.tr.pend.base.toNat
    if 2 ^ 43 ≤ b ∨ b % 4096 ≠ 0 then s
    else { s with tr := { s.tr with pend := { s.tr.pend with base := BitVec.ofNat 43 b } } }
  | 0xB08 => { s with tr := { s.tr with pend := { s.tr.pend with
      size := BitVec.ofNat 20 (w.get 0 20 s.tr.pend.size.toNat) } } }
  | 0xB10 => { s with tr := { s.tr with pend := s.tr.pend.write w } }
  | 0xB20 => s.setTraceRd (w.get 0 40 s.tr.rd.toNat)
  | 0xC00 => { s with svc := { s.svc with sel := BitVec.ofNat 8 (w.get 0 8 s.svc.sel.toNat) } }
  | 0xC10 => if w.whole then s.svcLoadWrite w.v else s
  | _ => s

/-- Registers whose action needs a unit that DEEP powers off (R540, R592): commit, slots, ports, keys, snapshot reports. -/
def heldInDeep (off : Nat) : Bool := off ∈ [0x018, 0x108, 0x610, 0x700, 0x918]

/-- Whether a write sets off such an action: a commit needs GO, an abort some slot, a key STAGE, and a report its kind
(R523). -/
def Wr.acts (w : Wr) (off : Nat) : Bool :=
  if off = 0x018 then w.one 0 else if off = 0x108 then fld (w.v &&& w.reach).toNat 0 16 != 0
  else if off = 0x700 then w.one 4 else if off = 0x918 then w.whole && fld w.v.toNat 32 2 != 0 else true

/-- A write with what it sets off, outside DEEP. -/
def State.writeNow (s : State) (off : Nat) (w : Wr) : State :=
  if off < 0x400 then s.writeLow off w else if off < 0x800 then s.writeMid off w else s.writeHigh off w

/-- A write to the window (R3, R5, R590, R592). In DEEP a write whose action needs a unit that is off is held, the last
one for each register. -/
def State.regWrite (s : State) (off : Nat) (half : Option Bool) (v : BitVec 64) : State :=
  let w : Wr := ⟨v &&& reachOf half, reachOf half⟩
  if s.asleep && heldInDeep off && w.acts off && w.reach.getLsbD 0 then
    { s with hg := { s.hg with
      held := s.hg.held.filter (fun h => h.1.toNat != off) ++ [(BitVec.ofNat 16 off, w.v)] } }
  else s.writeNow off w

/-- A write, answered normally (R5, R593). -/
def State.write (s : State) (off : Nat) (half : Option Bool) (v : BitVec 64) : State :=
  (s.regWrite off half v).answer 0

/-- A 64-bit write. -/
def State.write64 (s : State) (off : Nat) (v : Nat) : State := s.write off none (BitVec.ofNat 64 v)

-- The commands.

/-- REGISTER_WRITE (R3 to R6, R590). -/
def execRegisterWrite (offset : BitVec 16) (half : Option Bool) (v : BitVec 64) (s : State) :
    Host.Outcome State Fault Refusal :=
  .next (if offset.toNat % 8 = 0 then s.write offset.toNat half v
    else { s with out := { s.out with mgmt := ⟨false, 0⟩ } })

/-- BAD_ACCESS: an error response and no effect (R4). -/
def execBadAccess (offset : BitVec 16) (size : Nat) (_write : Bool) (s : State) : Host.Outcome State Fault Refusal :=
  .next (if (size = 4 ∨ size = 8) ∧ offset.toNat % size = 0 then s
    else { s with out := { s.out with mgmt := ⟨false, 0⟩ } })

/-- GO (R595). -/
def execGo (s : State) : Host.Outcome State Fault Refusal := .next (s.write64 0x018 1)
/-- ABORT (R425, R600). -/
def execAbort (mask : BitVec 16) (s : State) : Host.Outcome State Fault Refusal := .next (s.write64 0x108 mask.toNat)
/-- EVENT_CLEAR (R603). -/
def execEventClear (bits : BitVec 26) (s : State) : Host.Outcome State Fault Refusal :=
  .next (s.write64 0x200 bits.toNat)
/-- MASK_WRITE (R603). -/
def execMaskWrite (mask : BitVec 26) (s : State) : Host.Outcome State Fault Refusal :=
  .next (s.write64 0x208 mask.toNat)
/-- TRACE_RD_WRITE (R614). -/
def execTraceRdWrite (ridx : BitVec 40) (s : State) : Host.Outcome State Fault Refusal :=
  .next (s.write64 0xB20 ridx.toNat)
/-- KEY_SEL: a selection with STAGE 0 (R609). -/
def execKeySel (kport : BitVec 3) (kdir : Bool) (s : State) : Host.Outcome State Fault Refusal :=
  .next (s.write64 0x700 (kport.toNat + 8 * b2n kdir))
/-- STAGE (R464, R609). -/
def execStage (s : State) : Host.Outcome State Fault Refusal := .next (s.write64 0x700 16)
/-- KWORD (R608, R609). -/
def execKword (w : BitVec 64) (s : State) : Host.Outcome State Fault Refusal := .next (s.write 0x708 none w)
/-- SALT (R464, R608). -/
def execSalt (w : BitVec 32) (s : State) : Host.Outcome State Fault Refusal := .next (s.write64 0x710 w.toNat)
/-- SVC_LOAD (R17, R556). -/
def execSvcLoad (v : BitVec 64) (s : State) : Host.Outcome State Fault Refusal := .next (s.write 0xC10 none v)
/-- PORT_ENABLE: one PEN bit is set (R607). -/
def execPortEnable (port : Fin 6) (s : State) : Host.Outcome State Fault Refusal :=
  .next (s.write64 0x610 (s.pen ||| BitVec.ofNat 6 (2 ^ port.val)).toNat)
/-- PORT_DISABLE: one PEN bit is cleared (R607). -/
def execPortDisable (port : Fin 6) (s : State) : Host.Outcome State Fault Refusal :=
  .next (s.write64 0x610 (s.pen &&& ~~~BitVec.ofNat 6 (2 ^ port.val)).toNat)
/-- RETRAIN: one RETRAIN bit is written as 1 (R607). -/
def execRetrain (port : Fin 6) (s : State) : Host.Outcome State Fault Refusal :=
  .next (s.write64 0x610 (s.pen.toNat + 2 ^ (6 + port.val)))
/-- ACK_FLASH: a report through `FGE_SNAP_ACK` (R523). -/
def execAckFlash (snum : BitVec 32) (fail : Bool) (s : State) : Host.Outcome State Fault Refusal :=
  .next (s.write64 0x918 (snum.toNat + put 32 2 1 + put 35 1 (b2n fail)))
/-- ACK_STORE (R523). -/
def execAckStore (snum : BitVec 32) (fail : Bool) (s : State) : Host.Outcome State Fault Refusal :=
  .next (s.write64 0x918 (snum.toNat + put 32 2 2 + put 35 1 (b2n fail)))
/-- ACK_LOAD (R523, R533, R534). -/
def execAckLoad (snum : BitVec 32) (buf : Bool) (fail : Bool) (s : State) : Host.Outcome State Fault Refusal :=
  .next (s.write64 0x918 (snum.toNat + put 32 2 3 + put 34 1 (b2n buf) + put 35 1 (b2n fail)))
/-- NODE_ID_WRITE (R606). -/
def execNodeIdWrite (v : BitVec 64) (s : State) : Host.Outcome State Fault Refusal := .next (s.write 0x600 none v)
/-- HALL_TOPO_WRITE (R606). -/
def execHallTopoWrite (v : BitVec 64) (s : State) : Host.Outcome State Fault Refusal := .next (s.write 0x608 none v)
/-- VER_BASE_WRITE (R602). -/
def execVerBaseWrite (v : BitVec 64) (s : State) : Host.Outcome State Fault Refusal := .next (s.write 0x120 none v)
/-- SNAP_CONFIG_WRITE: 0 `FGE_SNAP_BASE`, 1 `FGE_PGRP_BASE`, 2 `FGE_SNAP_CTRL` (R508, R510). -/
def execSnapConfigWrite (which : Fin 3) (v : BitVec 64) (s : State) : Host.Outcome State Fault Refusal :=
  .next (s.write (0x900 + 8 * which.val) none v)

/-- DEEP_WAKE_DONE: ports and arrays are back, receive lanes that showed bit errors on the way are removed, the engine is in
RUN, and held writes act (R563, R592). The lanes of the `dark` ports did not return: their far ends are in DEEP (R462). -/
def execDeepWakeDone (s : State) (errors : List (Fin 6 × Nat) := []) (dark : List (Fin 6) := []) :
    Host.Outcome State Fault Refusal :=
  .next (if s.pwr.st = .waking ∧ s.pwr.wakeFrom = .deep then
      let s := s.sweep
      let held := s.hg.held
      let s := ({ s with hg := { s.hg with held := [] } }.allBackUp errors dark).awake
      held.foldl (fun s h => s.writeNow h.1.toNat ⟨h.2, reachOf (if h.1 = 0x918 then none else some false)⟩) s
    else s)

end Sys2Proof.Machine
end

