-- ==== Sys2Proof/Machine/Dispatch.lean ====
section
/-! DEFINITION. What each command does to everything but the queue: one arm per row of the table. -/
namespace Sys2Proof.Machine

def exec (i : Instr) (s : State) : Host.Outcome State Fault Refusal :=
  match i with
  | .submit req => Sys2Proof.Machine.execSubmit req s
  | .graphLoadComplete => Sys2Proof.Machine.execGraphLoadComplete s
  | .fprod slot node core hits => Sys2Proof.Machine.execFprod slot node core hits s
  | .gdx slot node core hits => Sys2Proof.Machine.execGdx slot node core hits s
  | .gdw slot node core hits => Sys2Proof.Machine.execGdw slot node core hits s
  | .dist slot node core hits => Sys2Proof.Machine.execDist slot node core hits s
  | .maxidx slot node core => Sys2Proof.Machine.execMaxidx slot node core s
  | .qstat slot node core => Sys2Proof.Machine.execQstat slot node core s
  | .qconv slot node core => Sys2Proof.Machine.execQconv slot node core s
  | .rescale slot node core => Sys2Proof.Machine.execRescale slot node core s
  | .push slot node => Sys2Proof.Machine.execPush slot node s
  | .pop slot node => Sys2Proof.Machine.execPop slot node s
  | .rowrec slot node core => Sys2Proof.Machine.execRowrec slot node core s
  | .deriv slot node core => Sys2Proof.Machine.execDeriv slot node core s
  | .move slot node => Sys2Proof.Machine.execMove slot node s
  | .gather slot node => Sys2Proof.Machine.execGather slot node s
  | .scatter slot node => Sys2Proof.Machine.execScatter slot node s
  | .reduce slot node => Sys2Proof.Machine.execReduce slot node s
  | .update slot node => Sys2Proof.Machine.execUpdate slot node s
  | .snap slot node => Sys2Proof.Machine.execSnap slot node s
  | .restore slot node images => Sys2Proof.Machine.execRestore slot node s images
  | .fence slot node => Sys2Proof.Machine.execFence slot node s
  | .stopat slot node => Sys2Proof.Machine.execStopat slot node s
  | .step slot node => Sys2Proof.Machine.execStep slot node s
  | .ctxsave slot node stops => Sys2Proof.Machine.execCtxsave slot node stops s
  | .ctxload slot node cores => Sys2Proof.Machine.execCtxload slot node cores s
  | .nop slot node => Sys2Proof.Machine.execNop slot node s
  | .operandFetch slot node core skew => Sys2Proof.Machine.execOperandFetch slot node core skew s
  | .gangStreamStart slot node hits => Sys2Proof.Machine.execGangStreamStart slot node s hits
  | .instructionRetire slot node => Sys2Proof.Machine.execInstructionRetire slot node s
  | .stashMove slot => Sys2Proof.Machine.execStashMove slot s
  | .stashReturn slot => Sys2Proof.Machine.execStashReturn slot s
  | .go => Sys2Proof.Machine.execGo s
  | .abort mask => Sys2Proof.Machine.execAbort mask s
  | .eventClear bits => Sys2Proof.Machine.execEventClear bits s
  | .maskWrite mask => Sys2Proof.Machine.execMaskWrite mask s
  | .counterSample bank cmdid => Sys2Proof.Machine.execCounterSample bank cmdid s
  | .counterReset bank cmdid => Sys2Proof.Machine.execCounterReset bank cmdid s
  | .sampleAndReset bank cmdid => Sys2Proof.Machine.execSampleAndReset bank cmdid s
  | .cntTagRead half => Sys2Proof.Machine.execCntTagRead s half
  | .traceLostRead half => Sys2Proof.Machine.execTraceLostRead s half
  | .traceRdWrite ridx => Sys2Proof.Machine.execTraceRdWrite ridx s
  | .stopAtWrite t => Sys2Proof.Machine.execStopAtWrite t s
  | .resume => Sys2Proof.Machine.execResume s
  | .keySel kport kdir => Sys2Proof.Machine.execKeySel kport kdir s
  | .stage => Sys2Proof.Machine.execStage s
  | .kword w => Sys2Proof.Machine.execKword w s
  | .salt w => Sys2Proof.Machine.execSalt w s
  | .svcLoad v => Sys2Proof.Machine.execSvcLoad v s
  | .start => Sys2Proof.Machine.execStart s
  | .portEnable port => Sys2Proof.Machine.execPortEnable port s
  | .portDisable port => Sys2Proof.Machine.execPortDisable port s
  | .retrain port => Sys2Proof.Machine.execRetrain port s
  | .targetRun => Sys2Proof.Machine.execTargetRun s
  | .targetNap => Sys2Proof.Machine.execTargetNap s
  | .targetDeep => Sys2Proof.Machine.execTargetDeep s
  | .nodeIdWrite v => Sys2Proof.Machine.execNodeIdWrite v s
  | .hallTopoWrite v => Sys2Proof.Machine.execHallTopoWrite v s
  | .verBaseWrite v => Sys2Proof.Machine.execVerBaseWrite v s
  | .snapConfigWrite which v => Sys2Proof.Machine.execSnapConfigWrite which v s
  | .ackFlash snum fail => Sys2Proof.Machine.execAckFlash snum fail s
  | .ackStore snum fail => Sys2Proof.Machine.execAckStore snum fail s
  | .ackLoad snum buf fail => Sys2Proof.Machine.execAckLoad snum buf fail s
  | .registerWrite offset half v => Sys2Proof.Machine.execRegisterWrite offset half v s
  | .badAccess offset size write => Sys2Proof.Machine.execBadAccess offset size write s
  | .coldReset => Sys2Proof.Machine.execColdReset s
  | .warmReset => Sys2Proof.Machine.execWarmReset s
  | .scanRequest => Sys2Proof.Machine.execScanRequest s
  | .startupPhaseEnd => Sys2Proof.Machine.execStartupPhaseEnd s
  | .selftestBatchEnd found => Sys2Proof.Machine.execSelftestBatchEnd found s
  | .selftestRunEnd => Sys2Proof.Machine.execSelftestRunEnd s
  | .activeClkCrossing => Sys2Proof.Machine.execActiveClkCrossing s
  | .autoidle => Sys2Proof.Machine.execAutoidle s
  | .napEnter => Sys2Proof.Machine.execNapEnter s
  | .deepEnter => Sys2Proof.Machine.execDeepEnter s
  | .napWakeDone => Sys2Proof.Machine.execNapWakeDone s
  | .deepWakeDone errors dark => Sys2Proof.Machine.execDeepWakeDone s errors dark
  | .currentSample ma mv => Sys2Proof.Machine.execCurrentSample ma mv s
  | .sensorRead temps => Sys2Proof.Machine.execSensorRead temps s
  | .throttleLevelUpdate => Sys2Proof.Machine.execThrottleLevelUpdate s
  | .forecast => Sys2Proof.Machine.execForecast s
  | .governorTelemetry => Sys2Proof.Machine.execGovernorTelemetry s
  | .automaticSample => Sys2Proof.Machine.execAutomaticSample s
  | .positionSample => Sys2Proof.Machine.execPositionSample s
  | .hang slot => Sys2Proof.Machine.execHang slot s
  | .snapdue => Sys2Proof.Machine.execSnapdue s
  | .timeFlitSend port sixteenth => Sys2Proof.Machine.execTimeFlitSend port s sixteenth
  | .timeFlit port send recv farRecv echoed hops => Sys2Proof.Machine.execTimeFlit port send recv farRecv echoed hops s
  | .trainStepEnd port lanes => Sys2Proof.Machine.execTrainStepEnd port lanes s
  | .trainingRetry port => Sys2Proof.Machine.execTrainingRetry port s
  | .laneSignalLoss port lane => Sys2Proof.Machine.execLaneSignalLoss port lane s
  | .laneRetrainDone port lane pass => Sys2Proof.Machine.execLaneRetrainDone port lane pass s
  | .laneRecoveryTimeout port transmit => Sys2Proof.Machine.execLaneRecoveryTimeout port transmit s
  | .keyReady port => Sys2Proof.Machine.execKeyReady port s
  | .keySwitch port tagOk => Sys2Proof.Machine.execKeySwitch port tagOk s
  | .readRequest port f tagOk => Sys2Proof.Machine.execReadRequest port f tagOk s
  | .store port f tagOk => Sys2Proof.Machine.execStore port f tagOk s
  | .accumulateWrite port f tagOk => Sys2Proof.Machine.execAccumulateWrite port f tagOk s
  | .accumulateWriteCompressed port f tagOk => Sys2Proof.Machine.execAccumulateWriteCompressed port f tagOk s
  | .readResponse port f tagOk => Sys2Proof.Machine.execReadResponse port f tagOk s
  | .endToEndAck port f tagOk => Sys2Proof.Machine.execEndToEndAck port f tagOk s
  | .negativeResponse port f tagOk => Sys2Proof.Machine.execNegativeResponse port f tagOk s
  | .flitForward port f tagOk => Sys2Proof.Machine.execFlitForward port f tagOk s
  | .replayRequest port pseq => Sys2Proof.Machine.execReplayRequest port pseq s
  | .linkAcknowledgement port pseq => Sys2Proof.Machine.execLinkAcknowledgement port pseq s
  | .creditReturn port queue n => Sys2Proof.Machine.execCreditReturn port queue n s
  | .telemetryFlit src body => Sys2Proof.Machine.execTelemetryFlit src body s
  | .portStateNotice node port state => Sys2Proof.Machine.execPortStateNotice node port state s
  | .wakeRequest port => Sys2Proof.Machine.execWakeRequest port s
  | .stopCommand port t => Sys2Proof.Machine.execStopCommand port t s
  | .stopTick => Sys2Proof.Machine.execStopTick s
  | .cutLocalDone => Sys2Proof.Machine.execCutLocalDone s
  | .cutDoneNotice node late => Sys2Proof.Machine.execCutDoneNotice node late s
  | .resumeNotice node => Sys2Proof.Machine.execResumeNotice node s
  | .stepReady node merges => Sys2Proof.Machine.execStepReady node merges s
  | .stepDone blocks => Sys2Proof.Machine.execStepDone blocks s
  | .endMarker src layer opid ubatch step => Sys2Proof.Machine.execEndMarker src layer opid ubatch step s
  | .snapReady node snum depth check => Sys2Proof.Machine.execSnapReady node snum depth check s
  | .captureDone node snum => Sys2Proof.Machine.execCaptureDone node snum s
  | .snapCaptureEnd overflow => Sys2Proof.Machine.execSnapCaptureEnd overflow s
  | .parityComplete role images => Sys2Proof.Machine.execParityComplete role images s
  | .parityNotice node snum => Sys2Proof.Machine.execParityNotice node snum s
  | .liveSetChange set acked => Sys2Proof.Machine.execLiveSetChange set s acked
  | .partitionEvaluation contNear => Sys2Proof.Machine.execPartitionEvaluation s contNear
  | .lossDeclaration lost => Sys2Proof.Machine.execLossDeclaration lost s
  | .rebuildDone images => Sys2Proof.Machine.execRebuildDone images s
  | .rejoin count lost => Sys2Proof.Machine.execRejoin count s lost
  | .laneRemovalNotice port lane => Sys2Proof.Machine.execLaneRemovalNotice port lane s
  | .stashReturnEnd slot => Sys2Proof.Machine.execStashReturnEnd slot s
  | .restoreWriteEnd images => Sys2Proof.Machine.execRestoreWriteEnd images s
  | .copyReport node store snum ok => Sys2Proof.Machine.execCopyReport node store snum ok s
  | .backupHistoryUpdate costs intervals => Sys2Proof.Machine.execBackupHistoryUpdate costs intervals s

end Sys2Proof.Machine
end

