-- ==== Sys2Proof/Machine/Step.lean ====
section
/-! DEFINITION. One step: the command at the front of the queue, or, on an empty queue, one tick (R479,
log 11). -/
namespace Sys2Proof.Machine

/-- The tick count advances by one, or, while an offset is slewed, by one less or more on at most one
tick in 4,096 (R479, R483). -/
def State.idle (s : State) : State := s.advance

/-- One step of the engine. -/
def step (s : State) : Host.Outcome State Fault Refusal :=
  match s.pending with
  | [] => .next s.idle
  | c :: r => exec c { s with pending := r }

/-- No row of the table has bits, so no word spells a command: the state as it is. -/
def State.withFetchWord (s : State) (nbits w : Nat) : State :=
  match decodeTableWord nbits w with
  | some c => { s with pending := c :: s.pending }
  | none => s

end Sys2Proof.Machine
end

