-- ==== Sys2Proof/Safety.lean ====
section
/-! DEFINITION. What claims about the engine rest on: the invariants of a state that a run can meet, and what no step
does. -/
namespace Sys2Proof.Machine

/-- A step that goes on: the engine stops at nothing (R1, log 14). -/
def Runs (s : State) : Prop := ∃ t, step s = .next t

/-- The bytes of the stacks are held in their canonical form (log 2). -/
def State.MemOk (s : State) : Prop := Memory.wf s.mem = true

/-- `GRADE` is one of the four grades, with the number of usable arrays that the grade has (R9, R13). -/
def State.GradeOk (s : State) : Prop :=
  (s.grade = 3 ∧ s.present = 0xFFFFFFFF) ∨ (s.grade = 2 ∧ popCount s.present.toNat 32 = 30)
    ∨ (s.grade = 1 ∧ popCount s.present.toNat 32 = 28) ∨ (s.grade = 0 ∧ popCount s.present.toNat 32 < 28)

end Sys2Proof.Machine
end

