-- ==== Sys2Proof/WellFormed.lean ====
section
/-! DEFINITION. Which commands the engine's surroundings can deliver: operands within the ranges that the manual
gives them. `exec` is total on every command; an operand outside these ranges comes from no interface. -/
namespace Sys2Proof

/-- A node of a task graph: `TW_COUNT` is at most 1,048,576 (R413). -/
def nodeOk (n : Nat) : Bool := decide (n < 1048576)

/-- Members of a gang: at most four (R427 to R429). -/
def hitsOk (l : List ParityHit) : Bool := l.all fun h => decide (h.member < 4)

/-- A coordinate along K lies below an extent of twenty bits; a view's K range is below 2²⁸ (R321, R356). -/
def TagSkew.wf (k : TagSkew) : Bool := decide (k.k < 2 ^ 28) && (k.member.map fun m => decide (m < 4)).getD true

/-- A physical lane of a port (R445). -/
def laneOk (n : Nat) : Bool := decide (n < 9)

/-- What a receiver can find on a lane: its sync word names a port and a lane (R453). -/
def LaneObs.wf (l : LaneObs) : Bool :=
  match l.sync with
  | none => true
  | some (_, port, lane, _) => decide (port < 6) && laneOk lane

/-- Nine lanes, and in step 6 the far receiver's nine as well (R453). -/
def lanesOk (l : List LaneObs) : Bool := (l.length == 9 || l.length == 18) && l.all LaneObs.wf

/-- A flit carries at most 128 bytes of payload (R446). -/
def Flit.wf (f : Flit) : Bool := decide (f.payload.length ≤ 128)

/-- Arrays are numbered to 31, plot-rows and plot-columns to 47 (02_array, R548). -/
def ArrayFinding.wf (a : ArrayFinding) : Bool :=
  decide (a.array < 32) && a.plots.all fun p => decide (p.1 < 48) && decide (p.2 < 48)

/-- Bytes by address, in canonical form: addresses rising, no zero byte listed. -/
def cellsOk : Memory → Bool
  | [] => true
  | [(_, v)] => v != 0
  | (a, v) :: (b, w) :: r => v != 0 && decide (a < b) && cellsOk ((b, w) :: r)

/-- The bytes of an image lie in its pages of 4,096 bytes (R509, R514). -/
def Image.wf (i : Image) : Bool := cellsOk i.cells && i.cells.all fun c => decide (c.1 < i.pages * 4096)

/-- A time flit's ticks, in 1/16 tk of a count of 64 bits (R479, R482). -/
def stampOk (n : Nat) : Bool := decide (n < 2 ^ 68)

/-- A queue of link credits holds 64 (R449). -/
def creditOk (n : Nat) : Bool := decide (1 ≤ n) && decide (n ≤ 64)

/-- Well-formed commands. -/
def Instr.wf : Instr → Bool
  | .submit _ | .graphLoadComplete => true
  | .fprod _ n _ h | .gdx _ n _ h | .gdw _ n _ h | .dist _ n _ h => nodeOk n && hitsOk h
  | .maxidx _ n _ | .qstat _ n _ | .qconv _ n _ | .rescale _ n _ | .push _ n | .pop _ n => nodeOk n
  | .rowrec _ n _ | .deriv _ n _ | .move _ n | .gather _ n | .scatter _ n | .reduce _ n => nodeOk n
  | .update _ n | .snap _ n | .fence _ n | .stopat _ n | .step _ n => nodeOk n
  | .ctxsave _ n l => nodeOk n && l.all fun x => nodeOk x.1
  | .ctxload _ n l => nodeOk n && l.all fun x => nodeOk x.1
  | .nop _ n | .instructionRetire _ n => nodeOk n
  | .gangStreamStart _ n h => nodeOk n && hitsOk h
  | .operandFetch _ n _ k => nodeOk n && (k.map TagSkew.wf).getD true
  | .stashMove _ | .stashReturn _ | .go | .abort _ | .eventClear _ | .maskWrite _ => true
  | .counterSample _ _ | .counterReset _ _ | .sampleAndReset _ _ | .cntTagRead _ | .traceLostRead _ => true
  | .traceRdWrite _ | .stopAtWrite _ | .resume | .keySel _ _ | .stage | .kword _ | .salt _ | .svcLoad _ => true
  | .start | .portEnable _ | .portDisable _ | .retrain _ | .targetRun | .targetNap | .targetDeep => true
  | .nodeIdWrite _ | .hallTopoWrite _ | .verBaseWrite _ | .snapConfigWrite _ _ => true
  | .ackFlash _ _ | .ackStore _ _ | .ackLoad _ _ _ => true
  -- an access of 64 bits, or of a half of them (R3)
  | .registerWrite o _ _ => o.toNat % 8 == 0
  -- an access that is neither (R4)
  | .badAccess o size _ => !((size == 4 || size == 8) && o.toNat % size == 0)
  | .coldReset | .warmReset | .scanRequest | .startupPhaseEnd | .selftestRunEnd => true
  | .selftestBatchEnd l => l.all ArrayFinding.wf
  | .activeClkCrossing | .autoidle | .napEnter | .deepEnter | .napWakeDone | .deepWakeDone _ _ => true
  -- a current and a voltage for each of VARR, VLOG and VLNK, and of VAON where it is measured (R564)
  | .currentSample ma mv => ma.length == mv.length && decide (3 ≤ ma.length) && decide (ma.length ≤ 4)
  | .sensorRead t => t.length == 16
  | .throttleLevelUpdate | .forecast | .governorTelemetry | .automaticSample | .positionSample | .hang _ => true
  | .snapdue | .timeFlitSend _ _ => true
  | .timeFlit _ a b c d _ => stampOk a && stampOk b && stampOk c && stampOk d
  | .trainStepEnd _ l => lanesOk l
  | .trainingRetry _ => true
  | .laneSignalLoss _ l | .laneRemovalNotice _ l => laneOk l
  | .laneRetrainDone _ l _ => decide (l < 18)
  | .laneRecoveryTimeout _ _ | .keyReady _ | .keySwitch _ _ => true
  | .readRequest _ f _ | .store _ f _ | .accumulateWrite _ f _ | .accumulateWriteCompressed _ f _ => f.wf
  | .readResponse _ f _ | .endToEndAck _ f _ | .negativeResponse _ f _ | .flitForward _ f _ => f.wf
  | .replayRequest _ _ | .linkAcknowledgement _ _ => true
  | .creditReturn _ _ n => creditOk n
  | .telemetryFlit _ _ => true
  | .portStateNotice _ _ st => decide (st.toNat ≤ 6)
  | .wakeRequest _ | .stopCommand _ _ | .stopTick | .cutLocalDone | .cutDoneNotice _ _ | .resumeNotice _ => true
  | .stepReady _ _ | .stepDone _ | .endMarker _ _ _ _ _ | .snapReady _ _ _ _ | .captureDone _ _ => true
  | .snapCaptureEnd o => cellsOk o
  | .restore _ n l => nodeOk n && l.all Image.wf
  | .parityComplete _ l | .rebuildDone l | .restoreWriteEnd l => l.all Image.wf
  | .parityNotice _ _ | .liveSetChange _ _ | .partitionEvaluation _ | .lossDeclaration _ | .rejoin _ _ => true
  | .stashReturnEnd _ | .copyReport _ _ _ _ => true
  -- eight costs; at most sixteen intervals (R525)
  | .backupHistoryUpdate c i => c.length == 8 && decide (i.length ≤ 16)

end Sys2Proof
end

