-- ==== Sys2Proof/Certificates/Slice0/Obligations.lean ====
section
/-! DEFINITION. What is claimed of the engine, as propositions for the provers. `Sys2Proof.Claims` holds the words
the statements share: when a node can be dispatched, what its dispatch leaves, what a command leaves unchanged. -/
namespace Sys2Proof.Claims
open Sys2Proof.Machine

/-- A ready node of a slot in RUN that nothing holds back, whose slot has its turn, on an engine none of whose ports has
used up its counter values (R429, R430, R433, R463, R600). -/
structure Dispatchable (s : State) (i : Fin 16) (n opc : Nat) (onCore : Bool) : Prop where
  ready : s.readyNode i n opc = true
  enabled : s.hg.slotEn.getLsbD i.val = true
  noStep : s.flying 0x52 = false
  unsaved : s.saving i = false
  resumed : (s.slot i).saved = []
  running : s.dispatchStopped = false
  awake : onCore = true → s.coreAwake = true
  turn : s.yields i = false
  counting : ∀ p, (s.port p).linked = true → (s.port p).exhausted = false

/-- The engine as the checks of an instruction find it: the layers of steered tensors are initialised (R251). -/
def readied (s : State) (i : Fin 16) (n : Nat) (ts : State → Nat → List Tensor) : State :=
  s.initFor i (ts s (s.taskWord i n))

/-- An instruction that names no tensor. -/
def nothing (_ : State) (_ : Nat) : List Tensor := []

/-- The flight entry of an instruction of one task word at its dispatch: its stamp is the tick (R373), and it holds the
carried records of its tensors as dispatch reads them (R170). -/
def flightAt (s : State) (i : Fin 16) (n opc : Nat) (core : Fin 8) (onCore : Bool)
    (ts : State → Nat → List Tensor := nothing) : Flight :=
  let a := readied s i n ts
  { slot := i, node := n, opc := opc, core := core, onCore := onCore, word := s.taskWord i n
    dstamp := s.tm.tick, stepNo := s.hg.stepNo, results := [{ node := n }]
    fixed := ((ts s (s.taskWord i n)).map (a.under i)).flatMap (a.carriedCells i n) }

/-- The engine as the effect of an instruction of one task word finds it: the node entered as dispatched (R370,
R587), and IDLE ended where a core takes it (R559). -/
def entered (s : State) (i : Fin 16) (n opc : Nat) (core : Fin 8) (onCore : Bool)
    (ts : State → Nat → List Tensor := nothing) : State :=
  (readied s i n ts).enter (flightAt s i n opc core onCore ts) [n] (if onCore then put 24 8 core.val else 0)

/-- What holds an instruction of one task word after its own conditions: units that its checks read, a failure, carried
records of another node that it will write, a skew, units that its effect reads, or its row unit (R170, R181, R251, R292,
R375). -/
structure Unhindered (s : State) (i : Fin 16) (n opc : Nat) (core : Fin 8) (onCore : Bool)
    (ts : State → Nat → List Tensor) (check : State → Nat → Option Fail) (needs early : State → Nat → List Nat) :
    Prop where
  first : s.firstUnits i n (ts s (s.taskWord i n)) (early s (s.taskWord i n)) = []
  passes : check (readied s i n ts) (s.taskWord i n) = none
  records : (readied s i n ts).unread i n ((readied s i n ts).recordReads i (ts s (s.taskWord i n))
    (needs (readied s i n ts) (s.taskWord i n))) = []
  aligned : ((if tagged opc then (readied s i n ts).skewOf i n else none).bind
    ((readied s i n ts).skewFail i (s.taskWord i n))) = none
  here : (entered s i n opc core onCore ts).missing i n
    (needs (entered s i n opc core onCore ts) (s.taskWord i n)) = []
  free : (entered s i n opc core onCore ts).rowBusy opc core i n = false

/-- The units that only some instructions' checks read: none. -/
def noUnits (_ : State) (_ : Nat) : List Nat := []

/-- An instruction of one task word that can be dispatched, that nothing of its own holds (`free`), passes its checks,
meets no skew and needs nothing of another node completes with `effect` on the state that its dispatch leaves, and its slot
has had its turn (R430). -/
def ActsAtDispatch (c : Instr) (i : Fin 16) (n opc : Nat) (core : Fin 8) (onCore : Bool)
    (ts : State → Nat → List Tensor) (check : State → Nat → Option Fail) (needs early : State → Nat → List Nat)
    (free : State → Prop) (effect : State → Flight → State) : Prop :=
  ∀ s : State, Dispatchable s i n opc onCore → free s → Unhindered s i n opc core onCore ts check needs early →
    exec c s = .next
      (s.tookTurn (effect (entered s i n opc core onCore ts) (flightAt s i n opc core onCore ts)) i n)

/-- The parts of the state that no instruction of a graph changes: identity, hall, time, power limits, self-test,
keys, the service record's loads, the shadowed registers of the trace, and the registers of the window. -/
structure SameRegisters (s t : State) : Prop where
  pending : t.pending = s.pending
  phase : t.phase = s.phase
  loadOpen : t.loadOpen = s.loadOpen
  warm : t.warm = s.warm
  present : t.present = s.present
  grade : t.grade = s.grade
  hall : t.hall = s.hall
  tick : t.tm = s.tm
  gov : t.gov = s.gov
  selftest : t.st = s.st
  ports : t.pen = s.pen
  key : t.key = s.key
  mask : t.evt.mask = s.evt.mask
  traceLive : t.tr.live = s.tr.live
  tracePend : t.tr.pend = s.tr.pend
  slotEn : t.hg.slotEn = s.hg.slotEn
  verBase : t.hg.verBase = s.hg.verBase
  arrayEn : t.hg.aen = s.hg.aen
  svcLoad : t.svc.load = s.svc.load

/-- SameRegisters, but for what a port that goes DOWN at the end of its counter changes: the hall's record of port states,
and the time parent with its hop count (R463, R469, R481). -/
def SameButPorts (s t : State) : Prop :=
  SameRegisters { s with
    hall := { s.hall with portSts := t.hall.portSts }
    tm := { s.tm with parent := t.tm.parent, hops := t.tm.hops } } t

/-- No linked port has used up its counter values, so none goes DOWN for that (R463). -/
def Counting (s : State) : Prop := ∀ p, (s.port p).linked = true → (s.port p).exhausted = false

/-- No port comes to the end of its counter by `k` flits more (R463). -/
def Roomy (s : State) (k : Nat) : Prop := ∀ p, (s.port p).txCount.toNat + k < 2 ^ 64 - 1

/-- A byte of the dependence word of a node in flight, which follows what the node waits for (R587). -/
def ShownAt (s : State) (a : Nat) : Prop :=
  ∃ f ∈ s.hg.flight, ∃ m, (m = f.node ∨ ∃ r ∈ f.results, r.node = m) ∧
    hallLoc ((s.slot f.slot).hdr.depAddr m) ≤ a ∧ a < hallLoc ((s.slot f.slot).hdr.depAddr m) + 8

/-- A byte of the dependence word of a node, other than `who`, of a slot in RUN or SAVED: it follows what the node waits for
after a dispatch or a retirement, and after whatever else gives or takes what a node waits for (R587). -/
def ReasonAt (s : State) (who : Option (Fin 16 × Nat)) (a : Nat) : Prop :=
  ∃ i m, s.shown i = true ∧ m < (s.slot i).hdr.twCount ∧ who ≠ some (i, m) ∧
    hallLoc ((s.slot i).hdr.depAddr m) ≤ a ∧ a < hallLoc ((s.slot i).hdr.depAddr m) + 8

/-- Byte `a` of this node's stacks that the write of an element at place `p` reaches: its word's, or the pads' behind it
(R110 to R112). -/
def Touches (s : State) (p : Place) (a : Nat) : Prop :=
  let here := fun h k : Nat => hallNode h = s.hall.nid.toNat ∧ hallLoc h ≤ a ∧ a < hallLoc h + k
  here p.addr (if p.w = 64 then 8 else 4) ∨ here (p.addr + 4) p.tail ∨ ∃ b, b < 4 ∧ here (p.addr + b) (4 - b)

/-- A byte of another node that the write of an element at place `p` reaches. -/
def TouchesFar (p : Place) (a : Nat) : Prop := p.addr ≤ a ∧ a < p.addr + 8 + p.tail

/-- A tensor that is written without side tensors, in elements of format `f` (R110, R124, R266, R358). -/
structure PlainTarget (s : State) (i : Fin 16) (d : Tensor) (f : EFmt) : Prop where
  format : s.fmtOf i d = some f
  noScale : s.scaleTensor i d = none
  noZp : s.zpTensor i d = none
  noOutliers : s.side i d d.ovIx = none
  source : d.isView = false
  fixed : d.carried = false
  wide : ∀ g, f = .op g → 4 < g.bits

/-- No dependence word of an instruction in flight shows a held request. -/
def ShowsNoHold (s : State) : Prop :=
  ∀ f ∈ s.hg.flight, ∀ r ∈ f.results, depWait (s.depWord f.slot r.node) ≠ 0x0A

/-- The engine is not asleep: writes to the window act at once (R592). -/
def Awake (s : State) : Prop := s.pwr.st ≠ .deep ∧ ¬(s.pwr.st = .waking ∧ s.pwr.wakeFrom = .deep)

/-- A write to the window that completes normally (R4, R5). -/
def answered (s : State) : State := { s with out := { s.out with mgmt := ⟨true, 0⟩ } }

/-- The state after k ticks of an idle engine. -/
def ticks : Nat → State → State
  | 0, s => s
  | k + 1, s => ticks k s.advance

end Sys2Proof.Claims

open Sys2Proof Sys2Proof.Machine Sys2Proof.Claims

-- Steps.

/-- A step carries out the command at the front of the queue, on the state with the rest of the queue: the model's own
reading of a block that takes commands (log 15). -/
def Obligations.StepRunsFront : Prop :=
  ∀ (s : State) (c : Instr) (r : List Instr), s.pending = c :: r →
    Machine.step s = Machine.exec c { s with pending := r }

/-- No command stops the engine, whatever the state (the model's reading, log 14), and a command leaves the queue of
waiting commands as it is (log 15). -/
def Obligations.EveryCommandAnswersAndKeepsQueue : Prop :=
  ∀ (c : Instr) (s : State), ∃ t, Machine.exec c s = .next t ∧ t.pending = s.pending

/-- Whatever a step does, the bytes of the stacks stay in their canonical form (the model's form, log 2). -/
def Obligations.StepKeepsMemory : Prop :=
  ∀ s t : State, s.MemOk → Machine.step s = .next t → t.MemOk

/-- Every step leaves `GRADE` and the usable arrays of `FGE_CAPS` in agreement: exactly 32, 30 or 28 arrays at the
grades 3, 2 and 1, fewer at grade 0 (R9, R12, R13). -/
def Obligations.StepKeepsGrade : Prop :=
  ∀ s t : State, s.GradeOk → Machine.step s = .next t → t.GradeOk

/-- Under cold reset the invariants hold, nothing waits, and every register of the map but FGE_CAPS, whose grade the fuses
give (log 85), reads the value of its reset column (R589 and the field tables it names), a write-only one zero; the ports,
in a torus of one node, read UNUSED (R443). -/
def Obligations.ResetMeetsInvariants : Prop :=
  State.reset.MemOk ∧ State.reset.GradeOk ∧ State.reset.pending = [] ∧
    ∀ off v, (off, v) ∈ ([(0x010, 8), (0x110, 0xFFFF), (0x118, 0), (0x120, 0), (0x200, 0), (0x208, 0x3FFFFFF),
        (0x000, 0x101F1E50ECE), (0x018, 0), (0x100, 0), (0x108, 0), (0x308, 0x3FC), (0x318, 0), (0x320, 0),
        (0x410, 0x4E2C46E5F), (0x418, 0), (0x518, 0), (0x640, 5), (0x648, 5), (0x650, 5), (0x658, 5), (0x660, 5),
        (0x668, 5), (0x708, 0), (0x710, 0), (0x900, 0), (0x908, 0), (0x910, 0x2A3040000000000), (0x918, 0), (0x920, 0),
        (0x928, 0), (0x930, 0x2A300001E), (0xA00, 0), (0xA10, 0), (0xB10, 0x3C), (0xC10, 0),
        (0x300, 0), (0x310, 0), (0x400, 4), (0x408, 0), (0x500, 2), (0x508, 1), (0x510, 0), (0x520, 0),
        (0x528, 0xFFFFFFFF), (0x600, 0), (0x608, 0x421), (0x610, 0), (0x700, 0), (0x718, 0), (0x800, 0), (0x808, 0),
        (0x810, 0), (0xA08, 0), (0xA18, 0), (0xB00, 0), (0xB08, 0), (0xB18, 0), (0xB20, 0), (0xB28, 0), (0xC00, 0),
        (0xC08, 0)] : List (Nat × BitVec 64)) →
      State.reset.readReg off = v

-- SUBMIT and loading.

/-- SUBMIT that is refused at once (R13, R419, R420, R546): the response carries the code, the slot and the tag, the
load window closes (R17), and nothing else changes. The order of the codes is the model's choice (log 16). -/
def Obligations.SubmitRefusedAtOnce : Prop :=
  ∀ (req : BitVec 128) (s : State) (code : Nat),
    (fld req.toNat 0 8 ≠ 1 ∧ code = 0x23
      ∨ fld req.toNat 0 8 = 1 ∧ s.hg.loading.isSome = true ∧ code = 0x24
      ∨ fld req.toNat 0 8 = 1 ∧ s.hg.loading = none
        ∧ (s.phase ≠ .ready ∨ s.tm.lock = false ∨ s.pwr.st = .deep ∨ s.cutOpen = false) ∧ code = 0x22
      ∨ fld req.toNat 0 8 = 1 ∧ s.hg.loading = none ∧ s.phase = .ready ∧ s.tm.lock = true ∧ s.pwr.st ≠ .deep
        ∧ s.cutOpen = true ∧ s.grade = 0 ∧ code = 0x21
      ∨ fld req.toNat 0 8 = 1 ∧ s.hg.loading = none ∧ s.phase = .ready ∧ s.tm.lock = true ∧ s.pwr.st ≠ .deep
        ∧ s.cutOpen = true ∧ s.grade ≠ 0 ∧ (s.slot (reqSlot req)).st ≠ .free ∧ code = 0x20) →
    Machine.exec (.submit req) s = .next { s with
      loadOpen := false
      out := { s.out with resp := s.out.resp
        ++ [mkResponse code (fld req.toNat 8 4) (fld req.toNat 16 16) none] } }

/-- SUBMIT that begins to load (R417, R420, R422): the slot is in LOAD, its tag and header address are held, and no
response is sent yet; every register is as it was but the load window of the service record, which closes (R17).
Covers SUBMIT. -/
def Obligations.SubmitBeginsLoading : Prop :=
  ∀ (req : BitVec 128) (s : State),
    fld req.toNat 0 8 = 1 → s.hg.loading = none → s.phase = .ready → s.tm.lock = true → s.pwr.st ≠ .deep →
    s.cutOpen = true → s.grade ≠ 0 → (s.slot (reqSlot req)).st = .free →
    ∃ t, Machine.exec (.submit req) s = .next t ∧
      t.slot (reqSlot req) = { st := .load, tag := BitVec.ofNat 16 (fld req.toNat 16 16) } ∧
      t.hg.loading = some ⟨reqSlot req, BitVec.ofNat 16 (fld req.toNat 16 16), fld req.toNat 64 60⟩ ∧
      (∀ i, i ≠ reqSlot req → t.slot i = s.slot i) ∧
      t = { s with loadOpen := false, hg := { s.hg with slots := t.hg.slots, loading := t.hg.loading } }

/-- GRAPH_LOAD_COMPLETE (R418 to R421, R427): a load whose checks pass is answered with 0x00 and its slot runs the
graph of its header; one that fails is answered with the code of the first failure and its index, its slot is FREE
again and nothing else changes. Covers GRAPH_LOAD_COMPLETE. -/
def Obligations.LoadEndsWithResponse : Prop :=
  ∀ (s : State) (l : Loading), s.hg.loading = some l →
    let h := mkHdr (s.rdN l.hdrAddr 128)
    let a := { s with hg := { s.hg with loading := none } }.setSlot l.slot { st := .load, tag := l.tag, hdr := h }
    (a.loadFail l.slot l.hdrAddr = none →
      ∃ t, Machine.exec .graphLoadComplete s = .next t ∧
        t.out.resp = s.out.resp ++ [mkResponse 0 l.slot.val l.tag.toNat none] ∧
        (t.slot l.slot).st = .run ∧ (t.slot l.slot).hdr = h ∧ (t.slot l.slot).retired = 0 ∧
        t.hg.loading = none ∧ (∀ i, i ≠ l.slot → t.slot i = s.slot i) ∧ SameRegisters s t) ∧
    (∀ e ix, a.loadFail l.slot l.hdrAddr = some (e, ix) →
      ∃ t, Machine.exec .graphLoadComplete s = .next t ∧
        t.out.resp = s.out.resp ++ [mkResponse e.code l.slot.val l.tag.toNat ix] ∧
        t.slot l.slot = {} ∧ (∀ i, i ≠ l.slot → t.slot i = s.slot i) ∧
        t = { s with hg := { s.hg with slots := t.hg.slots, loading := none }, out := { s.out with resp := t.out.resp } })

-- Dispatch.

/-- A core's, an adapter's or the row unit's instruction completes at its dispatch with the data effect of its opcode,
on the state its dispatch leaves, where its operands lie on this node (R370, R373, R375, R378, R429). That the whole data
effect is made at the dispatch is the model's choice (log 8). Covers MAXIDX,
QSTAT, QCONV, RESCALE, ROWREC, DERIV, MOVE, GATHER, SCATTER. -/
def Obligations.DataInstructionsActAtDispatch : Prop :=
  ∀ (i : Fin 16) (n : Nat) (core : Fin 8),
    let always := fun _ : State => True
    ActsAtDispatch (.maxidx i n core) i n 0x05 core true (fun s w => (s.tensor i (pDA w)).toList)
      (fun s w => s.maxidxCheck i w) (fun s w => s.maxidxNeeds i w) noUnits always (fun s f => s.maxidxEffect f) ∧
    ActsAtDispatch (.qstat i n core) i n 0x10 core true (fun s w => (s.tensor i (qSrc w)).toList)
      (fun s w => s.qstatCheck i w) (fun s w => s.qstatNeeds i w)
      (fun s w => s.indexUnits i (s.optional i (qOl w)) 16) always (fun s f => s.qstatEffect i f) ∧
    ActsAtDispatch (.qconv i n core) i n 0x11 core true
      (fun s w => ((s.qconvSrc w).bind (s.tensor i)).toList ++ ((s.qconvDst w).bind (s.tensor i)).toList)
      (fun s w => s.qconvCheck i w) (fun s w => s.qconvNeeds i w)
      (fun s w => s.indexUnits i (((s.qconvDst w).bind (s.tensor i)).bind fun t => s.side i t t.olIx) 16) always
      (fun s f => s.qconvEffect i f) ∧
    ActsAtDispatch (.rescale i n core) i n 0x12 core true
      (fun s w => (s.tensor i (qSrc w)).toList ++ (s.tensor i (qDst w)).toList)
      (fun s w => s.rescaleCheck i w) (fun s w => s.rescaleNeeds i w) noUnits always (fun s f => s.rescaleEffect i f) ∧
    ActsAtDispatch (.rowrec i n core) i n 0x22 core true
      (fun s w => [s.tensor i (rX w), s.optional i (rDy w), s.rowOpt i w (rGamma w), s.optional i (rDx w),
        s.rowOpt i w (rDg w), s.rowOpt i w (rDb w)].filterMap id)
      (fun s w => s.rowrecCheck i w) (fun s w => s.rowrecNeeds i w) noUnits always (fun s f => s.rowrecEffect f) ∧
    ActsAtDispatch (.deriv i n core) i n 0x23 core true
      (fun s w => [s.tensor i (dIn w), s.tensor i (dDy w), s.tensor i (dDx w)].filterMap id)
      (fun s w => s.derivCheck i w) (fun s w => s.derivNeeds i w) noUnits always (fun s f => s.derivEffect f) ∧
    ActsAtDispatch (.move i n) i n 0x30 0 false (fun s w => s.moveNames i w)
      (fun s w => s.moveCheck i w) (fun s w => s.moveNeeds i w) noUnits always (fun s f => s.movement f) ∧
    ActsAtDispatch (.gather i n) i n 0x31 0 false (fun s w => s.moveNames i w)
      (fun s w => s.indexCheck i w) (fun s w => s.moveNeeds i w) (fun s w => s.indexEarly i w) always
      (fun s f => s.movement f) ∧
    ActsAtDispatch (.scatter i n) i n 0x32 0 false (fun s w => s.moveNames i w)
      (fun s w => s.indexCheck i w) (fun s w => s.moveNeeds i w) (fun s w => s.indexEarly i w) always
      (fun s f => s.movement f)

/-- PUSH, POP, REDUCE, UPDATE, SNAP and RESTORE complete their dispatch as ActsAtDispatch says, where nothing of their
own makes them wait: room or a returning entry for PUSH (R280, R289), a busy stash or a remote entry for POP (R285,
R290), the uses of the version an UPDATE replaces (R309), a rebuild for SNAP and RESTORE (R532). An UPDATE takes the other
buffer of its version at its dispatch (R310). That the whole data effect is made at the dispatch is the model's choice
(log 8); a RESTORE takes the other nodes' images with its dispatch (log 19). Covers PUSH, POP, REDUCE, UPDATE, SNAP, RESTORE. -/
def Obligations.WaitingInstructionsActAtDispatch : Prop :=
  ∀ (i : Fin 16) (n : Nat),
    ActsAtDispatch (.push i n) i n 0x20 0 false (fun s w => s.pushNames i w) (fun s w => s.pushCheck i w)
      (fun s w => s.pushNeeds i w) noUnits (fun s => s.pushHold i n = none) (fun s f => s.pushEffect f) ∧
    ActsAtDispatch (.pop i n) i n 0x21 0 false (fun s w => (s.tensor i (sDesc w)).toList)
      (fun s w => s.popCheck i w) (fun s w => s.popNeeds i w) noUnits (fun s => s.popHold i n = none)
      (fun s f => s.popEffect f) ∧
    ActsAtDispatch (.update i n) i n 0x41 0 false (fun s w => s.updateNames i w) (fun s w => s.updateCheck i w)
      (fun s w => s.updateNeeds i w) noUnits (fun s => s.updateWaits (s.taskWord i n) = false)
      (fun s f => match (s.updateEffect f).flightOf i n with
        | some g => (s.updateEffect f).updatePrep g
        | none => s.updateEffect f) ∧
    (∀ opc images, opc = 0x42 ∧ images = [] ∨ opc = 0x43 →
      ActsAtDispatch (if opc = 0x42 then .snap i n else .restore i n images) i n opc 0 false
        (fun s w => if s.missing i n (s.listEarly i w) = [] then s.listed i w else [])
        (fun s w => s.snapDispatch i w) noUnits (fun s w => s.listEarly i w)
        (fun s => s.snap.rb ≠ .running ∧ s.snap.rb ≠ .fallback)
        (fun s f => (s.setFlight { f with phase := .waiting 1, images := images }).snapPump)) ∧
    ActsAtDispatch (.reduce i n) i n 0x40 0 false
      (fun s w => (s.tensor i (rdSrc w)).toList ++ (s.tensor i (rdDst w)).toList
        ++ (if rdSteer w && !rdW64 w then [layerTensor (twLayer w)] else []))
      (fun s w => s.reduceCheck i w) (fun s w => s.reduceNeeds i w) noUnits (fun _ => True)
      (fun s f => s.reduceEffect f)

/-- STEP, CTXSAVE and CTXLOAD complete their dispatch with their effect: STEP goes as far as it can at once (R257),
CTXSAVE stops the gangs of its slot at the boundaries given and writes the context (R433, R434), CTXLOAD returns its
slot to RUN and gives its gangs the cores given (R436). Covers STEP, CTXSAVE, CTXLOAD. -/
def Obligations.ContextInstructionsActAtDispatch : Prop :=
  ∀ (i : Fin 16) (n : Nat) (s : State),
    (Dispatchable s i n 0x52 false → (∀ j, (s.slot j).st ≠ .saved ∧ s.saving j = false) →
      commonForm (s.taskWord i n) false false = none →
      Machine.exec (.step i n) s = .next (s.tookTurn (entered s i n 0x52 0 false).stepPump i n)) ∧
    (∀ stops, Dispatchable s i n 0x53 false → s.ctxFail i false (s.taskWord i n) = none →
      Machine.exec (.ctxsave i n stops) s = .next
        (s.tookTurn ((entered s i n 0x53 0 false).ctxSave stops (flightAt s i n 0x53 0 false)) i n)) ∧
    (∀ cores, Dispatchable s i n 0x54 false → s.ctxFail i true (s.taskWord i n) = none →
      Machine.exec (.ctxload i n cores) s = .next
        (s.tookTurn ((entered s i n 0x54 0 false).ctxLoad cores (flightAt s i n 0x54 0 false)) i n))

/-- A product gang whose operands are resident and whose output rooms are free enters its core: its running members are
in flight with the operands and planes its dispatch captures, and the registers are as they were (R36, R39, R77, R78,
R429). What it reads of other nodes, the carried records and the steward's state, was read in this step (R170, R250). The
model's choices among it: the values of the operands are those at the dispatch command, where R36 and R77 have them come in
at the fetch (log 8), and the members take the lowest-numbered usable arrays in member order (log 75). Stated for a dispatch
that no parity hit meets. Covers FPROD, GDX, GDW, DIST. -/
def Obligations.ProductGangsEnterTheirCore : Prop :=
  ∀ (i : Fin 16) (n opc : Nat) (core : Fin 8) (c : Instr) (s : State) (g : Span) (r : Resident),
    (c = .fprod i n core [] ∧ opc = 0x03 ∨ c = .gdx i n core [] ∧ opc = 0x01 ∨ c = .gdw i n core [] ∧ opc = 0x02
      ∨ c = .dist i n core [] ∧ opc = 0x04) →
    Dispatchable s i n opc true → s.gangAt i n = some g →
    (∀ m ∈ g.nodes, depSt (s.depWord i m) = 1) →
    0 < g.members → g.members ≤ (s.coreArrays core.val).length →
    let names := g.nodes.flatMap fun m => s.prodNames i (s.taskWord i m)
    s.gangFirst i n g names = [] →
    let a := s.initFor i names
    let built := a.buildGang i g (s.coreArrays core.val) (withSkew g (a.gangChecks i g) none)
    let live := a.gangLive i (a.gangChecks i g)
    live ≠ [] → a.gangLate i n live = [] →
    (s.hg.resident.find? fun x => x.slot == i && x.node == n && x.core == core && !x.waits) = some r → r.skew = none →
    a.storeUsed core + sumN (live.map fun m => outRoom (a.taskWord i m)) ≤ storeRoom →
    running built ≠ [] →
    ∃ t, Machine.exec c s = .next t ∧
      t.flightOf i n = some (Flight.launch
        { slot := i, node := n, opc := opc, core := core, onCore := true, word := a.taskWord i n
          dstamp := s.tm.tick, stepNo := s.hg.stepNo
          fixed := (g.nodes.filterMap fun m => a.tensor i (pDC (a.taskWord i m))).flatMap (a.carriedCells i n) }
        (running built)) ∧
      SameRegisters s t

/-- OPERAND_FETCH of a ready gang that has its turn, whose operands lie on this node or were returned, with room in the
store: the operands are resident on the core; those with outlier indices take a spill plane, or hold their room and wait
for one while both of the core are taken; resident operands end the gang's wait and the reason that its dependence word
showed (R571, R587), and nothing but the counters and the turn changes besides (R77, R79, R191, R431). From a cut's tick on
no fetch starts but for saved gangs that restart (R436, R490), and none while a SNAP or RESTORE keeps the flits of work back
(R519). The model's choices among it: a gang's operands come in together (log 127), what holds a fetch while a SNAP or
RESTORE is in flight (log 128), and the core at which a gang waits (log 10). Covers OPERAND_FETCH. -/
def Obligations.OperandsBecomeResident : Prop :=
  ∀ (i : Fin 16) (n : Nat) (core : Fin 8) (skew : Option TagSkew) (s : State) (g : Span),
    s.fetchable i n = true → (s.hg.resident.any fun r => r.slot == i && r.node == n) = false → s.phase = .ready →
    Counting s →
    (s.cutOpen = false ∧ depSt (s.depWord i n) ≠ 4 ∨ s.fetchOpen (depSt (s.depWord i n) == 4) = false →
      Machine.exec (.operandFetch i n core skew) s = .next s) ∧
    (s.fetchOpen (depSt (s.depWord i n) == 4) = true →
    isProduct (twOpc (s.taskWord i n)) = true → s.gangAt i n = some g → s.fetchYields i = false →
    let names := g.nodes.flatMap fun m => s.prodNames i (s.taskWord i m)
    s.gangFirst i n g names = [] →
    let a := s.initFor i names
    let nodes := a.fetchNodes i g
    let (h, p) := a.spillwayWork i nodes
    let waits := h != 0 && decide (2 ≤ (s.hg.resident.filter fun r => r.core == core && r.spill).length)
    nodes ≠ [] →
    s.missing i n (nodes.foldl (fun us m => unite us (a.prodUnits i (a.taskWord i m))) []) = [] →
    s.storeUsed core + a.gangBytes i g nodes ≤ storeRoom →
    ∃ t, Machine.exec (.operandFetch i n core skew) s = .next t ∧
      t = { s with
        hg := { s.hg with
          resident := s.hg.resident ++ [Resident.mk i n core (a.gangBytes i g nodes) skew (h != 0 && !waits) waits
            (if waits then cdiv (h * p) 10368 else 0)]
          fetchTurn := s.nextTurn s.hg.fetchTurn i
          resWait := (s.hg.resWait.map fun x => if x.1 = (i, n) then (x.1, core) else x).filter
            fun x => waits || x.1 != (i, n)
          resFrom := t.hg.resFrom }
        mem := t.mem, obs := t.obs } ∧
      (waits = false → depWait (s.depWord i n) ≠ 0x02 → t.mem = s.mem) ∧
      (s.MemOk → let dep := hallLoc ((s.slot i).hdr.depAddr n)
        ∀ a, a < dep ∨ dep + 8 ≤ a → Mem.get t.mem a = Mem.get s.mem a) ∧
      SameRegisters s t)

/-- GANG_STREAM_START: the first step of a dispatched gang enters; every other gang that streamed on the cores whose arrays
run it, and that waits for no array, is in its drain (R36, R37, R80, R103). A gang of one member gives its array the configuration it runs in and leaves the array's marks, and
other arrays stay as they were (R62); members whose arrays kept their mode stay where dispatch placed them (R40, R103). No
byte of memory and no request changes. Covers GANG_STREAM_START. -/
def Obligations.StreamConfiguresArrays : Prop :=
  ∀ (i : Fin 16) (n : Nat) (s : State) (f : Flight), Counting s →
    s.flightOf i n = some f → f.jobs ≠ [] → f.phase = .dispatched →
    let g := s.reseat f
    ((∀ j ∈ f.jobs, j.array < 32 ∧ (s.arr j.array).unuse = false ∧ (s.arr j.array).dot = j.dot) → g.jobs = f.jobs) ∧
    ∃ t, Machine.exec (.gangStreamStart i n []) s = .next t ∧
      t.flightOf i n = some { g with
        phase := .streaming, lost := []
        jobs := g.jobs.map fun j => if j.array < 32 then { j with due := false } else j } ∧
      (∀ x ∈ t.hg.flight, x.phase = .streaming → x.placed = true →
        x.slot = i ∧ x.node = n ∨ ∀ c ∈ x.cores, c ∉ g.cores) ∧
      t.mem = s.mem ∧ t.rem = s.rem ∧ SameRegisters s t ∧
      (∀ j, g.jobs = [j] → j.array < 32 → j.done (nth g.planes 0 {}) = false →
        (t.arr j.array).cls = j.cls ∧ (t.arr j.array).a16 = j.a16 ∧ (t.arr j.array).op = j.cellOp ∧
        (t.arr j.array).dot = (s.arr j.array).dot ∧ (t.arr j.array).unuse = (s.arr j.array).unuse) ∧
      (∀ k, k < 32 → (∀ j ∈ g.jobs, j.array ≠ k) → t.arr k = s.arr k)

/-- FENCE at its dispatch (R407, R429, R587): it is in flight for the nodes of its slot that retired with open requests, its
dependence word shows it dispatched and how many requests it waits for, or a request that is held, and no register, request
or byte changes but those of the words of other nodes that show why they wait, which its own lies apart from. With tracing
off. Covers FENCE. -/
def Obligations.FenceEntersFlight : Prop :=
  ∀ (i : Fin 16) (n : Nat) (s : State), s.MemOk → Dispatchable s i n 0x50 false → s.tr.live.en = false →
    commonForm (s.taskWord i n) false false = none → fMode (s.taskWord i n) < 2 →
    let dep := hallLoc ((s.slot i).hdr.depAddr n)
    let g : Flight := { flightAt s i n 0x50 0 false with
      phase := .effected, fence := (s.addFlight (flightAt s i n 0x50 0 false)).openNodes i }
    (∀ a, dep ≤ a → a < dep + 8 → ¬ShownAt s a ∧ ¬ReasonAt s (some (i, n)) a) →
    ∃ t, Machine.exec (.fence i n) s = .next t ∧ t.flightOf i n = some g ∧
      (∀ q, (s.fenceReqs g).find? (fun q => s.rem.heldReq.contains q) = some q →
        Mem.getN t.mem dep 8 = mkDep 0 2 0x0A 0 q.f.dst.toNat) ∧
      ((∀ q ∈ s.fenceReqs g, q ∉ s.rem.heldReq) →
        Mem.getN t.mem dep 8 = mkDep 0 2 (if s.fenceDone g then 0 else 0x07) (min 0xFFFFF (s.fenceOpen g)) 0xFFF) ∧
      (∀ a, a < dep ∨ dep + 8 ≤ a → ¬ShownAt s a → ¬ReasonAt s (some (i, n)) a → Mem.get t.mem a = Mem.get s.mem a) ∧
      SameRegisters s t ∧ t.rem = s.rem ∧ t.ports = s.ports ∧ t.cut = s.cut ∧ t.evt = s.evt ∧ t.arrs = s.arrs

/-- NOP retires at its dispatch and does nothing else (R410): its completion record carries equal stamps and STATUS
0x01 (R371, R373), its dependence word shows it retired, and every other byte and every register is as it was, but for the
dependence words of other nodes that show why they wait (R587). For a node without successors or uses of a version, with
tracing off and no operands waiting for a spill plane, whose records lie on this node apart from each other, from those words
and from the task word, and which is not the last of its graph. Covers NOP. -/
def Obligations.NopOnlyRetires : Prop :=
  ∀ (i : Fin 16) (n : Nat) (s : State), s.MemOk → Dispatchable s i n 0x5F false → s.tr.live.en = false →
    let h := (s.slot i).hdr
    let w := s.taskWord i n
    let dep := hallLoc (h.depAddr n)
    let rec_ := hallLoc (h.compAddr n)
    twAcc w = false → twVen w = false → twScnt w = 0 →
    hallNode (h.compAddr n) = s.hall.nid.toNat → (s.slot i).retired + 1 < h.twCount →
    (∀ f ∈ s.hg.flight, ¬(f.slot = i ∧ f.node = n)) → (∀ r ∈ s.hg.resident, r.waits = false) →
    (∀ k, k < 64 → hallNode (h.twAddr n + k) = s.hall.nid.toNat →
      hallLoc (h.twAddr n + k) < dep ∨ dep + 8 ≤ hallLoc (h.twAddr n + k)) →
    (dep + 8 ≤ rec_ ∨ rec_ + 16 ≤ dep) →
    (∀ a, dep ≤ a ∧ a < dep + 8 ∨ rec_ ≤ a ∧ a < rec_ + 16 → ¬ReasonAt s (some (i, n)) a) →
    ∃ t, Machine.exec (.nop i n) s = .next t ∧
      Mem.getN t.mem rec_ 16 = mkCompletion s.stamp s.stamp 1 0 0xFFFF ∧
      Mem.getN t.mem dep 8 = mkDep 0 3 0 0 0xFFF ∧
      (∀ a, (a < dep ∨ dep + 8 ≤ a) → (a < rec_ ∨ rec_ + 16 ≤ a) → ¬ReasonAt s (some (i, n)) a →
        Mem.get t.mem a = Mem.get s.mem a) ∧
      (t.slot i).retired = (s.slot i).retired + 1 ∧ (t.slot i).st = .run ∧
      t.hg.flight = s.hg.flight ∧ SameRegisters s t ∧ t.cut = s.cut ∧ t.evt = s.evt ∧ t.arrs = s.arrs

/-- STOPAT schedules a stop at its tick and retires at its dispatch (R408, R409): with no stop scheduled T becomes the
stop; with one, the earlier stands. Covers STOPAT. -/
def Obligations.StopatSchedulesStop : Prop :=
  ∀ (i : Fin 16) (n : Nat) (s : State), Dispatchable s i n 0x51 false →
    commonForm (s.taskWord i n) false false = none →
    let T := stopTick (s.taskWord i n) s.tm.tick
    s.tm.tick.toNat < T.toNat →
    ∃ t, Machine.exec (.stopat i n) s = .next t ∧ SameRegisters s t ∧ t.cut.st = .scheduled ∧
      (s.cut.st = .run → t.cut.stopT = T) ∧
      (s.cut.st = .scheduled → t.cut.stopT = if T.toNat < s.cut.stopT.toNat then T else s.cut.stopT) ∧
      t.flightOf i n = none

/-- A node whose slot lets another go first, is disabled, or that a STEP holds, is not dispatched: its dependence word
shows the wait code 0x01, 0x08 or 0x09 (R430, R587, R600; 0x01 for the turn is the model's reading, log 79), and nothing
else changes. A write of FGE_SLOT_EN shows at once in the words of the ready nodes: 0x08 where the slot is disabled, 0x09
where a SAVED slot is enabled (R437, R587, R600; for the one slot in RUN or SAVED, whose words lie on this node). One that is dispatched and fails its checks raises the event its error
names, and is in flight no more (R373, R375, R428); stated for NOP with `VEN` set, which R379 makes a FORMAT failure. -/
def Obligations.NodesThatWaitOrFail : Prop :=
  ∀ (i : Fin 16) (n : Nat) (s : State),
    (Counting s → s.readyNode i n 0x30 = true → s.hg.slotEn.getLsbD i.val = true → s.yields i = true →
      Machine.exec (.move i n) s = .next (s.setWait i n 1 0x01 0 0xFFF)) ∧
    (Counting s → s.MemOk → s.readyNode i n 0x30 = true → s.hg.slotEn.getLsbD i.val = false →
      Machine.exec (.move i n) s = .next (s.setWait i n 1 0x08 0 0xFFF)) ∧
    (Counting s → s.MemOk → s.readyNode i n 0x30 = true → s.yields i = false → s.hg.slotEn.getLsbD i.val = true →
        s.flying 0x52 = true →
      Machine.exec (.move i n) s = .next (s.setWait i n 1 0x09 0 0xFFF)) ∧
    (Dispatchable s i n 0x5F false → twVen (s.taskWord i n) = true →
      ∃ t, Machine.exec (.nop i n) s = .next t ∧ t.evt.pend.getLsbD 0 = true ∧ t.flightOf i n = none ∧
        SameRegisters s t) ∧
    (∀ v, Awake s → s.MemOk → s.shown i = true → (∀ j, j ≠ i → s.shown j = false) → n < (s.slot i).hdr.twCount →
      depSt (s.depWord i n) = 1 → hallNode ((s.slot i).hdr.depAddr 0) = s.hall.nid.toNat →
      hallLoc ((s.slot i).hdr.depAddr 0) + 8 * (s.slot i).hdr.twCount ≤ 2 ^ 48 →
      ∃ t, Machine.exec (.registerWrite 0x110 none v) s = .next t ∧ t.hg.slotEn = v.setWidth 16 ∧
        (v.getLsbD i.val = false → depWait (t.depWord i n) = 0x08) ∧
        (v.getLsbD i.val = true → (s.slot i).st = .saved → depWait (t.depWord i n) = 0x09))

/-- What a retirement by INSTRUCTION_RETIRE rests on: a dispatched node of a slot in RUN, not its last, without uses of a
version or successors, with one result that did not fail, records on this node that lie apart from each other and from the
words of other nodes, tracing off, and nothing in flight that its retirement sets going. -/
structure Sys2Proof.Claims.RetiresAlone (s : State) (i : Fin 16) (n : Nat) (f : Flight) (r : Result) : Prop where
  mem : s.MemOk
  counting : Counting s
  flight : s.flightOf i n = some f
  results : f.results = [r]
  node : r.node = n
  good : r.status < 0x10
  untraced : s.tr.live.en = false
  running : (s.slot i).st = .run
  more : (s.slot i).retired + 1 < (s.slot i).hdr.twCount
  dispatched : depSt (s.depWord i n) = 2
  noUse : twVen (s.taskWord i n) = false
  noSuccessor : twScnt (s.taskWord i n) = 0
  noSnap : s.snapFlight = none
  noStep : s.stepFlight = none
  noReduce : ∀ g ∈ s.hg.flight, g.opc ≠ 0x40
  noSpillWait : ∀ r ∈ s.hg.resident, r.waits = false
  here : hallNode ((s.slot i).hdr.compAddr n) = s.hall.nid.toNat
  apart : let dep := hallLoc ((s.slot i).hdr.depAddr n)
    let rec_ := hallLoc ((s.slot i).hdr.compAddr n)
    (dep + 8 ≤ rec_ ∨ rec_ + 16 ≤ dep) ∧ ∀ a, dep ≤ a ∧ a < dep + 8 ∨ rec_ ≤ a ∧ a < rec_ + 16 →
      ¬ShownAt (s.dropFlight i n) a ∧ ¬ReasonAt s (some (i, n)) a

/-- A byte that a retirement leaves as it was: outside the node's records, and no word of a node that shows why it waits. -/
def Sys2Proof.Claims.Untouched (s : State) (i : Fin 16) (n a : Nat) : Prop :=
  let dep := hallLoc ((s.slot i).hdr.depAddr n)
  let rec_ := hallLoc ((s.slot i).hdr.compAddr n)
  (a < dep ∨ dep + 8 ≤ a) ∧ (a < rec_ ∨ rec_ + 16 ≤ a) ∧ ¬ShownAt s a ∧ ¬ReasonAt s (some (i, n)) a

/-- Retirement writes the completion record of R371 and counts the task word as retired, and marks its dependence word;
bytes outside the records and the dependence words of other nodes that show why they wait, which the records lie apart from,
are as they were. Stated for a MOVE that converted nothing, and for a product gang of one member that drains (R29, R30, R43,
R44, R361): a target in FP32, W64 or another format above four bits, without side tensors, gang statistics or long
accumulation, whose elements lie apart from the tables that place them. Of its target only the places of the written
elements of its tile change, and none where KLEN is 0 and ACC is add; a tile of one FP32 element holds its sum rounded into
FP32 under overwrite, zero where KLEN is 0, and the basin's sum of that and the old element under add. For nodes without
successors or uses, with tracing and steering off and no operands waiting for a spill plane. Covers INSTRUCTION_RETIRE. -/
def Obligations.RetirementWritesRecord : Prop :=
  (∀ (i : Fin 16) (n : Nat) (s : State) (f : Flight) (r : Result), RetiresAlone s i n f r →
    f.phase = .effected → f.opc = 0x30 → f.jobs = [] → f.onCore = false → f.preempted = false →
    r.gather = {} → r.counts = [] →
    let dep := hallLoc ((s.slot i).hdr.depAddr n)
    let rec_ := hallLoc ((s.slot i).hdr.compAddr n)
    ∃ t, Machine.exec (.instructionRetire i n) s = .next t ∧
      Mem.getN t.mem rec_ 16 = mkCompletion (f.dstamp.setWidth 40) s.stamp r.status r.flags r.detail ∧
      Mem.getN t.mem dep 8 = mkDep 0 3 0 0 0xFFF ∧
      (∀ a, Untouched (s.dropFlight i n) i n a → Mem.get t.mem a = Mem.get s.mem a) ∧
      (t.slot i).retired = (s.slot i).retired + 1 ∧ t.flightOf i n = none ∧ SameRegisters s t) ∧
  (∀ (i : Fin 16) (n : Nat) (s : State) (f : Flight) (r : Result) (j : Job) (p : Plane) (d : Tensor),
    RetiresAlone s i n f r → isProduct f.opc = true → f.jobs = [j] → f.planes = [p] → j.node = n →
    f.canDrain = true → f.parked = false → s.spillMissing f = [] → p.spills = [] → j.lacc = false →
    pRstat j.word = 0 → s.stw.live.en = false → s.tensor i (pDC j.word) = some d → PlainTarget s i d j.out →
    let dep := hallLoc ((s.slot i).hdr.depAddr n)
    let rec_ := hallLoc ((s.slot i).hdr.compAddr n)
    let place := fun m c => s.place i d j.out (s.outCoord i j.word d m c)
    let drains := fun m c => m < j.rows.length ∧ c < j.cols.length ∧ written j.word m c = true
      ∧ ¬(j.klen = 0 ∧ twAcc j.word = true)
    let stays := fun a : Nat => ∀ m c, drains m c → ¬Touches s (place m c) a
    (∀ u : State, u.hg.slots = s.hg.slots → u.hall = s.hall → u.stw.live = s.stw.live →
      (∀ a, (∀ m c, drains m c → ¬TouchesFar (place m c) a) → Mem.get u.rem.data a = Mem.get s.rem.data a) →
      (∀ a, stays a → ¬ShownAt s a → Mem.get u.mem a = Mem.get s.mem a) →
      u.tensor i (pDC j.word) = some d ∧ PlainTarget u i d j.out ∧ u.taskWord i n = s.taskWord i n ∧
        ∀ c, u.place i d j.out c = s.place i d j.out c) →
    ∃ t fl, Machine.exec (.instructionRetire i n) s = .next t ∧
      Mem.getN t.mem rec_ 16 = mkCompletion (f.dstamp.setWidth 40) s.stamp r.status fl r.detail ∧
      Mem.getN t.mem dep 8 = mkDep 0 3 0 0 0xFFF ∧
      (∀ a, Untouched s i n a → stays a → Mem.get t.mem a = Mem.get s.mem a) ∧
      (t.slot i).retired = (s.slot i).retired + 1 ∧ t.flightOf i n = none ∧
      (j.out = .op .fp32 → j.rows.length = 1 → j.cols.length = 1 → p.drained = 0 → written j.word 0 0 = true →
        hallNode (place 0 0).addr = s.hall.nid.toNat → (∀ a, Touches s (place 0 0) a → Untouched s i n a) →
        let at_ := hallLoc (place 0 0).addr
        at_ + 4 ≤ 2 ^ 48 →
        let sum := (j.drained (nth (nth (j.finish p 1).cells 0 []) 0 {}).acc).1
        let code := (Fmt.fp32.encode sum).1
        (j.klen ≠ 0 → twAcc j.word = false → Mem.getN t.mem at_ 4 = code % 2 ^ 32) ∧
        (j.klen = 0 → twAcc j.word = false → Mem.getN t.mem at_ 4 = 0) ∧
        (j.klen ≠ 0 → twAcc j.word = true →
          Mem.getN t.mem at_ 4 = (basinSum (.op .fp32) (Mem.getN s.mem at_ 4) (Fmt.fp32.decode code)).1 % 2 ^ 32)))

-- Flits as they come in.

/-- The port, flit and tag check of a command that delivers a data flit. -/
def Sys2Proof.Claims.flitOf : Instr → Option (Fin 6 × Flit × Bool)
  | .readRequest p f ok | .store p f ok | .accumulateWrite p f ok | .accumulateWriteCompressed p f ok
  | .readResponse p f ok | .endToEndAck p f ok | .negativeResponse p f ok | .flitForward p f ok => some (p, f, ok)
  | _ => none

/-- The port, flit and tag check of a command that delivers a store or an accumulate-write. -/
def Sys2Proof.Claims.writeOf : Instr → Option (Fin 6 × Flit × Bool)
  | .store p f ok | .accumulateWrite p f ok | .accumulateWriteCompressed p f ok => some (p, f, ok)
  | _ => none

/-- The engine once a port took a data flit into its receive queue: acknowledged on the link and counted (R449, R450). -/
def Sys2Proof.Claims.admitted (s : State) (p : Fin 6) (f : Flit) : State :=
  ((s.setPort p { s.port p with
    awaiting := none, rxCount := BitVec.ofNat 64 ((s.port p).countOf f.pseq + 1) }).linkAck p f.pseq).bump (9 + p.val) 4 1

/-- The engine once a data flit left its receive queue at its destination: its credit is returned (R449). -/
def Sys2Proof.Claims.received (s : State) (p : Fin 6) (f : Flit) : State :=
  (admitted s p f).sluiceOn p (.credit (queueOf f) 1)

/-- A data flit that an UP port takes: none is awaited before it, and no port is at the end of its counter (R450, R452,
R463). -/
def Sys2Proof.Claims.Taken (s : State) (p : Fin 6) (f : Flit) : Prop :=
  (s.port p).st = .up ∧ isData f = true ∧ ((s.port p).awaiting = none ∨ (s.port p).awaiting = some f.pseq) ∧ Counting s

-- The stash, slots and frames.

/-- Store `k` of the move of an entry of `size` bytes that lies at ring offset `off`: up to 128 bytes of the ring, to their
place on the top of the overflow stack (R275, R287). -/
def Sys2Proof.Claims.MoveStore (s : State) (i : Fin 16) (off size k : Nat) (q : Req) : Prop :=
  let x := s.slot i
  let n := min 128 (size - 128 * k)
  let a := x.hdr.ovfBase + x.stash.ovfUsed + 128 * k
  q.slot = i ∧ q.node = stashNode ∧ q.f.typ = 2 ∧ q.f.merge = .plain ∧ q.f.dst = BitVec.ofNat 12 (hallNode a) ∧
    q.f.addr = BitVec.ofNat 60 a ∧ q.f.used = n ∧ q.f.len = BitVec.ofNat 2 (cdiv n 64) ∧
    q.f.payload = (List.range n).map fun j => s.byteAt (x.hdr.ringAt off (128 * k + j))

/-- Bytes of the ring from offset `off` on, as places of this node's stacks: each has a place of its own, inside the
region (R273, R275). -/
structure Sys2Proof.Claims.RingFits (h : Hdr) (off size : Nat) : Prop where
  offset : off < h.stashSize
  aligned : off % 64 = 0 ∧ size % 64 = 0 ∧ h.stashSize % 64 = 0 ∧ h.stashBase % 64 = 0
  fits : size ≤ h.stashSize
  inside : hallLoc h.stashBase + h.stashSize ≤ 2 ^ 48

/-- STASH_MOVE, STASH_RETURN and STASH_RETURN_END: while a PUSH waits for room the oldest entry of the ring goes to the top
of the overflow stack, in stores of up to 128 bytes that carry the ring's bytes, each sent or held until its window has
room, and leaves the ring with the acknowledgement of its last byte (R287); the top entry is asked for, 64 bytes at a time,
to lie below the ring's bottom; once every byte is back its bytes stand there, no other byte changes, and it leaves the
overflow stack (R289). From a cut's tick on neither starts (R490), nor while a SNAP or RESTORE holds (R519). Where the stash
changed, the dependence words of the nodes that show why they wait may follow (R587), and no other byte. Covers STASH_MOVE,
STASH_RETURN, STASH_RETURN_END. -/
def Obligations.StashControllerMovesEntries : Prop :=
  ∀ (i : Fin 16) (s : State), Counting s →
    let x := s.slot i
    let onlyWords := fun t : State => s.MemOk → ∀ a, ¬ReasonAt s none a → Mem.get t.mem a = Mem.get s.mem a
    (s.cutOpen = false ∨ (∃ f ∈ s.hg.flight, (f.opc = 0x42 ∨ f.opc = 0x43) ∧ ∃ k, 2 ≤ k ∧ k ≤ 5 ∧ f.phase = .waiting k) →
      Machine.exec (.stashMove i) s = .next s ∧ Machine.exec (.stashReturn i) s = .next s) ∧
    (∀ off size rest, s.stashHeld = false → x.stash.ring = (off, size) :: rest →
      (∃ n < x.hdr.twCount, s.pushWaits i n = true) →
      x.stash.moving = false → x.stash.returning = none → x.stash.ovfUsed + size ≤ x.hdr.ovfSize →
      (rest = [] → ∀ f ∈ s.hg.flight, ¬(f.slot = i ∧ f.opc = 0x21)) → s.reaches (hallNode x.hdr.ovfBase) = true →
      ∃ t, Machine.exec (.stashMove i) s = .next t ∧
        t.slot i = { x with stash := { x.stash with moving := true } } ∧
        (∀ k, k < cdiv size 128 → ∃ q ∈ t.rem.unacked ++ t.rem.heldReq, MoveStore s i off size k q) ∧
        (∀ q ∈ t.rem.unacked ++ t.rem.heldReq, q ∈ s.rem.unacked ++ s.rem.heldReq
          ∨ ∃ k, k < cdiv size 128 ∧ MoveStore s i off size k q) ∧
        (∀ j, j ≠ i → t.slot j = s.slot j) ∧ onlyWords t ∧ SameRegisters s t) ∧
    (∀ off size rest p f q, x.stash.ring = (off, size) :: rest → x.stash.moving = true →
      Taken s p f → (received s p f).route f = .here → s.requestOf f = some q → q.slot = i → q.node = stashNode →
      (∀ r ∈ s.rem.unacked.erase q, ¬(r.slot = i ∧ r.node = stashNode)) → s.rem.heldReq = [] →
      (∀ g ∈ s.hg.flight, g.opc ≠ 0x40 ∧ g.opc ≠ 0x50) → ShowsNoHold s → s.snapFlight = none → s.stepFlight = none →
      ∃ t, Machine.exec (.endToEndAck p f true) s = .next t ∧
        t.slot i = { x with stash := { x.stash with
          bottom := (off + size) % x.hdr.stashSize, ring := rest, moving := false
          ovf := x.stash.ovf ++ [(x.stash.ovfUsed, size)] } } ∧
        (∀ j, j ≠ i → t.slot j = s.slot j) ∧ onlyWords t ∧ SameRegisters s t) ∧
    (∀ off size, s.stashHeld = false → x.stash.ovf.getLast? = some (off, size) → x.stash.returning = none →
      x.stash.moving = false →
      s.pushPresent i = false → size ≤ x.stash.free x.hdr.stashSize →
      (x.stash.ring = [] → ∀ f ∈ s.hg.flight, ¬(f.slot = i ∧ f.opc = 0x21)) →
      ∃ t, Machine.exec (.stashReturn i) s = .next t ∧
        t.slot i = { x with stash := { x.stash with
          returning := some ((x.stash.bottom + x.hdr.stashSize - size) % x.hdr.stashSize, size) } } ∧
        (∀ k, k < size / 64 → let a := x.hdr.ovfBase + off + 64 * k
          (i.val, stashNode, a) ∉ s.rem.got →
          ∃ q ∈ t.rem.reads, q.slot = i ∧ q.node = stashNode ∧ q.f.addr = BitVec.ofNat 60 a ∧
            (q ∈ s.rem.reads ∨ q.f.typ = 1 ∧ q.f.dst = BitVec.ofNat 12 (hallNode a) ∧ q.f.len = 1)) ∧
        (∀ j, j ≠ i → t.slot j = s.slot j) ∧ onlyWords t ∧ SameRegisters s t) ∧
    (∀ bottom size off z, s.snapFlight = none → x.stash.returning = some (bottom, size) →
      x.stash.ovf.getLast? = some (off, z) →
      s.missing i stashNode ((List.range (size / 64)).map fun k => x.hdr.ovfBase + off + 64 * k) = [] →
      ∃ t, Machine.exec (.stashReturnEnd i) s = .next t ∧
        t.slot i = { x with stash := { x.stash with
          bottom := bottom, ring := (bottom, size) :: x.stash.ring, ovf := x.stash.ovf.dropLast, returning := none } } ∧
        (s.MemOk → RingFits x.hdr bottom size →
          (∀ k, k < size → hallNode (x.hdr.ovfBase + off + k) ≠ s.hall.nid.toNat) →
          (∀ k, k < size → ¬ReasonAt s none (hallLoc (x.hdr.ringAt bottom k))) →
          (∀ k, k < size → Mem.get t.mem (hallLoc (x.hdr.ringAt bottom k)) = s.byteAt (x.hdr.ovfBase + off + k)) ∧
          (∀ a, (∀ k, k < size → a ≠ hallLoc (x.hdr.ringAt bottom k)) → ¬ReasonAt s none a →
            Mem.get t.mem a = Mem.get s.mem a)) ∧
        (∀ j, j ≠ i → t.slot j = s.slot j) ∧ SameRegisters s t)

/-- ABORT of one slot (R425, R600): in RUN with nothing in flight it is FREE at once and SLOTEND is raised; in LOAD its
SUBMIT is answered with 0x25 and it is FREE; FREE or HALT, nothing changes but for units that wait and what nodes show. The
other slots keep their state. Covers ABORT. -/
def Obligations.AbortEndsSlot : Prop :=
  ∀ (i : Fin 16) (mask : BitVec 16) (s : State), Awake s → (∀ j : Fin 16, mask.getLsbD j.val = decide (j = i)) →
    ((s.slot i).st = .run → s.slotBusy i = false →
      ∃ t, Machine.exec (.abort mask) s = .next t ∧ t.slot i = {} ∧ t.evt.pend.getLsbD 17 = true ∧
        (∀ j, j ≠ i → t.slot j = s.slot j) ∧ SameButPorts s t) ∧
    (∀ l, (s.slot i).st = .load → s.hg.loading = some l → l.slot = i →
      ∃ t, Machine.exec (.abort mask) s = .next t ∧ t.slot i = {} ∧ t.hg.loading = none ∧
        t.out.resp = s.out.resp ++ [mkResponse 0x25 i.val l.tag.toNat none] ∧
        (∀ j, j ≠ i → t.slot j = s.slot j) ∧ SameButPorts s t) ∧
    ((s.slot i).st = .free ∨ (s.slot i).st = .halt → Machine.exec (.abort mask) s = .next (answered s.sweep.pumpAll.showReasons))

/-- The commands that dispatch, stream, feed or retire a graph's instructions. -/
def Sys2Proof.Claims.isGraphCommand : Instr → Bool
  | .fprod .. | .gdx .. | .gdw .. | .dist .. | .maxidx .. | .qstat .. | .qconv .. | .rescale .. | .push .. | .pop ..
  | .rowrec .. | .deriv .. | .move .. | .gather .. | .scatter .. | .reduce .. | .update .. | .snap .. | .restore ..
  | .fence .. | .stopat .. | .step .. | .ctxsave .. | .ctxload .. | .nop .. | .operandFetch .. | .gangStreamStart ..
  | .instructionRetire .. | .stashMove .. | .stashReturn .. | .stashReturnEnd .. => true
  | _ => false

/-- No instruction of a graph, in any form, changes the phase, the usable arrays, FGE_SLOT_EN, FGE_VER_BASE, FGE_EVT_MASK,
FGE_GOV_CTRL, FGE_GOV_STATUS, FGE_TICK, the node's place, its manager and live set, the self-test, FGE_ARRAY_EN,
FGE_LINK_CTRL, the keys, the trace registers or the loads of the service record (R364 to R410, R439): what SameRegisters
lists, but for what a port shows that comes to the end of its counter (R463, R469, R481). The other registers, which STOPAT,
STEP, SNAP, RESTORE and the slots' own states move, are left out. -/
def Obligations.GraphCommandsKeepRegisters : Prop :=
  ∀ (c : Instr) (s t : State), isGraphCommand c = true → Machine.exec c s = .next t → SameButPorts s t

/-- Where a data instruction is in flight after its dispatch, its stamp is the tick and its step number that of its
dispatch, its word that of the graph (R370, R373), and the flights of other nodes are as they were. Where MAXIDX or QSTAT
is in flight so with its effect made, it changed no byte but those of dependence words that show why nodes wait and of the
records of its statistics tensor that lie on this node (R159, R227): with tracing and steering off, SCOPE 0, and records
apart from the tables that place them. Where QCONV, RESCALE, MOVE, GATHER or SCATTER, in either form, is so, it changed no byte
but those words and the places of elements of its target that lie on this node (R160, R176, R343, R350 to R352, R398): with
tracing and steering off, for a target of more than four bits without side tensors, apart from the tables that place it. -/
def Obligations.DataInstructionsFrame : Prop :=
  (∀ (i : Fin 16) (n : Nat) (core : Fin 8) (s t : State) (c : Instr) (opc : Nat) (onCore : Bool),
    (c = .maxidx i n core ∧ opc = 0x05 ∧ onCore = true ∨ c = .qstat i n core ∧ opc = 0x10 ∧ onCore = true
      ∨ c = .qconv i n core ∧ opc = 0x11 ∧ onCore = true ∨ c = .rescale i n core ∧ opc = 0x12 ∧ onCore = true
      ∨ c = .rowrec i n core ∧ opc = 0x22 ∧ onCore = true ∨ c = .deriv i n core ∧ opc = 0x23 ∧ onCore = true
      ∨ c = .move i n ∧ opc = 0x30 ∧ onCore = false ∨ c = .gather i n ∧ opc = 0x31 ∧ onCore = false
      ∨ c = .scatter i n ∧ opc = 0x32 ∧ onCore = false) →
    Dispatchable s i n opc onCore → Machine.exec c s = .next t → t.flightOf i n ≠ none →
    (∀ f ∈ s.hg.flight, ¬(f.slot = i ∧ f.node = n)) →
    ∃ f, t.flightOf i n = some f ∧ f.opc = opc ∧ f.word = s.taskWord i n ∧ f.dstamp = s.tm.tick
      ∧ f.stepNo = s.hg.stepNo ∧ (f.phase = .dispatched ∨ f.phase = .effected)
      ∧ t.hg.flight.filter (fun g => !(g.slot == i && g.node == n)) = s.hg.flight) ∧
  (∀ (i : Fin 16) (n opc src dst bytes : Nat) (core : Fin 8) (s : State) (c : Instr) (d : Tensor),
    (c = .maxidx i n core ∧ opc = 0x05 ∧ src = pDA (s.taskWord i n) ∧ dst = pDC (s.taskWord i n) ∧ bytes = 16
      ∨ c = .qstat i n core ∧ opc = 0x10 ∧ src = qSrc (s.taskWord i n) ∧ dst = qDst (s.taskWord i n) ∧ bytes = 8) →
    s.MemOk → Dispatchable s i n opc true → s.tr.live.en = false → s.stw.live.en = false →
    twScope (s.taskWord i n) = false → (∀ f ∈ s.hg.flight, ¬(f.slot = i ∧ f.node = n)) →
    let e := entered s i n opc core true fun s _ => (s.tensor i src).toList
    let dep := hallLoc ((s.slot i).hdr.depAddr n)
    let outside := fun (x a : Nat) => a < hallLoc x ∨ hallLoc x + bytes ≤ a
    let apart := fun a : Nat => ¬ReasonAt s (some (i, n)) a ∧
      ∀ g ∈ coordsOf d.exts, hallNode (e.recPlace i d g) = s.hall.nid.toNat → outside (e.recPlace i d g) a
    e.tensor i dst = some d →
    (∀ u : State, u.hg = e.hg → u.hall = e.hall →
      (∀ a, (∀ g ∈ coordsOf d.exts, a < e.recPlace i d g ∨ e.recPlace i d g + bytes ≤ a) →
        Mem.get u.rem.data a = Mem.get e.rem.data a) →
      (∀ a, apart a → (a < dep ∨ dep + 8 ≤ a) → ¬ShownAt s a → Mem.get u.mem a = Mem.get e.mem a) → ∀ g, u.recPlace i d g = e.recPlace i d g) →
    ∀ t, Machine.exec c s = .next t → (∃ f, t.flightOf i n = some f ∧ f.phase = .effected) →
      ∀ a, (a < dep ∨ dep + 8 ≤ a) → ¬ShownAt s a → apart a → Mem.get t.mem a = Mem.get s.mem a) ∧
  (∀ (i : Fin 16) (n opc : Nat) (core : Fin 8) (onCore : Bool) (s : State) (c : Instr) (d : Tensor) (fmt : EFmt)
      (names : State → Nat → List Tensor) (target : State → Nat → Option Tensor),
    (c = .qconv i n core ∧ opc = 0x11 ∧ onCore = true
        ∧ names = (fun s w => ((s.qconvSrc w).bind (s.tensor i)).toList ++ ((s.qconvDst w).bind (s.tensor i)).toList)
        ∧ target = (fun s w => (s.qconvDst w).bind (s.tensor i))
      ∨ c = .rescale i n core ∧ opc = 0x12 ∧ onCore = true
        ∧ names = (fun s w => (s.tensor i (qSrc w)).toList ++ (s.tensor i (qDst w)).toList)
        ∧ target = (fun s w => s.tensor i (qDst w))
      ∨ (c = .move i n ∧ opc = 0x30 ∨ c = .gather i n ∧ opc = 0x31 ∨ c = .scatter i n ∧ opc = 0x32)
        ∧ core = 0 ∧ onCore = false ∧ names = (fun s w => s.moveNames i w)
        ∧ target = (fun s w => s.tensor i (mDst w))) →
    s.MemOk → Dispatchable s i n opc onCore → s.tr.live.en = false → s.stw.live.en = false →
    (∀ f ∈ s.hg.flight, ¬(f.slot = i ∧ f.node = n)) →
    let e := entered s i n opc core onCore names
    let dep := hallLoc ((s.slot i).hdr.depAddr n)
    let place := fun g => e.place i d fmt g
    let stays := fun a : Nat => (a < dep ∨ dep + 8 ≤ a) ∧ ∀ g ∈ coordsOf (e.extents i d), ¬Touches s (place g) a
    target e (s.taskWord i n) = some d → PlainTarget e i d fmt →
    (∀ u : State, u.hg = e.hg → u.hall = e.hall → u.stw.live = e.stw.live →
      (∀ a, (∀ g ∈ coordsOf (e.extents i d), ¬TouchesFar (place g) a) →
        Mem.get u.rem.data a = Mem.get e.rem.data a) →
      (∀ a, stays a → ¬ShownAt s a → Mem.get u.mem a = Mem.get e.mem a) →
      PlainTarget u i d fmt ∧ ∀ g, u.place i d fmt g = place g) →
    ∀ t, Machine.exec c s = .next t → (∃ f, t.flightOf i n = some f ∧ f.phase = .effected) →
      ∀ a, stays a → ¬ShownAt s a → ¬ReasonAt s (some (i, n)) a → Mem.get t.mem a = Mem.get s.mem a)

-- The control window: commit, events, identity of registers.

/-- GO (R439, R440, R596 to R598): with nothing against it the steward's pending set waits whole for its STEP, the
trace registers' pending copies are live at once, and a ring placed afresh starts at zero; in each case of R596 it is
refused as a whole and only sets `CERR`. Nothing else changes. That `CERR` stays set over a later commit that is accepted,
until it is cleared, where R595 has it say that the last commit was refused, is the model's reading (log 60). Covers GO. -/
def Obligations.CommitTakesAllOrNothing : Prop :=
  ∀ s : State, Awake s →
    (s.stw.pend.base.toNat % 4096 = 0 → s.mine s.stw.pend.base.toNat (16 * 2 ^ 20) = true →
      ¬(s.tr.pend.en = true ∧ s.tr.pend.size = 0) → s.tr.pend.base.toNat + 4096 * s.tr.pend.size.toNat ≤ stackBytes →
      Machine.exec .go s = .next (answered { s with
        stw := { s.stw with set := some s.stw.pend }
        tr := if s.tr.pend.base = s.tr.live.base ∧ s.tr.pend.size = s.tr.live.size then { s.tr with live := s.tr.pend }
          else { s.tr with live := s.tr.pend, wr := 0, rd := 0 } })) ∧
    (s.stw.pend.base.toNat % 4096 ≠ 0 ∨ s.mine s.stw.pend.base.toNat (16 * 2 ^ 20) = false
        ∨ s.tr.pend.en = true ∧ s.tr.pend.size = 0
        ∨ stackBytes < s.tr.pend.base.toNat + 4096 * s.tr.pend.size.toNat →
      Machine.exec .go s = .next (answered { s with stw := { s.stw with cerr := true } }))

/-- The event interrupt (R7): asserted exactly while some event is pending and unmasked. -/
def Obligations.InterruptFollowsUnmaskedEvents : Prop :=
  ∀ s : State, s.irq = true ↔ ∃ k, k < 26 ∧ s.evt.pend.getLsbD k = true ∧ s.evt.mask.getLsbD k = false

/-- An access of another size, or a misaligned one, completes with an error response and has no effect (R4). Covers
BAD_ACCESS. -/
def Obligations.BadAccessHasNoEffect : Prop :=
  ∀ (off : BitVec 16) (size : Nat) (write : Bool) (s : State), (size ≠ 4 ∧ size ≠ 8) ∨ off.toNat % size ≠ 0 →
    Machine.exec (.badAccess off size write) s = .next { s with out := { s.out with mgmt := ⟨false, 0⟩ } }

/-- Offsets of the register map (R589). -/
def Sys2Proof.Claims.assigned : List Nat :=
  [0x000, 0x008, 0x010, 0x018, 0x100, 0x108, 0x110, 0x118, 0x120, 0x200, 0x208, 0x300, 0x308, 0x310, 0x318, 0x320,
   0x400, 0x408, 0x410, 0x418, 0x500, 0x508, 0x510, 0x518, 0x520, 0x528, 0x600, 0x608, 0x610,
   0x640, 0x648, 0x650, 0x658, 0x660, 0x668, 0x700, 0x708, 0x710, 0x718, 0x800, 0x808, 0x810,
   0x900, 0x908, 0x910, 0x918, 0x920, 0x928, 0x930, 0xA00, 0xA08, 0xA10, 0xA18, 0xB00, 0xB08, 0xB10, 0xB18, 0xB20,
   0xB28, 0xC00, 0xC08, 0xC10]

/-- A read of an unassigned offset returns zero, and a write to one is ignored and completes normally (R5). Covers
REGISTER_WRITE. -/
def Obligations.UnassignedOffsetsReadZero : Prop :=
  ∀ (off : BitVec 16) (half : Option Bool) (v : BitVec 64) (s : State), off.toNat % 8 = 0 → off.toNat ∉ assigned →
    s.readReg off.toNat = 0 ∧ Machine.exec (.registerWrite off half v) s = .next (answered s)

/-- A plain RW register reads back the bits written to its fields, by a 64-bit write, and its reserved bits read zero;
a write of one half leaves the other half's fields (R3, R5). The shadowed registers read back only once they are live
(R439). -/
def Obligations.RegistersReadBack : Prop :=
  ∀ (v : BitVec 64) (s : State) (off : Nat) (m : BitVec 64),
    (off, m) ∈ [(0x110, 0xFFFF), (0x208, 0x3FFFFFF), (0x410, 0xFFFFFFFFFF), (0x508, 3), (0x528, 0xFFFFFFFF),
      (0xA08, 0x1FF), (0xC00, 0xFF)] →
    (∃ t, Machine.exec (.registerWrite (BitVec.ofNat 16 off) none v) s = .next t ∧ t.readReg off = v &&& m) ∧
    (∃ t, Machine.exec (.registerWrite (BitVec.ofNat 16 off) (some false) v) s = .next t ∧
      t.readReg off = (v &&& m &&& 0xFFFFFFFF) ||| (s.readReg off &&& 0xFFFFFFFF00000000)) ∧
    (∃ t, Machine.exec (.registerWrite (BitVec.ofNat 16 off) (some true) v) s = .next t ∧
      t.readReg off = (v &&& m &&& 0xFFFFFFFF00000000) ||| (s.readReg off &&& 0xFFFFFFFF))

/-- EVENT_CLEAR clears the bits written as 1 and MASK_WRITE replaces the mask, in every power state (R592, R603).
TRACE_RD_WRITE (R614): a value above `WIDX`, or below it by more than the ring's records, is ignored; any other
becomes `RIDX`; a commit that places the ring afresh sets both indices to zero. TRACE_LOST_READ of the register or of
its lower half returns the count of lost records and clears it; the upper half has no field (R3, R591). Nothing else changes. Covers EVENT_CLEAR, MASK_WRITE, TRACE_RD_WRITE, TRACE_LOST_READ. -/
def Obligations.EventAndTraceRegisters : Prop :=
  ∀ (b : BitVec 26) (r : BitVec 40) (s : State),
    Machine.exec (.eventClear b) s = .next (answered { s with evt := { s.evt with pend := s.evt.pend &&& ~~~b } }) ∧
    Machine.exec (.maskWrite b) s = .next (answered { s with evt := { s.evt with mask := b } }) ∧
    (s.tr.wr.toNat < r.toNat ∨ r.toNat + 2048 * s.tr.live.size.toNat < s.tr.wr.toNat →
      Machine.exec (.traceRdWrite r) s = .next (answered s)) ∧
    (r.toNat ≤ s.tr.wr.toNat ∧ s.tr.wr.toNat ≤ r.toNat + 2048 * s.tr.live.size.toNat →
      Machine.exec (.traceRdWrite r) s = .next (answered { s with tr := { s.tr with rd := r } })) ∧
    (Awake s → s.commitBad = false → s.tr.pend.base ≠ s.tr.live.base ∨ s.tr.pend.size ≠ s.tr.live.size →
      ∃ t, Machine.exec .go s = .next t ∧ t.tr.rd = 0 ∧ t.tr.wr = 0 ∧ t.tr.live = s.tr.pend) ∧
    (∀ half, half ≠ some true → Machine.exec (.traceLostRead half) s = .next { s with
      tr := { s.tr with lost := 0 }, out := { s.out with mgmt := ⟨true, s.tr.lost.setWidth 64⟩ } }) ∧
    Machine.exec (.traceLostRead (some true)) s = .next { s with out := { s.out with mgmt := ⟨true, 0⟩ } }

/-- The key port (R464, R465, R592, R608, R609): a selection clears what was written since the last staging; a fifth key
word is ignored with `KEYERR`; four words and the salt stage the snapshot key or a port's key of either direction, and the
words are cleared. A receiver that has a session or trains for one then says key-ready, and such a transmitter that saw
key-ready switches. With fewer words, port 6 or a port of a dimension of size 1 nothing is staged and `KEYERR` is set. In
DEEP, and while it ends, the staging is held for the wake (which writes are: log 26). Covers KEY_SEL, KWORD, SALT, STAGE. -/
def Obligations.KeyPortStagesKeys : Prop :=
  ∀ (s : State),
    (∀ kport kdir, Machine.exec (.keySel kport kdir) s = .next (answered { s with
      key := { s.key with kport := kport, kdir := kdir, words := [], salt := 0 } })) ∧
    (∀ w, s.key.words.length < 4 → Machine.exec (.kword w) s = .next (answered { s with
      key := { s.key with words := s.key.words ++ [w] } })) ∧
    (∀ w, 4 ≤ s.key.words.length → Machine.exec (.kword w) s = .next (answered { s with
      key := { s.key with keyErr := true } })) ∧
    (∀ w, Machine.exec (.salt w) s = .next (answered { s with key := { s.key with salt := w } })) ∧
    (¬Awake s → Machine.exec .stage s = .next (answered { s with hg := { s.hg with
      held := s.hg.held.filter (fun h => h.1.toNat != 0x700) ++ [(0x700, 16)] } })) ∧
    (Awake s → s.key.words.length < 4 ∨ s.key.kport = 6
        ∨ (∃ p : Fin 6, s.key.kport.toNat = p.val ∧ s.hall.dim (p.val / 2) = 1) →
      Machine.exec .stage s = .next (answered { s with key := { s.key with keyErr := true } })) ∧
    (∀ a b c d, Awake s → s.key.words = [a, b, c, d] → s.key.kport = 7 →
      Machine.exec .stage s = .next (answered { s with
        key := { s.key with
          words := [], salt := 0
          snapKey := some ⟨d ++ (c ++ (b ++ a)), s.key.salt⟩ } })) ∧
    (∀ a b c d (p : Fin 6), Awake s → s.key.words = [a, b, c, d] → s.key.kport.toNat = p.val →
      s.hall.dim (p.val / 2) ≠ 1 →
      let k : Key := ⟨d ++ (c ++ (b ++ a)), s.key.salt⟩
      let empty := { s.key with words := [], salt := 0 }
      let tx := { s.port p with stTx := some k }
      let rx := { s.port p with stRx := some k }
      let ready := rx.took (.inr .keyReady) s.stamp
      let switch := tx.took (.inr .keySwitch) s.stamp
      (s.key.kdir = false → (s.port p).farReady = false ∨ (s.port p).linked = false →
        Machine.exec .stage s = .next (answered { s with key := empty, ports := s.ports.set p tx })) ∧
      (s.key.kdir = true → (s.port p).linked = false →
        Machine.exec .stage s = .next (answered { s with key := empty, ports := s.ports.set p rx })) ∧
      (s.key.kdir = false → (s.port p).farReady = true → (s.port p).linked = true → (s.port p).exhausted = false →
        ∃ t, Machine.exec .stage s = .next t ∧
          t.port p = { switch with
            keyTx := some k, stTx := none, txCount := 0, farReady := false, txOut := true
            txOld := switch.replay.length } ∧
          (∀ o, o ≠ p → t.port o = s.port o) ∧
          t = answered { s with
            key := empty, ports := t.ports, obs := t.obs
            out := { s.out with links := s.out.links ++ [.sluice p .keySwitch s.stamp] } }) ∧
      (s.key.kdir = true → (s.port p).linked = true → (s.port p).exhausted = false →
        ∃ t, Machine.exec .stage s = .next t ∧ t.port p = ready ∧ (∀ o, o ≠ p → t.port o = s.port o) ∧
          t = answered { s with
            key := empty, ports := t.ports, obs := t.obs
            out := { s.out with links := s.out.links ++ [.sluice p .keyReady s.stamp] } }))

/-- NODE_ID_WRITE and HALL_TOPO_WRITE (R444, R606): with a port that is neither DOWN nor UNUSED, or a torus and node ID
that do not fit, the write is ignored and sets `TOPOERR`; otherwise the node has its new place or the torus its new
shape. Covers NODE_ID_WRITE, HALL_TOPO_WRITE. -/
def Obligations.HallPlacementWrites : Prop :=
  ∀ (v : BitVec 64) (s : State),
    let n := fld v.toNat 0 12
    let x := fld v.toNat 0 5
    let y := fld v.toNat 5 5
    let z := fld v.toNat 10 5
    let bad := { s with hall := { s.hall with topoErr := true } }
    (s.portsDown = false ∨ fitsTorus n s.hall.xdim.toNat s.hall.ydim.toNat s.hall.zdim.toNat = false →
      Machine.exec (.nodeIdWrite v) s = .next (answered bad)) ∧
    (s.portsDown = true → fitsTorus n s.hall.xdim.toNat s.hall.ydim.toNat s.hall.zdim.toNat = true →
      ∃ t, Machine.exec (.nodeIdWrite v) s = .next t ∧ t.hall.nid = BitVec.ofNat 12 n ∧
        t.hall.xdim = s.hall.xdim ∧ t.hall.ydim = s.hall.ydim ∧ t.hall.zdim = s.hall.zdim ∧
        t.hall.topoErr = s.hall.topoErr ∧ t.mem = s.mem ∧ t.hg = s.hg ∧ t.key = s.key) ∧
    (s.portsDown = false ∨ x = 0 ∨ 16 < x ∨ y = 0 ∨ 16 < y ∨ z = 0 ∨ 16 < z ∨ 4096 < x * y * z
        ∨ fitsTorus s.hall.nid.toNat x y z = false →
      Machine.exec (.hallTopoWrite v) s = .next (answered bad)) ∧
    (s.portsDown = true → 1 ≤ x → x ≤ 16 → 1 ≤ y → y ≤ 16 → 1 ≤ z → z ≤ 16 → x * y * z ≤ 4096 →
        fitsTorus s.hall.nid.toNat x y z = true →
      ∃ t, Machine.exec (.hallTopoWrite v) s = .next t ∧
        t.hall.xdim.toNat = x ∧ t.hall.ydim.toNat = y ∧ t.hall.zdim.toNat = z ∧ t.hall.nid = s.hall.nid ∧
        t.hall.topoErr = (s.hall.topoErr && !v.getLsbD 15) ∧
        (∀ p, (t.port p).st = if t.hall.dim (p.val / 2) = 1 then .unused else .down) ∧
        t.mem = s.mem ∧ t.hg = s.hg ∧ t.key = s.key)

/-- VER_BASE_WRITE, SNAP_CONFIG_WRITE and SVC_LOAD (R17, R508, R510, R602): taken where the rules allow; ignored
otherwise, a snapshot register's write with `CFGERR`. Covers VER_BASE_WRITE, SNAP_CONFIG_WRITE, SVC_LOAD. -/
def Obligations.GuardedRegisterWrites : Prop :=
  ∀ (v : BitVec 64) (s : State),
    let b := fld v.toNat 0 60
    ((∀ i, (s.slot i).st = .free) → b % 4096 = 0 → s.mine b (4 * 2 ^ 20) = true →
      Machine.exec (.verBaseWrite v) s = .next (answered { s with hg := { s.hg with verBase := BitVec.ofNat 60 b } })) ∧
    ((∃ i, (s.slot i).st ≠ .free) ∨ b % 4096 ≠ 0 ∨ s.mine b (4 * 2 ^ 20) = false →
      Machine.exec (.verBaseWrite v) s = .next (answered s)) ∧
    (s.snapBusy = true → ∀ k, Machine.exec (.snapConfigWrite k v) s = .next (answered { s with
      snap := { s.snap with cfgErr := true } })) ∧
    (s.snapBusy = false →
      Machine.exec (.snapConfigWrite 0 v) s = .next (answered { s with
        snap := { s.snap with sbase := BitVec.ofNat 60 b } }) ∧
      Machine.exec (.snapConfigWrite 1 v) s = .next (answered { s with
        snap := { s.snap with pbase := BitVec.ofNat 60 b } }) ∧
      Machine.exec (.snapConfigWrite 2 v) s = .next (answered { s with
        snap := { s.snap with
          imgpg := BitVec.ofNat 28 (fld v.toNat 0 28), pgcnt := BitVec.ofNat 12 (fld v.toNat 28 12)
          drain := BitVec.ofNat 4 (fld v.toNat 40 4), minit := BitVec.ofNat 20 (fld v.toNat 44 20) } })) ∧
    (s.loadOpen = false ∨ 204 ≤ s.svc.sel.toNat → Machine.exec (.svcLoad v) s = .next (answered s)) ∧
    (s.loadOpen = true → s.svc.sel.toNat < 204 →
      ∃ t, Machine.exec (.svcLoad v) s = .next t ∧ t.svc.count = s.svc.count ∧
        t.svc.load = s.svc.load.set s.svc.sel.toNat
          (if 128 ≤ s.svc.sel.toNat ∧ s.svc.sel.toNat < 144 then v.toInt else v.toNat) ∧
        t = answered { s with svc := { s.svc with load := t.svc.load, loaded := t.svc.loaded } })


-- Resets, start-up, self-test.

/-- COLD_RESET (R544, R589): every register takes its reset value, the self-test's among them, and start-up begins in FUSE;
the fuses, the bytes of the stacks and the waiting commands are kept (the stacks' bytes: the model's choice, log 17), and
the grade is that of the arrays that are not fused off (R12; until the first self-test the model's choice, log 85). Covers
COLD_RESET. -/
def Obligations.ColdResetLeavesResetValues : Prop :=
  ∀ s : State, ∃ t, Machine.exec .coldReset s = .next t ∧ t.phase = .fuse ∧ t.mem = s.mem ∧ t.pending = s.pending ∧
    t.hg = State.reset.hg ∧ t.stw = State.reset.stw ∧ t.tr = State.reset.tr ∧ t.arrs = State.reset.arrs ∧
    t.evt = State.reset.evt ∧ t.tm = State.reset.tm ∧ t.cut = State.reset.cut ∧ t.hall = State.reset.hall ∧
    t.pwr = State.reset.pwr ∧ t.gov = State.reset.gov ∧ t.pen = 0 ∧ t.ports = State.reset.ports ∧
    t.key = State.reset.key ∧ t.rem = State.reset.rem ∧ t.snap = State.reset.snap ∧ t.obs = State.reset.obs ∧
    t.svc = State.reset.svc ∧ t.loadOpen = true ∧ t.warm = false ∧
    t.scanAsked = (s.phase == .power && s.scanAsked) ∧
    (∀ n, n < 32 → t.diagOf n
      = { fuseOff := (s.diagOf n).fuseOff, frow := (s.diagOf n).frow, fcol := (s.diagOf n).fcol }) ∧
    t.st = { State.reset.st with diag := t.st.diag } ∧ t.st.warmSt = true ∧ t.st.mode = 1 ∧ t.st.pass = 0 ∧
    t.st.tested = 0 ∧
    (let ok := (List.range 32).filter fun n => !(s.diagOf n).fuseOff
     t.grade = BitVec.ofNat 4 (gradeOf ok).1 ∧ t.present = arrayBits (gradeOf ok).2) ∧
    ((∀ n, n < 32 → (s.diagOf n).fuseOff = false) → t.grade = 3 ∧ t.present = 0xFFFFFFFF)

/-- WARM_RESET outside start-up's first phases and scan (R16, R545, R547, R557, R589): the registers marked kept keep their
values and the others of these groups take their reset values (the sequence numbers and windows of remote requests too: the
model's reading, log 62), the counts of the service record stand with what had not yet
crossed added to them, slots end, keys are erased, ports leave the links, and INIT begins, in which the enabled ports
train. Covers WARM_RESET. -/
def Obligations.WarmResetKeepsWhatTheMapKeeps : Prop :=
  ∀ s : State, s.phase ≠ .power → s.phase ≠ .fuse → s.phase ≠ .scan →
    ∃ t, Machine.exec .warmReset s = .next t ∧ t.phase = .init ∧ t.warm = true ∧
      t.tm.tick = s.tm.tick ∧ t.present = s.present ∧ t.grade = s.grade ∧ t.loadOpen = s.loadOpen ∧
      t.hall.mgr = s.hall.mgr ∧ t.hall.backup = s.hall.backup ∧ t.hall.nid = s.hall.nid ∧
      t.hall.xdim = s.hall.xdim ∧ t.hall.ydim = s.hall.ydim ∧ t.hall.zdim = s.hall.zdim ∧
      t.pwr.target = s.pwr.target ∧ t.pwr.autoIdle = s.pwr.autoIdle ∧
      t.gov.tlim = s.gov.tlim ∧ t.gov.tcrit = s.gov.tcrit ∧ t.gov.plim = s.gov.plim ∧ t.gov.tmax = s.gov.tmax ∧
      t.st.warmSt = s.st.warmSt ∧ t.st.mode = s.st.mode ∧ t.st.pass = s.st.pass ∧ t.st.tested = s.st.tested ∧
      t.st.diag = s.st.diag ∧ t.pen = s.pen ∧ t.snap.sbase = s.snap.sbase ∧ t.snap.pbase = s.snap.pbase ∧
      t.snap.imgpg = s.snap.imgpg ∧ t.snap.pgcnt = s.snap.pgcnt ∧ t.snap.drain = s.snap.drain ∧
      t.snap.minit = s.snap.minit ∧ t.st.asel = s.st.asel ∧ t.st.busy = false ∧ t.st.stErr = false ∧
      t.svc.load = s.svc.load ∧ t.svc.loaded = s.svc.loaded ∧ t.svc.sel = 0 ∧
      (s.svc.count.length = 204 → s.svc.active.length = 32 → t.svc.active = List.replicate 32 0 ∧
        (∀ k, k < 32 → t.svc.count.getD k 0 = min (ctrMax : Int) (s.svc.count.getD k 0 + nth s.svc.active k 0)) ∧
        (∀ k, 32 ≤ k → t.svc.count.getD k 0 = s.svc.count.getD k 0)) ∧
      t.hg = State.reset.hg ∧ t.stw = State.reset.stw ∧ t.evt = State.reset.evt ∧ t.cut = State.reset.cut ∧
      t.key = State.reset.key ∧ t.rem = State.reset.rem ∧ t.tr = State.reset.tr ∧ t.obs = State.reset.obs ∧
      (∀ p : Fin 6, (t.port p).st = if s.hall.dim (p.val / 2) = 1 then .unused
        else if s.pen.getLsbD p.val then .train else .down) ∧
      (∀ p, (t.port p).keyTx = none ∧ (t.port p).keyRx = none ∧ (t.port p).stTx = none ∧ (t.port p).stRx = none) ∧
      (∀ k, (t.arr k).cls = 1 ∧ (t.arr k).a16 = false ∧ (t.arr k).op = 0 ∧ (t.arr k).dot = (s.arr k).dot ∧
        (t.arr k).unuse = (s.arr k).unuse)

/-- SCAN_REQUEST (R555): in POWER or FUSE it waits; otherwise every key and salt is erased, every port is DOWN or UNUSED,
LINKDOWN is raised for those that were in use, nothing goes out, and the phase is SCAN. Covers SCAN_REQUEST. -/
def Obligations.ScanErasesSecrets : Prop :=
  ∀ s : State,
    (s.phase = .power ∨ s.phase = .fuse → Machine.exec .scanRequest s = .next { s with scanAsked := true }) ∧
    (s.phase ≠ .power → s.phase ≠ .fuse → ∃ t, Machine.exec .scanRequest s = .next t ∧ t.phase = .scan ∧
      t.key.words = [] ∧ t.key.salt = 0 ∧ t.key.snapKey = none ∧
      (∀ p, (t.port p).keyTx = none ∧ (t.port p).keyRx = none ∧ (t.port p).stTx = none ∧ (t.port p).stRx = none ∧
        ((t.port p).st = .down ∨ (t.port p).st = .unused)) ∧
      t.hg.slots = s.hg.slots ∧ t.hall.nid = s.hall.nid ∧ t.pwr = s.pwr ∧ t.svc = s.svc ∧
      (∀ p, (s.port p).st ≠ .down → (s.port p).st ≠ .unused → t.evt.pend.getLsbD 14 = true) ∧
      t.out = s.out)

/-- STARTUP_PHASE_END, START and SELFTEST_BATCH_END (R544, R545, R548, R554): FUSE is followed by INIT; INIT by the
self-test, or by READY after a warm reset that skips it; a START in READY with every slot FREE begins a run, in NAP and
DEEP with a wake before its first batch (PHASE SELFTEST and BUSY already while it wakes: the model's choice, log 108), and
is refused with `STERR` otherwise, while the engine wakes too; each of the first eight batches tests a core's arrays that are not fused off, and one
without findings fails no array. Covers STARTUP_PHASE_END, START, SELFTEST_BATCH_END. -/
def Obligations.StartUpRunsItsPhases : Prop :=
  ∀ s : State,
    (s.phase = .fuse → s.scanAsked = false → ∃ t, Machine.exec .startupPhaseEnd s = .next t ∧ t.phase = .init ∧
      t.st = s.st ∧ t.hg = s.hg ∧ t.mem = s.mem) ∧
    (s.phase = .init → ¬(s.warm = true ∧ s.st.warmSt = false) →
      Machine.exec .startupPhaseEnd s = .next { s with
        phase := .selftest, st := { s.st with busy := true, batch := 0, retest := [], failed := [], toFuse := [] } }) ∧
    (s.phase = .init → s.warm = true → s.st.warmSt = false →
      Machine.exec .startupPhaseEnd s = .next { s with phase := .ready }) ∧
    (s.phase = .ready → (∀ i, (s.slot i).st = .free) → s.rebuilding = false → s.pwr.st = .run ∨ s.pwr.st = .idle →
      Machine.exec .start s = .next (answered { s with
        phase := .selftest
        st := { s.st with busy := true, batch := 0, retest := [], failed := [], toFuse := [] } })) ∧
    (s.phase = .ready → (∀ i, (s.slot i).st = .free) → s.rebuilding = false → s.pwr.st = .nap ∨ s.pwr.st = .deep →
      Machine.exec .start s = .next (answered { s with
        phase := .selftest
        pwr := { s.pwr with wakeFrom := s.pwr.st, st := .waking, target := 0, pending := false, startAfter := true }
        st := { s.st with busy := true, batch := 0, retest := [], failed := [], toFuse := [] } })) ∧
    (s.phase ≠ .ready ∨ (∃ i, (s.slot i).st ≠ .free) ∨ s.rebuilding = true ∨ s.pwr.st = .waking ∨ s.pwr.st = .entering →
      Machine.exec .start s = .next (answered { s with st := { s.st with stErr := true } })) ∧
    (s.phase = .selftest → s.pwr.startAfter = false → s.st.batch < 8 → ∃ t, Machine.exec (.selftestBatchEnd []) s = .next t ∧
      t.st.batch = s.st.batch + 1 ∧ t.st.failed = s.st.failed ∧ t.st.retest = s.st.retest ∧
      (∀ n, n < 32 → n / 4 = s.st.batch → (s.diagOf n).fuseOff = false →
        (t.diagOf n).srow = none ∧ (t.diagOf n).scol = none ∧ (t.diagOf n).unrep = false ∧ (t.diagOf n).nfail = 0) ∧
      (∀ n, n < 32 → n / 4 ≠ s.st.batch → t.diagOf n = s.diagOf n) ∧ t.grade = s.grade ∧ t.hg = s.hg)

/-- SELFTEST_RUN_END, once every batch and retest is done (R12, R13, R552, R553): the engine is READY, `PASS` and
`TESTED` name the arrays, the grade follows the ones that passed, and SELFTEST is raised; until then nothing changes.
Covers SELFTEST_RUN_END. -/
def Obligations.SelfTestRunEndSetsGrade : Prop :=
  ∀ s : State,
    (s.phase = .selftest → 8 ≤ s.st.batch → s.st.retest = [] →
      let ok := s.unfused.filter fun n => !s.st.failed.contains n
      ∃ t, Machine.exec .selftestRunEnd s = .next t ∧ t.phase = .ready ∧ t.st.busy = false ∧
        t.st.tested = arrayBits s.unfused ∧ t.st.pass = arrayBits ok ∧
        t.grade = BitVec.ofNat 4 (gradeOf ok).1 ∧ t.present = arrayBits (gradeOf ok).2 ∧
        t.evt.pend.getLsbD 22 = true ∧ t.hg = s.hg ∧ t.hall = s.hall ∧ t.key = s.key) ∧
    (s.phase = .selftest → s.st.batch < 8 ∨ s.st.retest ≠ [] → Machine.exec .selftestRunEnd s = .next s)

/-- Grade and repair. The grade of a set of good arrays, listed in rising order (R12, R13): the highest grade whose count
is reached, with exactly that count of arrays, the surplus dropped from the highest number; all of them below 28. Repair
(R551): every pair of a spare row and a spare column that the engine considers covers all failing plots and takes no spare
that a fuse has taken, and where some row and column that are still free cover them, it considers one. -/
def Obligations.GradeAndRepair : Prop :=
  (∀ ok : List Nat, ok.length ≤ 32 →
    let g := gradeOf ok
    (g.1 = 3 ↔ ok.length = 32) ∧ (g.1 = 2 ↔ 30 ≤ ok.length ∧ ok.length < 32) ∧
    (g.1 = 1 ↔ 28 ≤ ok.length ∧ ok.length < 30) ∧ (g.1 = 0 ↔ ok.length < 28) ∧
    (g.1 ≠ 0 → g.2.length = nth [0, 28, 30, 32] g.1 0) ∧ (∃ r, ok = g.2 ++ r) ∧ (g.1 = 0 → g.2 = ok)) ∧
  (∀ (plots : List (Nat × Nat)) (frow fcol : Option Nat),
    (∀ x ∈ covers2 plots frow fcol, (∀ p ∈ plots, x.1 = some p.1 ∨ x.2 = some p.2) ∧
      (frow.isSome = true → x.1 = none) ∧ (fcol.isSome = true → x.2 = none)) ∧
    (∀ r c : Option Nat, (frow.isSome = true → r = none) → (fcol.isSome = true → c = none) →
      (∀ p ∈ plots, r = some p.1 ∨ c = some p.2) → covers2 plots frow fcol ≠ []))

-- Power and the governor.

/-- TARGET_RUN, TARGET_NAP and TARGET_DEEP (R560, R561): the target is written; a state that cannot be entered at once
is pending; RUN asked for in NAP or DEEP begins a wake; nothing else changes. Covers TARGET_RUN, TARGET_NAP,
TARGET_DEEP. -/
def Obligations.PowerTargets : Prop :=
  ∀ s : State,
    (s.pwr.st ≠ .nap → s.pwr.st ≠ .deep → Machine.exec .targetRun s = .next (answered { s with
      pwr := { s.pwr with target := 0, pending := false } })) ∧
    (s.pwr.st = .nap ∨ s.pwr.st = .deep → Machine.exec .targetRun s = .next (answered { s with
      pwr := { s.pwr with target := 0, pending := false, st := .waking, wakeFrom := s.pwr.st } })) ∧
    Machine.exec .targetNap s = .next (answered { s with
      pwr := { s.pwr with target := 1, pending := s.pwr.st != .nap } }) ∧
    Machine.exec .targetDeep s = .next (answered { s with
      pwr := { s.pwr with target := 2, pending := s.pwr.st != .deep } })

/-- AUTOIDLE, NAP_ENTER and DEEP_ENTER (R557 to R561, R570): the engine enters IDLE only from RUN, with auto-idle on and
no core busy; NAP and DEEP only where they are asked for, pending, and nothing keeps the engine from them. Entering IDLE or
NAP changes nothing else (NAP but the counts of active clk, which go to the service record); DEEP discards resident operands
and counter values, its UP ports keep one lane alive, and slots, memory, keys, governor, self-test, events, time and
snapshots keep theirs, where no port has used up its counter. Covers AUTOIDLE, NAP_ENTER, DEEP_ENTER. -/
def Obligations.PowerStatesEntered : Prop :=
  ∀ s : State,
    (s.pwr.st = .run → s.pwr.autoIdle = true → s.coresFree = true →
      Machine.exec .autoidle s = .next { s with pwr := { s.pwr with st := .idle } }) ∧
    (s.pwr.pending = true → s.pwr.target = 1 → s.pwr.st = .run ∨ s.pwr.st = .idle → s.coresFree = true →
      Machine.exec .napEnter s = .next { s.crossActive with pwr := { s.pwr with st := .nap, pending := false } }) ∧
    (s.pwr.pending = true → s.pwr.target = 2 → s.pwr.st = .run ∨ s.pwr.st = .idle ∨ s.pwr.st = .nap →
      s.deepReady = true → Counting s →
      ∃ t, Machine.exec .deepEnter s = .next t ∧ t.pwr = { s.pwr with st := .deep, pending := false } ∧
        t.hg.resident = [] ∧ t.hg.slots = s.hg.slots ∧ t.mem = s.mem ∧ t.key = s.key ∧ t.gov = s.gov ∧ t.st = s.st ∧
        t.evt = s.evt ∧ t.tm = s.tm ∧ t.snap = s.snap ∧
        (∀ b, b < 9 → (t.obs.banks.toList.getD b {}).vals = List.replicate 32 0) ∧
        (∀ p, (s.port p).st = .up → (t.port p).st = .keepalive) ∧
        (∀ p, (s.port p).st ≠ .up → (t.port p).st = (s.port p).st)) ∧
    (s.pwr.st ≠ .run ∨ s.pwr.autoIdle = false ∨ s.coresFree = false → Machine.exec .autoidle s = .next s) ∧
    (s.pwr.pending = false ∨ s.pwr.target ≠ 1 ∨ (s.pwr.st ≠ .run ∧ s.pwr.st ≠ .idle) ∨ s.coresFree = false →
      Machine.exec .napEnter s = .next s) ∧
    (s.pwr.pending = false ∨ s.pwr.target ≠ 2 ∨ (s.pwr.st ≠ .run ∧ s.pwr.st ≠ .idle ∧ s.pwr.st ≠ .nap)
        ∨ s.deepReady = false → Machine.exec .deepEnter s = .next s)

/-- NAP_WAKE_DONE, DEEP_WAKE_DONE and WAKE_REQUEST (R63, R462, R561 to R563, R592): a wake ends in RUN with every array
as after reset but for its marks, and after DEEP the ports whose far end is awake are UP again and the writes held for each
register act on what the wake alone leaves; a GO in DEEP is such a write, and commits at the wake; a data flit waiting for a
node in DEEP begins a wake. On an engine none of whose ports has used up its counter. The model's reading among it: which
writes are held (log 26), how lanes lost meanwhile come back (log 97), the far ends that do not come back, `dark`, as an operand
of the wake (log 129), and `CERR`, which stands over an accepted commit where R595 has it say that the last commit was refused
(log 60). Covers NAP_WAKE_DONE, DEEP_WAKE_DONE, WAKE_REQUEST. -/
def Obligations.WakesEndInRun : Prop :=
  ∀ s : State, Counting s →
    (s.pwr.st = .waking → s.pwr.wakeFrom = .nap →
      Machine.exec .napWakeDone s = .next { s with
        pwr := { s.pwr with st := .run, startAfter := false }
        arrs := s.arrs.map fun a => ({ dot := a.dot, unuse := a.unuse } : Arr) }) ∧
    (∀ errors dark, s.pwr.st = .waking → s.pwr.wakeFrom = .deep → s.hg.held = [] →
      ∃ t, Machine.exec (.deepWakeDone errors dark) s = .next t ∧ t.pwr = { s.pwr with st := .run, startAfter := false } ∧
        t.hg = s.hg ∧ t.mem = s.mem ∧
        t.arrs = (s.arrs.map fun a => ({ dot := a.dot, unuse := a.unuse } : Arr)) ∧
        (∀ p, (s.port p).st = .keepalive → (t.port p).st = (if p ∈ dark then .keepalive else .up))) ∧
    (∀ errors dark u, s.pwr.st = .waking → s.pwr.wakeFrom = .deep →
      Machine.exec (.deepWakeDone errors dark) { s with hg := { s.hg with held := [] } } = .next u →
      Machine.exec (.deepWakeDone errors dark) s = .next (s.hg.held.foldl
        (fun a h => a.writeNow h.1.toNat ⟨h.2, reachOf (if h.1 = 0x918 then none else some false)⟩) u)) ∧
    (¬Awake s → Machine.exec .go s = .next (answered { s with hg := { s.hg with
      held := s.hg.held.filter (fun h => h.1.toNat != 0x018) ++ [(0x018, 1)] } })) ∧
    (∀ errors dark, s.pwr.st = .waking → s.pwr.wakeFrom = .deep → s.hg.held = [(0x018, 1)] → s.commitBad = false →
      ∃ t, Machine.exec (.deepWakeDone errors dark) s = .next t ∧ t.pwr.st = .run ∧ t.hg.held = [] ∧
        t.stw.set = some s.stw.pend ∧ t.stw.cerr = s.stw.cerr ∧ t.tr.live = s.tr.pend) ∧
    (∀ p, s.pwr.st = .deep → (s.port p).st.usable = true → (s.port p).awaiting = none →
      Machine.exec (.wakeRequest p) s = .next { s with
        pwr := { s.pwr with st := .waking, wakeFrom := .deep, target := 0, pending := false } }) ∧
    (∀ p, s.pwr.st ≠ .deep ∨ (s.port p).st.usable = false ∨ (s.port p).awaiting ≠ none →
      Machine.exec (.wakeRequest p) s = .next s)

/-- CURRENT_SAMPLE, SENSOR_READ and FORECAST (R15, R564, R566): a sample enters the history of 1 ms, a reading sets the
sixteen temperatures, the hottest sensor and the flags, each peak rises to its reading, and one above `TCRIT` sets the
level to the highest at once and raises THERMAL (R568), at each such reading (the model's choice, log 60); a forecast
keeps the last five records (the model's choice, log 59), and what it foresees is free (log 1). GOVERNOR_TELEMETRY and ACTIVE_CLK_CROSSING (R557, R569, R585): a report takes its place in the queue of 64 of the
port towards the acting manager, whose oldest gives way, and the queue goes out as far as the frame takes it, at this
command (the model's choice, log 105); a node that is
the manager sends none, and a port that has used up its counter goes DOWN at this command (R463; when it does so: log 57); the
counts of active clk go to the service record and start again at zero. Covers CURRENT_SAMPLE,
SENSOR_READ, FORECAST, GOVERNOR_TELEMETRY, ACTIVE_CLK_CROSSING. -/
def Obligations.GovernorKeepsReadingsAndReports : Prop :=
  ∀ s : State,
    (∀ ma mv, ∃ t, Machine.exec (.currentSample ma mv) s = .next t ∧
      t.gov.hist = ((ma.zip mv).map (fun x => x.1 * x.2 / 1000) :: s.gov.hist).take 62500 ∧
      t.gov.power = BitVec.ofNat 16 (min 0xFFFF (t.gov.mean / 1000)) ∧
      t = { s with gov := { s.gov with hist := t.gov.hist, power := t.gov.power } }) ∧
    (∀ temps, temps.length = 16 → ∃ t, Machine.exec (.sensorRead temps) s = .next t ∧ t.gov.temps = temps ∧
      t.gov.temp.toInt = (hottest temps).2 ∧ t.gov.hsens.toNat = (hottest temps).1 ∧
      (∀ x ∈ temps, x.toInt ≤ t.gov.temp.toInt) ∧
      (t.gov.hot = true ↔ (8 * s.gov.tlim.toNat : Nat) < t.gov.temp.toInt) ∧
      (t.gov.crit = true ↔ (8 * s.gov.tcrit.toNat : Nat) < t.gov.temp.toInt) ∧
      (s.svc.count.length = 204 → ∀ k, k < 16 →
        t.svc.count.getD (128 + k) 0 = max (s.svc.count.getD (128 + k) 0) (nth temps k 0).toInt) ∧
      (t.gov.crit = true → t.gov.level.toNat = min 12 s.gov.tmax.toNat ∧ t.gov.calm = 0 ∧
        t.evt.pend.getLsbD 24 = true ∧ (s.gov.level = 0 → 0 < s.gov.tmax.toNat → t.evt.pend.getLsbD 23 = true)) ∧
      (t.gov.crit = false → t.gov.level = s.gov.level ∧ t.gov.calm = s.gov.calm ∧ t.evt = s.evt ∧ t.mem = s.mem) ∧
      t.gov.hist = s.gov.hist ∧ t.hg = s.hg) ∧
    (∃ t, Machine.exec .forecast s = .next t ∧ t.free = s.free + 3 ∧
      t.gov.forecasts = ([Config.freeBits s.free, Config.freeBits (s.free + 1), Config.freeBits (s.free + 2)]
        :: s.gov.forecasts).take 5 ∧
      t = { s with free := s.free + 3, gov := { s.gov with forecasts := t.gov.forecasts } }) ∧
    (Counting s → s.route { dst := s.hall.actMgr } = .here → Machine.exec .governorTelemetry s = .next s) ∧
    (∀ p f, Counting s → s.route { dst := s.hall.actMgr } = .out p f → (s.port p).txCount.toNat + 10 < 2 ^ 64 - 1 →
      let q := s.port p
      let all := (if q.telem.length < 64 then q.telem else q.telem.tail) ++ [s.gov.report]
      let (w, cap) := q.telemWindow s.tm.tick.toNat
      let n := cap - (if q.telAt = w then q.telSent else 0)
      ∃ t, Machine.exec .governorTelemetry s = .next t ∧
        t.out.links = s.out.links ++ (all.take n).map (fun b => .sluice p (.telemetry s.hall.actMgr b) s.stamp) ∧
        (t.port p).telem = all.drop n ∧ (∀ o, o ≠ p → t.port o = s.port o) ∧ t.gov = s.gov ∧ t.mem = s.mem) ∧
    (∀ p, (s.port p).linked = true → (s.port p).exhausted = true →
      ∃ t, Machine.exec .governorTelemetry s = .next t ∧ (t.port p).st = .down ∧ (t.port p).keyTx = none ∧
        t.evt.pend.getLsbD 14 = true ∧ t.gov = s.gov) ∧
    (s.svc.count.length = 204 → s.svc.active.length = 32 → ∃ t, Machine.exec .activeClkCrossing s = .next t ∧
      t.svc.active = List.replicate 32 0 ∧
      (∀ k, k < 32 → t.svc.count.getD k 0 = min (ctrMax : Int) (s.svc.count.getD k 0 + nth s.svc.active k 0)) ∧
      t = { s with svc := { s.svc with active := t.svc.active, count := t.svc.count } })

/-- THROTTLE_LEVEL_UPDATE (R567, R568): the level never exceeds the top level; it is the top level while a sensor is above
`TCRIT`, one more (up to the top) while one is above `TLIM` or the mean power above the limit, and falls by at most
one. THROTTLE is raised when it leaves zero. Covers THROTTLE_LEVEL_UPDATE. -/
def Obligations.ThrottleFollowsTemperature : Prop :=
  ∀ s : State, ∃ t, Machine.exec .throttleLevelUpdate s = .next t ∧
    t.gov.level.toNat ≤ min 12 s.gov.tmax.toNat ∧
    (s.gov.above s.gov.tcrit = true → t.gov.level.toNat = min 12 s.gov.tmax.toNat) ∧
    (s.gov.above s.gov.tcrit = false → s.gov.above s.gov.tlim = true ∨ s.gov.overPower = true →
      t.gov.level.toNat = min (min 12 s.gov.tmax.toNat) (min s.gov.level.toNat (min 12 s.gov.tmax.toNat) + 1)) ∧
    (s.gov.above s.gov.tcrit = false → s.gov.above s.gov.tlim = false → s.gov.overPower = false →
      min s.gov.level.toNat (min 12 s.gov.tmax.toNat) - 1 ≤ t.gov.level.toNat ∧
      t.gov.level.toNat ≤ min s.gov.level.toNat (min 12 s.gov.tmax.toNat)) ∧
    (s.gov.level = 0 → 0 < t.gov.level.toNat → t.evt.pend.getLsbD 23 = true) ∧
    t.gov.temps = s.gov.temps ∧ t.gov.hist = s.gov.hist ∧ t.hg = s.hg ∧ t.hall = s.hall ∧ t.pwr = s.pwr

-- Observation.

/-- COUNTER_SAMPLE, COUNTER_RESET, SAMPLE_AND_RESET and CNT_TAG_READ (R574 to R576, R592): the bank named, or with 0xF every
bank, goes to its latch with its tags and the stamp; counters go to zero with the command's tag; both happen in that order;
but for the trace nothing else changes, and nothing at all in DEEP; a read of the tag, or of either half of it, puts the
selected entry into the hold (R612). RES_WAIT is counted up to the command first: at each core that has a gang waiting for its
operands, the clk since the last count, each once however many gangs wait there (R571; the core at which a gang waits: log
10). Covers COUNTER_SAMPLE, COUNTER_RESET, SAMPLE_AND_RESET, CNT_TAG_READ. -/
def Obligations.CounterCommands : Prop :=
  ∀ (s : State) (b : BitVec 4) (id : BitVec 16),
    let latched := fun k : Bank => { k with latch := ⟨k.vals, k.tags, s.stamp⟩ }
    let zeroed := fun k : Bank => { k with vals := List.replicate 32 0, tags := List.replicate 32 id.toNat }
    let a := s.countWaits
    let named := fun f : Bank → Bank =>
      if h : b.toNat < 15 then a.obs.banks.set b.toNat (f (a.obs.banks[b.toNat]'h)) h else a.obs.banks.map f
    (s.hg.resWait = [] → a = s) ∧
    (s.hg.resWait ≠ [] →
      a = { s with hg := { s.hg with resFrom := s.tm.tick }, obs := { s.obs with banks := a.obs.banks } } ∧
      ∀ k : Fin 15,
        let clk := s.tm.tick.toNat * 27 / 40 - s.hg.resFrom.toNat * 27 / 40
        let old := s.obs.banks[k]
        ((∃ x ∈ s.hg.resWait, x.2.val = k.val) →
          a.obs.banks[k] = { old with vals := old.vals.set 7 (min ctrMax (nth old.vals 7 0 + clk)) }) ∧
        ((∀ x ∈ s.hg.resWait, x.2.val ≠ k.val) → a.obs.banks[k] = old)) ∧
    (s.pwr.st = .deep → Machine.exec (.counterSample b id) s = .next (answered s) ∧
      Machine.exec (.counterReset b id) s = .next (answered s) ∧
      Machine.exec (.sampleAndReset b id) s = .next (answered s)) ∧
    (s.pwr.st ≠ .deep → ∀ c f, c = Instr.counterSample b id ∧ f = latched
        ∨ c = .sampleAndReset b id ∧ f = (fun k => zeroed (latched k)) →
      ∃ t, Machine.exec c s = .next t ∧
        t = answered { a with obs := { a.obs with banks := named f }, mem := t.mem, tr := t.tr } ∧
        t.tr.live = s.tr.live ∧ (s.tr.live.en = false → t.mem = s.mem ∧ t.tr = s.tr)) ∧
    (s.pwr.st ≠ .deep → Machine.exec (.counterReset b id) s
      = .next (answered { a with obs := { a.obs with banks := named zeroed } })) ∧
    (∀ half, Machine.exec (.cntTagRead half) s = .next { s with
      obs := { s.obs with hold := s.obs.entry.2 }
      out := { s.out with mgmt := ⟨true, match half with
        | none => s.obs.entry.1
        | some false => s.obs.entry.1 &&& 0xFFFFFFFF
        | some true => s.obs.entry.1 >>> 32⟩ } })

/-- Records that the ring takes at once: trace is enabled, the ring has a size, no record was dropped before, and the
share of this window of 1 µs and the ring under STOPFULL have room for `n` (R578, R579, R584). -/
def Sys2Proof.Claims.RingTakes (s : State) (n : Nat) : Prop :=
  s.tr.live.en = true ∧ s.tr.live.size ≠ 0 ∧ s.tr.lostSince = 0 ∧
    (if s.tr.winId = s.tm.tick.toNat / 4000 then s.tr.winCount else 0) + n ≤ 18000 ∧
    (s.tr.live.stopFull = true → s.tr.wr.toNat - s.tr.rd.toNat + n ≤ s.tr.live.records)

/-- The record at place `k` after the write index of `s`, as it stands in `t` (R577). -/
def Sys2Proof.Claims.recordAt (s t : State) (k : Nat) : Nat :=
  Mem.getN t.mem (s.tr.live.recLoc ((s.tr.wr + BitVec.ofNat 40 k).toNat % s.tr.live.records)) 64

/-- AUTOMATIC_SAMPLE, POSITION_SAMPLE, HANG and SNAPDUE (R526, R581, R582, R588). Where a period is set and the engine is
not in DEEP, every bank goes to its latch with its tags and the stamp, in fifteen samples of six records, with what waits for
operands counted until now; and one position
record for each core gives the stamp, the core, the throttle level, and the slot and node of the gang on the core or that
there is none. HANG is raised for a slot in RUN that made no progress for `HANGT` ms, and SNAPDUE for a newest snapshot that
is `INTERVAL` seconds old, each once, with its words in its record. Nothing else changes; where the condition does not hold
nothing changes at all. Covers AUTOMATIC_SAMPLE, POSITION_SAMPLE, HANG, SNAPDUE. -/
def Obligations.PeriodicObservations : Prop :=
  ∀ s : State,
    (s.tr.live.cper ≠ 0 → s.pwr.st ≠ .deep → ∃ t, Machine.exec .automaticSample s = .next t ∧
      let a := s.countWaits
      t = { a with
        obs := { a.obs with banks := a.obs.banks.map fun b => { b with latch := ⟨b.vals, b.tags, s.stamp⟩ } }
        mem := t.mem, tr := t.tr } ∧
      t.tr.live = s.tr.live ∧ (s.tr.live.en = false → t.mem = s.mem ∧ t.tr = s.tr) ∧
      (RingTakes s 90 → t.tr.wr = s.tr.wr + 90 ∧ t.tr.lost = s.tr.lost)) ∧
    (s.tr.live.cper = 0 ∨ s.pwr.st = .deep → Machine.exec .automaticSample s = .next s) ∧
    (s.tr.live.pper ≠ 0 → s.pwr.st ≠ .deep → ∃ t, Machine.exec .positionSample s = .next t ∧
      t = { s with mem := t.mem, tr := t.tr, free := t.free } ∧ s.free ≤ t.free ∧ t.free ≤ s.free + 8 ∧
      t.tr.live = s.tr.live ∧ (s.tr.live.en = false → t.mem = s.mem ∧ t.tr = s.tr) ∧
      (RingTakes s 8 → t.tr.wr = s.tr.wr + 8 ∧ t.tr.lost = s.tr.lost) ∧
      (RingTakes s 8 → s.MemOk → ∀ c : Fin 8,
        let r := recordAt s t c.val
        fld r 0 8 = 5 ∧ fld r 12 4 = c.val ∧ fld r 20 40 = s.stamp.toNat ∧ fld r 196 4 = s.gov.level.toNat ∧
        (s.gangOn c = none → fld r 16 4 = 0 ∧ fld r 152 20 = 0xFFFFF ∧ fld r 172 20 = 0 ∧ fld r 192 4 = 0) ∧
        (∀ f, s.gangOn c = some f → fld r 16 4 = f.slot.val ∧ fld r 152 20 = f.node % 2 ^ 20))) ∧
    (s.tr.live.pper = 0 ∨ s.pwr.st = .deep → Machine.exec .positionSample s = .next s) ∧
    (∀ i, (s.slot i).st = .run → (s.slot i).hung = false → s.tr.live.hangt ≠ 0 →
      s.tr.live.hangt.toNat * 4000000 ≤ (s.tm.tick - (s.slot i).lastProg).toNat →
      ∃ t, Machine.exec (.hang i) s = .next t ∧
        t = { s with
          hg := { s.hg with slots := t.hg.slots }
          evt := { s.evt with pend := s.evt.pend ||| 0x2000000 }, mem := t.mem, tr := t.tr } ∧
        t.slot i = { s.slot i with hung := true } ∧ (∀ j, j ≠ i → t.slot j = s.slot j) ∧
        (s.tr.live.en = false ∨ s.tr.live.evt = false → t.mem = s.mem ∧ t.tr = s.tr) ∧
        (RingTakes s 1 → s.tr.live.evt = true → s.MemOk → t.tr.wr = s.tr.wr + 1 ∧
          fld (recordAt s t 0) 132 8 = 25 ∧ fld (recordAt s t 0) 144 32 = i.val ∧
          fld (recordAt s t 0) 208 64 = (s.slot i).lastProg.toNat) ∧
        Machine.exec (.hang i) t = .next t) ∧
    (∀ i, (s.slot i).st ≠ .run ∨ (s.slot i).hung = true ∨ s.tr.live.hangt = 0 ∨
        (s.tm.tick - (s.slot i).lastProg).toNat < s.tr.live.hangt.toNat * 4000000 →
      Machine.exec (.hang i) s = .next s) ∧
    (s.snap.newest ≠ 0 → s.snap.newest ∉ s.snap.dueFor →
      s.snap.interval.toNat * 4000000000 ≤ (s.tm.tick - s.snap.newestTick).toNat →
      ∃ t, Machine.exec .snapdue s = .next t ∧
        t = { s with
          snap := { s.snap with dueFor := s.snap.newest :: s.snap.dueFor }
          evt := { s.evt with pend := s.evt.pend ||| 0x200000 }, mem := t.mem, tr := t.tr } ∧
        (s.tr.live.en = false ∨ s.tr.live.evt = false → t.mem = s.mem ∧ t.tr = s.tr) ∧
        (RingTakes s 1 → s.tr.live.evt = true → s.MemOk → t.tr.wr = s.tr.wr + 1 ∧
          fld (recordAt s t 0) 132 8 = 21 ∧ fld (recordAt s t 0) 144 32 = s.snap.newest.toNat) ∧
        Machine.exec .snapdue t = .next t) ∧
    (s.snap.newest = 0 ∨ s.snap.newest ∈ s.snap.dueFor ∨
        (s.tm.tick - s.snap.newestTick).toNat < s.snap.interval.toNat * 4000000000 →
      Machine.exec .snapdue s = .next s)

-- Time, stops and the hall.

/-- TIME_FLIT_SEND and TIME_FLIT (R481 to R485, R585): a time flit leaves an UP port with the send tick in 1/16 tk, and
telemetry that waits goes with it as far as the frame takes it; one that comes in is kept with its receive tick in 1/16 tk,
and from the parent it gives the offset, which is slewed and judged for LOCK, or loads the count of a node that joins, which
thereby is stepped and takes the set that it is offered; the root and a port that is not UP correct nothing. The model's
choices among it: the sixteenths as operands, an echo of zero that gives no offset, and how far the slew goes (log 54), a
used-up port that goes DOWN at this command (log 57), the count of a node that joins (log 100), and telemetry that goes with
the time flit (log 105). Covers TIME_FLIT_SEND, TIME_FLIT. -/
def Obligations.TimeFlitsDisciplineTheTick : Prop :=
  ∀ (p : Fin 6) (s : State),
    (∀ k : Fin 16, (s.port p).st.usable = true → (s.port p).txCount.toNat + 11 < 2 ^ 64 - 1 →
      let m : Sluice := .time (16 * s.tm.tick.toNat + k.val) s.tm.lastRecv[p] s.tm.lastSend[p] s.tm.hops
      let (w, cap) := (s.port p).telemWindow s.tm.tick.toNat
      let n := cap - (if (s.port p).telAt = w then (s.port p).telSent else 0)
      ∃ t, Machine.exec (.timeFlitSend p k) s = .next t ∧
        t.out.links = s.out.links ++ [.sluice p m s.stamp]
          ++ ((s.port p).telem.take n).map (fun b => .sluice p (.telemetry s.hall.actMgr b) s.stamp) ∧
        (t.port p).telem = (s.port p).telem.drop n ∧
        ((s.port p).telem = [] → t.port p = { (s.port p).took (.inr m) s.stamp with
          telAt := w, telSent := if (s.port p).telAt = w then (s.port p).telSent else 0 }) ∧
        (∀ q, q ≠ p → t.port q = s.port q) ∧
        t.tm = s.tm ∧ t.mem = s.mem ∧ t.hg = s.hg ∧ t.evt = s.evt) ∧
    (∀ k : Fin 16, (s.port p).st.usable = true → (s.port p).exhausted = true →
      ∃ t, Machine.exec (.timeFlitSend p k) s = .next t ∧ (t.port p).st = .down ∧ (t.port p).keyTx = none ∧
        t.evt.pend.getLsbD 14 = true ∧ t.hg = s.hg) ∧
    (∀ send recv far echo hops, (s.port p).st.usable = false ∨ (s.port p).awaiting ≠ none →
      Machine.exec (.timeFlit p send recv far echo hops) s = .next s) ∧
    (∀ send recv far echo hops, (s.port p).st.usable = true → (s.port p).awaiting = none → s.tm.root = true →
      ∃ t, Machine.exec (.timeFlit p send recv far echo hops) s = .next t ∧
        t = { s with tm := { s.tm with
          lastRecv := s.tm.lastRecv.set p (16 * s.tm.tick.toNat + recv % 16), lastSend := s.tm.lastSend.set p send
          nbHops := s.tm.nbHops.set p hops, parent := 7, hops := 0 } }) ∧
    (∀ (send recv far echo : Nat) hops, (s.port p).st.usable = true → (s.port p).awaiting = none → s.tm.root = false →
      ({ s with tm := { s.tm with nbHops := s.tm.nbHops.set p hops } }).bestParent = some p → echo ≠ 0 →
      let o : Int := (((16 * s.tm.tick.toNat + recv % 16 : Nat) : Int) - send - ((far : Int) - echo)) / 2
      let loads := s.tm.joining
      (loads = true → s.hall.offer ≠ [] → s.cut.st ≠ .partFrozen →
        (∀ n ∈ s.hall.offer, n = s.hall.nid ∨ n ∈ s.hall.acks) →
        ∃ t, Machine.exec (.timeFlit p send recv far echo hops) s = .next t ∧ t.hall = s.hall.under ∧
          t.tm.joining = false ∧ t.tm.stepped = true ∧
          t.tm.tick = BitVec.ofInt 64 ((s.tm.tick.toNat : Int) - o / 16)) ∧
      (s.hall.offer = [] → ∃ t, Machine.exec (.timeFlit p send recv far echo hops) s = .next t ∧
        t.tm.parent.toNat = p.val ∧ t.tm.hops = hops + 1 ∧ t.hg = s.hg ∧ t.hall = s.hall ∧ t.cut = s.cut ∧
        (loads = true → t.tm.joining = false ∧ t.mem = s.mem ∧ t.tm.stepped = true ∧
          t.tm.tick = BitVec.ofInt 64 ((s.tm.tick.toNat : Int) - o / 16)) ∧
        (loads = false → t.tm.tick = s.tm.tick ∧ t.tm.stepped = s.tm.stepped) ∧
        (loads = false → o.natAbs ≤ 64 → t.tm.offset = BitVec.ofInt 16 o ∧
          t.tm.slew = (if o.natAbs ≤ 1 then 0 else o) ∧ t.mem = s.mem ∧ t.tm.bad = 0 ∧
          t.tm.lock = (s.tm.lock || decide (7 ≤ s.tm.good))) ∧
        (loads = false → 64 < o.natAbs → t.tm.good = 0 ∧
          (s.tm.bad < 7 → t.tm.lock = s.tm.lock ∧ t.tm.bad = s.tm.bad + 1) ∧
          (7 ≤ s.tm.bad → t.tm.lock = false ∧ t.evt.pend.getLsbD 18 = true))))

/-- An idle engine lets one tick pass at each step (the model's own reading, log 11): only the time unit changes, the
count never falls, and in any 4,096 ticks the slewing of R483 moves it by at most one from one step a tick (R479,
R483). -/
def Obligations.IdleTicksSlewAtMostOnce : Prop :=
  ∀ (s : State) (k : Nat), k ≤ 4096 →
    (s.pending = [] → Machine.step s = .next s.advance) ∧
    (∃ x : TimeUnit, ticks k s = { s with tm := x } ∧
      (x.tick = s.tm.tick + BitVec.ofNat 64 k ∨ x.tick = s.tm.tick + BitVec.ofNat 64 k + 1
        ∨ x.tick + 1 = s.tm.tick + BitVec.ofNat 64 k)) ∧
    (s.advance.tm.tick = s.tm.tick ∨ s.advance.tm.tick = s.tm.tick + 1 ∨ s.advance.tm.tick = s.tm.tick + 2) ∧
    ((-1 ≤ s.tm.slew ∧ s.tm.slew ≤ 1) → s.advance.tm.tick = s.tm.tick + 1) ∧
    (4095 ≤ s.tm.sinceSlew → (1 < s.tm.slew → s.advance.tm.tick = s.tm.tick) ∧
      (s.tm.slew < -1 → s.advance.tm.tick = s.tm.tick + 2))

/-- Stops and cuts (R488 to R495): a stop write is scheduled, the earlier of two, or refused with `STOPERR`; a stop command
that comes in by a port which hears sluice flits schedules, or after its tick stops the node late; the stop begins once its
tick has passed; a node that is done says so, and the cut commits with the notice of every live node of its part, or is
abandoned where a live node was lost; a resume ends the cut. With room in the ports' counters where notices go out. The
model's reading among it (log 50): LATE stays over cuts and resumes until it is written, an abandonment waits for
CUT_LOCAL_DONE where the node is not done, and a stop command of any tick is dropped in COMMITTED and ABANDONED. Covers
STOP_AT_WRITE, STOP_COMMAND, STOP_TICK, CUT_LOCAL_DONE, CUT_DONE_NOTICE, RESUME, RESUME_NOTICE. -/
def Obligations.StopsAndCuts : Prop :=
  ∀ s : State,
    let hears := fun p : Fin 6 => (s.port p).linked = true ∧ (s.port p).awaiting = none
    let ready := s.cstate = .stopping ∧ (s.pwr.st = .deep ∨ ∀ f ∈ s.hg.flight, f.parked = false)
      ∨ s.cstate = .scheduled ∧ s.pwr.st = .deep
    (∀ T, T.toNat ≤ s.tm.tick.toNat ∨ s.cutOpen = false →
      Machine.exec (.stopAtWrite T) s = .next (answered { s with cut := { s.cut with stopErr := true } })) ∧
    (∀ T, Counting s → s.tm.tick.toNat < T.toNat → s.cut.st = .run →
      ∃ t, Machine.exec (.stopAtWrite T) s = .next t ∧ t.cut.st = .scheduled ∧ t.cut.stopT = T ∧
        t.mem = s.mem ∧ t.hg = s.hg ∧ t.tm = s.tm ∧ t.hall = s.hall) ∧
    (∀ T, Counting s → s.tm.tick.toNat < T.toNat → s.cut.st = .scheduled → s.tm.tick.toNat ≤ s.cut.stopT.toNat →
      ∃ t, Machine.exec (.stopAtWrite T) s = .next t ∧ t.cut.st = .scheduled ∧
        t.cut.stopT = (if T.toNat < s.cut.stopT.toNat then T else s.cut.stopT) ∧
        t.mem = s.mem ∧ t.hg = s.hg ∧ t.tm = s.tm ∧ t.hall = s.hall) ∧
    (∀ p T, Counting s → ¬hears p ∨ s.cut.st = .committed ∨ s.cut.st = .abandoned ∨ s.cut.st = .partFrozen →
      Machine.exec (.stopCommand p T) s = .next s) ∧
    (∀ p T, Counting s → hears p → s.cut.st = .run → ∃ t, Machine.exec (.stopCommand p T) s = .next t ∧ t.cut.stopT = T ∧
      t.cut.st = (if T.toNat < s.tm.tick.toNat then .stopping else .scheduled) ∧
      t.cut.late = (s.cut.late || decide (T.toNat < s.tm.tick.toNat)) ∧
      t.mem = s.mem ∧ t.hg = s.hg ∧ t.tm = s.tm ∧ t.hall = s.hall) ∧
    (s.cut.st = .scheduled → s.cut.stopT.toNat < s.tm.tick.toNat →
      Machine.exec .stopTick s = .next { s with cut := { s.cut with st := .stopping } }) ∧
    (s.cut.st ≠ .scheduled ∨ s.tm.tick.toNat ≤ s.cut.stopT.toNat → Machine.exec .stopTick s = .next s) ∧
    (ready → s.cutDone = true → s.cut.broken = false → Roomy s s.others.length →
      ∃ t, Machine.exec .cutLocalDone s = .next t ∧ t.hg = s.hg ∧ t.hall = s.hall ∧ t.tm = s.tm ∧
        (s.others = [] → t.cut.st = .committed ∧ t.cut.lastCut = s.cut.stopT.setWidth 40 ∧
          t.cut.late = (s.cut.late || (s.cut.anyLate || s.cut.myLate)) ∧ t.evt.pend.getLsbD 19 = true) ∧
        ((∃ n ∈ s.hall.ofPart, n ≠ s.hall.nid ∧ n ∉ s.cut.done) →
          t.cut.st = .localDone ∧ s.hall.nid ∈ t.cut.done ∧ t.mem = s.mem)) ∧
    (ready → Counting s → s.cutDone = true → s.cut.broken = true →
      ∃ t, Machine.exec .cutLocalDone s = .next t ∧ t.cut = { s.cut with st := .abandoned } ∧
        t.evt.pend.getLsbD 19 = true ∧ t.hg = s.hg) ∧
    (Counting s → ¬ready ∨ s.cutDone = false → Machine.exec .cutLocalDone s = .next s) ∧
    (∀ n late, s.cut.st = .localDone → n ∈ s.others → s.hall.nid ∈ s.cut.done →
      (∀ m ∈ s.hall.ofPart, m = s.hall.nid ∨ m = n ∨ m ∈ s.cut.done) →
      ∃ t, Machine.exec (.cutDoneNotice n late) s = .next t ∧ t.cut.st = .committed ∧
        t.cut.lastCut = s.cut.stopT.setWidth 40 ∧ t.cut.late = (s.cut.late || (s.cut.anyLate || late)) ∧
        t.evt.pend.getLsbD 19 = true ∧ t.hg = s.hg) ∧
    (∀ n late, n ∉ s.others → Machine.exec (.cutDoneNotice n late) s = .next s) ∧
    (s.cut.st = .committed ∨ s.cut.st = .abandoned → Roomy s s.others.length →
      ∃ t, Machine.exec .resume s = .next t ∧ t.cut.st = .run ∧ t.cut.stopT = 0 ∧ t.cut.late = s.cut.late ∧
        t.cut.lastCut = s.cut.lastCut ∧ t.hg = s.hg ∧ t.mem = s.mem ∧ t.tm = s.tm ∧ t.hall = s.hall ∧
        t.out.mgmt = ⟨true, 0⟩) ∧
    (Counting s → s.cut.st ≠ .committed → s.cut.st ≠ .abandoned → Machine.exec .resume s = .next (answered s)) ∧
    (∀ n, Counting s → ∃ t, Machine.exec (.resumeNotice n) s = .next t ∧
      t.rem.frozen = s.rem.frozen.filter (· != n) ∧ t.hg = s.hg ∧ t.cut = s.cut ∧
      (s.MemOk → ∀ a, ¬ShownAt s a → Mem.get t.mem a = Mem.get s.mem a))

/-- Partitions and membership (R498 to R505, R527): a node that runs with a part of the whole live set takes its manager and
root from it, and as acting manager offers an enlarged live set where a node outside it can be reached; one cut off raises
PARTITION and freezes or goes on as R500 decides, and so does a node that is frozen already; a new live set is acknowledged
to its manager and takes effect once every node of it acknowledged; lost nodes are declared, which raises REBUILD and ends
every slot, and what they held counts no more; a cut that this node is done with is abandoned where a set or a declaration
takes a live node of the part away (R495); a frozen node rejoins with its parent's count and empty buffers, and hears
which nodes are lost. On an engine none of whose ports has used up its counter. The model's reading among it: a loss takes effect by a command of its own (log 52), what REJOIN brings
(log 53), a frozen part that meets one which continues (log 101), and an offer with the acknowledgements known so far, which
a frozen node and one that joins do not take yet (log 102). Covers PARTITION_EVALUATION, LIVE_SET_CHANGE, LOSS_DECLARATION,
REJOIN. -/
def Obligations.HallMembership : Prop :=
  ∀ s : State, Counting s →
    let part := s.hall.part
    let m := s.hall.manager part true
    let new := s.hall.admissible part
    (∀ near, s.hall.nid ∉ s.hall.live ∨ s.cut.st = .partFrozen ∧ near = true →
      Machine.exec (.partitionEvaluation near) s = .next s) ∧
    (∀ near, s.hall.nid ∈ s.hall.live → s.cut.st ≠ .partFrozen → s.hall.live.length ≤ part.length →
      Roomy s (part ++ new).length →
      ∃ t, Machine.exec (.partitionEvaluation near) s = .next t ∧
        t = { s with
          hall := { s.hall with evald := part, actMgr := m }
          tm := t.tm, ports := t.ports, obs := t.obs, out := { s.out with links := t.out.links } } ∧
        t.tm.tick = s.tm.tick ∧
        (m = s.hall.nid → t.tm.root = true ∧ t.tm.lock = true) ∧
        (m ≠ s.hall.nid → t.tm.root = false ∧ (s.tm.root = false → t.tm = s.tm) ∧ (s.tm.root = true → t.tm.lock = false)) ∧
        (new = [] ∨ s.hall.cont = false ∨ m ≠ s.hall.nid → t.ports = s.ports ∧ t.out = s.out ∧ t.obs = s.obs) ∧
        (new ≠ [] → s.hall.cont = true → m = s.hall.nid →
          ∀ n ∈ part ++ new, n ≠ s.hall.nid → ∀ o g, s.route { dst := n } = .out o g →
            .sluice o (.liveSet (s.hall.live ++ new)) s.stamp ∈ t.out.links)) ∧
    (∀ near, s.cut.st = .partFrozen ∧ near = false ∨
        s.cut.st ≠ .partFrozen ∧ part.length < s.hall.live.length → s.hall.nid ∈ s.hall.live →
      ∃ t, Machine.exec (.partitionEvaluation near) s = .next t ∧ t.hg = s.hg ∧
        (part.length < s.hall.live.length → t.evt.pend.getLsbD 15 = true) ∧
        t.hall.live = s.hall.live ∧ t.hall.nid = s.hall.nid ∧ t.hall.evald = part ∧
        t.hall.actMgr = s.hall.manager part (s.hall.continues part) ∧
        (s.hall.continues part = false → t.cut.st = .partFrozen ∧ t.hall.cont = false ∧
          t.snap.rb ≠ .running ∧ t.snap.rb ≠ .fallback ∧ (s.cut.st = .localDone → t.evt.pend.getLsbD 19 = true)) ∧
        (s.hall.continues part = true → t.snap = s.snap ∧
          (s.cut.st = .partFrozen → t.cut.st = .run ∧ t.hall.cont = true) ∧
          (s.cut.st ≠ .partFrozen → t.hall.cont = s.hall.cont))) ∧
    (∀ set acked, s.hall.single = false → s.hall.nid ∈ set →
      let h := { s.hall with live := set, cont := true, evald := [], offer := [], acks := [] }
      let mgr := s.hall.manager h.part true
      let known := if s.hall.offer = set then acked ++ s.hall.acks else acked
      let takes := s.cut.st ≠ .partFrozen ∧ (s.tm.joining = false ∨ mgr = s.hall.nid)
        ∧ ∀ n ∈ set, n = s.hall.nid ∨ n ∈ known
      ∃ t, Machine.exec (.liveSetChange set acked) s = .next t ∧
        (takes → t.hall = { h with actMgr := mgr } ∧ t.tm.joining = false ∧ t.tm.tick = s.tm.tick) ∧
        (takes → s.cut.st = .localDone → (∃ n ∈ s.hall.ofPart, n ≠ s.hall.nid ∧ n ∉ set) →
          t.cut.st = .abandoned ∧ t.evt.pend.getLsbD 19 = true) ∧
        (¬takes → t.hall = { s.hall with offer := set, acks := t.hall.acks } ∧
          (∀ n, n ∈ t.hall.acks ↔ n ∈ known) ∧ t.tm = s.tm ∧ t.cut = s.cut) ∧
        (s.hall.offer ≠ set → ∀ o g, mgr ≠ s.hall.nid → s.route { dst := mgr } = .out o g →
          .sluice o (.liveAck s.hall.nid) s.stamp ∈ t.out.links) ∧
        (s.hall.offer = set → t.out = s.out) ∧
        t.hg = s.hg ∧ t.rem = s.rem ∧ t.snap = s.snap) ∧
    (∀ set acked, s.hall.single = true ∨ s.hall.nid ∉ set →
      Machine.exec (.liveSetChange set acked) s = .next s) ∧
    (∀ lost, lost ≠ [] → s.hall.cont = true → s.snap.rb ≠ .running → s.snap.rb ≠ .fallback →
      Roomy s (s.others.length + 1) →
      ∃ t, Machine.exec (.lossDeclaration lost) s = .next t ∧ t.evt.pend.getLsbD 16 = true ∧
        (∀ i, (t.slot i).st = .free) ∧ (∀ n, n ∈ t.snap.lost ↔ n ∈ lost ∨ n ∈ s.snap.lost) ∧
        t.snap.target ∈ [s.snap.durPar, s.snap.durStore] ∧ t.rem.heldReq = [] ∧ t.rem.reads = [] ∧
        (∀ q ∈ t.rem.unacked, q.f.dst ∉ lost ∧ ∃ q' ∈ s.rem.unacked, q'.f = q.f ∧ q'.slot = q.slot) ∧
        (s.cut.st = .localDone → (∃ n ∈ s.hall.ofPart, n ≠ s.hall.nid ∧ n ∈ lost) →
          t.cut.st = .abandoned ∧ t.evt.pend.getLsbD 19 = true) ∧
        t.snap.rb ≠ .idle ∧ t.hall = s.hall ∧ t.tm = s.tm ∧ t.snap.lastLoss = s.tm.tick) ∧
    (∀ lost, lost = [] ∨ s.hall.cont = false → Machine.exec (.lossDeclaration lost) s = .next s) ∧
    (∀ count lost, s.hall.single = true ∨ s.hall.cont = true → Machine.exec (.rejoin count lost) s = .next s) ∧
    (∀ count lost, s.hall.single = false → s.hall.cont = false →
      let takes := s.hall.offer ≠ [] ∧ ∀ n ∈ s.hall.offer, n = s.hall.nid ∨ n ∈ s.hall.acks
      ∃ t, Machine.exec (.rejoin count lost) s = .next t ∧ t.tm.tick = count ∧ t.tm.stepped = true ∧ t.cut.st = .run ∧
        (takes → t.hall = s.hall.under ∧ (t.tm.root = true ↔ s.hall.under.actMgr = s.hall.nid) ∧ t.tm.lock = t.tm.root) ∧
        (¬takes → t.hall = { s.hall with cont := true, evald := [] } ∧ t.tm.root = false ∧ t.tm.lock = false) ∧
        t.snap.lost = lost ∧
        t.snap.rb = .idle ∧ (∀ b : Fin 2, t.snap.buf[b] = .empty) ∧ t.rem.heldReq = [] ∧ t.rem.frozen = [] ∧
        (s.hg.flight = [] → s.hg.loading = none → (∀ i, (s.slot i).st ≠ .load) → ∀ i, (t.slot i).st = .free))

-- Ports, training, lanes and keys.

/-- PORT_ENABLE, PORT_DISABLE and RETRAIN (R453, R457, R607): an enabled port trains from step 1; a disabled one is DOWN
without keys, and LINKDOWN is raised where it left the links; a port told to retrain leaves and trains again. TRAINING_RETRY
and TRAIN_STEP_END (R453 to R457): a port that is DOWN and enabled trains again; step 1 fences the lanes whose wires are
bad; step 6 leaves the port TRAINED with seven lanes or more each way, and DOWN otherwise. On an engine none of whose ports has used
up its counter. The model's reading among it (log 55): step 6 comes with the far receiver's report on the transmit lanes, a
port that fails its training is DOWN, and TRAINING_RETRY trains any enabled port that is DOWN. Covers PORT_ENABLE,
PORT_DISABLE, RETRAIN, TRAINING_RETRY, TRAIN_STEP_END. -/
def Obligations.PortsTrain : Prop :=
  ∀ (p : Fin 6) (s : State), Counting s →
    (Awake s → s.pen.getLsbD p.val = false → (s.port p).st = .down → s.portUnused p = false →
        s.phase = .init ∨ s.phase = .selftest ∨ s.phase = .ready →
      ∃ t, Machine.exec (.portEnable p) s = .next t ∧ t.pen = s.pen ||| BitVec.ofNat 6 (2 ^ p.val) ∧
        (t.port p).st = .train ∧ (t.port p).tstep = 1 ∧ (t.port p).fenced = 0 ∧ (t.port p).keyTx = none ∧
        (∀ q, q ≠ p → (t.port q).st = (s.port q).st) ∧ t.mem = s.mem ∧ t.hg = s.hg ∧ t.tm = s.tm) ∧
    (Awake s → s.pen.getLsbD p.val = true → (s.port p).st ≠ .down → (s.port p).st ≠ .unused →
      ∃ t, Machine.exec (.portDisable p) s = .next t ∧ t.pen = s.pen &&& ~~~BitVec.ofNat 6 (2 ^ p.val) ∧
        (t.port p).st = .down ∧ (t.port p).keyTx = none ∧ (t.port p).keyRx = none ∧ t.evt.pend.getLsbD 14 = true ∧
        (∀ q, q ≠ p → (t.port q).st = (s.port q).st) ∧ t.hg = s.hg) ∧
    (Awake s → s.pen.getLsbD p.val = true → (s.port p).st = .down →
      ∃ t, Machine.exec (.portDisable p) s = .next t ∧
        t = answered { s with pen := s.pen &&& ~~~BitVec.ofNat 6 (2 ^ p.val) }) ∧
    (Awake s → s.pen.getLsbD p.val = true → (s.port p).st.usable = true → s.portUnused p = false →
        s.phase = .init ∨ s.phase = .selftest ∨ s.phase = .ready →
      ∃ t, Machine.exec (.retrain p) s = .next t ∧ t.pen = s.pen ∧ (t.port p).st = .train ∧ (t.port p).tstep = 1 ∧
        (t.port p).keyTx = none ∧ t.evt.pend.getLsbD 14 = true ∧
        (∀ q, q ≠ p → (t.port q).st = (s.port q).st) ∧ t.hg = s.hg) ∧
    ((s.port p).st = .down → s.pen.getLsbD p.val = true → s.portUnused p = false → s.phase = .ready →
      ∃ t, Machine.exec (.trainingRetry p) s = .next t ∧ (t.port p).st = .train ∧ (t.port p).tstep = 1 ∧
        t.pen = s.pen ∧ t.mem = s.mem ∧ t.hg = s.hg) ∧
    ((s.port p).st ≠ .down → Machine.exec (.trainingRetry p) s = .next s) ∧
    (∀ lanes, (s.port p).st ≠ .train → Machine.exec (.trainStepEnd p lanes) s = .next s) ∧
    (∀ lanes, (s.port p).st = .train → (s.port p).tstep = 1 →
      ∃ t, Machine.exec (.trainStepEnd p lanes) s = .next t ∧ (t.port p).tstep = 2 ∧ (t.port p).st = .train ∧
        (∀ l o, l < 9 → lanes[l]? = some o → ((t.port p).isFenced l = true ↔ (s.port p).isFenced l = true
          ∨ o.pmv < 50 ∨ o.nmv < 50 ∨ 350 < o.pmv ∨ 350 < o.nmv
          ∨ (50 < o.pmv ∧ 50 < o.nmv ∧ o.pmv ≤ o.nmv + 20 ∧ o.nmv ≤ o.pmv + 20))) ∧
        (∀ q, q ≠ p → t.port q = s.port q) ∧ t.mem = s.mem ∧ t.evt = s.evt) ∧
    (∀ lanes, (s.port p).st = .train → (s.port p).tstep = 6 → (s.port p).farReady = false →
      (s.port p).exhausted = false →
      let got : Nat := ((s.port p).laneOf.filter fun m => !(s.port p).isFenced m.2).length
      let far : Nat := ((lanes.take 9).filter fun o => o.locked).length
      ∃ t, Machine.exec (.trainStepEnd p lanes) s = .next t ∧
        (t.port p).st = (if 7 ≤ got ∧ 7 ≤ far then .trained else .down) ∧
        (7 ≤ got → 7 ≤ far → (t.port p).rx.lanes.length = min 8 got ∧ (t.port p).tx.lanes.length = min 8 far) ∧
        t.hg = s.hg)

/-- Lanes in service and session keys (R450, R458, R459, R463, R465): a lost lane is replaced by the spare on both ends,
and counted; a lane that trained again comes back, one that failed is fenced and raises LANEFAULT; a direction short of
seven lanes holds the port, and takes it DOWN when it stays short; a key switch moves a transmitter, then a receiver, to its
staged key with a counter of zero, and a trained port is UP when the first flit under each new key has passed the far
receiver's check; one that fails its check counts. A flit of the sluice acts on a port with a session or in training for
one, unless a replay is awaited there. On an engine none of whose ports has used up its counter. The model's reading among it: a lane that comes back is appended (log 55); when a
transmitter has passed, and what a switch that fails its check leaves (KEYERR on a TRAINED port, a request to replay from 0
on another: log 56). Covers LANE_SIGNAL_LOSS,
LANE_REMOVAL_NOTICE, LANE_RETRAIN_DONE, LANE_RECOVERY_TIMEOUT, KEY_READY, KEY_SWITCH. -/
def Obligations.LanesAndKeys : Prop :=
  ∀ (p : Fin 6) (s : State), Counting s →
    let q := s.port p
    (∀ l sp, q.st = .up → l ∈ q.rx.lanes → q.rx.spare = some sp → s.svc.count.length = 204 →
      ∃ t, Machine.exec (.laneSignalLoss p l) s = .next t ∧ (t.port p).st = .up ∧
        (t.port p).rx = ⟨q.rx.lanes.map fun x => if x = l then sp else x, none, q.rx.away ++ [l]⟩ ∧
        t.svc.count.getD (198 + p.val) 0 = min (ctrMax : Int) (s.svc.count.getD (198 + p.val) 0 + 1) ∧
        t.hg = s.hg ∧ t.mem = s.mem) ∧
    (∀ l, q.st = .up → l ∈ q.rx.lanes → q.rx.spare = none →
      ∃ t, Machine.exec (.laneSignalLoss p l) s = .next t ∧ (t.port p).st = .up ∧
        (t.port p).rx = ⟨q.rx.lanes.filter (· != l), none, q.rx.away ++ [l]⟩ ∧
        ((q.rx.lanes.filter (· != l)).length < 7 → (t.port p).stalled = true) ∧ t.svc = s.svc ∧ t.mem = s.mem) ∧
    (∀ l sp, q.st = .up → q.awaiting = none → l ∈ q.tx.lanes → q.tx.spare = some sp →
      ∃ t, Machine.exec (.laneRemovalNotice p l) s = .next t ∧ (t.port p).st = .up ∧
        (t.port p).tx = ⟨q.tx.lanes.map fun x => if x = l then sp else x, none, q.tx.away ++ [l]⟩ ∧
        t.mem = s.mem ∧ t.hg = s.hg) ∧
    (∀ l, l < 9 → q.st = .up → l ∈ q.rx.away →
      (∃ t, Machine.exec (.laneRetrainDone p l true) s = .next t ∧
        (t.port p).rx.away = q.rx.away.filter (· != l) ∧
        (q.rx.lanes.length < 8 → (t.port p).rx.lanes = q.rx.lanes ++ [l] ∧ (t.port p).rx.spare = q.rx.spare) ∧
        (8 ≤ q.rx.lanes.length → (t.port p).rx.lanes = q.rx.lanes ∧ (t.port p).rx.spare = some l) ∧
        (t.port p).fenced = q.fenced ∧ t.mem = s.mem ∧ t.evt = s.evt) ∧
      (∃ t, Machine.exec (.laneRetrainDone p l false) s = .next t ∧ (t.port p).isFenced l = true ∧
        (t.port p).rx.lanes = q.rx.lanes ∧ l ∉ (t.port p).rx.away ∧ t.evt.pend.getLsbD 13 = true ∧ t.hg = s.hg)) ∧
    (∀ transmit, q.st = .up → (if transmit then q.tx else q.rx).lanes.length < 7 →
      ∃ t, Machine.exec (.laneRecoveryTimeout p transmit) s = .next t ∧ (t.port p).st = .down ∧
        (t.port p).keyTx = none ∧ t.evt.pend.getLsbD 14 = true ∧ t.hg = s.hg) ∧
    (∀ transmit, q.st ≠ .up ∨ 7 ≤ (if transmit then q.tx else q.rx).lanes.length →
      Machine.exec (.laneRecoveryTimeout p transmit) s = .next s) ∧
    (∀ k, q.linked = true → q.awaiting = none → q.stTx = some k →
      ∃ t, Machine.exec (.keyReady p) s = .next t ∧
        t.port p = { q.took (.inr .keySwitch) s.stamp with
          keyTx := some k, stTx := none, txCount := 0, farReady := false, txOut := true
          txOld := (q.took (.inr .keySwitch) s.stamp).replay.length } ∧
        t.out.links = s.out.links ++ [.sluice p .keySwitch s.stamp] ∧ (∀ o, o ≠ p → t.port o = s.port o) ∧
        t.mem = s.mem) ∧
    (q.linked = true → q.awaiting = none → q.stTx = none →
      Machine.exec (.keyReady p) s = .next { s with ports := s.ports.set p { q with farReady := true } }) ∧
    (q.linked = false ∨ q.awaiting ≠ none → Machine.exec (.keyReady p) s = .next s ∧
      (∀ ok, Machine.exec (.keySwitch p ok) s = .next s) ∧ ∀ l, Machine.exec (.laneRemovalNotice p l) s = .next s) ∧
    (∀ k, q.st = .trained → q.awaiting = none → q.txNew = true → q.stRx = some k →
      ∃ t, Machine.exec (.keySwitch p true) s = .next t ∧ (t.port p).st = .up ∧ (t.port p).keyRx = some k ∧
        (t.port p).stRx = none ∧ (t.port p).rxCount = 0 ∧ t.hg = { s.hg with flight := t.hg.flight } ∧
        ((∀ g ∈ s.hg.flight, g.opc ≠ 0x40) → t.hg = s.hg) ∧
        (s.MemOk → ∀ a, ¬ShownAt s a → Mem.get t.mem a = Mem.get s.mem a) ∧
        ((∀ g ∈ s.hg.flight, g.opc ≠ 0x40 ∧ g.opc ≠ 0x50) → s.rem.heldReq = [] → ShowsNoHold s → t.mem = s.mem)) ∧
    (∀ k, q.st = .trained → q.awaiting = none → q.txNew = false → q.stRx = some k →
      ∃ t, Machine.exec (.keySwitch p true) s = .next t ∧ (t.port p).st = .trained ∧ (t.port p).keyRx = some k ∧
        (t.port p).rxNew = true ∧ t.mem = s.mem ∧ t.hg = s.hg) ∧
    (∀ k, q.st = .trained → q.awaiting = none → q.stRx = some k →
      ∃ t, Machine.exec (.keySwitch p false) s = .next t ∧ (t.port p).st = .trained ∧ t.key.keyErr = true ∧
        (t.port p).keyRx = some k ∧ t.obs = (s.bump (9 + p.val) 0 1).obs ∧ t.out = s.out ∧ t.mem = s.mem ∧ t.hg = s.hg) ∧
    (∀ k, q.st = .up → q.awaiting = none → q.stRx = some k →
      ∃ t, Machine.exec (.keySwitch p false) s = .next t ∧ (t.port p).st = .up ∧ (t.port p).awaiting = some 0 ∧
        t.key = s.key ∧ t.out.links = s.out.links ++ [.sluice p (.replayReq 0) s.stamp] ∧ t.mem = s.mem ∧ t.hg = s.hg) ∧
    (∀ ok, q.stRx = none → Machine.exec (.keySwitch p ok) s = .next s)

-- Data flits.

/-- A port that sends a data flit at once (R449, R450, R459). -/
def Sys2Proof.Claims.SendsAtOnce (s : State) (o : Fin 6) (g : Flit) : Prop :=
  (s.port o).st = .up ∧ (s.port o).exhausted = false ∧ (s.port o).stalled = false ∧
    (s.port o).credits[queueOf g] ≠ 0 ∧ (s.port o).replay.length < 512

/-- What a command that only moves flits leaves: the memory, the headgate, the time, the hall, the cut and the events. -/
structure Sys2Proof.Claims.SameBesides (s t : State) : Prop where
  hg : t.hg = s.hg
  tm : t.tm = s.tm
  hall : t.hall = s.hall
  cut : t.cut = s.cut
  evt : t.evt = s.evt
  snap : t.snap = s.snap
  key : t.key = s.key

/-- A store and an accumulate-write at their destination (R159, R207, R228, R231, R344, R470, R471, R474, R477): a store's
bytes stand at its address and no other byte changes; one that carries an element of a word, a statistics record or a row
record (log 81) is merged into what stands there in the basin; an accumulate-write changes no byte but those of its elements, and a single FP32
element becomes its exact sum rounded once into the basin; either is marked as applied. Covers STORE, ACCUMULATE_WRITE,
ACCUMULATE_WRITE_COMPRESSED. -/
def Obligations.WritesAtTheirDestination : Prop :=
  ∀ (p : Fin 6) (f : Flit) (s : State), s.MemOk → Taken s p f → (received s p f).route f = .here →
    (s.rem.appliedOf f.src).seen f.eseq.toNat = false → s.frozenFor f = false →
    let at_ := hallLoc f.addr.toNat
    let width := if f.bfmt then 8 else 4
    (f.merge = .plain → inStacks f.addr.toNat f.bytes.length = true →
      ∃ t, Machine.exec (.store p f true) s = .next t ∧
        (∀ k, (h : k < f.bytes.length) → Mem.get t.mem (at_ + k) = f.bytes[k]) ∧
        (∀ x, x < at_ ∨ at_ + f.bytes.length ≤ x → Mem.get t.mem x = Mem.get s.mem x) ∧
        (t.rem.appliedOf f.src).seen f.eseq.toNat = true ∧ SameBesides s t) ∧
    (∀ n new, let v := bytesNat f.bytes
      let old := Mem.getN s.mem at_ n
      (∃ keep, f.merge = .bits keep ∧ n = 4 ∧ new = (old &&& keep.toNat) ||| v)
        ∨ f.merge = .stat ∧ n = 8 ∧ new = (Stat.merge old ⟨fld v 0 32, fld v 32 32⟩).record
        ∨ f.merge = .index ∧ n = 16
          ∧ new = (MaxRec.merge old ⟨fld v 0 32, fld v 32 32, fld v 64 32, fld v 96 32⟩).pack
        ∨ (∃ exps, f.merge = .rows exps ∧ n = 8 ∧ new = (mergeRow exps (RowStat.ofCode old) (RowStat.ofCode v)).code) →
      hallNode f.addr.toNat = s.hall.nid.toNat → inStacks f.addr.toNat n = true →
      ∃ t, Machine.exec (.store p f true) s = .next t ∧ Mem.getN t.mem at_ n = new % 2 ^ (8 * n) ∧
        (∀ x, x < at_ ∨ at_ + n ≤ x → Mem.get t.mem x = Mem.get s.mem x) ∧
        (t.rem.appliedOf f.src).seen f.eseq.toNat = true ∧ SameBesides s t) ∧
    (inStacks f.addr.toNat (storeSpan f) = true →
      ∃ t, Machine.exec (.store p f true) s = .next t ∧ (t.rem.appliedOf f.src).seen f.eseq.toNat = true) ∧
    (∀ c vs, (c = .accumulateWrite p f true ∧ vs = plainVals f)
        ∨ (c = .accumulateWriteCompressed p f true ∧ vs = packedVals f) →
      flitFits f vs.length = true →
      ∃ t, Machine.exec c s = .next t ∧
        (∀ x, (∀ j, j < vs.length → x < hallLoc (flitTarget f j).addr ∨ hallLoc (flitTarget f j).addr + width ≤ x) →
          Mem.get t.mem x = Mem.get s.mem x) ∧
        (∀ v, vs = [v] → f.bfmt = false → hallNode f.addr.toNat = s.hall.nid.toNat →
          Mem.getN t.mem at_ 4 = (basinSum (.op .fp32) (Mem.getN s.mem at_ 4) v).1 % 2 ^ 32) ∧
        (t.rem.appliedOf f.src).seen f.eseq.toNat = true ∧ SameBesides s t)

/-- A remote write is applied at most once (R471): one that changed a byte is marked as applied, whatever the state; and
one that is marked, of any kind and on any port, with its tag right or wrong, changes no byte. With no port at the end of
its counter, whose held requests would show in their instructions' words (R463, R587). -/
def Obligations.RemoteWritesApplyAtMostOnce : Prop :=
  ∀ (c : Instr) (p : Fin 6) (f : Flit) (ok : Bool) (s t : State), writeOf c = some (p, f, ok) →
    Counting s → ok = true ∨ Roomy s (2 * (s.port p).hold.length + 2) →
    Machine.exec c s = .next t →
    (t.mem ≠ s.mem → (t.rem.appliedOf f.src).seen f.eseq.toNat = true) ∧
    ((s.rem.appliedOf f.src).seen f.eseq.toNat = true → t.mem = s.mem ∧ t.rem.applied = s.rem.applied)

/-- Flits on their way (R449, R450, R452, R458, R467 to R470): one that fails its tag is discarded and asked for again, and
the lane it came on leaves its logical set with its 16th failure in 2²⁰ slots (which lane that is: log 98); one in transit
goes out unchanged but for its channel, its detour and the zeros that fill its payload, at once where its port can send, and
its credit returns then; a read request is answered with the bytes as they stand. Covers FLIT_FORWARD, READ_REQUEST. -/
def Obligations.FlitsOnTheirWay : Prop :=
  ∀ (p : Fin 6) (f : Flit) (s : State),
    (∀ c, flitOf c = some (p, f, false) → (s.port p).linked = true → (isData f = true → (s.port p).st = .up) →
      (s.port p).awaiting = none → Roomy s (2 * (s.port p).hold.length + 2) →
      ∃ t, Machine.exec c s = .next t ∧ (t.port p).awaiting = some f.pseq ∧ t.mem = s.mem ∧ t.rem = s.rem ∧
        SameBesides s t ∧
        ((s.port p).fails.length < 15 →
          t.out.links = s.out.links ++ [.sluice p (.replayReq f.pseq) s.stamp]) ∧
        (let q := s.port p
         let n := q.rx.lanes.length
         let lane := nth q.rx.lanes (q.countOf f.pseq % n) 0
         q.st = .up → n ≠ 0 → q.rx.spare = none →
          15 ≤ (q.fails.filter fun x => x.1 == lane && decide (q.countOf f.pseq / n < x.2 + 2 ^ 20)).length →
          (t.port p).rx.lanes = q.rx.lanes.filter (· != lane) ∧ lane ∈ (t.port p).rx.away)) ∧
    (∀ c ok, flitOf c = some (p, f, ok) → Counting s →
      (s.port p).linked = false ∨ isData f = true ∧ (s.port p).st ≠ .up →
      Machine.exec c s = .next s) ∧
    (∀ c o g, flitOf c = some (p, f, true) → Taken s p f → (admitted s p f).route f = .out o g →
      let a := admitted s p f
      let g' := { g with vc := a.channel (some p) o g }
      SendsAtOnce a o g' →
      g = { f with det := g.det, ddir := g.ddir } ∧
      ∃ t cr, Machine.exec c s = .next t ∧ t.mem = s.mem ∧ t.rem = s.rem ∧ SameBesides s t ∧
        t.out.links = a.out.links ++ [.data o { padded g' with pseq := (a.port o).txCount.setWidth 16 }] ++ cr ∧
        (cr = [] ∨ cr = [.sluice p (.credit (queueOf f) 1) s.stamp]) ∧ ((s.port p).txCount.toNat + 3 < 2 ^ 64 → cr ≠ [])) ∧
    (∀ o g, Taken s p f → (received s p f).route f = .here → s.frozenFor f = false →
      inStacks f.addr.toNat (64 * f.len.toNat) = true →
      let a := received s p f
      let r : Flit := {
        typ := 5, dst := f.src, src := s.hall.nid, sslot := f.sslot, stamp := s.stamp, addr := f.addr
        eseq := f.eseq, len := f.len
        payload := (List.range (64 * f.len.toNat)).map fun k => Mem.get s.mem (hallLoc f.addr.toNat + k) }
      a.route r = .out o g →
      let g' := { g with vc := a.channel none o g }
      SendsAtOnce a o g' →
      g = { r with det := g.det, ddir := g.ddir } ∧
      ∃ t, Machine.exec (.readRequest p f true) s = .next t ∧ t.mem = s.mem ∧ t.rem = s.rem ∧ SameBesides s t ∧
        t.out.links = a.out.links ++ [.data o { padded g' with pseq := (a.port o).txCount.setWidth 16 }])

/-- Answers at the source (R451, R469 to R471, R474, R494): a read's bytes are kept for the instruction it serves; an
acknowledged request is open no more; a negative response holds the request, which goes out with `RETX` when it is sent
again (no route, from whichever node says so; frozen), or raises RANGE and ends it. The words of the instructions in flight
follow what they wait for (R587), and no other byte changes. Covers READ_RESPONSE, END_TO_END_ACK, NEGATIVE_RESPONSE. -/
def Obligations.AnswersEndRequests : Prop :=
  ∀ (p : Fin 6) (f : Flit) (s : State), Taken s p f → (received s p f).route f = .here →
    let a := received s p f
    (∀ q, s.rem.reads.find? (fun q => q.f.dst == f.src && q.f.addr == f.addr) = some q →
      Memory.wf s.rem.data = true →
      ∃ t, Machine.exec (.readResponse p f true) s = .next t ∧ t.rem.reads = s.rem.reads.erase q ∧
        (∀ k, k < 64 * q.f.len.toNat → Mem.get t.rem.data (q.f.addr.toNat + k) = nth f.bytes k 0) ∧
        (∀ k, k < q.f.len.toNat → (q.slot.val, q.node, q.f.addr.toNat + 64 * k) ∈ t.rem.got) ∧
        (0x100000 ≤ q.node → t.mem = s.mem) ∧
        (s.MemOk → let dep := hallLoc ((s.slot q.slot).hdr.depAddr q.node)
          ∀ x, x < dep ∨ dep + 8 ≤ x → Mem.get t.mem x = Mem.get s.mem x) ∧
        t.rem.unacked = s.rem.unacked ∧ SameBesides s t) ∧
    (s.rem.reads.find? (fun q => q.f.dst == f.src && q.f.addr == f.addr) = none →
      Machine.exec (.readResponse p f true) s = .next a) ∧
    (∀ q, s.requestOf f = some q → q.node ≠ stashNode → s.rem.heldReq = [] →
      (∀ g ∈ s.hg.flight, g.opc ≠ 0x40 ∧ g.opc ≠ 0x50) → ShowsNoHold s → s.snapFlight = none → s.stepFlight = none →
      Machine.exec (.endToEndAck p f true) s
        = .next { a with rem := { s.rem with unacked := s.rem.unacked.erase q } }) ∧
    (s.requestOf f = none → Machine.exec (.endToEndAck p f true) s = .next a) ∧
    (∀ q, s.refused f = some q →
      let q' : Req := { q with f := { q.f with retx := true } }
      let r := s.rem.swap q q'
      let held := { r with heldReq := s.rem.heldReq ++ [q'] }
      (q ∉ s.rem.heldReq → q' ∉ s.rem.heldReq →
        ∀ rem, f.status = 1 ∧ rem = held ∨ f.status = 3 ∧ rem = { held with frozen := insertNew f.src s.rem.frozen } →
        ∃ t, Machine.exec (.negativeResponse p f true) s = .next t ∧ t = { a with rem := rem, mem := t.mem } ∧
          (s.MemOk → ∀ x, ¬ShownAt s x → Mem.get t.mem x = Mem.get s.mem x)) ∧
      (f.status = 2 → q.node ≠ stashNode → s.rem.heldReq = [] → (∀ g ∈ s.hg.flight, g.opc ≠ 0x40) →
        s.snapFlight = none → s.stepFlight = none →
        ∃ t, Machine.exec (.negativeResponse p f true) s = .next t ∧ t.evt.pend.getLsbD 1 = true ∧
          t.rem.unacked = s.rem.unacked.erase q ∧ t.hg = s.hg ∧ t.hall = s.hall))

/-- A kept flit as it goes out on a port. -/
def Sys2Proof.Claims.resent (p : Fin 6) (k : Kept) : Sent :=
  match k.what with
  | .inl f => .data p f
  | .inr m => .sluice p m k.stamp

/-- Only the ports, the link counters and what goes out on the links differ. -/
def Sys2Proof.Claims.OnlyLinks (s t : State) : Prop :=
  t = { s with ports := t.ports, obs := t.obs, out := { s.out with links := t.out.links } }

/-- A sluice flit acts on a port with a session or in training for one, unless a replay is awaited there (R450). -/
def Sys2Proof.Claims.Hears (s : State) (p : Fin 6) : Prop := (s.port p).linked = true ∧ (s.port p).awaiting = none

/-- A port that offers what waits at it again in the state of `q` (R449, R450): with nothing held or owed nothing moves; a
flit that a replay owes, and one held flit of this node, go out where the port can send them, and stay where it cannot. -/
def Sys2Proof.Claims.Offers (c : Instr) (s : State) (p : Fin 6) (q : Port) : Prop :=
  (∃ t, Machine.exec c s = .next t ∧ OnlyLinks s t ∧ (∀ o, o ≠ p → q.hold = [] → t.port o = s.port o)) ∧
  (q.hold = [] → q.owed = [] → Machine.exec c s = .next { s with ports := s.ports.set p q }) ∧
  (∀ k f, q.hold = [] → q.owed = [k] → k.what = .inl f →
    (q.carries = true → ∃ t, Machine.exec c s = .next t ∧ OnlyLinks s t ∧
      t.out.links = s.out.links ++ [.data p f] ∧ t.port p = { q with owed := [] }) ∧
    (q.carries = false → Machine.exec c s = .next { s with ports := s.ports.set p q })) ∧
  (∀ f via, q.hold = [⟨f, none, via⟩] → q.owed = [] →
    (q.st = .up → q.exhausted = false → q.stalled = false → q.credits[queueOf f] ≠ 0 → q.replay.length < 512 →
      ∃ t, Machine.exec c s = .next t ∧ OnlyLinks s t ∧
        t.out.links = s.out.links ++ [.data p { padded f with pseq := q.txCount.setWidth 16 }] ∧
        t.port p = { q.took (.inl { padded f with pseq := q.txCount.setWidth 16 }) with
          hold := [], credits := q.credits.set (queueOf f) (q.credits[queueOf f] - 1) }) ∧
    (q.st ≠ .up → q.st ≠ .keepalive → Machine.exec c s = .next { s with ports := s.ports.set p q }) ∧
    (q.st = .up → q.exhausted = true ∨ q.stalled = true ∨ q.credits[queueOf f] = 0 ∨ 512 ≤ q.replay.length →
      Machine.exec c s = .next { s with ports := s.ports.set p q }))

/-- Link control and the sluice's notices (R257, R264, R449, R450, R459, R461, R465, R469, R478, R499, R586), on an engine
none of whose ports has used up its counter. A replay sends
the kept flits from the one named on, as they were, and owes the data flits while the port carries none; counters apart it
changes nothing besides. An acknowledgement frees the flits it covers and credits rise to at most 64, and what waited at the
port is offered again; one that covers the first flit under a new key brings a trained port UP. The acting manager of a part,
frozen or not, writes a record for a telemetry report; another node, or one whose TELEM is clear, nothing. A notice marks
another node's port as it is and no other node's, and goes on where it is new; one that tells an old state of this node's
port is answered with the true one. An end marker is kept (beyond 1,024, where its sender would hold it: log 96). A
step-ready's merges enter the acting manager's LIVE blocks, and with the last one its STEP is done; a step-done's blocks stand
in the table. The model's choices among it: the merges that a step-ready may bring (log 42), which notices go on and which
are answered (log 51), the body of a report in its record (log 58), a marker that finds the store full (log 96), what a
replay owes (log 107), and when a transmitter has passed (log 56). Covers
REPLAY_REQUEST, LINK_ACKNOWLEDGEMENT, CREDIT_RETURN, TELEMETRY_FLIT, PORT_STATE_NOTICE, END_MARKER, STEP_READY,
STEP_DONE. -/
def Obligations.NoticesAreTaken : Prop :=
  ∀ s : State, Counting s →
    let later := fun (k : BitVec 16) (f : Kept) => decide (32768 ≤ (k - f.pseq).toNat)
    (∀ p k, Hears s p →
      let l := (s.port p).replay.dropWhile fun f => f.pseq != k
      let goes := fun f : Kept => f.what.isRight || (s.port p).carries
      ∃ t, Machine.exec (.replayRequest p k) s = .next t ∧
        t.out.links = s.out.links ++ (l.filter goes).map (resent p) ∧
        t = { s with
          ports := s.ports.set p { s.port p with owed := l.filter fun f => !goes f }
          obs := t.obs, out := { s.out with links := t.out.links } }) ∧
    (∀ p, ¬Hears s p → (∀ k, Machine.exec (.replayRequest p k) s = .next s) ∧
      (∀ k, Machine.exec (.linkAcknowledgement p k) s = .next s) ∧
      ∀ (k : Fin 4) n, Machine.exec (.creditReturn p k n) s = .next s) ∧
    (∀ p k, Hears s p → (s.port p).txOut = false ∨ (s.port p).acksNew k = false →
      Offers (.linkAcknowledgement p k) s p ((s.port p).acked k)) ∧
    (∀ p k, Hears s p → (s.port p).txOut = true → (s.port p).acksNew k = true → (s.port p).st ≠ .trained →
      Offers (.linkAcknowledgement p k) s p { (s.port p).acked k with txOut := false, txNew := true }) ∧
    (∀ p k, let q := s.port p
      (q.acksNew k = true ↔ q.txOut = false ∨ k.toNat < max 1 q.txCount.toNat ∧ q.lastAck ≠ some k) ∧
      (q.acked k).lastAck = some k ∧
      (q.txOld = 0 → q.acked k = { q with
        replay := q.replay.filter (later k), lastAck := some k
        owed := q.owed.filter fun f => (q.replay.filter (later k)).contains f }) ∧
      (q.acksNew k = true → (q.acked k).replay = (q.replay.drop q.txOld).filter (later k) ∧ (q.acked k).txOld = 0) ∧
      (q.acksNew k = false →
        (q.acked k).replay = (q.replay.take q.txOld).filter (later k) ++ q.replay.drop q.txOld ∧
        (q.acked k).txOld = ((q.replay.take q.txOld).filter (later k)).length)) ∧
    (∀ p k, Hears s p → (s.port p).txOut = true → (s.port p).st = .trained → (s.port p).acksNew k = true →
      ∃ t, Machine.exec (.linkAcknowledgement p k) s = .next t ∧
        (t.port p).st = (if (s.port p).rxNew then .up else .trained) ∧ (t.port p).txOut = false ∧
        (∀ o, o ≠ p → (t.port o).st = (s.port o).st) ∧ t.hg = { s.hg with flight := t.hg.flight } ∧
        ((∀ g ∈ s.hg.flight, g.opc ≠ 0x40) → t.hg = s.hg) ∧ t.tm = s.tm ∧ t.evt = s.evt) ∧
    (∀ p (k : Fin 4) n, Hears s p → Offers (.creditReturn p k n) s p { s.port p with
        credits := (s.port p).credits.set k (min 64 ((s.port p).credits[k] + n)) }) ∧
    (∀ src body, s.hall.actMgr ≠ s.hall.nid ∨ s.tr.live.telem = false ∨ s.tr.live.en = false →
      Machine.exec (.telemetryFlit src body) s = .next s) ∧
    (∀ src body, s.hall.actMgr = s.hall.nid → s.tr.live.telem = true →
      ∃ t, Machine.exec (.telemetryFlit src body) s = .next t ∧ t = { s with mem := t.mem, tr := t.tr } ∧
        t.tr.live = s.tr.live ∧
        (RingTakes s 1 → s.MemOk → t.tr.wr = s.tr.wr + 1 ∧ t.tr.lost = s.tr.lost ∧
          fld (recordAt s t 0) 0 8 = 7 ∧ fld (recordAt s t 0) 144 12 = src.toNat ∧
          fld (recordAt s t 0) 278 106 = body.toNat)) ∧
    (∀ n (p : Fin 6) st, ∃ t, Machine.exec (.portStateNotice n p st) s = .next t ∧
      t = { s with
        hall := { s.hall with portSts := t.hall.portSts }, ports := t.ports, rem := t.rem, obs := t.obs, svc := t.svc
        mem := t.mem, hg := { s.hg with flight := t.hg.flight }, out := { s.out with links := t.out.links } } ∧
      (s.MemOk → ∀ a, ¬ShownAt s a → Mem.get t.mem a = Mem.get s.mem a) ∧
      (∀ m k, (m, k) ≠ (n, p.val) → m ≠ s.hall.nid → t.hall.stOf m k = s.hall.stOf m k) ∧
      (n ≠ s.hall.nid → t.hall.stOf n p.val = PortSt.ofCode st.toNat) ∧
      (n ≠ s.hall.nid → s.hall.stOf n p.val ≠ PortSt.ofCode st.toNat →
        (∀ q, s.cableTo q n p.val = true → (s.port q).hold = [] ∧ (s.port q).owed = [])
          ∨ Roomy s (8 + 2 * sumN (allPorts.map fun q => (s.port q).hold.length + (s.port q).owed.length)) →
        ∀ o, (s.port o).st.usable = true → (s.port o).exhausted = false →
          .sluice o (.portNotice n p.val (PortSt.ofCode st.toNat)) s.stamp ∈ t.out.links) ∧
      (n = s.hall.nid → (s.port p).st ≠ PortSt.ofCode st.toNat →
        ∀ o, (s.port o).st.usable = true → (s.port o).exhausted = false →
          .sluice o (.portNotice n p.val (s.port p).st) s.stamp ∈ t.out.links)) ∧
    (∀ src a b c d, ∃ t, Machine.exec (.endMarker src a b c d) s = .next t ∧
      t = { s with
        rem := { s.rem with markers := s.rem.markers ++ [⟨src, a, b, c, d⟩] }
        obs := if s.rem.markers.length < 1024 then (s.bump 8 4 1).obs else s.obs
        mem := t.mem, hg := { s.hg with flight := t.hg.flight } } ∧
      (s.MemOk → ∀ x, ¬ShownAt s x → Mem.get t.mem x = Mem.get s.mem x) ∧
      ((∀ g ∈ s.hg.flight, (g.opc = 0x40 ∨ g.opc = 0x50) → g.phase ≠ .effected) →
        t.hg.flight = s.hg.flight ∧ (ShowsNoHold s → t.mem = s.mem))) ∧
    (∀ n ms, s.hall.actMgr = s.hall.nid → s.aloneLive = false → n ∈ s.hall.live → n ∉ s.stw.ready →
      let u := if s.stw.live.en then ms.foldl (fun u m => u.mergeLive m.1.toNat m.2.toNat) s else s
      Machine.exec (.stepReady n ms) s
        = .next ({ u with stw := { u.stw with ready := n :: u.stw.ready } }).stepPump ∧
      (s.stepFlight = none → Machine.exec (.stepReady n ms) s
        = .next { u with stw := { u.stw with ready := n :: s.stw.ready } }) ∧
      (∀ l b, ms = [(l, b)] → s.MemOk → s.stw.live.en = true → posValid (s.posBlock l.toNat) = true →
        u.stw.merged = insertNew l s.stw.merged ∧
        Mem.getN u.mem (hallLoc (s.stwAddr l.toNat + 64)) 48
          = mergeBlocks (s.rdN (s.stwAddr l.toNat + 64) 48) b.toNat ∧
        (∀ a, a < hallLoc (s.stwAddr l.toNat + 64) ∨ hallLoc (s.stwAddr l.toNat + 64) + 48 ≤ a →
          Mem.get u.mem a = Mem.get s.mem a)) ∧
      (∀ f, s.stepFlight = some f → f.phase = .waiting 2 → (∀ g ∈ s.hg.flight, g.opc = 0x52) →
        s.stw.live.en = false → (∀ m ∈ s.hall.live, m = s.hall.nid ∨ m = n ∨ m ∈ s.stw.ready) →
        Roomy s s.hall.live.length →
        ∃ t, Machine.exec (.stepReady n ms) s = .next t ∧ t.stepFlight = some { f with phase := .waiting 3 } ∧
          t.stw = { s.stw with ready := [], merged := [] } ∧ t.mem = s.mem ∧ t.tr = s.tr ∧ t.evt = s.evt ∧ t.rem = s.rem ∧
          t.hg.stepNo = s.hg.stepNo)) ∧
    (∀ n ms, s.hall.actMgr ≠ s.hall.nid ∨ s.aloneLive = true ∨ n ∉ s.hall.live ∨ n ∈ s.stw.ready →
      Machine.exec (.stepReady n ms) s = .next s) ∧
    (∀ bs f, s.stepFlight = some f → f.phase = .waiting 2 → s.hall.actMgr ≠ s.hall.nid →
      ∃ t, Machine.exec (.stepDone bs) s = .next t ∧
        t = { s with mem := t.mem, hg := { s.hg with flight := t.hg.flight } } ∧
        t.stepFlight = some { f with phase := .waiting 3 } ∧
        (∀ g ∈ t.hg.flight, g.slot = f.slot ∧ g.node = f.node ∨ g ∈ s.hg.flight) ∧
        (bs = [] → t.mem = s.mem) ∧
        (∀ l done pos, bs = [(l, done, pos)] → s.MemOk →
          Mem.getN t.mem (hallLoc (s.stwAddr l.toNat + 112)) 48 = done.toNat ∧
          Mem.getN t.mem (hallLoc (s.stwAddr l.toNat + 160)) 32 = pos.toNat ∧
          (∀ a, (a < hallLoc (s.stwAddr l.toNat + 112) ∨ hallLoc (s.stwAddr l.toNat + 112) + 48 ≤ a) →
            (a < hallLoc (s.stwAddr l.toNat + 160) ∨ hallLoc (s.stwAddr l.toNat + 160) + 32 ≤ a) →
            Mem.get t.mem a = Mem.get s.mem a))) ∧
    (∀ bs, s.stepFlight = none ∨ s.hall.actMgr = s.hall.nid ∨
        (∀ f, s.stepFlight = some f → f.phase ≠ .waiting 2) → Machine.exec (.stepDone bs) s = .next s)

-- Snapshots.

/-- The collective phases and the end of a rebuild (R519, R530, R533, R534, R539): a ready and a done of another node
are kept; with the image written the snapshot is the newest, its number and capture tick stand in the image, and a lone
node is done; a RESTORE's writing likewise; a rebuild whose images are all there is done and raises REBUILD. On an engine none
of whose ports has used up its counter. The model's choices among it: the images that a RESTORE writes from are those given with the writing and those that came with its dispatch
(log 19), checked before its ready (log 104), and the buffer of rebuilt pages is HELD at the end of the rebuild (log 45). Covers SNAP_READY, CAPTURE_DONE, SNAP_CAPTURE_END, RESTORE_WRITE_END, REBUILD_DONE. -/
def Obligations.SnapshotPhases : Prop :=
  ∀ s : State, Counting s →
    (∀ n num d k, n ∈ s.others → s.snapFlight = none →
      Machine.exec (.snapReady n num d k) s = .next { s with
        snap := { s.snap with readies := ⟨n, num, d, k⟩ :: s.snap.readies } }) ∧
    (∀ n num d k, n ∉ s.others →
      Machine.exec (.snapReady n num d k) s = .next s) ∧
    (∀ n num f, s.snapFlight = some f → f.phase = .waiting 4 → snNum f.word = num.toNat → n ∈ s.others →
      n ∉ s.snap.dones →
      Machine.exec (.captureDone n num) s = .next { s with snap := { s.snap with dones := n :: s.snap.dones } }) ∧
    (∀ n num, s.snapFlight = none → Machine.exec (.captureDone n num) s = .next s) ∧
    (∀ ovf f, s.MemOk → s.snapFlight = some f → f.opc = 0x42 → f.phase = .waiting 4 → s.others = [] →
      ∃ t, Machine.exec (.snapCaptureEnd ovf) s = .next t ∧ t.snapFlight = some { f with phase := .waiting 6 } ∧
        t.snap = { s.snap with
          maxSnum := BitVec.ofNat 32 (snNum f.word)
          first := if s.snap.first = 0 then BitVec.ofNat 32 (snNum f.word) else s.snap.first, newest := BitVec.ofNat 32 (snNum f.word)
          newestTick := s.snap.capTick, dones := [] } ∧
        Mem.getN t.mem (hallLoc (s.bufAt s.captureBuf)) 4 = snNum f.word ∧
        (hallLoc (s.bufAt s.captureBuf) + 64 ≤ 2 ^ 48 →
          Mem.getN t.mem (hallLoc (s.bufAt s.captureBuf) + 8) 8 = s.snap.capTick.toNat) ∧
        t.hg.slots = s.hg.slots ∧ t.evt = s.evt ∧ t.rem = s.rem) ∧
    (∀ images f, s.snapFlight = some f → f.opc = 0x43 → f.phase = .waiting 4 → s.others = [] →
      let u := s.restoreAll { f with images := images ++ f.images }
      ∃ t, Machine.exec (.restoreWriteEnd images) s = .next t ∧ t.snapFlight = some { f with phase := .waiting 6 } ∧
        t.mem = u.mem ∧ t.hg.stepNo = u.hg.stepNo ∧ t.hg.slots = u.hg.slots) ∧
    (s.snapFlight = none → (∀ images, Machine.exec (.restoreWriteEnd images) s = .next s) ∧
      Machine.exec (.snapCaptureEnd []) s = .next s) ∧
    (∀ imgs, s.snap.rb = .running → imgs.map Image.node = s.rebuildReads →
      (s.dealt (s.solveAll imgs)).2 ≤ s.snap.imgpg.toNat →
      ∃ t, Machine.exec (.rebuildDone imgs) s = .next t ∧ t.snap = { s.snap with
          rb := .done
          buf := if s.snap.buf[s.captureBuf] = .rebuild then s.snap.buf.set s.captureBuf .held else s.snap.buf } ∧
        t.evt.pend.getLsbD 16 = true ∧ t.hg = s.hg ∧ t.hall = s.hall ∧ t.rem = s.rem) ∧
    (∀ imgs, s.snap.rb = .fallback → s.snap.loads = [] → (∀ c ∈ s.snap.copying, c.2 ≠ 4) →
      imgs.map Image.node = s.snap.lost →
      ∃ t, Machine.exec (.rebuildDone imgs) s = .next t ∧ t.snap.rb = .done ∧
        (s.snap.buf[s.captureBuf] = .rebuild → t.snap.buf[s.captureBuf] = .held) ∧
        t.evt.pend.getLsbD 16 = true ∧ t.hg = s.hg ∧ t.rem = s.rem) ∧
    (∀ imgs, s.snap.rb ≠ .running → s.snap.rb ≠ .fallback → Machine.exec (.rebuildDone imgs) s = .next s)

/-- Parity and copies (R522, R523, R525): a holder writes its parity once every image of its group is there; the manager's
word makes the snapshot durable and its buffer HELD or in COPY; the firmware's reports end copies and loads; a layer is
durable with every live node's copy; the backup keeps the history, and INTERVAL stays between 30 s and four hours. On an
engine none of whose ports has used up its counter. The model's choices among it: PARITY_NOTICE from the manager is the word
that the parity is complete (log 46), loads in fallback and those of request 4 (log 47), and a history that every node keeps
(log 48). Covers PARITY_COMPLETE, PARITY_NOTICE, ACK_FLASH, ACK_STORE, ACK_LOAD, COPY_REPORT, BACKUP_HISTORY_UPDATE. -/
def Obligations.ParityAndCopies : Prop :=
  ∀ s : State, s.snapFlight = none → Counting s →
    (∀ (role : Fin 2) (imgs : List Image) g place,
      (s.rolesOf s.hall.nid)[role.val]? = some (g, place) → s.hall.actMgr ≠ s.hall.nid →
      (∃ b : Fin 2, s.snap.buf[b] = .parity ∧ s.snap.bufSnum[b] = s.snap.newest) → s.snap.newest ≠ 0 →
      (∀ k : Fin 4, s.snap.parSnum[k] = 0) → (∀ m ∈ gMembers (s.group g), ∃ x ∈ imgs, x.node = m.1) →
      ∃ t, Machine.exec (.parityComplete role imgs) s = .next t ∧
        t.mem = Mem.paste s.mem (hallLoc (s.parAt role 0)) s.bufBytes (parityOf2 place
          ((gMembers (s.group g)).filterMap fun m => (imgs.find? fun x => x.node == m.1).map Image.cells)) ∧
        t.snap.parSnum[2 * role.val]? = some s.snap.newest ∧ t.hg = s.hg ∧ t.evt = s.evt) ∧
    (∀ role imgs, (s.rolesOf s.hall.nid)[role.val]? = none → Machine.exec (.parityComplete role imgs) s = .next s) ∧
    (∀ n num, s.hall.actMgr ≠ s.hall.nid → n = s.hall.actMgr →
      ∃ t, Machine.exec (.parityNotice n num) s = .next t ∧ t.snap.durPar = num ∧
        (∀ b : Fin 2, s.snap.buf[b] = .parity → s.snap.bufSnum[b] = num →
          t.snap.buf[b] = (if s.snap.bufDepth[b] = 0 then .held else .copy) ∧
          (s.snap.bufDepth[b] ≠ 0 → t.evt.pend.getLsbD 20 = true)) ∧
        (∀ b : Fin 2, s.snap.buf[b] ≠ .parity ∨ s.snap.bufSnum[b] ≠ num → t.snap.buf[b] = s.snap.buf[b]) ∧
        t.hg = s.hg) ∧
    (∀ n num, s.hall.actMgr ≠ s.hall.nid → n ≠ s.hall.actMgr → Machine.exec (.parityNotice n num) s = .next s) ∧
    (∀ num fail kind (b : Fin 2), Awake s → kind = 1 ∨ kind = 2 → (b, kind) ∈ s.snap.copying →
      s.snap.bufSnum[b] = num → (∀ o : Fin 2, o ≠ b → s.snap.bufSnum[o] ≠ num) → s.others = [] →
      ∃ t, Machine.exec (if kind = 1 then .ackFlash num fail else .ackStore num fail) s = .next t ∧
        t.snap.copying = s.snap.copying.filter (· != (b, kind)) ∧
        t.snap.buf[b] = (if fail = true ∨ ∀ c ∈ s.snap.copying, c.1 = b → c = (b, kind) then .held else s.snap.buf[b]) ∧
        t.snap.durFlash = (if kind = 1 ∧ fail = false ∧ s.snap.durFlash.toNat ≤ num.toNat then num else s.snap.durFlash) ∧
        t.snap.durStore = (if kind = 2 ∧ fail = false ∧ s.snap.durStore.toNat ≤ num.toNat then num else s.snap.durStore) ∧ t.mem = s.mem ∧ t.hg = s.hg) ∧
    (∀ num fail, Awake s → s.snap.copying = [] → Machine.exec (.ackFlash num fail) s = .next (answered s) ∧
      Machine.exec (.ackStore num fail) s = .next (answered s)) ∧
    (∀ num r fail, Awake s → s.snap.loads = [r] → s.snap.buf[s.snap.loadBuf] = .load → s.snap.rb ≠ .fallback →
      (s.snap.loadBuf, 4) ∉ s.snap.copying →
      let good := !fail && s.imageGood s.snap.loadBuf num.toNat
      ∃ t, Machine.exec (.ackLoad num (decide (s.snap.loadBuf = 1)) fail) s = .next t ∧
        t.snap.buf[s.snap.loadBuf] = (if good then .held else .empty) ∧
        t.snap.bufSnum[s.snap.loadBuf] = (if good then num else s.snap.bufSnum[s.snap.loadBuf]) ∧
        t.snap.ownImage = (if good then some s.snap.loadBuf else none) ∧ t.snap.loads = [] ∧
        (good = true ∨ fail = true → t.evt = s.evt ∧ t.mem = s.mem) ∧
        (good = false → fail = false → t.evt.pend.getLsbD 16 = true) ∧ t.hg = s.hg) ∧
    (∀ num (b : Fin 2) fail, Awake s → (b, 4) ∈ s.snap.copying →
      ∃ t, Machine.exec (.ackLoad num (decide (b = 1)) fail) s = .next t ∧
        t.snap.copying = s.snap.copying.filter (· != (b, 4)) ∧
        t.snap.buf[b] = (if fail then .empty else if s.snap.buf[b] = .load then .held else s.snap.buf[b]) ∧
        t.snap.rb = s.snap.rb ∧ t.mem = s.mem ∧
        t.hg = s.hg ∧ t.evt = s.evt) ∧
    (∀ num buf fail, Awake s → s.snap.loads = [] → ((if buf then 1 else 0 : Fin 2), 4) ∉ s.snap.copying → Machine.exec (.ackLoad num buf fail) s = .next (answered s)) ∧
    (∀ n num store, (∀ m ∈ s.hall.nid :: s.others, m = n ∨ (m, num) ∈ s.snap.storeOk ∧ (m, num) ∈ s.snap.flashOk) →
      ∃ t, Machine.exec (.copyReport n store num true) s = .next t ∧
        (let old := if store then s.snap.durStore else s.snap.durFlash
         (if store then t.snap.durStore else t.snap.durFlash) = if num.toNat < old.toNat then old else num) ∧ t.snap.buf = s.snap.buf ∧ t.hg = s.hg) ∧
    (∀ n num store, Machine.exec (.copyReport n store num false) s = .next s) ∧
    (∀ costs ivs, ∃ t, Machine.exec (.backupHistoryUpdate costs ivs) s = .next t ∧ t.snap.costs = costs ∧
      t.snap.intervals = ivs ∧ 30 ≤ t.snap.interval.toNat ∧ t.snap.interval.toNat ≤ 14400 ∧
      t = { s with snap := { s.snap with
        costs := costs, intervals := ivs, interval := t.snap.interval, meanM := t.snap.meanM
        costC := t.snap.costC } })

/-- The images of a parity group are recovered from its parity (R513, R529): one lost data member from P or from Q,
two from both, for any images of up to eight data members in their canonical form. -/
def Obligations.ParityRecoversLostImages : Prop :=
  ∀ imgs : List Memory, imgs.length ≤ 8 → (∀ m ∈ imgs, Memory.wf m = true) →
    let P := parityOf2 0 imgs
    let Q := parityOf2 1 imgs
    let kept := fun gone : List Nat => (imgs.zipIdx.filter fun m => !gone.contains m.2).map fun m => (m.2, m.1)
    (∀ j, (h : j < imgs.length) →
      solveGroup imgs.length [j] (kept [j]) [(0, P)] = [(j, imgs[j])] ∧
      solveGroup imgs.length [j] (kept [j]) [(1, Q)] = [(j, imgs[j])] ∧
      solveGroup imgs.length [j] (kept [j]) [(0, P), (1, Q)] = [(j, imgs[j])]) ∧
    (∀ j k, (hj : j < k) → (hk : k < imgs.length) →
      solveGroup imgs.length [j, k] (kept [j, k]) [(0, P), (1, Q)] = [(j, imgs[j]), (k, imgs[k])])

-- Numbers.

/-- Writing the value of a code of a float format gives the code back, uncounted (R107, R127, R128): for every code of
every float format that is no NaN and no infinity. The nearest whole number of R127 is within one half, and an exact half
goes away from zero. -/
def Obligations.RoundingIsNearest : Prop :=
  (∀ (f : Fmt) (c : Nat), f.isInt = false → c < 2 ^ f.bits → (f.decode c).isNan = false → (f.decode c).isInf = false →
    f.encode (f.decode c) = (c, .none)) ∧
  (∀ (m : Int) (k : Nat),
    let r := Dy.round ⟨m, -(k : Int)⟩
    2 * (r * 2 ^ k - m).natAbs ≤ 2 ^ k ∧
    (2 * (r * 2 ^ k - m).natAbs = 2 ^ k → m.natAbs < (r * 2 ^ k).natAbs) ∧
    Dy.round ⟨m, (k : Int)⟩ = m * 2 ^ k)
end

