-- ==== Sys2Proof/Laws/Memory.lean ====
section
/-! SUPPORT. Node memory: every operation keeps the canonical form (log 2), reads after writes, and two memories in
canonical form that read alike are one. -/
namespace Sys2Proof.Machine

/-- In canonical form the head is no byte that reads as unlisted. -/
theorem Memory.wf_head {a : Nat} {v : Byte} {m : Memory} (h : Memory.wf ((a, v) :: m) = true) :
    v ≠ Config.unwritten := by
  cases m with
  | nil => simpa [Memory.wf] using h
  | cons c r => obtain ⟨b, w⟩ := c; simp [Memory.wf] at h; exact h.1.1

/-- The tail of a memory in canonical form is in canonical form. -/
theorem Memory.wf_tail {c : Nat × Byte} {m : Memory} (h : Memory.wf (c :: m) = true) : Memory.wf m = true := by
  obtain ⟨a, v⟩ := c
  cases m with
  | nil => rfl
  | cons d r => obtain ⟨b, w⟩ := d; simp [Memory.wf] at h; exact h.2

/-- Every later address lies above the head's. -/
theorem Memory.wf_lt {a : Nat} {v : Byte} {m : Memory} (h : Memory.wf ((a, v) :: m) = true) :
    ∀ c ∈ m, a < c.1 := by
  induction m generalizing a v with
  | nil => simp
  | cons d r ih =>
    obtain ⟨b, w⟩ := d
    have hab : a < b := by simp [Memory.wf] at h; exact h.1.2
    intro c hc
    rcases List.mem_cons.mp hc with rfl | hc
    · exact hab
    · exact Nat.lt_trans hab (ih (Memory.wf_tail h) c hc)

/-- A head below every later address makes the canonical form. -/
theorem Memory.wf_cons {a : Nat} {v : Byte} {m : Memory} (hv : v ≠ Config.unwritten) (hm : Memory.wf m = true)
    (ha : ∀ c ∈ m, a < c.1) : Memory.wf ((a, v) :: m) = true := by
  cases m with
  | nil => simpa [Memory.wf] using hv
  | cons d r =>
    obtain ⟨b, w⟩ := d
    have := ha (b, w) (by simp)
    simp [Memory.wf, hv, hm, this]

/-- Addresses listed after a write: the written one, or one listed before. -/
theorem Mem.mem_set {m : Memory} {a : Nat} {v : Byte} {c : Nat × Byte} (h : c ∈ Mem.set m a v) :
    c.1 = a ∨ c ∈ m := by
  induction m with
  | nil =>
    by_cases hv : v = Config.unwritten
    · simp [Mem.set, hv] at h
    · simp [Mem.set, hv] at h; simp [h]
  | cons d r ih =>
    obtain ⟨b, w⟩ := d
    unfold Mem.set at h
    split at h
    · split at h
      · exact .inr (List.mem_cons_of_mem _ h)
      · rcases List.mem_cons.mp h with rfl | h
        · exact .inl rfl
        · exact .inr (List.mem_cons_of_mem _ h)
    · split at h
      · split at h
        · exact .inr h
        · rcases List.mem_cons.mp h with rfl | h
          · exact .inl rfl
          · exact .inr h
      · rcases List.mem_cons.mp h with rfl | h
        · exact .inr (by simp)
        · exact (ih h).imp_right (List.mem_cons_of_mem _)

/-- A write keeps the canonical form. -/
theorem Memory.wf_set {m : Memory} (h : Memory.wf m = true) (a : Nat) (v : Byte) :
    Memory.wf (Mem.set m a v) = true := by
  induction m with
  | nil =>
    by_cases hv : v = Config.unwritten <;> simp [Mem.set, hv, Memory.wf]
  | cons d r ih =>
    obtain ⟨b, w⟩ := d
    have hr := Memory.wf_tail h
    have hlt := Memory.wf_lt h
    unfold Mem.set
    split
    · rename_i hab
      split
      · exact hr
      · exact Memory.wf_cons ‹_› hr (hab ▸ hlt)
    · split
      · rename_i hab
        split
        · exact h
        · refine Memory.wf_cons ‹_› h fun c hc => ?_
          rcases List.mem_cons.mp hc with rfl | hc
          · exact hab
          · exact Nat.lt_trans hab (hlt c hc)
      · refine Memory.wf_cons (Memory.wf_head h) (ih hr) fun c hc => ?_
        rcases Mem.mem_set hc with rfl | hc
        · omega
        · exact hlt c hc

/-- A wide write keeps the canonical form. -/
theorem Memory.wf_setN {m : Memory} (h : Memory.wf m = true) (a n v : Nat) :
    Memory.wf (Mem.setN m a n v) = true := by
  induction n generalizing m a v with
  | zero => exact h
  | succ n ih => exact ih (Memory.wf_set h a _) (a + 1) (v / 256)

/-- Dropping entries keeps the canonical form. -/
theorem Memory.wf_filter {m : Memory} (h : Memory.wf m = true) (p : Nat × Byte → Bool) :
    Memory.wf (m.filter p) = true := by
  induction m with
  | nil => rfl
  | cons d r ih =>
    obtain ⟨b, w⟩ := d
    have hr := ih (Memory.wf_tail h)
    rw [List.filter_cons]
    split
    · exact Memory.wf_cons (Memory.wf_head h) hr fun c hc =>
        Memory.wf_lt h c (List.mem_of_mem_filter hc)
    · exact hr

/-- Replacing a range keeps the canonical form. -/
theorem Memory.wf_paste {m : Memory} (h : Memory.wf m = true) (a n : Nat) (cells : Memory) :
    Memory.wf (Mem.paste m a n cells) = true := by
  unfold Mem.paste
  generalize hm : (m.filter fun c => !(decide (a ≤ c.1) && decide (c.1 < a + n))) = k
  have hk : Memory.wf k = true := hm ▸ Memory.wf_filter h _
  clear hm h
  induction cells generalizing k with
  | nil => exact hk
  | cons c r ih =>
    refine ih _ ?_
    dsimp only
    split
    · exact Memory.wf_set hk _ _
    · exact hk

/-- An address below every listed one reads as unlisted. -/
theorem Mem.get_below {m : Memory} {a : Nat} (h : ∀ c ∈ m, a < c.1) : Mem.get m a = Config.unwritten := by
  cases m with
  | nil => rfl
  | cons d r =>
    obtain ⟨b, w⟩ := d
    have := h (b, w) (by simp)
    simp only [] at this
    unfold Mem.get
    rw [if_neg (by omega), if_pos this]

/-- A read after a write to the same address gives the byte written. -/
theorem Mem.get_set_same {m : Memory} (h : Memory.wf m = true) (a : Nat) (v : Byte) :
    Mem.get (Mem.set m a v) a = v := by
  induction m with
  | nil =>
    by_cases hv : v = Config.unwritten <;> simp [Mem.set, Mem.get, hv]
  | cons d r ih =>
    obtain ⟨b, w⟩ := d
    have hlt := Memory.wf_lt h
    unfold Mem.set
    split
    · rename_i hab
      split
      · rename_i hv; rw [hv]; exact Mem.get_below (hab ▸ hlt)
      · simp [Mem.get]
    · split
      · rename_i hab
        split
        · rename_i hv; rw [hv]; unfold Mem.get; rw [if_neg (by omega), if_pos hab]
        · simp [Mem.get]
      · rename_i h1 h2
        unfold Mem.get
        rw [if_neg h1, if_neg h2]
        exact ih (Memory.wf_tail h)

/-- A write leaves every other address as it was. -/
theorem Mem.get_set_other {m : Memory} (h : Memory.wf m = true) {a b : Nat} (v : Byte) (hab : b ≠ a) :
    Mem.get (Mem.set m a v) b = Mem.get m b := by
  induction m with
  | nil =>
    by_cases hv : v = Config.unwritten
    · simp [Mem.set, hv]
    · simp [Mem.set, Mem.get, hv, hab]
  | cons d r ih =>
    obtain ⟨c, w⟩ := d
    have hlt := Memory.wf_lt h
    unfold Mem.set
    split
    · rename_i hac
      subst hac
      by_cases hba : b < a
      · have hr : Mem.get r b = Config.unwritten :=
          Mem.get_below fun c hc => Nat.lt_trans hba (hlt c hc)
        split
        · rw [hr]; unfold Mem.get; rw [if_neg hab, if_pos hba]
        · unfold Mem.get; rw [if_neg hab, if_pos hba, if_neg hab]
      · split
        · conv => rhs; unfold Mem.get
          rw [if_neg hab, if_neg hba]
        · conv => lhs; unfold Mem.get
          conv => rhs; unfold Mem.get
          rw [if_neg hab, if_neg hba, if_neg hab]
    · split
      · rename_i hac
        split
        · rfl
        · by_cases hba : b < a
          · conv => lhs; unfold Mem.get
            rw [if_neg hab, if_pos hba]
            refine (Mem.get_below fun e he => ?_).symm
            rcases List.mem_cons.mp he with rfl | he
            · exact Nat.lt_trans hba hac
            · exact Nat.lt_trans (Nat.lt_trans hba hac) (hlt e he)
          · conv => lhs; unfold Mem.get
            rw [if_neg hab, if_neg hba]
      · conv => lhs; unfold Mem.get
        conv => rhs; unfold Mem.get
        rw [ih (Memory.wf_tail h)]

/-- A wide write leaves every address outside it as it was. -/
theorem Mem.get_setN_other {m : Memory} (h : Memory.wf m = true) {a n b : Nat} (v : Nat)
    (hb : b < a ∨ a + n ≤ b) : Mem.get (Mem.setN m a n v) b = Mem.get m b := by
  induction n generalizing m a v with
  | zero => rfl
  | succ n ih =>
    unfold Mem.setN
    rw [ih (Memory.wf_set h a _) (v / 256) (by omega), Mem.get_set_other h _ (by omega)]

/-- A wide read after the same wide write gives the low bytes written. -/
theorem Mem.getN_setN {m : Memory} (h : Memory.wf m = true) (a n v : Nat) :
    Mem.getN (Mem.setN m a n v) a n = v % 256 ^ n := by
  induction n generalizing m a v with
  | zero => simp [Mem.getN, Nat.mod_one]
  | succ n ih =>
    unfold Mem.setN Mem.getN
    rw [ih (Memory.wf_set h a _), Mem.get_setN_other (Memory.wf_set h a _) _ (by omega), Mem.get_set_same h]
    rw [BitVec.toNat_ofNat, show (256 : Nat) ^ (n + 1) = 256 * 256 ^ n by rw [Nat.pow_succ, Nat.mul_comm], Nat.mod_mul]

/-- Two memories in canonical form that read alike are equal. -/
theorem Mem.ext {m n : Memory} (hm : Memory.wf m = true) (hn : Memory.wf n = true)
    (h : ∀ a, Mem.get m a = Mem.get n a) : m = n := by
  induction m generalizing n with
  | nil =>
    cases n with
    | nil => rfl
    | cons d r =>
      obtain ⟨b, w⟩ := d
      have := h b
      simp only [Mem.get, if_true] at this
      exact absurd this.symm (Memory.wf_head hn)
  | cons c r ih =>
    obtain ⟨a, v⟩ := c
    cases n with
    | nil =>
      have := h a
      simp only [Mem.get, if_true] at this
      exact absurd this (Memory.wf_head hm)
    | cons d t =>
      obtain ⟨b, w⟩ := d
      have hv := Memory.wf_head hm
      have hw := Memory.wf_head hn
      have lm := Memory.wf_lt hm
      have ln := Memory.wf_lt hn
      have hab : a = b := by
        rcases Nat.lt_trichotomy a b with hl | he | hl
        · have := h a
          rw [Mem.get_below (m := (b, w) :: t) (by
            intro e he; rcases List.mem_cons.mp he with rfl | he
            · exact hl
            · exact Nat.lt_trans hl (ln e he))] at this
          simp only [Mem.get, if_true] at this
          exact absurd this hv
        · exact he
        · have := h b
          rw [Mem.get_below (m := (a, v) :: r) (by
            intro e he; rcases List.mem_cons.mp he with rfl | he
            · exact hl
            · exact Nat.lt_trans hl (lm e he))] at this
          simp only [Mem.get, if_true] at this
          exact absurd this.symm hw
      subst hab
      have hvw : v = w := by have := h a; simpa [Mem.get] using this
      subst hvw
      refine congrArg _ (ih (Memory.wf_tail hm) (Memory.wf_tail hn) fun x => ?_)
      by_cases hx : x ≤ a
      · rw [Mem.get_below fun e he => Nat.lt_of_le_of_lt hx (lm e he),
          Mem.get_below fun e he => Nat.lt_of_le_of_lt hx (ln e he)]
      · have := h x
        unfold Mem.get at this
        rw [if_neg (by omega), if_neg (by omega), if_neg (by omega), if_neg (by omega)] at this
        exact this

end Sys2Proof.Machine
end

