-- ==== Sys2Proof/Laws/State.lean ====
section
/-! SUPPORT. What the plain updates of the state leave as it was: one lemma for each field and update. -/
namespace Sys2Proof.Machine
variable (s : State)

-- wrN.

@[simp] theorem State.wrN_pending (h n v : Nat) : (s.wrN h n v).pending = s.pending := rfl
@[simp] theorem State.wrN_mem (h n v : Nat) : (s.wrN h n v).mem = Mem.setN s.mem (hallLoc h) n v := rfl
@[simp] theorem State.wrN_phase (h n v : Nat) : (s.wrN h n v).phase = s.phase := rfl
@[simp] theorem State.wrN_loadOpen (h n v : Nat) : (s.wrN h n v).loadOpen = s.loadOpen := rfl
@[simp] theorem State.wrN_warm (h n v : Nat) : (s.wrN h n v).warm = s.warm := rfl
@[simp] theorem State.wrN_scanAsked (h n v : Nat) : (s.wrN h n v).scanAsked = s.scanAsked := rfl
@[simp] theorem State.wrN_present (h n v : Nat) : (s.wrN h n v).present = s.present := rfl
@[simp] theorem State.wrN_grade (h n v : Nat) : (s.wrN h n v).grade = s.grade := rfl
@[simp] theorem State.wrN_hg (h n v : Nat) : (s.wrN h n v).hg = s.hg := rfl
@[simp] theorem State.wrN_stw (h n v : Nat) : (s.wrN h n v).stw = s.stw := rfl
@[simp] theorem State.wrN_tr (h n v : Nat) : (s.wrN h n v).tr = s.tr := rfl
@[simp] theorem State.wrN_arrs (h n v : Nat) : (s.wrN h n v).arrs = s.arrs := rfl
@[simp] theorem State.wrN_evt (h n v : Nat) : (s.wrN h n v).evt = s.evt := rfl
@[simp] theorem State.wrN_tm (h n v : Nat) : (s.wrN h n v).tm = s.tm := rfl
@[simp] theorem State.wrN_cut (h n v : Nat) : (s.wrN h n v).cut = s.cut := rfl
@[simp] theorem State.wrN_hall (h n v : Nat) : (s.wrN h n v).hall = s.hall := rfl
@[simp] theorem State.wrN_pwr (h n v : Nat) : (s.wrN h n v).pwr = s.pwr := rfl
@[simp] theorem State.wrN_gov (h n v : Nat) : (s.wrN h n v).gov = s.gov := rfl
@[simp] theorem State.wrN_st (h n v : Nat) : (s.wrN h n v).st = s.st := rfl
@[simp] theorem State.wrN_pen (h n v : Nat) : (s.wrN h n v).pen = s.pen := rfl
@[simp] theorem State.wrN_ports (h n v : Nat) : (s.wrN h n v).ports = s.ports := rfl
@[simp] theorem State.wrN_key (h n v : Nat) : (s.wrN h n v).key = s.key := rfl
@[simp] theorem State.wrN_rem (h n v : Nat) : (s.wrN h n v).rem = s.rem := rfl
@[simp] theorem State.wrN_snap (h n v : Nat) : (s.wrN h n v).snap = s.snap := rfl
@[simp] theorem State.wrN_obs (h n v : Nat) : (s.wrN h n v).obs = s.obs := rfl
@[simp] theorem State.wrN_svc (h n v : Nat) : (s.wrN h n v).svc = s.svc := rfl
@[simp] theorem State.wrN_out (h n v : Nat) : (s.wrN h n v).out = s.out := rfl
@[simp] theorem State.wrN_free (h n v : Nat) : (s.wrN h n v).free = s.free := rfl
@[simp] theorem State.slot_wrN (h n v : Nat) (i : Fin 16) : (s.wrN h n v).slot i = s.slot i := rfl
@[simp] theorem State.port_wrN (h n v : Nat) (p : Fin 6) : (s.wrN h n v).port p = s.port p := rfl

-- setSlot.

@[simp] theorem State.setSlot_pending (i : Fin 16) (x : Slot) : (s.setSlot i x).pending = s.pending := rfl
@[simp] theorem State.setSlot_mem (i : Fin 16) (x : Slot) : (s.setSlot i x).mem = s.mem := rfl
@[simp] theorem State.setSlot_phase (i : Fin 16) (x : Slot) : (s.setSlot i x).phase = s.phase := rfl
@[simp] theorem State.setSlot_loadOpen (i : Fin 16) (x : Slot) : (s.setSlot i x).loadOpen = s.loadOpen := rfl
@[simp] theorem State.setSlot_warm (i : Fin 16) (x : Slot) : (s.setSlot i x).warm = s.warm := rfl
@[simp] theorem State.setSlot_scanAsked (i : Fin 16) (x : Slot) : (s.setSlot i x).scanAsked = s.scanAsked := rfl
@[simp] theorem State.setSlot_present (i : Fin 16) (x : Slot) : (s.setSlot i x).present = s.present := rfl
@[simp] theorem State.setSlot_grade (i : Fin 16) (x : Slot) : (s.setSlot i x).grade = s.grade := rfl
@[simp] theorem State.setSlot_stw (i : Fin 16) (x : Slot) : (s.setSlot i x).stw = s.stw := rfl
@[simp] theorem State.setSlot_tr (i : Fin 16) (x : Slot) : (s.setSlot i x).tr = s.tr := rfl
@[simp] theorem State.setSlot_arrs (i : Fin 16) (x : Slot) : (s.setSlot i x).arrs = s.arrs := rfl
@[simp] theorem State.setSlot_evt (i : Fin 16) (x : Slot) : (s.setSlot i x).evt = s.evt := rfl
@[simp] theorem State.setSlot_tm (i : Fin 16) (x : Slot) : (s.setSlot i x).tm = s.tm := rfl
@[simp] theorem State.setSlot_cut (i : Fin 16) (x : Slot) : (s.setSlot i x).cut = s.cut := rfl
@[simp] theorem State.setSlot_hall (i : Fin 16) (x : Slot) : (s.setSlot i x).hall = s.hall := rfl
@[simp] theorem State.setSlot_pwr (i : Fin 16) (x : Slot) : (s.setSlot i x).pwr = s.pwr := rfl
@[simp] theorem State.setSlot_gov (i : Fin 16) (x : Slot) : (s.setSlot i x).gov = s.gov := rfl
@[simp] theorem State.setSlot_st (i : Fin 16) (x : Slot) : (s.setSlot i x).st = s.st := rfl
@[simp] theorem State.setSlot_pen (i : Fin 16) (x : Slot) : (s.setSlot i x).pen = s.pen := rfl
@[simp] theorem State.setSlot_ports (i : Fin 16) (x : Slot) : (s.setSlot i x).ports = s.ports := rfl
@[simp] theorem State.setSlot_key (i : Fin 16) (x : Slot) : (s.setSlot i x).key = s.key := rfl
@[simp] theorem State.setSlot_rem (i : Fin 16) (x : Slot) : (s.setSlot i x).rem = s.rem := rfl
@[simp] theorem State.setSlot_snap (i : Fin 16) (x : Slot) : (s.setSlot i x).snap = s.snap := rfl
@[simp] theorem State.setSlot_obs (i : Fin 16) (x : Slot) : (s.setSlot i x).obs = s.obs := rfl
@[simp] theorem State.setSlot_svc (i : Fin 16) (x : Slot) : (s.setSlot i x).svc = s.svc := rfl
@[simp] theorem State.setSlot_out (i : Fin 16) (x : Slot) : (s.setSlot i x).out = s.out := rfl
@[simp] theorem State.setSlot_free (i : Fin 16) (x : Slot) : (s.setSlot i x).free = s.free := rfl
@[simp] theorem State.setSlot_hg_loading (i : Fin 16) (x : Slot) : (s.setSlot i x).hg.loading = s.hg.loading := rfl
@[simp] theorem State.setSlot_hg_flight (i : Fin 16) (x : Slot) : (s.setSlot i x).hg.flight = s.hg.flight := rfl
@[simp] theorem State.setSlot_hg_resident (i : Fin 16) (x : Slot) : (s.setSlot i x).hg.resident = s.hg.resident := rfl
@[simp] theorem State.setSlot_hg_slotEn (i : Fin 16) (x : Slot) : (s.setSlot i x).hg.slotEn = s.hg.slotEn := rfl
@[simp] theorem State.setSlot_hg_stepNo (i : Fin 16) (x : Slot) : (s.setSlot i x).hg.stepNo = s.hg.stepNo := rfl
@[simp] theorem State.setSlot_hg_verBase (i : Fin 16) (x : Slot) : (s.setSlot i x).hg.verBase = s.hg.verBase := rfl
@[simp] theorem State.setSlot_hg_aen (i : Fin 16) (x : Slot) : (s.setSlot i x).hg.aen = s.hg.aen := rfl
@[simp] theorem State.setSlot_hg_held (i : Fin 16) (x : Slot) : (s.setSlot i x).hg.held = s.hg.held := rfl
@[simp] theorem State.setSlot_hg_turn (i : Fin 16) (x : Slot) : (s.setSlot i x).hg.turn = s.hg.turn := rfl
@[simp] theorem State.setSlot_hg_fetchTurn (i : Fin 16) (x : Slot) : (s.setSlot i x).hg.fetchTurn = s.hg.fetchTurn := rfl
@[simp] theorem State.setSlot_hg_rowLast (i : Fin 16) (x : Slot) : (s.setSlot i x).hg.rowLast = s.hg.rowLast := rfl
@[simp] theorem State.setSlot_hg_resWait (i : Fin 16) (x : Slot) : (s.setSlot i x).hg.resWait = s.hg.resWait := rfl
@[simp] theorem State.setSlot_hg_resFrom (i : Fin 16) (x : Slot) : (s.setSlot i x).hg.resFrom = s.hg.resFrom := rfl
@[simp] theorem State.slot_setSlot_same (i : Fin 16) (x : Slot) : (s.setSlot i x).slot i = x := by
  simp [State.setSlot, State.slot]
theorem State.slot_setSlot_other {i j : Fin 16} (x : Slot) (h : j ≠ i) : (s.setSlot i x).slot j = s.slot j := by
  simp only [State.setSlot, State.slot, Fin.getElem_fin]
  exact Vector.getElem_set_ne _ _ (fun e => h (Fin.ext e.symm))
@[simp] theorem State.port_setSlot (i : Fin 16) (x : Slot) (p : Fin 6) : (s.setSlot i x).port p = s.port p := rfl

-- addFlight.

@[simp] theorem State.addFlight_pending (f : Flight) : (s.addFlight f).pending = s.pending := rfl
@[simp] theorem State.addFlight_mem (f : Flight) : (s.addFlight f).mem = s.mem := rfl
@[simp] theorem State.addFlight_phase (f : Flight) : (s.addFlight f).phase = s.phase := rfl
@[simp] theorem State.addFlight_loadOpen (f : Flight) : (s.addFlight f).loadOpen = s.loadOpen := rfl
@[simp] theorem State.addFlight_warm (f : Flight) : (s.addFlight f).warm = s.warm := rfl
@[simp] theorem State.addFlight_scanAsked (f : Flight) : (s.addFlight f).scanAsked = s.scanAsked := rfl
@[simp] theorem State.addFlight_present (f : Flight) : (s.addFlight f).present = s.present := rfl
@[simp] theorem State.addFlight_grade (f : Flight) : (s.addFlight f).grade = s.grade := rfl
@[simp] theorem State.addFlight_stw (f : Flight) : (s.addFlight f).stw = s.stw := rfl
@[simp] theorem State.addFlight_tr (f : Flight) : (s.addFlight f).tr = s.tr := rfl
@[simp] theorem State.addFlight_arrs (f : Flight) : (s.addFlight f).arrs = s.arrs := rfl
@[simp] theorem State.addFlight_evt (f : Flight) : (s.addFlight f).evt = s.evt := rfl
@[simp] theorem State.addFlight_tm (f : Flight) : (s.addFlight f).tm = s.tm := rfl
@[simp] theorem State.addFlight_cut (f : Flight) : (s.addFlight f).cut = s.cut := rfl
@[simp] theorem State.addFlight_hall (f : Flight) : (s.addFlight f).hall = s.hall := rfl
@[simp] theorem State.addFlight_pwr (f : Flight) : (s.addFlight f).pwr = s.pwr := rfl
@[simp] theorem State.addFlight_gov (f : Flight) : (s.addFlight f).gov = s.gov := rfl
@[simp] theorem State.addFlight_st (f : Flight) : (s.addFlight f).st = s.st := rfl
@[simp] theorem State.addFlight_pen (f : Flight) : (s.addFlight f).pen = s.pen := rfl
@[simp] theorem State.addFlight_ports (f : Flight) : (s.addFlight f).ports = s.ports := rfl
@[simp] theorem State.addFlight_key (f : Flight) : (s.addFlight f).key = s.key := rfl
@[simp] theorem State.addFlight_rem (f : Flight) : (s.addFlight f).rem = s.rem := rfl
@[simp] theorem State.addFlight_snap (f : Flight) : (s.addFlight f).snap = s.snap := rfl
@[simp] theorem State.addFlight_obs (f : Flight) : (s.addFlight f).obs = s.obs := rfl
@[simp] theorem State.addFlight_svc (f : Flight) : (s.addFlight f).svc = s.svc := rfl
@[simp] theorem State.addFlight_out (f : Flight) : (s.addFlight f).out = s.out := rfl
@[simp] theorem State.addFlight_free (f : Flight) : (s.addFlight f).free = s.free := rfl
@[simp] theorem State.addFlight_hg_slots (f : Flight) : (s.addFlight f).hg.slots = s.hg.slots := rfl
@[simp] theorem State.addFlight_hg_loading (f : Flight) : (s.addFlight f).hg.loading = s.hg.loading := rfl
@[simp] theorem State.addFlight_hg_resident (f : Flight) : (s.addFlight f).hg.resident = s.hg.resident := rfl
@[simp] theorem State.addFlight_hg_slotEn (f : Flight) : (s.addFlight f).hg.slotEn = s.hg.slotEn := rfl
@[simp] theorem State.addFlight_hg_stepNo (f : Flight) : (s.addFlight f).hg.stepNo = s.hg.stepNo := rfl
@[simp] theorem State.addFlight_hg_verBase (f : Flight) : (s.addFlight f).hg.verBase = s.hg.verBase := rfl
@[simp] theorem State.addFlight_hg_aen (f : Flight) : (s.addFlight f).hg.aen = s.hg.aen := rfl
@[simp] theorem State.addFlight_hg_held (f : Flight) : (s.addFlight f).hg.held = s.hg.held := rfl
@[simp] theorem State.addFlight_hg_turn (f : Flight) : (s.addFlight f).hg.turn = s.hg.turn := rfl
@[simp] theorem State.addFlight_hg_fetchTurn (f : Flight) : (s.addFlight f).hg.fetchTurn = s.hg.fetchTurn := rfl
@[simp] theorem State.addFlight_hg_rowLast (f : Flight) : (s.addFlight f).hg.rowLast = s.hg.rowLast := rfl
@[simp] theorem State.addFlight_hg_resWait (f : Flight) : (s.addFlight f).hg.resWait = s.hg.resWait := rfl
@[simp] theorem State.addFlight_hg_resFrom (f : Flight) : (s.addFlight f).hg.resFrom = s.hg.resFrom := rfl

-- setFlight.

@[simp] theorem State.setFlight_pending (f : Flight) : (s.setFlight f).pending = s.pending := rfl
@[simp] theorem State.setFlight_mem (f : Flight) : (s.setFlight f).mem = s.mem := rfl
@[simp] theorem State.setFlight_phase (f : Flight) : (s.setFlight f).phase = s.phase := rfl
@[simp] theorem State.setFlight_loadOpen (f : Flight) : (s.setFlight f).loadOpen = s.loadOpen := rfl
@[simp] theorem State.setFlight_warm (f : Flight) : (s.setFlight f).warm = s.warm := rfl
@[simp] theorem State.setFlight_scanAsked (f : Flight) : (s.setFlight f).scanAsked = s.scanAsked := rfl
@[simp] theorem State.setFlight_present (f : Flight) : (s.setFlight f).present = s.present := rfl
@[simp] theorem State.setFlight_grade (f : Flight) : (s.setFlight f).grade = s.grade := rfl
@[simp] theorem State.setFlight_stw (f : Flight) : (s.setFlight f).stw = s.stw := rfl
@[simp] theorem State.setFlight_tr (f : Flight) : (s.setFlight f).tr = s.tr := rfl
@[simp] theorem State.setFlight_arrs (f : Flight) : (s.setFlight f).arrs = s.arrs := rfl
@[simp] theorem State.setFlight_evt (f : Flight) : (s.setFlight f).evt = s.evt := rfl
@[simp] theorem State.setFlight_tm (f : Flight) : (s.setFlight f).tm = s.tm := rfl
@[simp] theorem State.setFlight_cut (f : Flight) : (s.setFlight f).cut = s.cut := rfl
@[simp] theorem State.setFlight_hall (f : Flight) : (s.setFlight f).hall = s.hall := rfl
@[simp] theorem State.setFlight_pwr (f : Flight) : (s.setFlight f).pwr = s.pwr := rfl
@[simp] theorem State.setFlight_gov (f : Flight) : (s.setFlight f).gov = s.gov := rfl
@[simp] theorem State.setFlight_st (f : Flight) : (s.setFlight f).st = s.st := rfl
@[simp] theorem State.setFlight_pen (f : Flight) : (s.setFlight f).pen = s.pen := rfl
@[simp] theorem State.setFlight_ports (f : Flight) : (s.setFlight f).ports = s.ports := rfl
@[simp] theorem State.setFlight_key (f : Flight) : (s.setFlight f).key = s.key := rfl
@[simp] theorem State.setFlight_rem (f : Flight) : (s.setFlight f).rem = s.rem := rfl
@[simp] theorem State.setFlight_snap (f : Flight) : (s.setFlight f).snap = s.snap := rfl
@[simp] theorem State.setFlight_obs (f : Flight) : (s.setFlight f).obs = s.obs := rfl
@[simp] theorem State.setFlight_svc (f : Flight) : (s.setFlight f).svc = s.svc := rfl
@[simp] theorem State.setFlight_out (f : Flight) : (s.setFlight f).out = s.out := rfl
@[simp] theorem State.setFlight_free (f : Flight) : (s.setFlight f).free = s.free := rfl
@[simp] theorem State.setFlight_hg_slots (f : Flight) : (s.setFlight f).hg.slots = s.hg.slots := rfl
@[simp] theorem State.setFlight_hg_loading (f : Flight) : (s.setFlight f).hg.loading = s.hg.loading := rfl
@[simp] theorem State.setFlight_hg_resident (f : Flight) : (s.setFlight f).hg.resident = s.hg.resident := rfl
@[simp] theorem State.setFlight_hg_slotEn (f : Flight) : (s.setFlight f).hg.slotEn = s.hg.slotEn := rfl
@[simp] theorem State.setFlight_hg_stepNo (f : Flight) : (s.setFlight f).hg.stepNo = s.hg.stepNo := rfl
@[simp] theorem State.setFlight_hg_verBase (f : Flight) : (s.setFlight f).hg.verBase = s.hg.verBase := rfl
@[simp] theorem State.setFlight_hg_aen (f : Flight) : (s.setFlight f).hg.aen = s.hg.aen := rfl
@[simp] theorem State.setFlight_hg_held (f : Flight) : (s.setFlight f).hg.held = s.hg.held := rfl
@[simp] theorem State.setFlight_hg_turn (f : Flight) : (s.setFlight f).hg.turn = s.hg.turn := rfl
@[simp] theorem State.setFlight_hg_fetchTurn (f : Flight) : (s.setFlight f).hg.fetchTurn = s.hg.fetchTurn := rfl
@[simp] theorem State.setFlight_hg_rowLast (f : Flight) : (s.setFlight f).hg.rowLast = s.hg.rowLast := rfl
@[simp] theorem State.setFlight_hg_resWait (f : Flight) : (s.setFlight f).hg.resWait = s.hg.resWait := rfl
@[simp] theorem State.setFlight_hg_resFrom (f : Flight) : (s.setFlight f).hg.resFrom = s.hg.resFrom := rfl

-- dropFlight.

@[simp] theorem State.dropFlight_pending (i : Fin 16) (n : Nat) : (s.dropFlight i n).pending = s.pending := rfl
@[simp] theorem State.dropFlight_mem (i : Fin 16) (n : Nat) : (s.dropFlight i n).mem = s.mem := rfl
@[simp] theorem State.dropFlight_phase (i : Fin 16) (n : Nat) : (s.dropFlight i n).phase = s.phase := rfl
@[simp] theorem State.dropFlight_loadOpen (i : Fin 16) (n : Nat) : (s.dropFlight i n).loadOpen = s.loadOpen := rfl
@[simp] theorem State.dropFlight_warm (i : Fin 16) (n : Nat) : (s.dropFlight i n).warm = s.warm := rfl
@[simp] theorem State.dropFlight_scanAsked (i : Fin 16) (n : Nat) : (s.dropFlight i n).scanAsked = s.scanAsked := rfl
@[simp] theorem State.dropFlight_present (i : Fin 16) (n : Nat) : (s.dropFlight i n).present = s.present := rfl
@[simp] theorem State.dropFlight_grade (i : Fin 16) (n : Nat) : (s.dropFlight i n).grade = s.grade := rfl
@[simp] theorem State.dropFlight_stw (i : Fin 16) (n : Nat) : (s.dropFlight i n).stw = s.stw := rfl
@[simp] theorem State.dropFlight_tr (i : Fin 16) (n : Nat) : (s.dropFlight i n).tr = s.tr := rfl
@[simp] theorem State.dropFlight_arrs (i : Fin 16) (n : Nat) : (s.dropFlight i n).arrs = s.arrs := rfl
@[simp] theorem State.dropFlight_evt (i : Fin 16) (n : Nat) : (s.dropFlight i n).evt = s.evt := rfl
@[simp] theorem State.dropFlight_tm (i : Fin 16) (n : Nat) : (s.dropFlight i n).tm = s.tm := rfl
@[simp] theorem State.dropFlight_cut (i : Fin 16) (n : Nat) : (s.dropFlight i n).cut = s.cut := rfl
@[simp] theorem State.dropFlight_hall (i : Fin 16) (n : Nat) : (s.dropFlight i n).hall = s.hall := rfl
@[simp] theorem State.dropFlight_pwr (i : Fin 16) (n : Nat) : (s.dropFlight i n).pwr = s.pwr := rfl
@[simp] theorem State.dropFlight_gov (i : Fin 16) (n : Nat) : (s.dropFlight i n).gov = s.gov := rfl
@[simp] theorem State.dropFlight_st (i : Fin 16) (n : Nat) : (s.dropFlight i n).st = s.st := rfl
@[simp] theorem State.dropFlight_pen (i : Fin 16) (n : Nat) : (s.dropFlight i n).pen = s.pen := rfl
@[simp] theorem State.dropFlight_ports (i : Fin 16) (n : Nat) : (s.dropFlight i n).ports = s.ports := rfl
@[simp] theorem State.dropFlight_key (i : Fin 16) (n : Nat) : (s.dropFlight i n).key = s.key := rfl
@[simp] theorem State.dropFlight_rem (i : Fin 16) (n : Nat) : (s.dropFlight i n).rem = s.rem := rfl
@[simp] theorem State.dropFlight_snap (i : Fin 16) (n : Nat) : (s.dropFlight i n).snap = s.snap := rfl
@[simp] theorem State.dropFlight_obs (i : Fin 16) (n : Nat) : (s.dropFlight i n).obs = s.obs := rfl
@[simp] theorem State.dropFlight_svc (i : Fin 16) (n : Nat) : (s.dropFlight i n).svc = s.svc := rfl
@[simp] theorem State.dropFlight_out (i : Fin 16) (n : Nat) : (s.dropFlight i n).out = s.out := rfl
@[simp] theorem State.dropFlight_free (i : Fin 16) (n : Nat) : (s.dropFlight i n).free = s.free := rfl
@[simp] theorem State.dropFlight_hg_slots (i : Fin 16) (n : Nat) : (s.dropFlight i n).hg.slots = s.hg.slots := rfl
@[simp] theorem State.dropFlight_hg_loading (i : Fin 16) (n : Nat) : (s.dropFlight i n).hg.loading = s.hg.loading := rfl
@[simp] theorem State.dropFlight_hg_resident (i : Fin 16) (n : Nat) : (s.dropFlight i n).hg.resident = s.hg.resident := rfl
@[simp] theorem State.dropFlight_hg_slotEn (i : Fin 16) (n : Nat) : (s.dropFlight i n).hg.slotEn = s.hg.slotEn := rfl
@[simp] theorem State.dropFlight_hg_stepNo (i : Fin 16) (n : Nat) : (s.dropFlight i n).hg.stepNo = s.hg.stepNo := rfl
@[simp] theorem State.dropFlight_hg_verBase (i : Fin 16) (n : Nat) : (s.dropFlight i n).hg.verBase = s.hg.verBase := rfl
@[simp] theorem State.dropFlight_hg_aen (i : Fin 16) (n : Nat) : (s.dropFlight i n).hg.aen = s.hg.aen := rfl
@[simp] theorem State.dropFlight_hg_held (i : Fin 16) (n : Nat) : (s.dropFlight i n).hg.held = s.hg.held := rfl
@[simp] theorem State.dropFlight_hg_turn (i : Fin 16) (n : Nat) : (s.dropFlight i n).hg.turn = s.hg.turn := rfl
@[simp] theorem State.dropFlight_hg_fetchTurn (i : Fin 16) (n : Nat) : (s.dropFlight i n).hg.fetchTurn = s.hg.fetchTurn := rfl
@[simp] theorem State.dropFlight_hg_rowLast (i : Fin 16) (n : Nat) : (s.dropFlight i n).hg.rowLast = s.hg.rowLast := rfl
@[simp] theorem State.dropFlight_hg_resWait (i : Fin 16) (n : Nat) : (s.dropFlight i n).hg.resWait = s.hg.resWait := rfl
@[simp] theorem State.dropFlight_hg_resFrom (i : Fin 16) (n : Nat) : (s.dropFlight i n).hg.resFrom = s.hg.resFrom := rfl

-- setPort.

@[simp] theorem State.setPort_pending (p : Fin 6) (q : Port) : (s.setPort p q).pending = s.pending := rfl
@[simp] theorem State.setPort_mem (p : Fin 6) (q : Port) : (s.setPort p q).mem = s.mem := rfl
@[simp] theorem State.setPort_phase (p : Fin 6) (q : Port) : (s.setPort p q).phase = s.phase := rfl
@[simp] theorem State.setPort_loadOpen (p : Fin 6) (q : Port) : (s.setPort p q).loadOpen = s.loadOpen := rfl
@[simp] theorem State.setPort_warm (p : Fin 6) (q : Port) : (s.setPort p q).warm = s.warm := rfl
@[simp] theorem State.setPort_scanAsked (p : Fin 6) (q : Port) : (s.setPort p q).scanAsked = s.scanAsked := rfl
@[simp] theorem State.setPort_present (p : Fin 6) (q : Port) : (s.setPort p q).present = s.present := rfl
@[simp] theorem State.setPort_grade (p : Fin 6) (q : Port) : (s.setPort p q).grade = s.grade := rfl
@[simp] theorem State.setPort_hg (p : Fin 6) (q : Port) : (s.setPort p q).hg = s.hg := rfl
@[simp] theorem State.setPort_stw (p : Fin 6) (q : Port) : (s.setPort p q).stw = s.stw := rfl
@[simp] theorem State.setPort_tr (p : Fin 6) (q : Port) : (s.setPort p q).tr = s.tr := rfl
@[simp] theorem State.setPort_arrs (p : Fin 6) (q : Port) : (s.setPort p q).arrs = s.arrs := rfl
@[simp] theorem State.setPort_evt (p : Fin 6) (q : Port) : (s.setPort p q).evt = s.evt := rfl
@[simp] theorem State.setPort_tm (p : Fin 6) (q : Port) : (s.setPort p q).tm = s.tm := rfl
@[simp] theorem State.setPort_cut (p : Fin 6) (q : Port) : (s.setPort p q).cut = s.cut := rfl
@[simp] theorem State.setPort_hall (p : Fin 6) (q : Port) : (s.setPort p q).hall = s.hall := rfl
@[simp] theorem State.setPort_pwr (p : Fin 6) (q : Port) : (s.setPort p q).pwr = s.pwr := rfl
@[simp] theorem State.setPort_gov (p : Fin 6) (q : Port) : (s.setPort p q).gov = s.gov := rfl
@[simp] theorem State.setPort_st (p : Fin 6) (q : Port) : (s.setPort p q).st = s.st := rfl
@[simp] theorem State.setPort_pen (p : Fin 6) (q : Port) : (s.setPort p q).pen = s.pen := rfl
@[simp] theorem State.setPort_ports (p : Fin 6) (q : Port) : (s.setPort p q).ports = s.ports.set p q := rfl
@[simp] theorem State.setPort_key (p : Fin 6) (q : Port) : (s.setPort p q).key = s.key := rfl
@[simp] theorem State.setPort_rem (p : Fin 6) (q : Port) : (s.setPort p q).rem = s.rem := rfl
@[simp] theorem State.setPort_snap (p : Fin 6) (q : Port) : (s.setPort p q).snap = s.snap := rfl
@[simp] theorem State.setPort_obs (p : Fin 6) (q : Port) : (s.setPort p q).obs = s.obs := rfl
@[simp] theorem State.setPort_svc (p : Fin 6) (q : Port) : (s.setPort p q).svc = s.svc := rfl
@[simp] theorem State.setPort_out (p : Fin 6) (q : Port) : (s.setPort p q).out = s.out := rfl
@[simp] theorem State.setPort_free (p : Fin 6) (q : Port) : (s.setPort p q).free = s.free := rfl
@[simp] theorem State.port_setPort_same (p : Fin 6) (q : Port) : (s.setPort p q).port p = q := by
  simp [State.setPort, State.port]
theorem State.port_setPort_other {p o : Fin 6} (q : Port) (h : o ≠ p) : (s.setPort p q).port o = s.port o := by
  simp only [State.setPort, State.port, Fin.getElem_fin]
  exact Vector.getElem_set_ne _ _ (fun e => h (Fin.ext e.symm))
@[simp] theorem State.slot_setPort (p : Fin 6) (q : Port) (i : Fin 16) : (s.setPort p q).slot i = s.slot i := rfl

-- setBuf.

@[simp] theorem State.setBuf_pending (b : Fin 2) (x : BufSt) : (s.setBuf b x).pending = s.pending := rfl
@[simp] theorem State.setBuf_mem (b : Fin 2) (x : BufSt) : (s.setBuf b x).mem = s.mem := rfl
@[simp] theorem State.setBuf_phase (b : Fin 2) (x : BufSt) : (s.setBuf b x).phase = s.phase := rfl
@[simp] theorem State.setBuf_loadOpen (b : Fin 2) (x : BufSt) : (s.setBuf b x).loadOpen = s.loadOpen := rfl
@[simp] theorem State.setBuf_warm (b : Fin 2) (x : BufSt) : (s.setBuf b x).warm = s.warm := rfl
@[simp] theorem State.setBuf_scanAsked (b : Fin 2) (x : BufSt) : (s.setBuf b x).scanAsked = s.scanAsked := rfl
@[simp] theorem State.setBuf_present (b : Fin 2) (x : BufSt) : (s.setBuf b x).present = s.present := rfl
@[simp] theorem State.setBuf_grade (b : Fin 2) (x : BufSt) : (s.setBuf b x).grade = s.grade := rfl
@[simp] theorem State.setBuf_hg (b : Fin 2) (x : BufSt) : (s.setBuf b x).hg = s.hg := rfl
@[simp] theorem State.setBuf_stw (b : Fin 2) (x : BufSt) : (s.setBuf b x).stw = s.stw := rfl
@[simp] theorem State.setBuf_tr (b : Fin 2) (x : BufSt) : (s.setBuf b x).tr = s.tr := rfl
@[simp] theorem State.setBuf_arrs (b : Fin 2) (x : BufSt) : (s.setBuf b x).arrs = s.arrs := rfl
@[simp] theorem State.setBuf_evt (b : Fin 2) (x : BufSt) : (s.setBuf b x).evt = s.evt := rfl
@[simp] theorem State.setBuf_tm (b : Fin 2) (x : BufSt) : (s.setBuf b x).tm = s.tm := rfl
@[simp] theorem State.setBuf_cut (b : Fin 2) (x : BufSt) : (s.setBuf b x).cut = s.cut := rfl
@[simp] theorem State.setBuf_hall (b : Fin 2) (x : BufSt) : (s.setBuf b x).hall = s.hall := rfl
@[simp] theorem State.setBuf_pwr (b : Fin 2) (x : BufSt) : (s.setBuf b x).pwr = s.pwr := rfl
@[simp] theorem State.setBuf_gov (b : Fin 2) (x : BufSt) : (s.setBuf b x).gov = s.gov := rfl
@[simp] theorem State.setBuf_st (b : Fin 2) (x : BufSt) : (s.setBuf b x).st = s.st := rfl
@[simp] theorem State.setBuf_pen (b : Fin 2) (x : BufSt) : (s.setBuf b x).pen = s.pen := rfl
@[simp] theorem State.setBuf_ports (b : Fin 2) (x : BufSt) : (s.setBuf b x).ports = s.ports := rfl
@[simp] theorem State.setBuf_key (b : Fin 2) (x : BufSt) : (s.setBuf b x).key = s.key := rfl
@[simp] theorem State.setBuf_rem (b : Fin 2) (x : BufSt) : (s.setBuf b x).rem = s.rem := rfl
@[simp] theorem State.setBuf_obs (b : Fin 2) (x : BufSt) : (s.setBuf b x).obs = s.obs := rfl
@[simp] theorem State.setBuf_svc (b : Fin 2) (x : BufSt) : (s.setBuf b x).svc = s.svc := rfl
@[simp] theorem State.setBuf_out (b : Fin 2) (x : BufSt) : (s.setBuf b x).out = s.out := rfl
@[simp] theorem State.setBuf_free (b : Fin 2) (x : BufSt) : (s.setBuf b x).free = s.free := rfl
@[simp] theorem State.setBuf_snap_sbase (b : Fin 2) (x : BufSt) : (s.setBuf b x).snap.sbase = s.snap.sbase := rfl
@[simp] theorem State.setBuf_snap_pbase (b : Fin 2) (x : BufSt) : (s.setBuf b x).snap.pbase = s.snap.pbase := rfl
@[simp] theorem State.setBuf_snap_imgpg (b : Fin 2) (x : BufSt) : (s.setBuf b x).snap.imgpg = s.snap.imgpg := rfl
@[simp] theorem State.setBuf_snap_pgcnt (b : Fin 2) (x : BufSt) : (s.setBuf b x).snap.pgcnt = s.snap.pgcnt := rfl
@[simp] theorem State.setBuf_snap_drain (b : Fin 2) (x : BufSt) : (s.setBuf b x).snap.drain = s.snap.drain := rfl
@[simp] theorem State.setBuf_snap_minit (b : Fin 2) (x : BufSt) : (s.setBuf b x).snap.minit = s.snap.minit := rfl
@[simp] theorem State.setBuf_snap_durPar (b : Fin 2) (x : BufSt) : (s.setBuf b x).snap.durPar = s.snap.durPar := rfl
@[simp] theorem State.setBuf_snap_durFlash (b : Fin 2) (x : BufSt) : (s.setBuf b x).snap.durFlash = s.snap.durFlash := rfl
@[simp] theorem State.setBuf_snap_durStore (b : Fin 2) (x : BufSt) : (s.setBuf b x).snap.durStore = s.snap.durStore := rfl
@[simp] theorem State.setBuf_snap_rb (b : Fin 2) (x : BufSt) : (s.setBuf b x).snap.rb = s.snap.rb := rfl
@[simp] theorem State.setBuf_snap_cfgErr (b : Fin 2) (x : BufSt) : (s.setBuf b x).snap.cfgErr = s.snap.cfgErr := rfl
@[simp] theorem State.setBuf_snap_bufSnum (b : Fin 2) (x : BufSt) : (s.setBuf b x).snap.bufSnum = s.snap.bufSnum := rfl
@[simp] theorem State.setBuf_snap_bufDepth (b : Fin 2) (x : BufSt) : (s.setBuf b x).snap.bufDepth = s.snap.bufDepth := rfl
@[simp] theorem State.setBuf_snap_parSnum (b : Fin 2) (x : BufSt) : (s.setBuf b x).snap.parSnum = s.snap.parSnum := rfl
@[simp] theorem State.setBuf_snap_maxSnum (b : Fin 2) (x : BufSt) : (s.setBuf b x).snap.maxSnum = s.snap.maxSnum := rfl
@[simp] theorem State.setBuf_snap_newest (b : Fin 2) (x : BufSt) : (s.setBuf b x).snap.newest = s.snap.newest := rfl
@[simp] theorem State.setBuf_snap_newestTick (b : Fin 2) (x : BufSt) : (s.setBuf b x).snap.newestTick = s.snap.newestTick := rfl
@[simp] theorem State.setBuf_snap_capTick (b : Fin 2) (x : BufSt) : (s.setBuf b x).snap.capTick = s.snap.capTick := rfl
@[simp] theorem State.setBuf_snap_dueFor (b : Fin 2) (x : BufSt) : (s.setBuf b x).snap.dueFor = s.snap.dueFor := rfl
@[simp] theorem State.setBuf_snap_readies (b : Fin 2) (x : BufSt) : (s.setBuf b x).snap.readies = s.snap.readies := rfl
@[simp] theorem State.setBuf_snap_dones (b : Fin 2) (x : BufSt) : (s.setBuf b x).snap.dones = s.snap.dones := rfl
@[simp] theorem State.setBuf_snap_notices (b : Fin 2) (x : BufSt) : (s.setBuf b x).snap.notices = s.snap.notices := rfl
@[simp] theorem State.setBuf_snap_flashOk (b : Fin 2) (x : BufSt) : (s.setBuf b x).snap.flashOk = s.snap.flashOk := rfl
@[simp] theorem State.setBuf_snap_storeOk (b : Fin 2) (x : BufSt) : (s.setBuf b x).snap.storeOk = s.snap.storeOk := rfl
@[simp] theorem State.setBuf_snap_copying (b : Fin 2) (x : BufSt) : (s.setBuf b x).snap.copying = s.snap.copying := rfl
@[simp] theorem State.setBuf_snap_costs (b : Fin 2) (x : BufSt) : (s.setBuf b x).snap.costs = s.snap.costs := rfl
@[simp] theorem State.setBuf_snap_intervals (b : Fin 2) (x : BufSt) : (s.setBuf b x).snap.intervals = s.snap.intervals := rfl
@[simp] theorem State.setBuf_snap_lastLoss (b : Fin 2) (x : BufSt) : (s.setBuf b x).snap.lastLoss = s.snap.lastLoss := rfl
@[simp] theorem State.setBuf_snap_interval (b : Fin 2) (x : BufSt) : (s.setBuf b x).snap.interval = s.snap.interval := rfl
@[simp] theorem State.setBuf_snap_meanM (b : Fin 2) (x : BufSt) : (s.setBuf b x).snap.meanM = s.snap.meanM := rfl
@[simp] theorem State.setBuf_snap_costC (b : Fin 2) (x : BufSt) : (s.setBuf b x).snap.costC = s.snap.costC := rfl
@[simp] theorem State.setBuf_snap_lost (b : Fin 2) (x : BufSt) : (s.setBuf b x).snap.lost = s.snap.lost := rfl
@[simp] theorem State.setBuf_snap_target (b : Fin 2) (x : BufSt) : (s.setBuf b x).snap.target = s.snap.target := rfl
@[simp] theorem State.setBuf_snap_loads (b : Fin 2) (x : BufSt) : (s.setBuf b x).snap.loads = s.snap.loads := rfl
@[simp] theorem State.setBuf_snap_loadBuf (b : Fin 2) (x : BufSt) : (s.setBuf b x).snap.loadBuf = s.snap.loadBuf := rfl
@[simp] theorem State.setBuf_snap_ownImage (b : Fin 2) (x : BufSt) : (s.setBuf b x).snap.ownImage = s.snap.ownImage := rfl

-- answer.

@[simp] theorem State.answer_pending (v : BitVec 64) : (s.answer v).pending = s.pending := rfl
@[simp] theorem State.answer_mem (v : BitVec 64) : (s.answer v).mem = s.mem := rfl
@[simp] theorem State.answer_phase (v : BitVec 64) : (s.answer v).phase = s.phase := rfl
@[simp] theorem State.answer_loadOpen (v : BitVec 64) : (s.answer v).loadOpen = s.loadOpen := rfl
@[simp] theorem State.answer_warm (v : BitVec 64) : (s.answer v).warm = s.warm := rfl
@[simp] theorem State.answer_scanAsked (v : BitVec 64) : (s.answer v).scanAsked = s.scanAsked := rfl
@[simp] theorem State.answer_present (v : BitVec 64) : (s.answer v).present = s.present := rfl
@[simp] theorem State.answer_grade (v : BitVec 64) : (s.answer v).grade = s.grade := rfl
@[simp] theorem State.answer_hg (v : BitVec 64) : (s.answer v).hg = s.hg := rfl
@[simp] theorem State.answer_stw (v : BitVec 64) : (s.answer v).stw = s.stw := rfl
@[simp] theorem State.answer_tr (v : BitVec 64) : (s.answer v).tr = s.tr := rfl
@[simp] theorem State.answer_arrs (v : BitVec 64) : (s.answer v).arrs = s.arrs := rfl
@[simp] theorem State.answer_evt (v : BitVec 64) : (s.answer v).evt = s.evt := rfl
@[simp] theorem State.answer_tm (v : BitVec 64) : (s.answer v).tm = s.tm := rfl
@[simp] theorem State.answer_cut (v : BitVec 64) : (s.answer v).cut = s.cut := rfl
@[simp] theorem State.answer_hall (v : BitVec 64) : (s.answer v).hall = s.hall := rfl
@[simp] theorem State.answer_pwr (v : BitVec 64) : (s.answer v).pwr = s.pwr := rfl
@[simp] theorem State.answer_gov (v : BitVec 64) : (s.answer v).gov = s.gov := rfl
@[simp] theorem State.answer_st (v : BitVec 64) : (s.answer v).st = s.st := rfl
@[simp] theorem State.answer_pen (v : BitVec 64) : (s.answer v).pen = s.pen := rfl
@[simp] theorem State.answer_ports (v : BitVec 64) : (s.answer v).ports = s.ports := rfl
@[simp] theorem State.answer_key (v : BitVec 64) : (s.answer v).key = s.key := rfl
@[simp] theorem State.answer_rem (v : BitVec 64) : (s.answer v).rem = s.rem := rfl
@[simp] theorem State.answer_snap (v : BitVec 64) : (s.answer v).snap = s.snap := rfl
@[simp] theorem State.answer_obs (v : BitVec 64) : (s.answer v).obs = s.obs := rfl
@[simp] theorem State.answer_svc (v : BitVec 64) : (s.answer v).svc = s.svc := rfl
@[simp] theorem State.answer_free (v : BitVec 64) : (s.answer v).free = s.free := rfl
@[simp] theorem State.answer_out_resp (v : BitVec 64) : (s.answer v).out.resp = s.out.resp := rfl
@[simp] theorem State.answer_out_links (v : BitVec 64) : (s.answer v).out.links = s.out.links := rfl
@[simp] theorem State.answer_out_fused (v : BitVec 64) : (s.answer v).out.fused = s.out.fused := rfl

-- respond.

@[simp] theorem State.respond_pending (c i t : Nat) (x : Option Nat) : (s.respond c i t x).pending = s.pending := rfl
@[simp] theorem State.respond_mem (c i t : Nat) (x : Option Nat) : (s.respond c i t x).mem = s.mem := rfl
@[simp] theorem State.respond_phase (c i t : Nat) (x : Option Nat) : (s.respond c i t x).phase = s.phase := rfl
@[simp] theorem State.respond_loadOpen (c i t : Nat) (x : Option Nat) : (s.respond c i t x).loadOpen = s.loadOpen := rfl
@[simp] theorem State.respond_warm (c i t : Nat) (x : Option Nat) : (s.respond c i t x).warm = s.warm := rfl
@[simp] theorem State.respond_scanAsked (c i t : Nat) (x : Option Nat) : (s.respond c i t x).scanAsked = s.scanAsked := rfl
@[simp] theorem State.respond_present (c i t : Nat) (x : Option Nat) : (s.respond c i t x).present = s.present := rfl
@[simp] theorem State.respond_grade (c i t : Nat) (x : Option Nat) : (s.respond c i t x).grade = s.grade := rfl
@[simp] theorem State.respond_hg (c i t : Nat) (x : Option Nat) : (s.respond c i t x).hg = s.hg := rfl
@[simp] theorem State.respond_stw (c i t : Nat) (x : Option Nat) : (s.respond c i t x).stw = s.stw := rfl
@[simp] theorem State.respond_tr (c i t : Nat) (x : Option Nat) : (s.respond c i t x).tr = s.tr := rfl
@[simp] theorem State.respond_arrs (c i t : Nat) (x : Option Nat) : (s.respond c i t x).arrs = s.arrs := rfl
@[simp] theorem State.respond_evt (c i t : Nat) (x : Option Nat) : (s.respond c i t x).evt = s.evt := rfl
@[simp] theorem State.respond_tm (c i t : Nat) (x : Option Nat) : (s.respond c i t x).tm = s.tm := rfl
@[simp] theorem State.respond_cut (c i t : Nat) (x : Option Nat) : (s.respond c i t x).cut = s.cut := rfl
@[simp] theorem State.respond_hall (c i t : Nat) (x : Option Nat) : (s.respond c i t x).hall = s.hall := rfl
@[simp] theorem State.respond_pwr (c i t : Nat) (x : Option Nat) : (s.respond c i t x).pwr = s.pwr := rfl
@[simp] theorem State.respond_gov (c i t : Nat) (x : Option Nat) : (s.respond c i t x).gov = s.gov := rfl
@[simp] theorem State.respond_st (c i t : Nat) (x : Option Nat) : (s.respond c i t x).st = s.st := rfl
@[simp] theorem State.respond_pen (c i t : Nat) (x : Option Nat) : (s.respond c i t x).pen = s.pen := rfl
@[simp] theorem State.respond_ports (c i t : Nat) (x : Option Nat) : (s.respond c i t x).ports = s.ports := rfl
@[simp] theorem State.respond_key (c i t : Nat) (x : Option Nat) : (s.respond c i t x).key = s.key := rfl
@[simp] theorem State.respond_rem (c i t : Nat) (x : Option Nat) : (s.respond c i t x).rem = s.rem := rfl
@[simp] theorem State.respond_snap (c i t : Nat) (x : Option Nat) : (s.respond c i t x).snap = s.snap := rfl
@[simp] theorem State.respond_obs (c i t : Nat) (x : Option Nat) : (s.respond c i t x).obs = s.obs := rfl
@[simp] theorem State.respond_svc (c i t : Nat) (x : Option Nat) : (s.respond c i t x).svc = s.svc := rfl
@[simp] theorem State.respond_free (c i t : Nat) (x : Option Nat) : (s.respond c i t x).free = s.free := rfl
@[simp] theorem State.respond_out_mgmt (c i t : Nat) (x : Option Nat) : (s.respond c i t x).out.mgmt = s.out.mgmt := rfl
@[simp] theorem State.respond_out_links (c i t : Nat) (x : Option Nat) : (s.respond c i t x).out.links = s.out.links := rfl
@[simp] theorem State.respond_out_fused (c i t : Nat) (x : Option Nat) : (s.respond c i t x).out.fused = s.out.fused := rfl

end Sys2Proof.Machine
end

