-- ==== Sys2Proof/Laws/Ops.lean ====
section
/-! SUPPORT. What the shared operations can do, each said once: an operation answers its state with a few fields
replaced, and keeps the form of memory. -/
namespace Sys2Proof.Machine
open Sys2Proof.Claims

-- Memory alone.

/-- `t` is `s` with other bytes, in canonical form where those of `s` were. -/
def State.Writes (s t : State) : Prop :=
  ∃ m, t = { s with mem := m } ∧ (Memory.wf s.mem = true → Memory.wf m = true)

theorem State.Writes.refl (s : State) : s.Writes s := ⟨s.mem, rfl, id⟩

theorem State.Writes.trans {s t u : State} (h : s.Writes t) (k : t.Writes u) : s.Writes u := by
  obtain ⟨m, rfl, hm⟩ := h
  obtain ⟨m', rfl, hm'⟩ := k
  exact ⟨m', rfl, fun h => hm' (hm h)⟩

theorem State.Writes.foldl {α : Type} {f : State → α → State} (hf : ∀ (s : State) a, s.Writes (f s a)) (l : List α) (s : State) :
    s.Writes (l.foldl f s) := by
  induction l generalizing s with
  | nil => exact .refl s
  | cons a l ih => exact (hf s a).trans (ih _)

theorem State.wrN_writes (s : State) (h n v : Nat) : s.Writes (s.wrN h n v) :=
  ⟨_, rfl, fun hm => Memory.wf_setN hm _ _ _⟩

theorem State.setDep_writes (s : State) (i : Fin 16) (n w : Nat) : s.Writes (s.setDep i n w) := s.wrN_writes _ _ _

theorem State.setWait_writes (s : State) (i : Fin 16) (n st wait waux wpeer : Nat) :
    s.Writes (s.setWait i n st wait waux wpeer) := s.wrN_writes _ _ _

-- Reading. What a read of memory depends on.

theorem State.rdN_congr {s t : State} (hm : t.mem = s.mem) (hh : t.hall = s.hall) (hr : t.rem = s.rem) (a n : Nat) :
    t.rdN a n = s.rdN a n := by
  induction n generalizing a with
  | zero => rfl
  | succ n ih => simp only [State.rdN, State.byteAt, hm, hh, hr, ih]

/-- Only the bytes read matter. -/
theorem State.rdN_agree {s t : State} (hh : t.hall = s.hall) {a n : Nat}
    (hr : ∀ k, k < n → Mem.get t.rem.data (a + k) = Mem.get s.rem.data (a + k))
    (hm : ∀ k, k < n → Mem.get t.mem (hallLoc (a + k)) = Mem.get s.mem (hallLoc (a + k))) : t.rdN a n = s.rdN a n := by
  induction n generalizing a with
  | zero => rfl
  | succ n ih =>
    have h0 : Mem.get t.mem (hallLoc a) = Mem.get s.mem (hallLoc a) := hm 0 (Nat.succ_pos n)
    have r0 : Mem.get t.rem.data a = Mem.get s.rem.data a := hr 0 (Nat.succ_pos n)
    have hs : ∀ k, k < n → Mem.get t.mem (hallLoc (a + 1 + k)) = Mem.get s.mem (hallLoc (a + 1 + k)) := by
      intro k hk
      have := hm (k + 1) (Nat.succ_lt_succ hk)
      rwa [show a + (k + 1) = a + 1 + k by omega] at this
    have rs : ∀ k, k < n → Mem.get t.rem.data (a + 1 + k) = Mem.get s.rem.data (a + 1 + k) := by
      intro k hk
      have := hr (k + 1) (Nat.succ_lt_succ hk)
      rwa [show a + (k + 1) = a + 1 + k by omega] at this
    simp only [State.rdN, State.byteAt, hh, r0, h0, ih rs hs]

/-- A record of an unsharded tensor lies where its allocation's entry says (R327 to R330). -/
theorem State.recPlace_agree {s t : State} {i : Fin 16} {d : Tensor} (hg : t.hg = s.hg) (hh : t.hall = s.hall)
    (h1 : d.localCopy = false) (h2 : d.smap = 0xFFFF) {a : Nat}
    (ha : (s.slot i).hdr.allocBase + 16 * d.alloc = a)
    (hr : ∀ k, k < 16 → Mem.get t.rem.data (a + k) = Mem.get s.rem.data (a + k))
    (hm : ∀ k, k < 16 → Mem.get t.mem (hallLoc (a + k)) = Mem.get s.mem (hallLoc (a + k))) (c : List Nat) :
    t.recPlace i d c = s.recPlace i d c := by
  have hs : t.slot i = s.slot i := congrArg (fun h : Headgate => h.slots[i]) hg
  have he : t.allocOf i d = s.allocOf i d := by
    unfold State.allocOf
    rw [hs, ha]
    exact State.rdN_agree hh hr hm
  have ho : t.owner i d c = s.owner i d c := by
    simp only [State.owner, ownerVia, h1, h2, if_true, Bool.false_eq_true, if_false]
  unfold State.recPlace
  rw [ho, he]

/-- An element of an unsharded tensor lies where its allocation's entry says (R327 to R330). -/
theorem State.place_agree {s t : State} {i : Fin 16} {d : Tensor} (hs : t.slot i = s.slot i) (hh : t.hall = s.hall)
    (h1 : d.localCopy = false) (h2 : d.smap = 0xFFFF) {a : Nat}
    (ha : (s.slot i).hdr.allocBase + 16 * d.alloc = a)
    (hr : ∀ k, k < 16 → Mem.get t.rem.data (a + k) = Mem.get s.rem.data (a + k))
    (hm : ∀ k, k < 16 → Mem.get t.mem (hallLoc (a + k)) = Mem.get s.mem (hallLoc (a + k))) (f : EFmt) (c : List Nat) :
    t.place i d f c = s.place i d f c := by
  have he : t.allocOf i d = s.allocOf i d := by
    unfold State.allocOf
    rw [hs, ha]
    exact State.rdN_agree hh hr hm
  have ho : t.owner i d c = s.owner i d c := by
    simp only [State.owner, ownerVia, h1, h2, if_true, Bool.false_eq_true, if_false]
  have hl : t.rowLen i d c = s.rowLen i d c := by
    simp only [State.rowLen, h1, h2, Bool.false_or, beq_self_eq_true, if_true]
  unfold State.place
  rw [ho, hl, he]

theorem State.taskWord_congr {s t : State} (hm : t.mem = s.mem) (hh : t.hall = s.hall) (hr : t.rem = s.rem) {i : Fin 16}
    (hs : (t.slot i).hdr = (s.slot i).hdr) (n : Nat) : t.taskWord i n = s.taskWord i n := by
  unfold State.taskWord
  rw [hs]
  exact State.rdN_congr hm hh hr _ _

theorem State.depWord_congr {s t : State} (hm : t.mem = s.mem) (hh : t.hall = s.hall) (hr : t.rem = s.rem) {i : Fin 16}
    (hs : (t.slot i).hdr = (s.slot i).hdr) (n : Nat) : t.depWord i n = s.depWord i n := by
  unfold State.depWord
  rw [hs]
  exact State.rdN_congr hm hh hr _ _

-- Traces and events.

/-- `t` is `s` after writes to memory, trace records, events and first reports of a ladder: the live and pending trace
registers and the mask are as they were, and no pending bit is lost. -/
def State.Notes (s t : State) : Prop :=
  ∃ m x e l, t = { s with mem := m, tr := x, evt := e, stw := { s.stw with formatted := l } } ∧
    x.live = s.tr.live ∧ x.pend = s.tr.pend ∧ e.mask = s.evt.mask ∧
    (∀ k, s.evt.pend.getLsbD k = true → e.pend.getLsbD k = true) ∧ (Memory.wf s.mem = true → Memory.wf m = true)

theorem State.Notes.refl (s : State) : s.Notes s := ⟨_, _, _, _, rfl, rfl, rfl, rfl, fun _ h => h, id⟩

theorem State.Notes.trans {s t u : State} (h : s.Notes t) (k : t.Notes u) : s.Notes u := by
  obtain ⟨m, x, e, l, rfl, h1, h2, h3, h4, h5⟩ := h
  obtain ⟨m', x', e', l', rfl, k1, k2, k3, k4, k5⟩ := k
  exact ⟨m', x', e', l', rfl, k1.trans h1, k2.trans h2, k3.trans h3, fun b hb => k4 b (h4 b hb), fun h => k5 (h5 h)⟩

theorem State.Notes.foldl {α : Type} {f : State → α → State} (hf : ∀ (s : State) a, s.Notes (f s a)) (l : List α) (s : State) :
    s.Notes (l.foldl f s) := by
  induction l generalizing s with
  | nil => exact .refl s
  | cons a l ih => exact (hf s a).trans (ih _)

theorem State.Writes.notes {s t : State} (h : s.Writes t) : s.Notes t := by
  obtain ⟨m, rfl, hm⟩ := h
  exact ⟨m, _, _, _, rfl, rfl, rfl, rfl, fun _ h => h, hm⟩

/-- Replacing what the trace holds besides its registers. -/
theorem State.notes_tr (s : State) (x : Trace) (hl : x.live = s.tr.live) (hp : x.pend = s.tr.pend) :
    s.Notes { s with tr := x } := ⟨_, x, _, _, rfl, hl, hp, rfl, fun _ h => h, id⟩

theorem State.putRec_notes (s : State) (r : Nat) : s.Notes (s.putRec r) := by
  unfold State.putRec
  dsimp only
  split
  · exact .refl s
  · exact ⟨_, _, _, _, rfl, rfl, rfl, rfl, fun _ h => h, fun hm => Memory.wf_setN hm _ _ _⟩

/-- All that a trace record can do: bytes of the ring, its indices, windows and counts of lost records. -/
theorem State.trace_notes (s : State) (rs : List Nat) : s.Notes (s.trace rs) := by
  unfold State.trace
  dsimp only
  split
  · exact .refl s
  · generalize hx : (if s.tr.winId = s.tm.tick.toNat / 4000 then s.tr
      else { s.tr with winId := s.tm.tick.toNat / 4000, winCount := 0 } : Trace) = t
    have hl : t.live = s.tr.live := by rw [← hx]; split <;> rfl
    have hp : t.pend = s.tr.pend := by rw [← hx]; split <;> rfl
    generalize (if t.lostSince = 0 then rs else _ :: rs) = all
    split
    · exact s.notes_tr _ hl hp
    · exact (s.notes_tr { t with lostSince := 0 } hl hp).trans (.foldl (fun s a => s.putRec_notes a) _ _)

theorem State.traceInst_notes (s : State) (rtype : Nat) (w : Who) (body : Nat) : s.Notes (s.traceInst rtype w body) := by
  unfold State.traceInst
  split
  · exact s.trace_notes _
  · exact .refl s

/-- All that an event can do besides its record: its pending bit. -/
theorem State.raise_notes (s : State) (e : Ev) (w : Who) (a b c : Nat) : s.Notes (s.raise e w a b c) := by
  have h : s.Notes { s with evt := { s.evt with pend := s.evt.pend ||| BitVec.ofNat 26 (2 ^ e.code) } } := by
    refine ⟨_, _, _, _, rfl, rfl, rfl, rfl, fun k hk => ?_, id⟩
    simp [BitVec.getLsbD_or, hk]
  unfold State.raise
  dsimp only
  split
  · exact h.trans (State.trace_notes _ _)
  · exact h

theorem Ev.code_lt (e : Ev) : e.code < 26 := by cases e <;> decide

/-- The event is pending (R603). -/
theorem State.raise_pend (s : State) (e : Ev) (w : Who) (a b c : Nat) :
    (s.raise e w a b c).evt.pend.getLsbD e.code = true := by
  have h : ((s.evt.pend ||| BitVec.ofNat 26 (2 ^ e.code)).getLsbD e.code) = true := by
    rw [BitVec.getLsbD_or, BitVec.getLsbD_ofNat]
    simp [e.code_lt]
  unfold State.raise
  dsimp only
  split
  · obtain ⟨m, x, e', l, ht, -, -, -, h4, -⟩ := State.trace_notes
      { s with evt := { s.evt with pend := s.evt.pend ||| BitVec.ofNat 26 (2 ^ e.code) } }
      [recHeader 0x03 0 s.stamp w e.code + put 144 32 a + put 176 32 b + put 208 64 c]
    exact (congrArg (fun t : State => t.evt.pend.getLsbD e.code) ht).trans (h4 _ h)
  · exact h

-- Counters.

/-- A counter changes its bank's values alone. -/
theorem State.bump_shape (s : State) (b i n : Nat) : ∃ o, s.bump b i n = { s with obs := o } ∧
    o.rbank = s.obs.rbank ∧ o.ridx = s.obs.ridx ∧ o.hold = s.obs.hold := by
  unfold State.bump
  split
  · exact ⟨_, rfl, rfl, rfl, rfl⟩
  · exact ⟨s.obs, rfl, rfl, rfl, rfl⟩

/-- A count of the service record changes no loaded value. -/
theorem State.svcAdd_shape (s : State) (i n : Nat) : ∃ v, s.svcAdd i n = { s with svc := v } ∧ v.load = s.svc.load ∧
    v.sel = s.svc.sel ∧ v.loaded = s.svc.loaded ∧ v.count.length = s.svc.count.length := by
  refine ⟨_, rfl, rfl, rfl, rfl, ?_⟩
  simp

-- The links.

/-- `t` is `s` after sending: the ports, the link counters, the requests and what went out on the links may differ. -/
def State.Sends (s t : State) : Prop :=
  ∃ (q : Vector Port 6) (o : Observe) (r : Remote) (l : List Sent),
    t = { s with ports := q, obs := o, rem := r, out := { s.out with links := l } }

theorem State.Sends.refl (s : State) : s.Sends s := ⟨_, _, _, _, rfl⟩

theorem State.Sends.trans {s t u : State} (h : s.Sends t) (k : t.Sends u) : s.Sends u := by
  obtain ⟨q, o, r, l, rfl⟩ := h
  obtain ⟨q', o', r', l', rfl⟩ := k
  exact ⟨q', o', r', l', rfl⟩

/-- Replacing what the engine keeps of its requests. -/
theorem State.sends_rem (s : State) (r : Remote) : s.Sends { s with rem := r } := ⟨_, _, _, _, rfl⟩

/-- A sluice flit changes its port's count, a counter and the links. -/
theorem State.sluiceOn_shape (s : State) (p : Fin 6) (m : Sluice) : ∃ (q : Vector Port 6) (o : Observe) (l : List Sent),
    s.sluiceOn p m = { s with ports := q, obs := o, out := { s.out with links := l } } := by
  unfold State.sluiceOn
  dsimp only
  split
  · unfold State.putSluice
    dsimp only
    obtain ⟨o, ho, -⟩ := (s.setPort p ((s.port p).took (.inr m) s.stamp)).bump_shape (9 + p.val) 5 1
    rw [ho]
    exact ⟨_, _, _, rfl⟩
  · exact ⟨s.ports, s.obs, s.out.links, rfl⟩

theorem State.sluiceOn_sends (s : State) (p : Fin 6) (m : Sluice) : s.Sends (s.sluiceOn p m) := by
  obtain ⟨q, o, l, h⟩ := s.sluiceOn_shape p m
  exact ⟨q, o, s.rem, l, h⟩

theorem State.freeQueue_sends (s : State) (came : Option (Fin 6 × Fin 4)) : s.Sends (s.freeQueue came) := by
  unfold State.freeQueue
  split
  · exact s.sluiceOn_sends _ _
  · exact .refl s

/-- A data flit given to a port goes out or waits there, and no more (R449). -/
theorem State.transmit_sends (s : State) (p : Fin 6) (f : Flit) (came : Option (Fin 6 × Fin 4))
    (via : Option (Fin 6 × Bool)) (wake : Bool) : s.Sends (s.transmit p f came via wake) := by
  unfold State.transmit
  dsimp only
  split
  · refine .trans ?_ (State.freeQueue_sends _ came)
    obtain ⟨o, ho, -⟩ := State.bump_shape (s.setPort p _) (9 + p.val) 3 1
    rw [ho]
    exact ⟨_, _, _, _, rfl⟩
  · split
    · exact .trans ⟨_, _, _, _, rfl⟩ (State.sluiceOn_sends _ _ _)
    · exact ⟨_, _, _, _, rfl⟩

theorem State.launch_sends (s : State) (f : Flit) (wake : Bool) : s.Sends (s.launch f wake).1 := by
  unfold State.launch
  split
  · exact s.transmit_sends _ _ _ _ _
  · exact .refl s

/-- A request that no instruction of a graph made shows in no dependence word while it is held. -/
theorem State.hold_sends (s : State) (q : Req) (h : 0x100000 ≤ q.node ∧ q.node < pastNode) : s.Sends (s.hold q) := by
  unfold State.hold State.showHeld
  rw [if_pos h]
  exact s.sends_rem _

/-- A store or accumulate-write of the engine's own that is sent, or held (R469, R470). -/
theorem State.sendWrite_sends (s : State) (i : Fin 16) (n : Nat) (f : Flit) (h : 0x100000 ≤ n ∧ n < pastNode) :
    s.Sends (s.sendWrite i n f) := by
  unfold State.sendWrite
  split
  · exact s.hold_sends _ h
  · dsimp only
    split
    · exact .trans ⟨_, _, _, _, rfl⟩ (State.launch_sends _ _ _)
    · exact .trans (.trans ⟨_, _, _, _, rfl⟩ (State.launch_sends _ _ _)) (State.hold_sends _ _ h)

/-- Where no linked port has used up its counter values, nothing goes DOWN for that (R463). -/
theorem State.sweep_of_counting {s : State} (h : ∀ p, (s.port p).linked = true → (s.port p).exhausted = false) :
    s.sweep = s := by
  have one : ∀ p, s.downExhausted p = s := by
    intro p
    unfold State.downExhausted
    have k := h p
    unfold Port.linked at k
    cases hl : ((s.port p).st.usable || (s.port p).st == .trained)
    · simp [hl]
    · simp [hl, k hl]
  unfold State.sweep
  generalize allPorts = l
  induction l with
  | nil => rfl
  | cons p l ih => rw [List.foldl_cons, one]; exact ih

theorem State.follow_sends (s : State) (a : Nat) (l : List Byte) : s.Sends (s.follow a l) := s.sends_rem _

-- Dispatch.

theorem State.ladderFormat_notes (s : State) (l : Nat) : s.Notes (s.ladderFormat l) := by
  unfold State.ladderFormat
  dsimp only
  split
  · exact .refl s
  · obtain ⟨m, x, e, f, ht, h1, h2, h3, h4, h5⟩ := s.raise_notes .format { unit := 8, layer := l } l 0 0
    rw [ht]
    exact ⟨m, x, e, _, rfl, h1, h2, h3, h4, h5⟩

/-- `t` is `s` as the initialisation of steered layers leaves it: writes, trace records, a ladder's event, and sending. -/
def State.Readies (s t : State) : Prop :=
  ∃ u, s.Notes u ∧ u.Sends t

theorem State.Readies.refl (s : State) : s.Readies s := ⟨s, .refl s, .refl s⟩

theorem State.Readies.trans {s t u : State} (h : s.Readies t) (k : t.Readies u) : s.Readies u := by
  obtain ⟨v, ⟨m, x, e, l, rfl, h1, h2, h3, h4, h5⟩, q, o, r, b, rfl⟩ := h
  obtain ⟨v, ⟨m', x', e', l', rfl, k1, k2, k3, k4, k5⟩, q', o', r', b', rfl⟩ := k
  exact ⟨{ s with mem := m', tr := x', evt := e', stw := { s.stw with formatted := l' } },
    ⟨m', x', e', l', rfl, k1.trans h1, k2.trans h2, k3.trans h3, fun b hb => k4 b (h4 b hb), fun h => k5 (h5 h)⟩,
    q', o', r', b', rfl⟩

theorem State.Notes.readies {s t : State} (h : s.Notes t) : s.Readies t := ⟨t, h, .refl t⟩

theorem State.Sends.readies {s t : State} (h : s.Sends t) : s.Readies t := ⟨s, .refl s, h⟩

/-- The tick and the step number do not change with it. -/
theorem State.Readies.stamps {s t : State} (h : s.Readies t) : t.tm.tick = s.tm.tick ∧ t.hg.stepNo = s.hg.stepNo := by
  obtain ⟨u, ⟨m, x, e, l, rfl, -⟩, q, o, r, b, rfl⟩ := h
  exact ⟨rfl, rfl⟩

theorem State.initLayer_readies (s : State) (l : Nat) : s.Readies (s.initLayer l) := by
  unfold State.initLayer
  dsimp only
  split
  · exact .refl s
  · split
    · exact ((s.ladderFormat_notes l).trans ((State.wrN_writes _ _ _ _).trans
        ((State.wrN_writes _ _ _ _).trans (State.wrN_writes _ _ _ _))).notes).readies
    · exact ((s.follow_sends _ _).trans (State.sendWrite_sends _ _ _ _ (by decide))).readies

/-- Initialising steered tensors writes the table, here or on the acting manager, and may report a ladder (R242, R251). -/
theorem State.initFor_readies (s : State) (i : Fin 16) (ts : List Tensor) : s.Readies (s.initFor i ts) := by
  unfold State.initFor
  induction ts generalizing s with
  | nil => exact .refl s
  | cons t ts ih =>
    refine .trans ?_ (ih _)
    dsimp only
    split
    · exact s.initLayer_readies _
    · exact .refl s

/-- A node that nothing holds back goes on at once (R429). -/
theorem State.attempt_of_dispatchable {s : State} {i : Fin 16} {n opc : Nat} {onCore : Bool} {go : State → State}
    (h : Dispatchable s i n opc onCore) : s.attempt i n opc go = go s := by
  obtain ⟨h1, h2, h3, h4, h5, h6, -⟩ := h
  unfold State.attempt
  simp [h1, h2, h3, h4, h5, h6]

/-- Where the cores that it takes are awake, an instruction goes (R560). -/
theorem State.onAwake_of_dispatchable {s : State} {i : Fin 16} {n opc : Nat} {onCore : Bool}
    (h : Dispatchable s i n opc onCore) (t : State) : s.onAwake onCore t = t := by
  unfold State.onAwake
  cases onCore
  · simp
  · simp [h.awake rfl]

/-- An instruction of one task word that nothing of its own holds has its effect at its dispatch. -/
theorem State.issue_of_dispatchable {s : State} {i : Fin 16} {n opc : Nat} {core : Fin 8} {onCore : Bool}
    {names : State → Nat → List Tensor} {check : State → Nat → Option Fail} {needs early : State → Nat → List Nat}
    {effect : State → Flight → State} (h : Dispatchable s i n opc onCore)
    (u : Unhindered s i n opc core onCore names check needs early) :
    s.issue i n opc core onCore names check needs effect early
      = effect (entered s i n opc core onCore names) (flightAt s i n opc core onCore names) := by
  obtain ⟨h1, h2, h3, h4, h5, h6⟩ := u
  have hf := (s.initFor_readies i (names s (s.taskWord i n))).stamps
  unfold State.issue
  rw [State.attempt_of_dispatchable h]
  dsimp only
  rw [if_neg (not_not.mpr h1)]
  change (match check (readied s i n names) (s.taskWord i n) with
    | some x => _
    | none => _) = _
  rw [h2]
  dsimp only
  change (if (readied s i n names).unread i n ((readied s i n names).recordReads i (names s (s.taskWord i n))
    (needs (readied s i n names) (s.taskWord i n))) ≠ [] then _ else _) = _
  rw [if_neg (not_not.mpr h3), State.onAwake_of_dispatchable h]
  change (match ((if tagged opc then (readied s i n names).skewOf i n else none).bind
      ((readied s i n names).skewFail i (s.taskWord i n))) with
    | some x => _
    | none => _) = _
  rw [h4]
  dsimp only
  rw [hf.1, hf.2]
  exact if_pos ⟨h5, h6⟩

/-- A node that shows its reason changes its own dependence word alone (R587). -/
theorem State.showReason_writes (s : State) (i : Fin 16) (n : Nat) : s.Writes (s.showReason i n) := by
  unfold State.showReason
  dsimp only
  split
  · split
    · exact .refl s
    · exact s.setWait_writes _ _ _ _ _ _
  · exact .refl s

theorem State.showReason_frame {s : State} (hm : s.MemOk) (i : Fin 16) (n a : Nat)
    (h : a < hallLoc ((s.slot i).hdr.depAddr n) ∨ hallLoc ((s.slot i).hdr.depAddr n) + 8 ≤ a) :
    Mem.get (s.showReason i n).mem a = Mem.get s.mem a := by
  unfold State.showReason
  dsimp only
  split
  · split
    · rfl
    · exact Mem.get_setN_other hm _ h
  · rfl

/-- Dependence words of the slots in RUN or SAVED may change, and nothing else (R587). -/
theorem State.showReasons_writes (s : State) : s.Writes s.showReasons := by
  unfold State.showReasons
  refine State.Writes.foldl (fun s i => ?_) _ _
  split
  · exact State.Writes.foldl (fun s n => s.showReason_writes i n) _ _
  · exact .refl s

/-- One fold over nodes or slots keeps what each of its steps keeps, as long as only memory changes. -/
theorem State.Writes.keeps {α : Type} {f : State → α → State} {a : Nat} {ok : State → α → Prop}
    (hf : ∀ (s : State) x, s.Writes (f s x))
    (hk : ∀ (s : State) x, s.MemOk → ok s x → Mem.get (f s x).mem a = Mem.get s.mem a)
    (hc : ∀ (s t : State) x, s.Writes t → ok s x → ok t x) (l : List α) :
    ∀ s : State, s.MemOk → (∀ x ∈ l, ok s x) → Mem.get (l.foldl f s).mem a = Mem.get s.mem a := by
  induction l with
  | nil => intro s _ _; rfl
  | cons x l ih =>
    intro s hm ho
    have hw := hf s x
    rw [List.foldl_cons, ih (f s x) ?_ fun y hy => hc s _ y hw (ho y (List.mem_cons_of_mem _ hy)),
      hk s x hm (ho x List.mem_cons_self)]
    obtain ⟨m, e, k⟩ := hw
    rw [e]; exact k hm

theorem State.showReasons_frame {s : State} (hm : s.MemOk) {a : Nat}
    (h : ∀ j m, s.shown j = true → m < (s.slot j).hdr.twCount →
      a < hallLoc ((s.slot j).hdr.depAddr m) ∨ hallLoc ((s.slot j).hdr.depAddr m) + 8 ≤ a) :
    Mem.get s.showReasons.mem a = Mem.get s.mem a := by
  unfold State.showReasons
  refine State.Writes.keeps (ok := fun s i => s.shown i = true → ∀ m, m < (s.slot i).hdr.twCount →
      a < hallLoc ((s.slot i).hdr.depAddr m) ∨ hallLoc ((s.slot i).hdr.depAddr m) + 8 ≤ a)
    (fun s i => ?_) (fun s i hm ho => ?_) (fun s t i hw ho => ?_) _ s hm fun i _ hi m hn => h i m hi hn
  · split
    · exact State.Writes.foldl (fun s n => s.showReason_writes i n) _ _
    · exact .refl s
  · split
    · rename_i hs
      refine State.Writes.keeps (ok := fun s m =>
          a < hallLoc ((s.slot i).hdr.depAddr m) ∨ hallLoc ((s.slot i).hdr.depAddr m) + 8 ≤ a)
        (fun s n => s.showReason_writes i n) (fun s n hm => State.showReason_frame hm i n a)
        (fun s t n hw hn => ?_) _ s hm fun m hl => ho hs m (List.mem_range.mp hl)
      obtain ⟨m, e, _⟩ := hw
      rw [e]; exact hn
    · rfl
  · obtain ⟨m, e, _⟩ := hw
    rw [e]; exact ho

/-- A dispatch that went takes a turn, and dependence words follow it; nothing else changes (R430, R587). -/
theorem State.tookTurn_shape (s t : State) (i : Fin 16) (n : Nat) :
    ∃ l m, s.tookTurn t i n = { t with hg := { t.hg with turn := l }, mem := m } ∧ (t.MemOk → Memory.wf m = true) := by
  unfold State.tookTurn
  split
  · obtain ⟨m, e, k⟩ := State.showReasons_writes { t with hg := { t.hg with turn := s.nextTurn s.hg.turn i } }
    exact ⟨_, m, e, k⟩
  · exact ⟨_, t.mem, rfl, id⟩

/-- A slot that has its turn attempts its dispatch (R430). -/
theorem State.inTurn_of_turn {s : State} {i : Fin 16} {n opc : Nat} {go : State → State} (h : s.yields i = false)
    (hc : ∀ p, (s.port p).linked = true → (s.port p).exhausted = false) :
    s.inTurn i n opc go = s.tookTurn (go s) i n := by
  unfold State.inTurn
  rw [State.sweep_of_counting hc]
  simp [h]

/-- The state of a dependence word stands in its second byte (R416). -/
theorem State.depSt_depWord (s : State) (i : Fin 16) (n : Nat) :
    depSt (s.depWord i n) = (s.byteAt ((s.slot i).hdr.depAddr n + 1)).toNat / 16 % 8 := by
  unfold State.depWord depSt fld
  have h0 := (s.byteAt ((s.slot i).hdr.depAddr n)).isLt
  have h1 := (s.byteAt ((s.slot i).hdr.depAddr n + 1)).isLt
  simp only [State.rdN, Nat.shiftRight_eq_div_pow]
  generalize (s.byteAt ((s.slot i).hdr.depAddr n)).toNat = x at h0
  generalize (s.byteAt ((s.slot i).hdr.depAddr n + 1)).toNat = y at h1
  omega

/-- A ready node that shows why it waits stays ready (R587). -/
theorem State.readyIn_setWait {s : State} (hm : s.MemOk) (i : Fin 16) (n wait waux wpeer : Nat)
    (h : s.readyIn i n = true) : (s.setWait i n 1 wait waux wpeer).readyIn i n = true := by
  unfold State.readyIn at h ⊢
  simp only [Bool.and_eq_true, beq_iff_eq] at h ⊢
  refine ⟨h.1, ?_⟩
  have h2 := h.2
  rw [State.depSt_depWord] at h2 ⊢
  generalize hv : mkDep (depRem (s.depWord i n)) 1 wait waux wpeer = v
  have e : s.setWait i n 1 wait waux wpeer
      = { s with mem := Mem.setN s.mem (hallLoc ((s.slot i).hdr.depAddr n)) 8 v } := by rw [← hv]; rfl
  rw [e]
  generalize hd : (s.slot i).hdr.depAddr n = a at h2 ⊢
  change (State.byteAt _ (State.slot s i |>.hdr.depAddr n |> (· + 1))).toNat / 16 % 8 = 1
  dsimp only
  rw [hd]
  unfold State.byteAt at h2 ⊢
  dsimp only at h2 ⊢
  split
  · rename_i hl
    rw [if_pos hl] at h2
    by_cases hw : hallLoc (a + 1) = hallLoc a + 1
    · rw [hw]
      unfold Mem.setN
      unfold Mem.setN
      rw [Mem.get_setN_other (Memory.wf_set (Memory.wf_set hm _ _) _ _) _ (by omega),
        Mem.get_set_same (Memory.wf_set hm _ _), BitVec.toNat_ofNat, ← hv]
      unfold mkDep put
      simp only [Nat.shiftLeft_eq]
      omega
    · have hz : hallLoc (a + 1) < hallLoc a ∨ hallLoc a + 8 ≤ hallLoc (a + 1) := by
        simp only [hallLoc, fld, Nat.shiftRight_zero] at hw ⊢
        omega
      rw [Mem.get_setN_other hm v hz]
      exact h2
  · rename_i hl
    rw [if_neg hl] at h2
    exact h2

/-- A node that shows why it waits takes no turn (R430, R587). -/
theorem State.tookTurn_setWait {s : State} (hm : s.MemOk) (i : Fin 16) (n wait waux wpeer : Nat) :
    s.tookTurn (s.setWait i n 1 wait waux wpeer) i n = s.setWait i n 1 wait waux wpeer := by
  unfold State.tookTurn State.went
  by_cases h : s.readyIn i n = true
  · rw [State.readyIn_setWait hm i n wait waux wpeer h]
    simp
  · simp [h]

/-- Entering a dispatch: the power state of a core's instruction, the flight, dependence words, trace records and the slot's
progress. -/
theorem State.enter_shape (s : State) (f : Flight) (nodes : List Nat) (body : Nat) :
    let z := if f.onCore then s.busy else s
    ∃ t : State, (z.addFlight { f with dstamp := z.tm.tick, stepNo := z.hg.stepNo }).Notes t ∧
      s.enter f nodes body = t.setSlot f.slot { t.slot f.slot with lastProg := t.tm.tick, hung := false } := by
  intro z
  refine ⟨_, State.Notes.trans (State.Writes.foldl (fun s n => s.setDep_writes f.slot n _) nodes _).notes
    (State.Notes.foldl (fun s n => ?_) nodes _), rfl⟩
  dsimp only
  split
  · exact s.traceInst_notes _ _ _
  · exact .refl s

end Sys2Proof.Machine
end

