-- ==== Sys2Proof/Tests/Slice0.lean ====
section
/-! SUPPORT. Small tests and witnesses, each a named theorem closed by evaluation. A theorem `witness_<Name>` gives,
for the statement of that name, states and operands that meet the hypotheses of its clauses, with what the command
leaves there; expected values are worked out by hand from the rules cited. -/
namespace Sys2Proof.Tests
open Sys2Proof Sys2Proof.Machine Sys2Proof.Claims

-- Each theorem is checked before the next begins: many evaluations at once would not fit into memory.
set_option Elab.async false

-- Small states.

/-- The state a command leads to. -/
def after (c : Instr) (s : State) : State :=
  match exec c s with
  | .next t => t
  | _ => s

/-- A ready engine of one node, alone and locked. -/
def ready : State :=
  { State.reset with
    phase := .ready, tm := { tick := 1000, lock := true, root := true, hops := 0, joining := false }
    hall := { live := [0], cont := true } }

/-- Node 0 of a torus of two, with the acting manager at node 1 across port 0. -/
def pair : State :=
  { (ready.setPort 0 { st := .up }).setPort 1 { st := .up } with
    hall := {
      live := [0, 1], cont := true, xdim := 2, mgr := 1, actMgr := 1
      portSts := [((0, 0), .up), ((0, 1), .up), ((1, 0), .up), ((1, 1), .up)] } }

/-- A descriptor of a tensor of one or two dimensions in allocation 0, whole on node 0, that names no side tensor
(R321). -/
def desc (ix off fmt kind n0 n1 use : Nat) : Nat :=
  put 0 48 off + put 60 4 fmt + put 64 3 (if n1 = 0 then 1 else 2) + put 68 2 use + put 93 2 kind + put 128 16 0xFFFF
    + put 144 16 ix + put 160 16 ix + put 176 16 ix + put 192 16 ix + put 208 16 ix
    + put 224 20 n0 + put 244 20 n1 + put 344 24 1 + put 368 28 1

/-- The bytes of `v` from `a` on that are not zero. -/
def bytesAt (a n v : Nat) : Memory :=
  (List.range n).filterMap fun k => if v / 256 ^ k % 256 = 0 then none else some (a + k, BitVec.ofNat 8 (v / 256 ^ k))

/-- Slot 0 in RUN with a graph of three task words of which the first two, `w` and `v`, are ready: task words at 0x1000,
completion records at 0x2000, descriptors `ds` from 0x3000 on, allocation 0 at 0x10000, dependence words at 0x5000, a
stash of 4 KiB at 0x8000; `rest` is the memory above 0x6000. -/
def graph (w v : Nat) (ds : List Nat) (rest : Memory) : State :=
  { ready with
    hg := { ready.hg with
      verBase := 0x7000
      slots := ready.hg.slots.set 0 {
        st := .run
        hdr := {
          twCount := 3, twBase := 0x1000, compBase := 0x2000, descBase := 0x3000, descCount := 8, allocBase := 0x4000
          allocCount := 1, workBase := 0x5000, smapBase := 0x6000, stashBase := 0x8000, stashSize := 4096 } } }
    mem := bytesAt 0x1000 64 w ++ bytesAt 0x1040 64 v
      ++ ds.zipIdx.flatMap (fun d => bytesAt (0x3000 + 64 * d.2) 64 d.1)
      ++ bytesAt 0x4000 16 (put 0 43 0x10000 + put 51 30 16)
      ++ bytesAt 0x5000 16 (mkDep 0 1 0 0 0xFFF + put 64 64 (mkDep 0 1 0 0 0xFFF)) ++ rest }

/-- A task word: opcode, and fields of 16 bits from bit 160 on. -/
def word (opc : Nat) (fs : List Nat) : Nat := fs.zipIdx.foldl (fun a f => a + put (160 + 16 * f.2) 16 f.1) opc

theorem mem_allPorts : ∀ p : Fin 6, p ∈ allPorts := by decide
theorem mem_allSlots : ∀ i : Fin 16, i ∈ allSlots := by decide

/-- Counting, as a test. -/
def counts (s : State) : Bool := allPorts.all fun p => !(s.port p).linked || !(s.port p).exhausted

theorem counting_of {s : State} (h : counts s = true) : Counting s := fun p hl => by
  have k := List.all_eq_true.1 h p (mem_allPorts p)
  simpa [hl] using k

/-- Roomy, as a test. -/
def roomy (s : State) (k : Nat) : Bool := allPorts.all fun p => decide ((s.port p).txCount.toNat + k < 2 ^ 64 - 1)

theorem roomy_of {s : State} {k : Nat} (h : roomy s k = true) : Roomy s k := fun p => by
  simpa using List.all_eq_true.1 h p (mem_allPorts p)

theorem shownAt_none {s : State} (h : s.hg.flight = []) (a : Nat) : ¬ShownAt s a := by
  rintro ⟨f, hf, -⟩
  rw [h] at hf
  cases hf

theorem showsNoHold_none {s : State} (h : s.hg.flight = []) : ShowsNoHold s := by
  intro f hf
  rw [h] at hf
  cases hf

/-- Slot 0 alone is in RUN or SAVED, its three dependence words at 0x5000. -/
def words (s : State) : Bool :=
  let h := (s.slot 0).hdr
  (allSlots.all fun i => i == 0 || !s.shown i) && h.twCount == 3
    && (List.range 3).all fun m => hallLoc (h.depAddr m) == 0x5000 + 8 * m

/-- The words of the other nodes lie from 0x5008 on. -/
theorem reasonAt_words {s : State} (h : words s = true) {a : Nat} (r : ReasonAt s (some (0, 0)) a) :
    0x5008 ≤ a ∧ a < 0x5018 := by
  simp only [words, Bool.and_eq_true, beq_iff_eq] at h
  obtain ⟨⟨h1, h2⟩, h3⟩ := h
  obtain ⟨i, m, hs, hm, hw, hl, hu⟩ := r
  have hi : i = 0 := by
    have := List.all_eq_true.1 h1 i (mem_allSlots i)
    simpa [hs] using this
  subst hi
  rw [h2] at hm
  have h4 := List.all_eq_true.1 h3 m (List.mem_range.2 hm)
  rw [beq_iff_eq] at h4
  have : m ≠ 0 := fun h => hw (by rw [h])
  omega

/-- The words of instructions in flight, those of node 0 alone. -/
def flights (s : State) : Bool :=
  s.hg.flight.all fun f => f.slot == 0 && f.node == 0 && f.results.all fun r => r.node == 0

theorem shownAt_flights {s : State} (h : flights s = true) (hw : words s = true) {a : Nat} (r : ShownAt s a) :
    0x5000 ≤ a ∧ a < 0x5008 := by
  simp only [words, Bool.and_eq_true] at hw
  have h0 := List.all_eq_true.1 hw.2 0 (by simp)
  rw [beq_iff_eq] at h0
  obtain ⟨f, hf, m, hm, hl, hu⟩ := r
  have hx := List.all_eq_true.1 h f hf
  simp only [Bool.and_eq_true, beq_iff_eq, List.all_eq_true] at hx
  have m0 : m = 0 := by
    rcases hm with hm | ⟨r, hr, hm⟩
    · exact hm.trans hx.1.2
    · exact hm.symm.trans (hx.2 r hr)
  rw [hx.1.1, m0, h0] at hl hu
  omega

/-- A place above the tables: no byte of them is reached by its write. -/
theorem touches_high {s : State} {p : Place} (h1 : 0x10000 ≤ p.addr) (h2 : p.addr + 8 + p.tail < 2 ^ 48) {a : Nat}
    (h : Touches s p a) : 0x10000 ≤ a := by
  have hl : ∀ k, k < 8 → hallLoc (p.addr + k) = p.addr + k := fun k hk => Nat.mod_eq_of_lt (by omega)
  have h0 : hallLoc p.addr = p.addr := hl 0 (by omega)
  rcases h with ⟨-, h, -⟩ | ⟨-, h, -⟩ | ⟨b, hb, -, h, -⟩
  · omega
  · rw [hl 4 (by omega)] at h
    omega
  · rw [hl b (by omega)] at h
    omega

/-- A descriptor that makes its tensor a target without side tensors wherever it stands. -/
def plain (d : Tensor) (f : EFmt) : Bool :=
  !d.isView && !d.steer && d.ownFmt == some f && d.scaleIx == d.ix && d.zpIx == d.ix && d.ovIx == d.ix && !d.carried
    && (match f with
      | .op g => decide (4 < g.bits)
      | _ => true)

theorem plainTarget_of {d : Tensor} {f : EFmt} (h : plain d f = true) (s : State) (i : Fin 16) : PlainTarget s i d f := by
  simp only [plain, Bool.and_eq_true, Bool.not_eq_true', beq_iff_eq] at h
  obtain ⟨⟨⟨⟨⟨⟨⟨h1, h2⟩, h3⟩, h4⟩, h5⟩, h6⟩, h7⟩, h8⟩ := h
  refine ⟨?_, ?_, ?_, ?_, h1, h7, fun g hg => ?_⟩
  · simp [State.fmtOf, h1, h2, h3]
  · simp [State.scaleTensor, State.side, h4]
  · simp [State.zpTensor, State.side, h5]
  · simp [State.side, h6]
  · rw [hg] at h8
    simpa using h8

/-- The conditions of Dispatchable, as a test. -/
def mayGo (s : State) (i : Fin 16) (n opc : Nat) (onCore : Bool) : Bool :=
  s.readyNode i n opc && s.hg.slotEn.getLsbD i.val && !s.flying 0x52 && !s.saving i && (s.slot i).saved == []
    && !s.dispatchStopped && (!onCore || s.coreAwake) && !s.yields i && counts s

theorem dispatchable_of {s : State} {i : Fin 16} {n opc : Nat} {onCore : Bool} (h : mayGo s i n opc onCore = true) :
    Dispatchable s i n opc onCore := by
  simp only [mayGo, Bool.and_eq_true, Bool.not_eq_true', Bool.or_eq_true, beq_iff_eq] at h
  obtain ⟨⟨⟨⟨⟨⟨⟨⟨h1, h2⟩, h3⟩, h4⟩, h5⟩, h6⟩, h7⟩, h8⟩, h9⟩ := h
  exact ⟨h1, h2, h3, h4, h5, h6, fun h => by cases h7 with
    | inl h7 => simp [h] at h7
    | inr h7 => exact h7, h8, counting_of h9⟩

/-- The hypotheses of ActsAtDispatch at a state but for `free`, as a test. -/
def acts (s : State) (i : Fin 16) (n opc : Nat) (core : Fin 8) (onCore : Bool) (ts : State → Nat → List Tensor)
    (check : State → Nat → Option Fail) (needs : State → Nat → List Nat)
    (early : State → Nat → List Nat := noUnits) : Bool :=
  let a := readied s i n ts
  let e := entered s i n opc core onCore ts
  let w := s.taskWord i n
  mayGo s i n opc onCore
    && s.firstUnits i n (ts s w) (early s w) == []
    && (check a w).isNone
    && a.unread i n (a.recordReads i (ts s w) (needs a w)) == []
    && ((if tagged opc then a.skewOf i n else none).bind (a.skewFail i w)).isNone
    && e.missing i n (needs e (s.taskWord i n)) == [] && !e.rowBusy opc core i n

-- Steps.

theorem witness_StepRunsFront :
    Machine.step { ready with pending := [.maskWrite 5, .stopTick] }
      = exec (.maskWrite 5) { ready with pending := [.stopTick] } := rfl

theorem witness_StepKeepsMemory : ready.MemOk ∧ ready.GradeOk
    ∧ Machine.step { ready with pending := [.maskWrite 5] } = .next (after (.maskWrite 5) ready) :=
  ⟨rfl, .inl ⟨rfl, rfl⟩, rfl⟩

/-- No row of the table has bits, so no word spells a command. -/
theorem test_no_words : decodeTableWord 64 5 = none ∧ State.withFetchWord ready 64 5 = ready := by decide +kernel

-- Instructions of a graph. The vector 1, 2, −3, 0.5 in BF16 lies at 0x10000.

def vec : Memory := bytesAt 0x10000 8 0x3F00C04040003F80
def d0 : Nat := desc 0 0 9 0 4 0 1
def d1 : Nat := desc 1 0x100 9 0 4 0 1

def gMaxidx : State := graph (word 0x05 [0, 0, 1] + put 280 20 4) 0 [d0, desc 1 0x100 1 3 1 0 1] vec
/-- VMAX 2.0 at index 1 and VMIN −3.0 at index 2 (R227, R228). -/
theorem witness_maxidx :
    acts gMaxidx 0 0 0x05 0 true (fun s w => (s.tensor 0 (pDA w)).toList) (fun s w => s.maxidxCheck 0 w)
      (fun s w => s.maxidxNeeds 0 w) = true
    ∧ Mem.getN (after (.maxidx 0 0 0) gMaxidx).mem 0x10100 16 = 0x0000000200000001C040000040000000 := by
  decide +kernel

def gQstat : State := graph (word 0x10 [0, 0xFFFF, 1, 0xFFFF]) 0 [d0, desc 1 0x100 0 3 1 0 1] vec
/-- The extremes 2.0 and −3.0 of the one group (R158). -/
theorem witness_qstat :
    acts gQstat 0 0 0x10 0 true (fun s w => (s.tensor 0 (qSrc w)).toList) (fun s w => s.qstatCheck 0 w)
      (fun s w => s.qstatNeeds 0 w) (fun s w => s.indexUnits 0 (s.optional 0 (qOl w)) 16) = true
    ∧ Mem.getN (after (.qstat 0 0 0) gQstat).mem 0x10100 8 = 0xC040000040000000 := by
  decide +kernel

def gQconv : State := graph (word 0x11 [0, 1, 2, 0xFFFF]) 0 [d0, desc 1 0x80 0 3 1 0 1, desc 2 0x100 7 0 4 0 1]
  (vec ++ bytesAt 0x10080 8 0xC040000040000000)
/-- Without a scale tensor the codes of E4M3 are those of the values themselves (R138). -/
theorem witness_qconv :
    acts gQconv 0 0 0x11 0 true
      (fun s w => ((s.qconvSrc w).bind (s.tensor 0)).toList ++ ((s.qconvDst w).bind (s.tensor 0)).toList)
      (fun s w => s.qconvCheck 0 w) (fun s w => s.qconvNeeds 0 w)
      (fun s w => s.indexUnits 0 (((s.qconvDst w).bind (s.tensor 0)).bind fun t => s.side 0 t t.olIx) 16) = true
    ∧ Mem.getN (after (.qconv 0 0 0) gQconv).mem 0x10100 4 = 0x30C44038 := by
  decide +kernel

def gRescale : State := graph (word 0x12 [0, 1, 2, 0xFFFF]) 0
  [desc 0 0 3 0 4 0 1, desc 1 0x80 0 3 1 0 1, desc 2 0x100 3 0 4 0 1]
  (bytesAt 0x10000 4 0x04030201 ++ bytesAt 0x10080 8 0x40800000)
theorem witness_rescale :
    acts gRescale 0 0 0x12 0 true (fun s w => (s.tensor 0 (qSrc w)).toList ++ (s.tensor 0 (qDst w)).toList)
      (fun s w => s.rescaleCheck 0 w) (fun s w => s.rescaleNeeds 0 w) = true := by
  decide +kernel

def gRowrec : State := graph (word 0x22 [0, 0xFFFF, 0xFFFF, 0xFFFF, 0xFFFF, 0xFFFF, 1] + put 272 2 1 + put 288 32 0) 0
  [desc 0 0 9 0 1 0 1, desc 1 0x100 0 3 1 0 1] (bytesAt 0x10000 2 0x4000)
theorem witness_rowrec :
    acts gRowrec 0 0 0x22 0 true
      (fun s w => [s.tensor 0 (rX w), s.optional 0 (rDy w), s.rowOpt 0 w (rGamma w), s.optional 0 (rDx w),
        s.rowOpt 0 w (rDg w), s.rowOpt 0 w (rDb w)].filterMap id)
      (fun s w => s.rowrecCheck 0 w) (fun s w => s.rowrecNeeds 0 w) = true := by
  decide +kernel

def gDeriv : State := graph (word 0x23 [0, 0, 1]) 0 [d0, d1] vec
theorem witness_deriv :
    acts gDeriv 0 0 0x23 0 true (fun s w => [s.tensor 0 (dIn w), s.tensor 0 (dDy w), s.tensor 0 (dDx w)].filterMap id)
      (fun s w => s.derivCheck 0 w) (fun s w => s.derivNeeds 0 w) = true := by
  decide +kernel

def gMove : State := graph (word 0x30 [0, 1]) 0 [d0, d1] vec
/-- MOVE of one format copies the codes (R137, R398). -/
theorem witness_move :
    acts gMove 0 0 0x30 0 false (fun s w => s.moveNames 0 w) (fun s w => s.moveCheck 0 w)
      (fun s w => s.moveNeeds 0 w) = true
    ∧ Mem.getN (after (.move 0 0) gMove).mem 0x10100 16 = 0x3F00C04040003F80 := by
  decide +kernel

def gGather (opc : Nat) : State := graph (word opc [0, 1, 2]) 0 [d0, d1, desc 2 0x80 0 2 4 0 1]
  (vec ++ bytesAt 0x10080 16 0x00000000000000010000000200000003)
/-- GATHER takes the element an index names (R351): 0.5, −3, 2, 1. -/
theorem witness_gather :
    acts (gGather 0x31) 0 0 0x31 0 false (fun s w => s.moveNames 0 w) (fun s w => s.indexCheck 0 w)
      (fun s w => s.moveNeeds 0 w) (fun s w => s.indexEarly 0 w) = true
    ∧ Mem.getN (after (.gather 0 0) (gGather 0x31)).mem 0x10100 8 = 0x3F804000C0403F00 := by
  decide +kernel

/-- SCATTER writes the element an index names (R353). -/
theorem witness_scatter :
    acts (gGather 0x32) 0 0 0x32 0 false (fun s w => s.moveNames 0 w) (fun s w => s.indexCheck 0 w)
      (fun s w => s.moveNeeds 0 w) (fun s w => s.indexEarly 0 w) = true
    ∧ Mem.getN (after (.scatter 0 0) (gGather 0x32)).mem 0x10100 8 = 0x3F804000C0403F00 := by
  decide +kernel

def gPush : State := graph (word 0x20 [0, 0xFFFF]) (word 0x21 [1]) [d0, d1] vec
def gPop : State := after (.instructionRetire 0 0) (after (.push 0 0) gPush)
/-- PUSH and POP in one slot: the entry fits, and comes back into vector 1 (R276, R281, R285). -/
theorem witness_push :
    mayGo gPush 0 0 0x20 false = true ∧ gPush.pushHold 0 0 = none
    ∧ acts gPush 0 0 0x20 0 false (fun s w => s.pushNames 0 w)
      (fun s w => s.pushCheck 0 w) (fun s w => s.pushNeeds 0 w) = true
    ∧ ((after (.push 0 0) gPush).slot 0).stash.pushCount = 1 := by
  decide +kernel

theorem witness_pop :
    mayGo gPop 0 1 0x21 false = true ∧ (gPop.popHold 0 1).isNone = true
    ∧ acts gPop 0 1 0x21 0 false (fun s w => (s.tensor 0 (sDesc w)).toList) (fun s w => s.popCheck 0 w)
      (fun s w => s.popNeeds 0 w) = true
    ∧ Mem.getN (after (.pop 0 1) gPop).mem 0x10100 8 = 0x3F00C04040003F80 := by
  decide +kernel

def gReduce : State := graph (word 0x40 [0, 1, 0xFFFF, 9]) 0 [desc 0 0 11 0 1 0 1, desc 1 0x100 11 0 1 0 2]
  (bytesAt 0x10000 4 0x40400000 ++ bytesAt 0x10100 4 0x3F800000)
/-- An element of this node's own basin: 1.0 + 3.0 (R207, R210). -/
theorem witness_reduce :
    acts gReduce 0 0 0x40 0 false
      (fun s w => (s.tensor 0 (rdSrc w)).toList ++ (s.tensor 0 (rdDst w)).toList
        ++ (if rdSteer w && !rdW64 w then [layerTensor (twLayer w)] else []))
      (fun s w => s.reduceCheck 0 w) (fun s w => s.reduceNeeds 0 w) = true
    ∧ Mem.getN (after (.reduce 0 0) gReduce).mem 0x10100 4 = 0x40800000 := by
  decide +kernel

def gUpdate : State := graph (word 0x41 [2, 3, 0xFFFF, 0xFFFF] + 0x200) 0
  [desc 0 0 9 0 1 0 1, desc 1 0x100 9 0 1 0 1, desc 2 0x40 11 0 1 0 1, desc 3 0x80 1 3 4 0 1]
  (bytesAt 0x7000 64 (put 56 1 1 + put 160 16 1) ++ bytesAt 0x10000 2 0x4000 ++ bytesAt 0x10040 4 0x3F800000
    ++ bytesAt 0x10080 32 (put 0 32 0x3E800000 + put 224 32 0x3F800000))
theorem witness_update :
    acts gUpdate 0 0 0x41 0 false (fun s w => s.updateNames 0 w) (fun s w => s.updateCheck 0 w)
      (fun s w => s.updateNeeds 0 w) = true
    ∧ gUpdate.updateWaits (gUpdate.taskWord 0 0) = false := by
  decide +kernel
/-- w − LR × GS × g with LR 0.25, GS 1, g 1, w 2: 1.75 in the other buffer (R312, R313). -/
theorem test_update : Mem.getN (after (.update 0 0) gUpdate).mem 0x10100 2 = 0x3FE0 := by decide +kernel

def gSnap (opc : Nat) : State := graph (word opc [0]) 0 [desc 0 0 0 2 1 0 1] []
/-- The hypotheses of SNAP's and RESTORE's dispatch. -/
def snaps (opc : Nat) : Bool :=
  acts (gSnap opc) 0 0 opc 0 false
    (fun s w => if s.missing 0 0 (s.listEarly 0 w) = [] then s.listed 0 w else [])
    (fun s w => s.snapDispatch 0 w) noUnits (fun s w => s.listEarly 0 w)
/-- SNAP and RESTORE of an index list of one entry enter Hold (R405, R519, R534). -/
theorem witness_snap : (snaps 0x42 && snaps 0x43) = true ∧ (gSnap 0x42).snap.rb = .idle ∧ (gSnap 0x43).snap.rb = .idle := by
  decide +kernel

def gStep : State := graph 0x52 0 [] []
/-- A lone node's STEP goes to its end at once (R257, R263). -/
theorem witness_step :
    mayGo gStep 0 0 0x52 false = true ∧ (∀ j, (gStep.slot j).st ≠ .saved ∧ gStep.saving j = false)
    ∧ commonForm (gStep.taskWord 0 0) false false = none
    ∧ (after (.step 0 0) gStep).stepFlight.map Flight.phase = some (.waiting 3)
    ∧ (after (.instructionRetire 0 0) (after (.step 0 0) gStep)).hg.stepNo = 1 := by
  decide +kernel

/-- CTXSAVE of slot 1 in RUN and CTXLOAD of it SAVED, with the context area at 0x20000 (R412, R433 to R436). -/
def gCtx (opc : Nat) (st : SlotSt) (base : Nat) : State :=
  let s := graph (opc + put 160 4 1 + put 192 60 0x20000) 0 [] []
  s.setSlot 1 { st := st, saveBase := base, hdr := { twCount := 1 } }
def gSave : State := gCtx 0x53 .run 0
def gLoad : State := gCtx 0x54 .saved 0x20000
theorem witness_ctx :
    mayGo gSave 0 0 0x53 false = true ∧ gSave.ctxFail 0 false (gSave.taskWord 0 0) = none
    ∧ mayGo gLoad 0 0 0x54 false = true ∧ gLoad.ctxFail 0 true (gLoad.taskWord 0 0) = none
    ∧ ((after (.ctxload 0 0 []) gLoad).slot 1).st = .run
    ∧ (after (.instructionRetire 0 0) (after (.ctxsave 0 0 []) gSave)).hg.slots[1].st = .saved := by
  decide +kernel

/-- A product of one element over K = 2 between the INT8 codes 1, 2 and 3, 1: the exact sum is 5. -/
def gProd (opc : Nat) : State :=
  graph (word opc [0, 1, 2, 0xFFFF, 0xFFFF] + put 280 20 2 + put 320 9 1 + put 329 9 1 + put 341 3 1 + put 347 3 1
    + put 353 3 1 + put 356 36 (2 ^ 36 - 1)) 0 [desc 0 0 3 0 2 1 1, desc 1 0x40 3 0 2 1 1, desc 2 0x80 11 0 1 1 1]
    (bytesAt 0x10000 2 0x0201 ++ bytesAt 0x10040 2 0x0103)

/-- The hypotheses of ProductGangsEnterTheirCore at a state whose operands are resident on core 0. -/
def prodReady (s : State) (opc : Nat) : Bool :=
  match s.gangAt 0 0 with
  | none => false
  | some g =>
    let names := g.nodes.flatMap fun m => s.prodNames 0 (s.taskWord 0 m)
    let a := s.initFor 0 names
    let checks := a.gangChecks 0 g
    let live := a.gangLive 0 checks
    mayGo s 0 0 opc true && g.nodes.all (fun m => depSt (s.depWord 0 m) == 1) && g.members == 1
      && (s.coreArrays 0).length == 4 && live == [0]
      && s.gangFirst 0 0 g names == [] && a.gangLate 0 0 live == []
      && ((s.hg.resident.find? fun x => x.slot == 0 && x.node == 0 && x.core == 0 && !x.waits).map (·.skew)) == some none
      && decide (a.storeUsed 0 + sumN (live.map fun m => outRoom (a.taskWord 0 m)) ≤ storeRoom)
      && running (a.buildGang 0 g (s.coreArrays 0) (withSkew g checks none)) != []

/-- Operands resident, gang dispatched, streamed and drained: the output is 5.0 in FP32 (R36, R77, R80, R199). -/
def prodRun (opc : Nat) : State :=
  let s := after (.operandFetch 0 0 0 none) (gProd opc)
  let c : Instr := if opc = 1 then .gdx 0 0 0 [] else if opc = 2 then .gdw 0 0 0 [] else if opc = 3 then .fprod 0 0 0 []
    else .dist 0 0 0 []
  after (.instructionRetire 0 0) (after (.gangStreamStart 0 0 []) (after c s))

theorem witness_fprod : prodReady (after (.operandFetch 0 0 0 none) (gProd 3)) 3 = true := by decide +kernel
theorem test_fprod : Mem.getN (prodRun 3).mem 0x10080 4 = 0x40A00000 := by decide +kernel
theorem witness_gdx : prodReady (after (.operandFetch 0 0 0 none) (gProd 1)) 1 = true := by decide +kernel
theorem test_gdx : Mem.getN (prodRun 1).mem 0x10080 4 = 0x40A00000 := by decide +kernel
theorem witness_gdw : prodReady (after (.operandFetch 0 0 0 none) (gProd 2)) 2 = true := by decide +kernel
theorem test_gdw : Mem.getN (prodRun 2).mem 0x10080 4 = 0x40A00000 := by decide +kernel
theorem witness_dist : prodReady (after (.operandFetch 0 0 0 none) (gProd 4)) 4 = true := by decide +kernel
/-- DIST of DOP 0 sums the absolute differences, 2 and 1 (R90). -/
theorem test_dist : Mem.getN (prodRun 4).mem 0x10080 4 = 0x40400000 := by decide +kernel

/-- The shared stream's first run of 128 with a tag, where 0 is expected. -/
def skewRun (tag : BitVec 8) : State :=
  after (.fprod 0 0 0 []) (after (.operandFetch 0 0 0 (some ⟨none, false, 0, 0, tag⟩)) (gProd 3))
/-- Tag 9 is TAGSKEW (R180, R181). -/
theorem test_tagskew : (skewRun 9).evt.pend = 16 ∧ (skewRun 9).flightOf 0 0 = none := by decide +kernel
/-- The expected tag is no skew (R180). -/
theorem test_tag_expected : (skewRun 0).evt.pend = 0 ∧ ((skewRun 0).flightOf 0 0).isSome = true := by decide +kernel

/-- Slot 1 of higher priority with a ready NOP goes first, and slot 0 shows WAIT 0x01 (R430, R587). -/
theorem test_turn :
    let s := gMove.setSlot 1 { gMove.slot 0 with
      hdr := { (gMove.slot 0).hdr with twBase := 0x20000, workBase := 0x21000, prio := 1, twCount := 1 } }
    let s : State := { s with mem := s.mem ++ bytesAt 0x20000 1 0x5F ++ bytesAt 0x21000 8 (mkDep 0 1 0 0 0xFFF) }
    counts s = true ∧ s.readyNode 0 0 0x30 = true ∧ s.hg.slotEn.getLsbD 0 = true
    ∧ s.yields 1 = false ∧ s.yields 0 = true ∧ fld ((after (.move 0 0) s).depWord 0 0) 15 5 = 1
    ∧ (after (.move 0 0) s).flightOf 0 0 = none ∧ (after (.nop 1 0) s).hg.turn = [1] := by decide +kernel

-- Graph control.

/-- RetiresAlone but for MemOk, and what more is asked of the flight and its result, as a test; the records lie at 0x2000
and 0x5000. -/
def retires (s : State) (more : Flight → Result → Bool) : Bool :=
  match s.flightOf 0 0 with
  | none => false
  | some f =>
    counts s && s.hg.flight == [f] && words s && words (s.dropFlight 0 0) && flights s && (s.dropFlight 0 0).hg.flight == []
      && (match f.results with
        | [r] => r.node == 0 && decide (r.status < 0x10) && more f r
        | _ => false)
      && !s.tr.live.en && (s.slot 0).st == .run && (s.slot 0).retired == 0 && depSt (s.depWord 0 0) == 2
      && !twVen (s.taskWord 0 0) && twScnt (s.taskWord 0 0) == 0 && s.snapFlight.isNone && s.stepFlight.isNone
      && f.opc != 0x40 && (s.hg.resident.all fun r => !r.waits)
      && hallNode ((s.slot 0).hdr.compAddr 0) == s.hall.nid.toNat && hallLoc ((s.slot 0).hdr.compAddr 0) == 0x2000

/-- STATUS 0x01, F_ALIAS clear and both stamps 1000 in the record at 0x2000 (R371, R373). -/
theorem witness_RetirementWritesRecord :
    retires (after (.move 0 0) gMove) (fun f r => f.phase == .effected && f.opc == 0x30 && f.jobs == [] && !f.onCore
      && !f.preempted && r.gather == {} && r.counts == []) = true
    ∧ Mem.getN (after (.instructionRetire 0 0) (after (.move 0 0) gMove)).mem 0x2000 16 = mkCompletion 1000 1000 1 0 0xFFFF := by
  decide +kernel

theorem witness_RetirementMemOk : (after (.move 0 0) gMove).MemOk ∧ gMove.MemOk := by
  show Memory.wf _ = true ∧ Memory.wf _ = true; decide +kernel

/-- A gang of one member that has streamed: its sum 5 goes to one FP32 element at 0x10080, or with ACC add into it. -/
def streamed (acc : Nat) : State :=
  after (.gangStreamStart 0 0 []) (after (.fprod 0 0 0 []) (after (.operandFetch 0 0 0 none) (gProd (3 + 256 * acc))))
def dProd : Tensor := ⟨2, desc 2 0x80 11 0 1 1 1⟩

/-- What RetirementWritesRecord asks of a product gang. -/
def drainsOne (s : State) (f : Flight) : Bool :=
  isProduct f.opc && f.canDrain && !f.parked && s.spillMissing f == [] && !s.stw.live.en
    && (match f.jobs, f.planes with
      | [j], [p] => j.node == 0 && p.spills == [] && !j.lacc && pRstat j.word == 0 && pDC j.word == 2
        && s.tensor 0 2 == some dProd && j.out == .op .fp32 && j.rows.length == 1 && j.cols.length == 1 && p.drained == 0
        && written j.word 0 0 && j.klen == 2
        && (let q := s.place 0 dProd j.out (s.outCoord 0 j.word dProd 0 0)
          q.addr == 0x10080 && q.tail == 0 && hallNode q.addr == s.hall.nid.toNat)
      | _, _ => false)

theorem witness_RetirementDrains :
    retires (streamed 0) (fun f _ => drainsOne (streamed 0) f) = true ∧ Memory.wf (streamed 0).mem = true
    ∧ Mem.getN (after (.instructionRetire 0 0) (streamed 0)).mem 0x10080 4 = 0x40A00000
    ∧ ((streamed 0).slot 0).hdr.allocBase + 16 * dProd.alloc = 0x4000
    ∧ ((streamed 0).slot 0).hdr.twAddr 0 = 0x1000 ∧ ((streamed 0).slot 0).hdr.descBase = 0x3000
    ∧ 2 < ((streamed 0).slot 0).hdr.descCount ∧ (streamed 0).tensor 0 2 = some dProd
    ∧ flights (streamed 0) = true ∧ words (streamed 0) = true := by
  decide +kernel
/-- 5 on the 5 that the first retirement left there (R203). -/
theorem witness_RetirementAdds :
    let s : State := { streamed 1 with mem := (streamed 1).mem ++ bytesAt 0x10080 4 0x40A00000 }
    retires s (fun f _ => drainsOne s f) = true
    ∧ Mem.getN (after (.instructionRetire 0 0) s).mem 0x10080 4 = 0x41200000 := by
  decide +kernel
theorem witness_RetirementDrains_target : plain dProd (.op .fp32) = true ∧ dProd.localCopy = false ∧ dProd.smap = 0xFFFF := by
  decide +kernel

/-- No byte from 0x10000 on places the target or is part of the task word. -/
theorem drains_apart {x : State} (ha : (x.slot 0).hdr.allocBase + 16 * dProd.alloc = 0x4000)
    (ht : (x.slot 0).hdr.twAddr 0 = 0x1000) (hd : (x.slot 0).hdr.descBase = 0x3000) (hc : 2 < (x.slot 0).hdr.descCount)
    (he : x.tensor 0 2 = some dProd) (hf : flights x = true) (hw : words x = true) :
    ∀ u : State, u.hg.slots = x.hg.slots → u.hall = x.hall →
    (∀ a, a < 0x10000 → Mem.get u.rem.data a = Mem.get x.rem.data a) →
    (∀ a, a < 0x10000 → ¬ShownAt x a → Mem.get u.mem a = Mem.get x.mem a) →
    u.tensor 0 2 = some dProd ∧ PlainTarget u 0 dProd (.op .fp32) ∧ u.taskWord 0 0 = x.taskWord 0 0 ∧
      ∀ c, u.place 0 dProd (.op .fp32) c = x.place 0 dProd (.op .fp32) c := by
  obtain ⟨hp, h1, h2⟩ := witness_RetirementDrains_target
  intro u hg hh hr hm
  have hs : u.slot 0 = x.slot 0 := congrArg (fun x : Vector Slot 16 => x[(0 : Fin 16)]) hg
  have low : ∀ a, a < 0x5000 → Mem.get u.mem (hallLoc a) = Mem.get x.mem (hallLoc a) := fun a h => by
    have : hallLoc a = a := Nat.mod_eq_of_lt (by omega)
    rw [this]
    exact hm a (by omega) fun r => by
      have := shownAt_flights hf hw r
      omega
  have rd : ∀ a n, a + n < 0x5000 → u.rdN a n = x.rdN a n := fun a n h =>
    State.rdN_agree hh (fun k hk => hr _ (by omega)) fun k hk => low _ (by omega)
  refine ⟨?_, plainTarget_of hp u 0, ?_, fun c => State.place_agree hs hh h1 h2 ha (fun k hk => hr _ (by omega))
    (fun k hk => low _ (by omega)) _ c⟩
  · rw [← he]
    simp only [State.tensor, State.descAt, hs, hd, if_pos hc, rd (0x3000 + 64 * 2) 64 (by omega)]
  · simp only [State.taskWord, hs, ht, rd 0x1000 64 (by omega)]

theorem witness_RetirementDrains_apart : ∀ u : State, u.hg.slots = (streamed 0).hg.slots → u.hall = (streamed 0).hall →
    (∀ a, a < 0x10000 → Mem.get u.rem.data a = Mem.get (streamed 0).rem.data a) →
    (∀ a, a < 0x10000 → ¬ShownAt (streamed 0) a → Mem.get u.mem a = Mem.get (streamed 0).mem a) →
    u.tensor 0 2 = some dProd ∧ PlainTarget u 0 dProd (.op .fp32) ∧ u.taskWord 0 0 = (streamed 0).taskWord 0 0 ∧
      ∀ c, u.place 0 dProd (.op .fp32) c = (streamed 0).place 0 dProd (.op .fp32) c :=
  let ⟨_, _, _, ha, ht, hd, hc, he, hf, hw⟩ := witness_RetirementDrains
  drains_apart ha ht hd hc he hf hw

def gFence : State := graph (word 0x50 [0]) (word 0x51 [0, 2000]) [] []
theorem witness_FenceEntersFlight :
    mayGo gFence 0 0 0x50 false = true ∧ gFence.tr.live.en = false ∧ words gFence = true
    ∧ gFence.hg.flight = [] ∧ commonForm (gFence.taskWord 0 0) false false = none ∧ fMode (gFence.taskWord 0 0) < 2
    ∧ ((after (.fence 0 0) gFence).flightOf 0 0).map Flight.phase = some .effected := by
  decide +kernel

theorem witness_FenceMemOk : gFence.MemOk := by
  show Memory.wf _ = true; decide +kernel

/-- The hypotheses of NopOnlyRetires but for MemOk, as a test. -/
def nops (s : State) (i : Fin 16) (n : Nat) : Bool :=
  let h := (s.slot i).hdr
  let w := s.taskWord i n
  let dep := hallLoc (h.depAddr n)
  let rec_ := hallLoc (h.compAddr n)
  mayGo s i n 0x5F false && !s.tr.live.en && !twAcc w && !twVen w && twScnt w == 0
    && hallNode (h.compAddr n) == s.hall.nid.toNat && decide ((s.slot i).retired + 1 < h.twCount) && s.hg.flight == []
    && s.hg.resident == [] && words s
    && decide (hallLoc (h.twAddr n) + 64 ≤ dep) && decide (hallLoc (h.twAddr n) + 64 < 2 ^ 48)
    && hallLoc (h.twAddr n + 63) == hallLoc (h.twAddr n) + 63 && decide (rec_ + 16 ≤ dep)

def gNop : State := graph 0x5F (0x5F) [] []
/-- The completion record carries the stamp twice and STATUS 0x01, flags 0, DETAIL 0xFFFF (R371). -/
theorem witness_NopOnlyRetires : nops gNop 0 0 = true
    ∧ Mem.getN (after (.nop 0 0) gNop).mem 0x2000 16 = mkCompletion 1000 1000 1 0 0xFFFF := by decide +kernel

def gStopat (rel : Nat) : State := graph (0x51 + put 160 64 2000 + put 224 1 rel) 0 [] []
/-- T is 2000, or the tick plus 2000 where REL is 1 (R409). -/
theorem witness_StopatSchedulesStop : mayGo (gStopat 0) 0 0 0x51 false = true
    ∧ commonForm ((gStopat 0).taskWord 0 0) false false = none ∧ (gStopat 0).cut.st = .run
    ∧ (after (.stopat 0 0) (gStopat 0)).cut.stopT = 2000 ∧ (after (.stopat 0 0) (gStopat 1)).cut.stopT = 3000
    ∧ (after (.stopat 0 0) { gStopat 0 with cut := { st := .scheduled, stopT := 1500 } }).cut.stopT = 1500 := by
  decide +kernel

/-- A node of a disabled slot, one behind a STEP, and a NOP with VEN set (R379, R587, R600). -/
theorem witness_NodesThatWaitOrFail :
    let off : State := { gMove with hg := { gMove.hg with slotEn := 0 } }
    let held : State := { gMove with hg := { gMove.hg with flight := [{ slot := 1, node := 7, opc := 0x52 }] } }
    let bad := graph (0x5F + 2 ^ 9) 0 [] []
    counts off = true ∧ counts held = true ∧ held.yields 0 = false
    ∧ off.readyNode 0 0 0x30 = true ∧ off.hg.slotEn.getLsbD 0 = false ∧ fld ((after (.move 0 0) off).depWord 0 0) 15 5 = 8
    ∧ held.readyNode 0 0 0x30 = true ∧ held.hg.slotEn.getLsbD 0 = true ∧ held.flying 0x52 = true
    ∧ fld ((after (.move 0 0) held).depWord 0 0) 15 5 = 9
    ∧ mayGo bad 0 0 0x5F false = true ∧ twVen (bad.taskWord 0 0) = true ∧ (after (.nop 0 0) bad).evt.pend = 1 := by
  decide +kernel

/-- FGE_SLOT_EN of 0 disables slot 0; 1 enables it while it is SAVED (R437, R587, R600). -/
theorem witness_NodesThatWaitOrFail_slotEn :
    let saved := gMove.setSlot 0 { gMove.slot 0 with st := .saved }
    gMove.pwr.st = .run ∧ Memory.wf gMove.mem = true ∧ words gMove = true ∧ words saved = true
    ∧ gMove.shown 0 = true ∧ saved.shown 0 = true ∧ depSt (gMove.depWord 0 0) = 1
    ∧ hallNode ((gMove.slot 0).hdr.depAddr 0) = gMove.hall.nid.toNat
    ∧ depWait ((after (.registerWrite 0x110 none 0) gMove).depWord 0 0) = 0x08
    ∧ depWait ((after (.registerWrite 0x110 none 1) saved).depWord 0 0) = 0x09 := by decide +kernel

theorem witness_DataInstructionsFrame : mayGo gMove 0 0 0x30 false = true
    ∧ ((after (.move 0 0) gMove).flightOf 0 0).isSome = true ∧ gMove.hg.flight = [] := by decide +kernel

/-- MAXIDX of `gMaxidx`: where its one record lies, and what lies apart from it. -/
def eMaxidx : State := entered gMaxidx 0 0 0x05 0 true fun s _ => (s.tensor 0 0).toList
def dMaxidx : Tensor := ⟨1, desc 1 0x100 1 3 1 0 1⟩

theorem witness_DataInstructionsFrame_records :
    mayGo gMaxidx 0 0 0x05 true = true ∧ gMaxidx.tr.live.en = false ∧ gMaxidx.stw.live.en = false
    ∧ twScope (gMaxidx.taskWord 0 0) = false ∧ pDA (gMaxidx.taskWord 0 0) = 0 ∧ pDC (gMaxidx.taskWord 0 0) = 1
    ∧ eMaxidx.tensor 0 1 = some dMaxidx ∧ coordsOf dMaxidx.exts = [[0]]
    ∧ eMaxidx.recPlace 0 dMaxidx [0] = 0x10100 ∧ (eMaxidx.slot 0).hdr.allocBase + 16 * dMaxidx.alloc = 0x4000
    ∧ dMaxidx.localCopy = false ∧ dMaxidx.smap = 0xFFFF
    ∧ gMaxidx.hg.flight = [] ∧ words gMaxidx = true
    ∧ ((after (.maxidx 0 0 0) gMaxidx).flightOf 0 0).map Flight.phase = some .effected := by decide +kernel

/-- No byte of the record at 0x10100 places it. -/
theorem witness_DataInstructionsFrame_apart : ∀ u : State, u.hg = eMaxidx.hg → u.hall = eMaxidx.hall →
    (∀ a, (∀ g ∈ coordsOf dMaxidx.exts, a < eMaxidx.recPlace 0 dMaxidx g ∨ eMaxidx.recPlace 0 dMaxidx g + 16 ≤ a) →
      Mem.get u.rem.data a = Mem.get eMaxidx.rem.data a) →
    (∀ a, (¬ReasonAt gMaxidx (some (0, 0)) a ∧
      ∀ g ∈ coordsOf dMaxidx.exts, hallNode (eMaxidx.recPlace 0 dMaxidx g) = gMaxidx.hall.nid.toNat →
      (a < hallLoc (eMaxidx.recPlace 0 dMaxidx g) ∨ hallLoc (eMaxidx.recPlace 0 dMaxidx g) + 16 ≤ a)) →
      (a < 0x5000 ∨ 0x5008 ≤ a) → ¬ShownAt gMaxidx a → Mem.get u.mem a = Mem.get eMaxidx.mem a) →
    ∀ g, u.recPlace 0 dMaxidx g = eMaxidx.recPlace 0 dMaxidx g := by
  obtain ⟨-, -, -, -, -, -, -, hc, hp, ha, h1, h2, -, hw, -⟩ := witness_DataInstructionsFrame_records
  intro u hg hh hr hm
  refine State.recPlace_agree hg hh h1 h2 ha (fun k hk => hr _ fun g hg => .inl ?_)
    fun k hk => hm _ ⟨fun r => ?_, fun g hg _ => .inl ?_⟩ (.inl ?_) (shownAt_none (by decide +kernel) _)
  · rw [hc, List.mem_singleton] at hg
    rw [hg, hp]
    omega
  all_goals have : hallLoc (0x4000 + k) = 0x4000 + k := Nat.mod_eq_of_lt (by omega)
  · have := reasonAt_words hw r
    omega
  · rw [hc, List.mem_singleton] at hg
    rw [hg, hp]
    have : hallLoc 0x10100 = 0x10100 := by decide
    omega
  · omega

/-- MOVE of `gMove`: where the four elements of its target lie, and what lies apart from them. -/
def eMove : State := entered gMove 0 0 0x30 0 false fun s w => s.moveNames 0 w
def dMove : Tensor := ⟨1, d1⟩

theorem witness_DataInstructionsFrame_places :
    mayGo gMove 0 0 0x30 false = true ∧ gMove.tr.live.en = false ∧ gMove.stw.live.en = false ∧ gMove.hg.flight = []
    ∧ words gMove = true ∧ eMove.tensor 0 (mDst (gMove.taskWord 0 0)) = some dMove ∧ plain dMove (.op .bf16) = true
    ∧ ((coordsOf (eMove.extents 0 dMove)).map fun g =>
        let p := eMove.place 0 dMove (.op .bf16) g
        (g, p.addr, p.tail)) = [([0], 0x10100, 0), ([1], 0x10100, 0), ([2], 0x10104, 0), ([3], 0x10104, 0)]
    ∧ dMove.localCopy = false ∧ dMove.smap = 0xFFFF ∧ (eMove.slot 0).hdr.allocBase + 16 * dMove.alloc = 0x4000
    ∧ ((after (.move 0 0) gMove).flightOf 0 0).map Flight.phase = some .effected := by decide +kernel

/-- Every place of the target lies from 0x10100 on. -/
theorem witness_DataInstructionsFrame_high : ∀ g ∈ coordsOf (eMove.extents 0 dMove),
    0x10000 ≤ (eMove.place 0 dMove (.op .bf16) g).addr
      ∧ (eMove.place 0 dMove (.op .bf16) g).addr + 8 + (eMove.place 0 dMove (.op .bf16) g).tail < 2 ^ 48 := by
  decide +kernel

/-- No byte of the target places it. -/
theorem witness_DataInstructionsFrame_stable : ∀ u : State, u.hg = eMove.hg → u.hall = eMove.hall →
    (∀ a, (∀ g ∈ coordsOf (eMove.extents 0 dMove), ¬TouchesFar (eMove.place 0 dMove (.op .bf16) g) a) →
      Mem.get u.rem.data a = Mem.get eMove.rem.data a) →
    (∀ a, ((a < 0x5000 ∨ 0x5008 ≤ a) ∧
        ∀ g ∈ coordsOf (eMove.extents 0 dMove), ¬Touches gMove (eMove.place 0 dMove (.op .bf16) g) a) → ¬ShownAt gMove a →
      Mem.get u.mem a = Mem.get eMove.mem a) →
    PlainTarget u 0 dMove (.op .bf16) ∧ ∀ g, u.place 0 dMove (.op .bf16) g = eMove.place 0 dMove (.op .bf16) g := by
  obtain ⟨-, -, -, hf, -, -, hp, -, h1, h2, ha, -⟩ := witness_DataInstructionsFrame_places
  intro u hg hh hr hm
  refine ⟨plainTarget_of hp u 0, fun g => State.place_agree (congrArg (fun x : Headgate => x.slots[(0 : Fin 16)]) hg) hh h1 h2
    ha (fun k hk => hr _ fun g hg ht => ?_) (fun k hk => ?_) _ g⟩
  · have := (witness_DataInstructionsFrame_high g hg).1
    have := ht.1
    omega
  · have : hallLoc (0x4000 + k) = 0x4000 + k := Nat.mod_eq_of_lt (by omega)
    rw [this]
    refine hm _ ⟨.inl (by omega), fun g hg ht => ?_⟩ (shownAt_none hf _)
    obtain ⟨l, h⟩ := witness_DataInstructionsFrame_high g hg
    have := touches_high l h ht
    omega

/-- The hypotheses of OperandsBecomeResident, as a test. -/
def fetches (s : State) : Bool :=
  match s.gangAt 0 0 with
  | none => false
  | some g =>
    let names := g.nodes.flatMap fun m => s.prodNames 0 (s.taskWord 0 m)
    let a := s.initFor 0 names
    let nodes := a.fetchNodes 0 g
    s.fetchable 0 0 && !(s.hg.resident.any fun r => r.slot == 0 && r.node == 0) && s.phase == .ready
      && isProduct (twOpc (s.taskWord 0 0)) && !s.fetchYields 0 && nodes == [0]
      && s.gangFirst 0 0 g names == [] && counts s
      && (a.spillwayWork 0 nodes).1 == 0
      && s.missing 0 0 (nodes.foldl (fun us m => unite us (a.prodUnits 0 (a.taskWord 0 m))) []) == []
      && decide (s.storeUsed 0 + a.gangBytes 0 g nodes ≤ storeRoom)

theorem witness_OperandsBecomeResident : fetches (gProd 3) = true ∧ (gProd 3).fetchOpen false = true
    ∧ (after (.operandFetch 0 0 0 none) (gProd 3)).hg.resident.length = 1 := by decide +kernel

/-- A saved gang that restarts takes its operands after a cut's tick too (R436, R490). -/
theorem witness_OperandsBecomeResident_restart :
    let s : State := { (gProd 3).setWait 0 0 4 0 0 0xFFF with cut := { st := .stopping, stopT := 900 } }
    fetches s = true ∧ s.cutOpen = false ∧ depSt (s.depWord 0 0) = 4 ∧ s.fetchOpen true = true
    ∧ (after (.operandFetch 0 0 0 none) s).hg.resident.length = 1 := by decide +kernel

/-- Between a SNAP's Ready and its Done no fetch starts (R519). -/
theorem witness_OperandsBecomeResident_snap :
    let s : State := { gProd 3 with hg := { (gProd 3).hg with
      flight := [{ slot := 1, node := 0, opc := 0x42, phase := .waiting 3 }] } }
    s.fetchable 0 0 = true ∧ s.hg.resident = [] ∧ s.phase = .ready ∧ counts s = true ∧ depSt (s.depWord 0 0) = 1
    ∧ s.fetchOpen false = false ∧ (after (.operandFetch 0 0 0 none) s).hg.resident = [] := by decide +kernel

/-- A cut whose tick has come: no operand comes in (R490). -/
theorem witness_OperandsBecomeResident_cut :
    let s : State := { gProd 3 with cut := { st := .stopping, stopT := 900 } }
    s.fetchable 0 0 = true ∧ s.hg.resident = [] ∧ s.phase = .ready ∧ counts s = true ∧ s.cutOpen = false
    ∧ depSt (s.depWord 0 0) ≠ 4
    ∧ (after (.operandFetch 0 0 0 none) s).hg.resident = [] := by decide +kernel

/-- The one member's array takes the class of the instruction, before it E4M3 by reset (R62, R80). -/
theorem witness_StreamConfiguresArrays :
    let s := after (.fprod 0 0 0 []) (after (.operandFetch 0 0 0 none) (gProd 3))
    (match s.flightOf 0 0 with
      | some f => f.jobs.length == 1 && f.phase == .dispatched && (s.reseat f).jobs == f.jobs
        && f.jobs.all (fun j => decide (j.array < 32) && !j.done (nth f.planes 0 {})
          && !(s.arr j.array).unuse && (s.arr j.array).dot == j.dot)
        && (f.jobs.map fun j => ((after (.gangStreamStart 0 0 []) s).arr j.array).cls) == f.jobs.map Job.cls
      | none => false) = true := by decide +kernel

-- SUBMIT and loading. A request: OP 1, slot 2, tag 7, header at 0x1000.

def req : BitVec 128 := BitVec.ofNat 128 (put 0 8 1 + put 8 4 2 + put 16 16 7 + put 64 60 0x1000)

/-- CODE 0x23, 0x24, 0x22, 0x21 and 0x20 in the order of log 16 (R419, R420). -/
theorem witness_SubmitRefusedAtOnce :
    let busy : State := { ready with hg := { ready.hg with loading := some ⟨1, 0, 0⟩ } }
    let used : State := ready.setSlot 2 { st := .run }
    (after (.submit 0) ready).out.resp = [mkResponse 0x23 0 0 none]
    ∧ fld req.toNat 0 8 = 1 ∧ ready.cutOpen = true ∧ ready.grade ≠ 0
    ∧ (after (.submit req) busy).out.resp = [mkResponse 0x24 2 7 none]
    ∧ (after (.submit req) { ready with phase := .init }).out.resp = [mkResponse 0x22 2 7 none]
    ∧ (after (.submit req) { ready with grade := 0 }).out.resp = [mkResponse 0x21 2 7 none]
    ∧ (after (.submit req) used).out.resp = [mkResponse 0x20 2 7 none] := by decide +kernel

theorem witness_SubmitBeginsLoading : fld req.toNat 0 8 = 1 ∧ ready.hg.loading = none ∧ ready.phase = .ready
    ∧ ready.tm.lock = true ∧ ready.pwr.st ≠ .deep ∧ ready.cutOpen = true ∧ ready.grade ≠ 0
    ∧ (ready.slot (reqSlot req)).st = .free ∧ ((after (.submit req) ready).slot 2).st = .load := by decide +kernel

/-- A graph of one NOP, its header of version `v` at 0x1000. -/
def loadable (v : Nat) : State :=
  after (.submit req) { ready with
    mem := bytesAt 0x1000 128 (put 0 8 v + put 16 21 1 + put 64 60 0x1100 + put 256 60 0x1200 + put 832 60 0x1300)
      ++ bytesAt 0x1100 64 0x5F }

/-- A load that passes (CODE 0x00) and one of another version (FORMAT, R421). -/
theorem witness_LoadEndsWithResponse :
    let s := loadable 1
    let t := loadable 2
    s.hg.loading = some ⟨2, 7, 0x1000⟩
    ∧ ({ s with hg := { s.hg with loading := none } }.setSlot 2
        { st := .load, tag := 7, hdr := mkHdr (s.rdN 0x1000 128) }).loadFail 2 0x1000 = none
    ∧ (after .graphLoadComplete s).out.resp = [mkResponse 0 2 7 none]
    ∧ ((after .graphLoadComplete s).slot 2).st = .run
    ∧ depSt ((after .graphLoadComplete s).depWord 2 0) = 1
    ∧ ({ t with hg := { t.hg with loading := none } }.setSlot 2
        { st := .load, tag := 7, hdr := mkHdr (t.rdN 0x1000 128) }).loadFail 2 0x1000 = some (.format, none)
    ∧ (after .graphLoadComplete t).out.resp = [mkResponse 0x10 2 7 none] := by decide +kernel

-- The stash controller. A ring of 128 bytes holds one entry of 128 bytes, and node 0 is a PUSH that waits for room.

def gWait : State :=
  let s := graph (word 0x20 [0, 0xFFFF]) 0 [d0] (bytesAt 0x8000 2 0x0201 ++ vec)
  s.setSlot 0 { s.slot 0 with
    hdr := { (s.slot 0).hdr with stashSize := 128, ovfBase := 0x9000, ovfSize := 4096 }
    stash := { ring := [(0, 128)] } }

def gBack : State :=
  let s := graph 0x5F 0 [] []
  s.setSlot 0 { s.slot 0 with
    hdr := { (s.slot 0).hdr with stashSize := 4096, ovfBase := 0x9000, ovfSize := 4096 }
    stash := { ovf := [(0, 64)] } }

/-- The engine once a cut's tick has come. -/
def cutShut (s : State) : State := { s with cut := { st := .stopping, stopT := 900 } }

/-- The engine between a SNAP's Ready and its Done (R519). -/
def snapHeld (s : State) : State :=
  { s with hg := { s.hg with flight := [{ slot := 1, node := 0, opc := 0x42, phase := .waiting 3 }] } }

/-- The first of the entry's stores carries the ring's bytes to the overflow stack (R287); after a cut's tick neither a
move nor a return starts (R490), nor while a SNAP holds (R519). -/
theorem witness_StashMoves :
    counts gWait = true ∧ counts gBack = true ∧ counts (snapHeld gWait) = true ∧ counts (cutShut gWait) = true
    ∧ gWait.stashHeld = false ∧ (cutShut gWait).cutOpen = false
    ∧ ((after (.stashMove 0) (snapHeld gWait)).slot 0).stash.moving = false
    ∧ ((after (.stashReturn 0) (snapHeld gBack)).slot 0).stash.returning = none
    ∧ (after (.stashMove 0) gWait).rem.unacked.map (fun q => (q.f.addr, q.f.payload.take 3, q.f.payload.length))
        = [(0x9000, [1, 2, 0], 128)]
    ∧ ((after (.stashMove 0) (cutShut gWait)).slot 0).stash.moving = false
    ∧ ((after (.stashReturn 0) (cutShut gBack)).slot 0).stash.returning = none
    ∧ gWait.pushWaits 0 0 = true ∧ (gWait.slot 0).hdr.twCount = 3 ∧ (gWait.slot 0).stash.returning = none
    ∧ (gWait.slot 0).stash.ovfUsed + 128 ≤ (gWait.slot 0).hdr.ovfSize
    ∧ (gWait.slot 0).stash.moving = false ∧ gWait.hg.flight = [] ∧ gWait.reaches 0 = true
    ∧ ((after (.stashMove 0) gWait).slot 0).stash.moving = true := by decide +kernel

/-- The one unit of the entry is back. -/
def gBacked : State :=
  let s := after (.stashReturn 0) gBack
  { s with rem := { s.rem with got := [(0, stashNode, 0x9000)] } }

theorem witness_StashReturns :
    gBack.stashHeld = false ∧ (gBack.slot 0).stash.returning = none ∧ (gBack.slot 0).stash.moving = false
    ∧ (after (.stashReturn 0) gBack).rem.reads.map (fun q => (q.f.addr, q.node)) = [(0x9000, stashNode)]
    ∧ gBack.pushPresent 0 = false
    ∧ 64 ≤ (gBack.slot 0).stash.free 4096 ∧ gBack.hg.flight = []
    ∧ ((after (.stashReturn 0) gBack).slot 0).stash.returning = some (4032, 64)
    ∧ gBacked.missing 0 stashNode ((List.range 1).map fun k => 0x9000 + 64 * k) = []
    ∧ ((after (.stashReturnEnd 0) gBacked).slot 0).stash.ring = [(4032, 64)] := by decide +kernel

/-- An entry that lies on node 1 is back: its bytes stand at the ring's offset 4032 (R287, R289). -/
theorem witness_StashReturnBytes :
    let s : State := gBack.setSlot 0 { gBack.slot 0 with
      hdr := { (gBack.slot 0).hdr with ovfBase := 0x1000000009000 }
      stash := { ovf := [(0, 64)], returning := some (4032, 64) } }
    let s : State := { s with rem := { s.rem with
      got := [(0, stashNode, 0x1000000009000)], data := bytesAt 0x1000000009000 2 0x0605 } }
    let t := after (.stashReturnEnd 0) s
    s.missing 0 stashNode ((List.range 1).map fun k => 0x1000000009000 + 64 * k) = [] ∧ Memory.wf s.mem = true
    ∧ s.snapFlight = none ∧ hallNode 0x1000000009000 ≠ s.hall.nid.toNat ∧ hallNode 0x100000000903F ≠ s.hall.nid.toNat
    ∧ ((s.slot 0).hdr.stashSize, (s.slot 0).hdr.stashBase) = (4096, 0x8000)
    ∧ hallLoc ((s.slot 0).hdr.ringAt 4032 0) = 0x8FC0 ∧ Mem.getN t.mem 0x8FC0 64 = 0x0605 := by decide +kernel

-- Aborts and the frame of the graph side.

/-- Slot 0 in RUN, in LOAD and FREE (R425). -/
theorem witness_AbortEndsSlot :
    let s := ready.setSlot 0 { st := .run }
    let l := after (.submit (req - 0x200)) ready
    ready.pwr.st = .run ∧ (∀ j : Fin 16, (1 : BitVec 16).getLsbD j.val = decide (j = 0)) ∧ s.slotBusy 0 = false
    ∧ (after (.abort 1) s).evt.pend = 0x20000 ∧ ((after (.abort 1) s).slot 0).st = .free
    ∧ l.hg.loading = some ⟨0, 7, 0x1000⟩ ∧ (l.slot 0).st = .load
    ∧ (after (.abort 1) l).out.resp = [mkResponse 0x25 0 7 none]
    ∧ (ready.slot 0).st = .free ∧ (after (.abort 1) ready).hg = ready.hg := by decide +kernel

theorem witness_GraphCommandsKeepRegisters : isGraphCommand (.move 0 0) = true
    ∧ exec (.move 0 0) gMove = .next (after (.move 0 0) gMove) := ⟨rfl, rfl⟩

theorem witness_EveryCommandAnswersAndKeepsQueue :
    (after (.move 0 0) { ready with pending := [.go] }).pending = [.go] := by decide +kernel

-- The window.

/-- A pending set with its base at 16 MiB, and the cases of R596. -/
def toCommit (base size : Nat) (en : Bool) (tb : Nat) : State :=
  { ready with
    stw := { ready.stw with pend := { base := BitVec.ofNat 60 base, en := true } }
    tr := { ready.tr with pend := { base := BitVec.ofNat 43 tb, size := BitVec.ofNat 20 size, en := en }, wr := 9, rd := 4 } }

theorem witness_CommitTakesAllOrNothing :
    let s := toCommit (2 ^ 24) 1 true 0x8000
    ready.pwr.st = .run ∧ s.stw.pend.base.toNat % 4096 = 0 ∧ s.mine s.stw.pend.base.toNat (16 * 2 ^ 20) = true
    ∧ s.tr.pend.base.toNat + 4096 * s.tr.pend.size.toNat ≤ stackBytes
    ∧ (after .go s).stw.set = some s.stw.pend ∧ (after .go s).tr.wr = 0 ∧ (after .go s).tr.live = s.tr.pend
    ∧ (after .go (toCommit 2048 1 true 0)).stw.cerr = true ∧ (after .go (toCommit (2 ^ 48) 1 true 0)).stw.cerr = true
    ∧ (after .go (toCommit 0 0 true 0)).stw.cerr = true
    ∧ (after .go (toCommit 0 1 true (2 ^ 43 - 1))).stw.cerr = true := by decide +kernel

/-- Event 3 pending, masked and not (R7). -/
theorem witness_InterruptFollowsUnmaskedEvents :
    ({ ready with evt := { pend := 8, mask := 0x3FFFFF7 } } : State).irq = true
    ∧ ({ ready with evt := { pend := 8, mask := 8 } } : State).irq = false := by decide +kernel

theorem witness_BadAccessHasNoEffect : (2 ≠ 4 ∧ 2 ≠ 8) ∧ (0x101#16).toNat % 4 ≠ 0
    ∧ (after (.badAccess 0x100 2 true) ready).out.mgmt.ok = false
    ∧ (after (.badAccess 0x101 4 false) ready).out.mgmt.ok = false := by decide +kernel

theorem witness_UnassignedOffsetsReadZero : (0x20#16).toNat % 8 = 0 ∧ (0x20#16).toNat ∉ assigned
    ∧ ready.readReg 0x20 = 0 ∧ (after (.registerWrite 0x20 none 5) ready).out.mgmt = ⟨true, 0⟩ := by decide +kernel

/-- `FGE_EVENT_MASK` and the thermal limits, whole and by halves (R3). -/
theorem witness_RegistersReadBack :
    (after (.registerWrite 0x208 none (BitVec.allOnes 64)) ready).readReg 0x208 = 0x3FFFFFF
    ∧ (after (.registerWrite 0x208 (some true) 0) ready).readReg 0x208 = 0x3FFFFFF
    ∧ (after (.registerWrite 0x208 (some false) 0) ready).readReg 0x208 = 0 := by decide +kernel

/-- Events 0 and 3 pending; a ring of one page with ten records, of which `RIDX` may be anything up to 10 (R614). -/
theorem witness_EventAndTraceRegisters :
    let s : State := { ready with
      evt := { pend := 9 }, tr := { ready.tr with live := { size := 1 }, wr := 10, rd := 3, lost := 5 } }
    let far : State := { s with tr := { s.tr with wr := 5000 } }
    (after (.eventClear 1) s).evt.pend = 8 ∧ (after (.maskWrite 1) s).evt.mask = 1
    ∧ s.tr.wr.toNat < 11 ∧ (after (.traceRdWrite 11) s).tr.rd = 3
    ∧ (10 : Nat) ≤ s.tr.wr.toNat ∧ s.tr.wr.toNat ≤ 10 + 2048 * s.tr.live.size.toNat
    ∧ (after (.traceRdWrite 10) s).tr.rd = 10
    ∧ 2951 + 2048 * far.tr.live.size.toNat < far.tr.wr.toNat ∧ (after (.traceRdWrite 2951) far).tr.rd = 3
    ∧ (after (.traceRdWrite 2952) far).tr.rd = 2952
    ∧ (toCommit (2 ^ 24) 1 true 0x8000).commitBad = false
    ∧ (after (.traceLostRead none) s).out.mgmt.data = 5 ∧ (after (.traceLostRead (some false)) s).tr.lost = 0
    ∧ (after (.traceLostRead (some true)) s).tr.lost = 5 := by decide +kernel

/-- Four words and a salt staged as the snapshot key and as port 2's key; three words, port 6, a port of a dimension of size
1 and a fifth word refused; held in DEEP and while it ends; on a linked port the receiver says key-ready, and the transmitter
that saw it switches (R465, R592, R608, R609). -/
theorem witness_KeyPortStagesKeys :
    let s : State := { ready with
      hall := { ready.hall with ydim := 2 }, key := { words := [1, 2, 3, 4], salt := 9, kport := 7 } }
    let k : Key := ⟨4#64 ++ (3#64 ++ (2#64 ++ 1#64)), 9⟩
    let deep : State := { s with pwr := { s.pwr with st := .deep } }
    let wakes : State := { s with pwr := { s.pwr with st := .waking, wakeFrom := .deep } }
    let flat : State := { ready with key := { s.key with kport := 2 } }
    let old : List Kept := [⟨4, .inr .wake, 77⟩]
    let link (kdir : Bool) : State := { pair.setPort 0 { st := .up, farReady := true, replay := old } with
      key := { s.key with kport := 0, kdir := kdir } }
    let t := after .stage (link false)
    let r := after .stage (link true)
    (after (.keySel 2 true) s).key.words = [] ∧ (after (.kword 5) ready).key.words = [5] ∧ 4 ≤ s.key.words.length
    ∧ (after (.kword 5) s).key.keyErr = true ∧ (after (.salt 8) s).key.salt = 8
    ∧ (after .stage s).key.snapKey = some k ∧ (after .stage ready).key.keyErr = true
    ∧ (after .stage { s with key := { s.key with kport := 6 } }).key.keyErr = true
    ∧ s.hall.dim 1 ≠ 1 ∧ (s.port 2).farReady = false
    ∧ ((after .stage { s with key := { s.key with kport := 2 } }).port 2).stTx = some k
    ∧ (after .stage deep).hg.held = [(0x700, 16)] ∧ (after .stage deep).key = s.key
    ∧ (after .stage wakes).hg.held = [(0x700, 16)] ∧ (after .stage wakes).key = s.key
    ∧ flat.hall.dim 1 = 1 ∧ (after .stage flat).key.keyErr = true ∧ ((after .stage flat).port 2).stTx = none
    ∧ ((link false).port 0).linked = true ∧ ((link false).port 0).exhausted = false ∧ (link false).hall.dim 0 ≠ 1
    ∧ t.out.links = [.sluice 0 .keySwitch 1000] ∧ (t.port 0).keyTx = some k ∧ (t.port 0).stTx = none
    ∧ (t.port 0).txCount = 0 ∧ (t.port 0).txOld = 2 ∧ (t.port 0).txOut = true
    ∧ r.out.links = [.sluice 0 .keyReady 1000] ∧ (r.port 0).stRx = some k ∧ (r.port 0).txOut = false := by
  decide +kernel

/-- A torus of 2 × 1 × 1 and this node at x = 1; a write that does not fit, and one with a port UP (R444, R606). -/
theorem witness_HallPlacementWrites :
    let s : State := { ready with hall := { ready.hall with xdim := 2 } }
    let up : State := s.setPort 0 { st := .up }
    s.portsDown = true ∧ fitsTorus 1 2 1 1 = true ∧ (after (.nodeIdWrite 1) s).hall.nid = 1
    ∧ fitsTorus 2 2 1 1 = false ∧ (after (.nodeIdWrite 2) s).hall.topoErr = true
    ∧ up.portsDown = false ∧ (after (.nodeIdWrite 1) up).hall.topoErr = true
    ∧ (after (.hallTopoWrite 0x422) up).hall.topoErr = true
    ∧ (after (.hallTopoWrite 0x420) s).hall.topoErr = true ∧ (after (.hallTopoWrite 0x431) s).hall.topoErr = true
    ∧ fitsTorus 0 16 1 1 = true ∧ (after (.hallTopoWrite 0x430) s).hall.xdim = 16
    ∧ ((after (.hallTopoWrite 0x430) s).port 0).st = .down ∧ ((after (.hallTopoWrite 0x430) s).port 2).st = .unused := by
  decide +kernel

/-- `FGE_VER_BASE` with every slot FREE and with one in RUN or a misaligned base; the snapshot registers with a buffer in
CAPTURE; loads of counter 130 (signed) and 3, and after the window closed (R17, R508, R510, R602). -/
theorem witness_GuardedRegisterWrites :
    let run : State := ready.setSlot 3 { st := .run }
    let busy : State := { ready with snap := { ready.snap with buf := ready.snap.buf.set 0 .capture } }
    let shut : State := { ready with loadOpen := false }
    let signed : State := { ready with svc := { ready.svc with sel := 130 } }
    (∀ i, (ready.slot i).st = .free) ∧ ready.mine 0x8000 (4 * 2 ^ 20) = true
    ∧ (after (.verBaseWrite 0x8000) ready).hg.verBase = 0x8000
    ∧ (after (.verBaseWrite 0x8000) run).hg.verBase = 0 ∧ (after (.verBaseWrite 0x8001) ready).hg.verBase = 0
    ∧ ready.mine (2 ^ 48) (4 * 2 ^ 20) = false
    ∧ busy.snapBusy = true ∧ (after (.snapConfigWrite 0 5) busy).snap.cfgErr = true
    ∧ ready.snapBusy = false ∧ (after (.snapConfigWrite 0 0x1000) ready).snap.sbase = 0x1000
    ∧ (after (.snapConfigWrite 1 0x1000) ready).snap.pbase = 0x1000
    ∧ (after (.snapConfigWrite 2 (0x0000200300000004)) ready).snap.imgpg = 4
    ∧ (after (.snapConfigWrite 2 (0x0000200300000004)) ready).snap.drain = 0
    ∧ ready.loadOpen = true ∧ (after (.svcLoad 7) shut).svc = ready.svc
    ∧ (after (.svcLoad 7) ready).svc.load.getD 0 0 = 7
    ∧ (after (.svcLoad (-5)) signed).svc.load.getD 130 0 = -5 := by decide +kernel

-- Resets, start-up, self-test.

/-- With array 5 fused off 31 arrays are left, of which the grade takes 30 (R12). -/
theorem witness_ColdReset_fused :
    let s := ready.setDiag 5 { fuseOff := true, srow := some 3 }
    (after .coldReset s).diagOf 5 = { fuseOff := true } ∧ (after .coldReset s).grade = 2
    ∧ (after .coldReset s).present = 0x7FFFFFDF ∧ (after .coldReset s).st.warmSt = true := by decide +kernel

theorem witness_ColdReset : (after .coldReset gMove).hg = State.reset.hg ∧ (after .coldReset gMove).phase = .fuse
    ∧ (∀ n, n < 32 → (gMove.diagOf n).fuseOff = false)
    ∧ (after .coldReset (after .scanRequest State.reset)).scanAsked = true := by decide +kernel

/-- The target, the torus and the record's loads stay over a warm reset (R16, R589). -/
theorem witness_WarmResetKeepsWhatTheMapKeeps :
    let s : State := { ready with
      hall := { ready.hall with xdim := 4, nid := 3 }, pwr := { ready.pwr with target := 1 }
      evt := { pend := 5, mask := 0 }, pen := 1, svc := { ready.svc with active := List.replicate 32 5 }
      arrs := ready.arrs.map fun _ => ({ dot := true, op := 1 } : Arr) }
    let t := after .warmReset s
    s.svc.count.length = 204 ∧ s.svc.active.length = 32 ∧ t.svc.count.getD 31 0 = 5 ∧ t.svc.count.getD 32 0 = 0
    ∧ t.svc.active = List.replicate 32 0 ∧ (t.port 0).st = .train ∧ (t.port 1).st = .down ∧ (t.port 2).st = .unused
    ∧ (t.arr 31).dot = true ∧ (t.arr 31).op = 0
    ∧ s.phase ≠ .power ∧ s.phase ≠ .fuse ∧ s.phase ≠ .scan ∧ (after .warmReset s).phase = .init
    ∧ (after .warmReset s).hall.xdim = 4 ∧ (after .warmReset s).hall.nid = 3 ∧ (after .warmReset s).pwr.target = 1
    ∧ (after .warmReset s).evt.mask = 0x3FFFFFF ∧ (after .warmReset s).tm.tick = 1000 := by decide +kernel

theorem witness_ScanErasesSecrets :
    let s : State := { ready.setPort 0 { st := .up, keyTx := some ⟨1, 2⟩ } with
      key := { words := [1], salt := 2, snapKey := some ⟨3, 4⟩ } }
    (after .scanRequest State.reset).scanAsked = true ∧ s.phase = .ready ∧ (after .scanRequest s).phase = .scan
    ∧ (after .scanRequest s).key.snapKey = none ∧ ((after .scanRequest s).port 0).keyTx = none
    ∧ ((after .scanRequest s).port 0).st = .down
    ∧ (after .scanRequest s).evt.pend ≠ 0 ∧ (after .scanRequest s).out = s.out := by decide +kernel

/-- From FUSE to INIT to the self-test, or to READY where a warm reset skips it; START, and START refused; the first
batch without findings (R544, R545, R554). -/
theorem witness_StartUpRunsItsPhases :
    let fuse : State := { State.reset with phase := .fuse }
    let init : State := { State.reset with phase := .init }
    let warm : State := { init with warm := true, st := { init.st with warmSt := false } }
    let used : State := ready.setSlot 0 { st := .halt }
    let test := after .start ready
    let nap : State := { ready with pwr := { ready.pwr with st := .nap, target := 1 } }
    nap.pwr.st = .nap ∧ (after .start nap).phase = .selftest ∧ (after .start nap).pwr.st = .waking
    ∧ (after .start nap).pwr.wakeFrom = .nap ∧ test.pwr.startAfter = false
    ∧ fuse.scanAsked = false ∧ (after .startupPhaseEnd fuse).phase = .init
    ∧ (after .startupPhaseEnd init).phase = .selftest ∧ (after .startupPhaseEnd warm).phase = .ready
    ∧ (∀ i, (ready.slot i).st = .free) ∧ ready.rebuilding = false ∧ ready.pwr.st = .run ∧ test.phase = .selftest
    ∧ (after .start { ready with pwr := { ready.pwr with st := .waking, wakeFrom := .nap } }).st.stErr = true
    ∧ (after .start { ready with pwr := { ready.pwr with st := .entering } }).st.stErr = true
    ∧ (after .start used).st.stErr = true ∧ (after .start init).st.stErr = true
    ∧ (after .start { ready with snap := { ready.snap with rb := .running } }).st.stErr = true
    ∧ test.st.batch < 8 ∧ (after (.selftestBatchEnd []) test).st.batch = 1 := by decide +kernel

/-- With arrays 3 and 9 failed, 30 arrays are usable: grade 2 (R12, R13). -/
theorem witness_SelfTestRunEndSetsGrade :
    let s : State := { ready with phase := .selftest, st := { ready.st with batch := 8, failed := [3, 9] } }
    let early : State := { ready with phase := .selftest, st := { ready.st with batch := 7 } }
    s.st.retest = [] ∧ (after .selftestRunEnd s).grade = 2 ∧ (after .selftestRunEnd s).present = 0xFFFFFDF7
    ∧ (after .selftestRunEnd s).phase = .ready ∧ early.st.batch < 8 ∧ (after .selftestRunEnd early).phase = .selftest := by
  decide +kernel

/-- 31, 29, 28 and 27 good arrays; two plots that a free row and a free column cover, and that they do not once the row's
fuse is taken (R12, R551). -/
theorem witness_GradeAndRepair :
    (gradeOf (List.range 31)).1 = 2 ∧ (gradeOf (List.range 31)).2.length = 30 ∧ (gradeOf (List.range 29)).1 = 1
    ∧ (gradeOf (List.range 28)).1 = 1 ∧ (gradeOf (List.range 27)).1 = 0 ∧ (gradeOf (List.range 32)).1 = 3
    ∧ (some 1, some 4) ∈ covers2 [(1, 2), (3, 4)] none none ∧ covers2 [(1, 2), (3, 4)] (some 0) none = [] := by
  decide +kernel

-- Power and the governor.

theorem witness_PowerTargets :
    let nap : State := { ready with pwr := { ready.pwr with st := .nap, target := 1 } }
    ready.pwr.st ≠ .nap ∧ ready.pwr.st ≠ .deep ∧ (after .targetRun ready).pwr.st = .run
    ∧ (after .targetRun nap).pwr.st = .waking ∧ (after .targetRun nap).pwr.wakeFrom = .nap
    ∧ (after .targetNap ready).pwr.pending = true ∧ (after .targetNap nap).pwr.pending = false
    ∧ (after .targetDeep ready).pwr.target = 2 := by decide +kernel

theorem witness_PowerStatesEntered :
    let nap := after .targetNap ready
    let deep := after .targetDeep ready
    let used : State := { nap with hg := { nap.hg with flight := [{ slot := 0, node := 0, opc := 5, onCore := true }] } }
    ready.pwr.autoIdle = true ∧ ready.coresFree = true ∧ (after .autoidle ready).pwr.st = .idle
    ∧ nap.coresFree = true ∧ (after .napEnter nap).pwr.st = .nap
    ∧ deep.deepReady = true ∧ counts deep = true ∧ (after .deepEnter deep).pwr.st = .deep
    ∧ used.coresFree = false ∧ (after .napEnter used).pwr.st = .run
    ∧ used.deepReady = false ∧ (after .deepEnter used).pwr.st = .run
    ∧ (after .autoidle { used with pwr := ready.pwr }).pwr.st = .run
    ∧ (after .autoidle { ready with pwr := { ready.pwr with autoIdle := false } }).pwr.st = .run
    ∧ (after .autoidle { ready with pwr := { ready.pwr with st := .nap } }).pwr.st = .nap
    ∧ (after .napEnter deep).pwr.st = .run ∧ (after .deepEnter nap).pwr.st = .run
    ∧ (after .napEnter ready).pwr.st = .run ∧ (after .deepEnter ready).pwr.st = .run := by decide +kernel

theorem witness_WakesEndInRun :
    let nap : State := { ready with pwr := { ready.pwr with st := .waking, wakeFrom := .nap } }
    let deep : State := { ((ready.setPort 1 { st := .keepalive }).setPort 0 { st := .keepalive }) with
      pwr := { ready.pwr with st := .waking, wakeFrom := .deep } }
    let sleep : State := { deep with pwr := { ready.pwr with st := .deep, target := 2 } }
    let asked : State := toCommit (2 ^ 24) 1 true 0x8000
    let held : State := { asked with
      pwr := { ready.pwr with st := .waking, wakeFrom := .deep }, hg := { asked.hg with held := [(0x018, 1)] } }
    let done := after (.deepWakeDone []) held
    (after .go sleep).hg.held = [(0x018, 1)] ∧ (after .go sleep).stw.set = sleep.stw.set
    ∧ held.commitBad = false ∧ done.pwr.st = .run ∧ done.hg.held = [] ∧ done.stw.set = some held.stw.pend
    ∧ done.tr.live = held.tr.pend ∧ counts sleep = true ∧ counts deep = true ∧ counts held = true ∧ counts nap = true
    ∧ nap.pwr.startAfter = false ∧ (after .napWakeDone nap).pwr.st = .run ∧ deep.hg.held = []
    ∧ (after (.deepWakeDone [] [0]) deep).pwr.st = .run ∧ ((after (.deepWakeDone [] [0]) deep).port 1).st = .up
    ∧ ((after (.deepWakeDone [] [0]) deep).port 0).st = .keepalive ∧ (sleep.port 1).awaiting = none
    ∧ (sleep.port 1).st.usable = true ∧ (after (.wakeRequest 1) sleep).pwr.st = .waking
    ∧ (after (.wakeRequest 1) ready).pwr.st = .run := by decide +kernel

/-- 1 A at 1 V; sixteen sensors of which the fifth is hottest at 12 °C (96 eighths); a forecast; a report at a port that is
UP, into a full queue, and at a port whose counter is spent; a sensor above `TCRIT`; counts of active clk (R15, R564, R566,
R568, R569, R585). -/
theorem witness_GovernorKeepsReadingsAndReports :
    let temps : List (BitVec 16) := (List.replicate 16 (80 : BitVec 16)).set 4 96
    let r := after (.sensorRead temps) ready
    let full : State := pair.setPort 0 { st := .keepalive, telem := List.replicate 64 0 }
    let spent : State := pair.setPort 0 { st := .up, txCount := BitVec.allOnes 64 }
    let h := after (.sensorRead (List.replicate 16 (1000 : BitVec 16))) ready
    (after (.currentSample [1000] [1000]) ready).gov.hist = [[1000]]
    ∧ temps.length = 16 ∧ r.gov.hsens = 4 ∧ r.gov.temp = 96 ∧ ready.svc.count.length = 204
    ∧ r.svc.count.getD 132 0 = 96 ∧ r.gov.hot = false
    ∧ (after .forecast ready).free = 3 ∧ (after .forecast ready).gov.forecasts.length = 1
    ∧ ready.route { dst := ready.hall.actMgr } = .here
    ∧ (match pair.route { dst := pair.hall.actMgr } with
        | .out p _ => (pair.port p).st == .up && !(pair.port p).exhausted
          && decide ((pair.port p).txCount.toNat + 10 < 2 ^ 64 - 1)
          && (after .governorTelemetry pair).out.links == [.sluice p (.telemetry 1 pair.gov.report) pair.stamp]
        | _ => false) = true
    ∧ (after .governorTelemetry full).out.links = [.sluice 0 (.telemetry 1 0) 1000]
    ∧ ((after .governorTelemetry full).port 0).telem = List.replicate 62 0 ++ [full.gov.report]
    ∧ (spent.port 0).exhausted = true ∧ (spent.port 0).linked = true ∧ ((after .governorTelemetry spent).port 0).st = .down
    ∧ (after .governorTelemetry spent).evt.pend.getLsbD 14 = true ∧ counts ready = true ∧ counts pair = true
    ∧ h.gov.crit = true ∧ h.gov.level = 12 ∧ h.evt.pend = 0x1800000
    ∧ ready.svc.active.length = 32 ∧ (after .activeClkCrossing ready).svc.active = List.replicate 32 0 := by decide +kernel

/-- Above `TCRIT`; above `TLIM`; cool at level 3 after a level that must fall; the top level (R567, R568). -/
theorem witness_ThrottleFollowsTemperature :
    let hot (v : BitVec 16) (l : BitVec 4) : State :=
      { ready with gov := { ready.gov with temps := List.replicate 16 v, level := l } }
    (hot 1000 0).gov.above (hot 1000 0).gov.tcrit = true ∧ (after .throttleLevelUpdate (hot 1000 0)).gov.level = 12
    ∧ (after .throttleLevelUpdate (hot 1000 0)).evt.pend = 0x800000
    ∧ (hot 800 2).gov.above (hot 800 2).gov.tcrit = false ∧ (hot 800 2).gov.above (hot 800 2).gov.tlim = true
    ∧ (after .throttleLevelUpdate (hot 800 2)).gov.level = 3
    ∧ (hot 0 3).gov.above (hot 0 3).gov.tlim = false ∧ (hot 0 3).gov.overPower = false
    ∧ 2 ≤ (after .throttleLevelUpdate (hot 0 3)).gov.level := by decide +kernel

-- Observation.

theorem witness_CounterCommands :
    let s : State := { ready with obs := { ready.obs with
      banks := ready.obs.banks.set 2 { vals := List.replicate 32 6, tags := List.replicate 32 1 }, rbank := 2 } }
    (2#4).toNat < 15 ∧ s.pwr.st ≠ .deep ∧ (after (.counterSample 2 9) s).obs.banks[2].latch.vals = List.replicate 32 6
    ∧ (after (.counterReset 2 9) s).obs.banks[2].vals = List.replicate 32 0
    ∧ (after (.counterReset 2 9) s).obs.banks[2].tags = List.replicate 32 9
    ∧ (after (.sampleAndReset 2 9) s).obs.banks[2].latch.vals = List.replicate 32 6
    ∧ (after (.sampleAndReset 2 9) s).obs.banks[2].vals = List.replicate 32 0
    ∧ (after (.counterSample 15 9) s).obs.banks[2].latch.vals = List.replicate 32 6
    ∧ (after (.counterSample 15 9) s).obs.banks[0].latch.stamp = s.stamp
    ∧ (after (.counterReset 15 9) s).obs.banks[14].tags = List.replicate 32 9
    ∧ (after (.sampleAndReset 2 9) { s with pwr := { s.pwr with st := .deep } }).obs = s.obs
    ∧ (after (.cntTagRead (some true)) (after (.counterSample 2 9) s)).obs.hold = 6 ∧ s.hg.resWait = [] := by decide +kernel

/-- Two gangs that wait at core 2 from tick 200 to tick 1000: 540 clk, once (R540, R571). -/
theorem witness_CounterCommands_waits :
    let s : State := { ready with hg := { ready.hg with resWait := [((0, 2), 2), ((1, 10), 2)], resFrom := 200 } }
    nth (after (.counterSample 2 9) s).obs.banks[2].latch.vals 7 0 = 540
    ∧ nth (after (.counterSample 2 9) s).obs.banks[3].vals 7 0 = 0 ∧ (after (.counterSample 2 9) s).hg.resFrom = 1000
    ∧ nth (after (.counterReset 2 9) s).obs.banks[2].vals 7 0 = 0 := by decide +kernel

/-- Periods of 1 µs and 1 ms set, snapshot 4 held since tick 0, and a ring of 2,048 records (or none). -/
def watch (en : Bool) : State :=
  { ready with
    tr := { ready.tr with live := { ready.tr.live with base := 0x10000, size := 1, en := en, cper := 1, pper := 1, hangt := 1 } }
    tm := { ready.tm with tick := 200000000000 }
    snap := { ready.snap with newest := 4 } }

/-- Fifteen samples of six records, eight position records of cores without a gang, HANG of slot 3 and SNAPDUE (R581 to
R583). -/
theorem witness_PeriodicObservations :
    let s := watch true
    let t := s.setSlot 3 { st := .run }
    s.tr.live.cper ≠ 0 ∧ s.tr.live.pper ≠ 0 ∧ s.pwr.st ≠ .deep ∧ s.tr.lostSince = 0 ∧ s.tr.live.stopFull = false
    ∧ s.tr.winId ≠ s.tm.tick.toNat / 4000 ∧ s.tr.live.evt = true
    ∧ (after .automaticSample (watch false)).obs.banks[0].latch.stamp = s.stamp
    ∧ (after .automaticSample (watch false)).tr = (watch false).tr
    ∧ (after .positionSample s).tr.wr = 8 ∧ s.gangOn 3 = none
    ∧ fld (recordAt s (after .positionSample s) 3) 152 20 = 0xFFFFF ∧ fld (recordAt s (after .positionSample s) 3) 12 4 = 3
    ∧ ready.tr.live.cper = 0 ∧ ready.tr.live.pper = 0 ∧ ready.tr.live.hangt = 0 ∧ ready.snap.newest = 0
    ∧ (t.slot 3).hung = false ∧ t.tr.live.hangt.toNat * 4000000 ≤ (t.tm.tick - (t.slot 3).lastProg).toNat
    ∧ (after (.hang 3) t).evt.pend = 0x2000000 ∧ fld (recordAt t (after (.hang 3) t) 0) 144 32 = 3
    ∧ (after (.hang 2) t).evt.pend = 0
    ∧ s.snap.newest ∉ s.snap.dueFor ∧ s.snap.interval.toNat * 4000000000 ≤ (s.tm.tick - s.snap.newestTick).toNat
    ∧ (after .snapdue s).evt.pend = 0x200000 ∧ fld (recordAt s (after .snapdue s) 0) 144 32 = 4 := by decide +kernel

/-- A gang in its drain on core 0: its slot and node stand in the record (R582). -/
theorem witness_PeriodicObservations_gang :
    let s : State := { watch true with hg := { ready.hg with flight := [
      { slot := 2, node := 77, opc := 0x03, core := 0, onCore := true, phase := .draining, jobs := [{ node := 77, word := 3 }] }] } }
    (s.gangOn 0).map Flight.node = some 77 ∧ Memory.wf s.mem = true
    ∧ fld (recordAt s (after .positionSample s) 0) 16 4 = 2
    ∧ fld (recordAt s (after .positionSample s) 0) 152 20 = 77 := by decide +kernel

-- Time, stops and the hall.

/-- Node 0 of the pair, whose parent is node 1 across port 0. -/
def child : State :=
  { pair with tm := { ready.tm with root := false, joining := false, lock := false, hops := 2, parent := 0 } }

/-- A time flit sent, alone and with one report that waits, and at a port whose counter is spent; not taken at a port that
is DOWN; at the root; from the parent with an offset of 32, of 80, and while joining, with a set offered and without (R481 to R485, R585): the receive tick
is 16,004, recv − send is 100 + o and far − echo is 100 − o. -/
theorem witness_TimeFlitsDisciplineTheTick :
    let root : State := { pair with tm := { ready.tm with root := true } }
    let join : State := { child with tm := { child.tm with joining := true }, hall := { child.hall with live := [1] } }
    let offered : State := { join with hall := { join.hall with offer := [0, 1], acks := [1] } }
    let joined := after (.timeFlit 0 15872 4 1068 1000 1) offered
    let last : State := { child with tm := { child.tm with lock := true, bad := 7 } }
    let spent : State := pair.setPort 0 { st := .up, txCount := BitVec.allOnes 64, keyTx := some ⟨1, 2⟩ }
    let tele : State := pair.setPort 0 { st := .up, telem := [5] }
    (pair.port 0).st = .up ∧ (pair.port 0).txCount.toNat + 11 < 2 ^ 64 - 1
    ∧ ((after (.timeFlitSend 0) pair).port 0).txCount = 1 ∧ (ready.port 0).st.usable = false
    ∧ (after (.timeFlitSend 0 7) tele).out.links
      = [.sluice 0 (.time 16007 0 0 0) 1000, .sluice 0 (.telemetry 1 5) 1000]
    ∧ (spent.port 0).exhausted = true ∧ ((after (.timeFlitSend 0) spent).port 0).st = .down
    ∧ ((after (.timeFlitSend 0) spent).port 0).keyTx = none ∧ (after (.timeFlitSend 0) spent).evt.pend = 0x4000
    ∧ (pair.port 0).awaiting = none ∧ joined.tm.tick = 998 ∧ joined.tm.stepped = true
    ∧ joined.tm.joining = false ∧ joined.hall.live = [0, 1] ∧ joined.hall.offer = []
    ∧ (after (.timeFlit 0 15872 4 1068 1000 1) join).tm.stepped = true
    ∧ (after (.timeFlit 0 1 2 3 4 1) root).tm.parent = 7 ∧ child.tm.root = false
    ∧ ({ child with tm := { child.tm with nbHops := child.tm.nbHops.set 0 1 } } : State).bestParent = some 0
    ∧ (after (.timeFlit 0 15872 4 1068 1000 1) child).tm.offset = 32
    ∧ (after (.timeFlit 0 15872 4 1068 1000 1) child).tm.slew = 32
    ∧ (after (.timeFlit 0 15824 4 1020 1000 1) child).tm.bad = 1
    ∧ (after (.timeFlit 0 15824 4 1020 1000 1) last).evt.pend = 0x40000
    ∧ (after (.timeFlit 0 15872 4 1068 1000 1) join).tm.tick = 998
    ∧ (after (.timeFlit 0 15872 4 1068 1000 1) join).tm.joining = false := by decide +kernel

theorem witness_IdleTicksSlewAtMostOnce : ready.pending = [] ∧ (ticks 3 ready).tm.tick = 1003
    ∧ (-1 ≤ ready.tm.slew ∧ ready.tm.slew ≤ 1)
    ∧ (let s (v : Int) : State := { ready with tm := { ready.tm with slew := v, sinceSlew := 4095 } }
       (s 2).advance.tm.tick = 1000 ∧ (s (-2)).advance.tm.tick = 1002 ∧ (s 1).advance.tm.tick = 1001) := by decide +kernel

/-- Stops that are refused, scheduled, late and reached; the cut of a lone node, with a stash return on its way too, and of
the pair; an abandoned one; the resume (R488 to R495). -/
theorem witness_StopsAndCuts :
    let sched (T : Nat) : State := { pair with cut := { st := .scheduled, stopT := BitVec.ofNat 64 T } }
    let stop (s : State) (br : Bool) : State := { s with cut := { st := .stopping, stopT := 900, broken := br } }
    let done : State := { pair with cut := { st := .localDone, stopT := 900, done := [0] } }
    let cut : State := { pair with cut := { st := .committed, stopT := 900, lastCut := 900 } }
    let busy : State := { pair with hg := { pair.hg with flight := [{ slot := 0, node := 0, opc := 0x30 }] } }
    let deaf : State := pair.setPort 0 { st := .up, awaiting := some 3 }
    let parked : State := { stop ready false with hg := { ready.hg with
      flight := [{ slot := 0, node := 0, opc := 3, phase := .waiting 9 }] } }
    let sleeps : State := { ready with
      cut := { st := .scheduled, stopT := 5000 }, pwr := { ready.pwr with st := .deep, target := 2 } }
    let back : State := { stop ready false with hg := { ready.hg with
      slots := ready.hg.slots.set 0 { st := .run, stash := { ovf := [(0, 64)], returning := some (0, 64) } } } }
    back.cutDone = true ∧ back.quiet 0 = false ∧ (after .cutLocalDone back).cut.st = .committed
    ∧ counts (stop ready true) = true ∧ counts (stop pair true) = true ∧ counts busy = true
    ∧ counts pair = true ∧ counts deaf = true ∧ counts cut = true ∧ counts (sched 5000) = true
    ∧ roomy pair 1 = true ∧ roomy ready 0 = true ∧ roomy cut 1 = true
    ∧ (sched 5000).tm.tick.toNat ≤ (sched 5000).cut.stopT.toNat
    ∧ (after (.stopAtWrite 3000) (sched 5000)).cut.stopT = 3000 ∧ (after (.stopAtWrite 7000) (sched 5000)).cut.stopT = 5000
    ∧ (pair.port 0).linked = true ∧ (pair.port 0).awaiting = none ∧ (deaf.port 0).awaiting ≠ none
    ∧ (after (.stopCommand 0 5000) deaf).cut.st = .run ∧ (after (.stopCommand 0 500) cut).cut.st = .committed
    ∧ (stop ready false).cstate = .stopping ∧ parked.cstate = .stopping ∧ parked.cutDone = true
    ∧ (after .cutLocalDone parked).cut.st = .stopping ∧ (after .cutLocalDone ready).cut.st = .run
    ∧ sleeps.cstate = .scheduled ∧ sleeps.cutDone = true ∧ (after .cutLocalDone sleeps).cut.st = .committed
    ∧ (after (.stopAtWrite 5000) (stop pair false)).cut.stopErr = true ∧ (after .resume pair).cut.st = .run
    ∧ (500#64).toNat ≤ ready.tm.tick.toNat ∧ (after (.stopAtWrite 500) pair).cut.stopErr = true
    ∧ cut.cutOpen = false ∧ (after (.stopAtWrite 5000) cut).cut.stopErr = true
    ∧ pair.cut.st = .run ∧ (after (.stopAtWrite 5000) pair).cut.stopT = 5000
    ∧ (after (.stopCommand 0 500) pair).cut.st = .stopping ∧ (after (.stopCommand 0 500) pair).cut.late = true
    ∧ (after (.stopCommand 0 1000) pair).cut.st = .scheduled ∧ (after (.stopCommand 0 5000) cut).cut.st = .committed
    ∧ (after .stopTick (sched 999)).cut.st = .stopping ∧ (after .stopTick (sched 1000)).cut.st = .scheduled
    ∧ (stop ready false).cutDone = true ∧ (after .cutLocalDone (stop ready false)).cut.st = .committed
    ∧ ready.others = [] ∧ pair.others = [1] ∧ (stop pair false).cutDone = true
    ∧ (after .cutLocalDone (stop pair false)).cut.st = .localDone
    ∧ (stop pair true).cutDone = true ∧ (after .cutLocalDone (stop pair true)).cut.st = .abandoned
    ∧ busy.cutDone = false
    ∧ done.others = [1] ∧ done.hall.nid = 0 ∧ (after (.cutDoneNotice 1 true) done).cut.st = .committed
    ∧ (after (.cutDoneNotice 1 true) done).cut.late = true ∧ (after (.cutDoneNotice 5 true) done).cut.st = .localDone
    ∧ (after .resume cut).cut.st = .run ∧ (after .resume cut).cut.lastCut = 900
    ∧ (after (.resumeNotice 1) { pair with rem := { pair.rem with frozen := [1, 3] } }).rem.frozen = [3] := by
  decide +kernel

/-- The pair whole, and one that can take in node 1; this node alone in its part, which the other's manager freezes, also
while done with a cut; a frozen one that may go on, and one that meets a part that goes on; node 1 lost, or left out of a set,
while this node is done with a cut (R495, R500 to R503, R527). -/
theorem witness_HallMembership :
    let cutOff : State := { pair with hall := { pair.hall with portSts := [] } }
    let done : State := { cutOff with cut := { st := .localDone, stopT := 900 } }
    let offers : State := { pair with hall := { pair.hall with live := [0], mgr := 0, actMgr := 0 } }
    let thaws : State := { cutOff with
      hall := { cutOff.hall with mgr := 0, actMgr := 0, cont := false }, cut := { st := .partFrozen } }
    let keeps : State := { cutOff with hall := { cutOff.hall with mgr := 0, actMgr := 0 } }
    let frozen : State := { cutOff with hall := { cutOff.hall with cont := false }, cut := { st := .partFrozen } }
    let near : State := { pair with cut := { st := .localDone, stopT := 900, done := [0] } }
    near.hall.ofPart = [0, 1] ∧ (after (.lossDeclaration [1]) near).cut.st = .abandoned
    ∧ (after (.liveSetChange [0] []) near).cut.st = .abandoned ∧ (after (.liveSetChange [0] []) near).evt.pend = 0x80000
    ∧ counts cutOff = true ∧ counts done = true ∧ counts thaws = true ∧ counts keeps = true ∧ counts frozen = true
    ∧ counts near = true ∧ counts ready = true
    ∧ roomy pair 2 = true ∧ roomy offers 2 = true ∧ pair.others.length + 1 = 2
    ∧ pair.cut.st ≠ .partFrozen ∧ pair.hall.live.length ≤ pair.hall.part.length ∧ pair.hall.admissible pair.hall.part = []
    ∧ (after (.partitionEvaluation false) pair).cut.st = .run
    ∧ offers.hall.part = [0] ∧ offers.hall.admissible offers.hall.part = [1] ∧ offers.hall.cont = true
    ∧ (match offers.route { dst := 1 } with
        | .out o _ => decide ((offers.port o).txCount.toNat + 2 < 2 ^ 64 - 1)
          && (after (.partitionEvaluation false) offers).out.links == [.sluice o (.liveSet [0, 1]) 1000]
        | _ => false) = true
    ∧ frozen.cut.st = .partFrozen ∧ (after (.partitionEvaluation true) frozen).cut.st = .partFrozen
    ∧ (after (.partitionEvaluation false) frozen).evt.pend.getLsbD 15 = true
    ∧ (after (.partitionEvaluation false) frozen).cut.st = .partFrozen
    ∧ thaws.hall.continues thaws.hall.part = true ∧ (after (.partitionEvaluation false) thaws).cut.st = .run
    ∧ (after (.partitionEvaluation false) thaws).hall.cont = true
    ∧ (after (.partitionEvaluation false) done).evt.pend.getLsbD 19 = true
    ∧ cutOff.hall.part.length < cutOff.hall.live.length ∧ cutOff.hall.nid ∈ cutOff.hall.live
    ∧ cutOff.hall.continues cutOff.hall.part = false ∧ (after (.partitionEvaluation false) cutOff).cut.st = .partFrozen
    ∧ (after (.partitionEvaluation false) cutOff).evt.pend.getLsbD 15 = true
    ∧ keeps.hall.continues keeps.hall.part = true ∧ (after (.partitionEvaluation false) keeps).hall.cont = true
    ∧ pair.hall.single = false ∧ pair.hall.nid ∈ [(0 : BitVec 12)]
    ∧ ready.hall.single = true ∧ pair.hall.cont = true ∧ pair.snap.rb = .idle
    ∧ (after (.lossDeclaration [1]) pair).snap.lost = [1]
    ∧ (after (.lossDeclaration [1]) pair).evt.pend.getLsbD 16 = true
    ∧ frozen.hall.single = false ∧ frozen.hall.cont = false := by decide +kernel

/-- A set that its one node has, one whose acknowledgements come at once, later, or to a node that joins or is frozen; a
frozen node that rejoins, with a set offered to it and without; a node that is no member (R498, R499, R503). -/
theorem witness_HallMembership_sets :
    let frozen : State := { pair with hall := { pair.hall with cont := false }, cut := { st := .partFrozen } }
    let out : State := { pair with hall := { pair.hall with live := [1] } }
    let offered := after (.liveSetChange [0, 1] []) pair
    let joins : State := { pair with tm := { pair.tm with joining := true } }
    let back : State := { frozen with hall := { frozen.hall with offer := [0, 1], acks := [1] } }
    counts pair = true ∧ counts frozen = true ∧ counts offered = true
    ∧ (after (.partitionEvaluation false) out).cut.st = .run ∧ (after (.partitionEvaluation false) out).evt.pend = 0
    ∧ (after (.liveSetChange [0] []) pair).hall.live = [0]
    ∧ (after (.liveSetChange [0, 1] [1]) pair).hall.actMgr = 1 ∧ (after (.liveSetChange [0, 1] [1]) pair).hall.offer = []
    ∧ offered.out.links.map (fun | .sluice _ m _ => m == .liveAck 0 | _ => false) = [true]
    ∧ offered.hall.offer = [0, 1] ∧ (after (.liveSetChange [0, 1] [1]) offered).hall.offer = []
    ∧ (after (.liveSetChange [0, 1] [1]) offered).out = offered.out
    ∧ (after (.liveSetChange [0, 1] [1]) joins).hall.offer = [0, 1]
    ∧ (after (.liveSetChange [0, 1] [1]) frozen).hall.offer = [0, 1]
    ∧ (after (.liveSetChange [1] []) pair).hall.offer = [] ∧ (after (.liveSetChange [0] []) ready).hall.offer = []
    ∧ (after (.rejoin 77 [3]) frozen).tm.tick = 77
    ∧ (after (.rejoin 77 [3]) frozen).cut.st = .run ∧ (after (.rejoin 77 [3]) frozen).hall.cont = true
    ∧ (after (.rejoin 77 [3]) frozen).snap.lost = [3] ∧ (after (.rejoin 77 []) pair).tm.tick = 1000
    ∧ back.hall.offer ≠ [] ∧ (after (.rejoin 77 [3]) back).hall.offer = [] ∧ (after (.rejoin 77 [3]) back).hall.cont = true
    ∧ (after (.rejoin 77 [3]) back).tm.root = false := by decide +kernel

-- Ports, training, lanes and keys.

/-- A port of the pair that is DOWN, with its enable set or not. -/
def downPort (en : Bool) : State :=
  { pair.setPort 2 { st := .down } with pen := if en then 4 else 0, hall := { pair.hall with ydim := 2 } }

/-- Nine lanes that all train: their sync words name node 1, port 3. -/
def goodLanes : List LaneObs := (List.range 9).map fun k => ⟨200, 100, some (1, 3, k, false), true, 0⟩

theorem witness_PortsTrain :
    let up : State := { (downPort true).setPort 2 { st := .up, keyTx := some ⟨1, 2⟩ } with pen := 4 }
    let t1 := after (.portEnable 2) (downPort false)
    let bad := goodLanes.set 3 ⟨10, 100, none, false, 0⟩
    let t6 (n : Nat) : State := (downPort true).setPort 2 {
      st := .train, tstep := 6, laneOf := (List.range n).map fun k => (k, k) }
    counts (downPort false) = true ∧ counts (downPort true) = true ∧ counts up = true ∧ counts t1 = true
    ∧ counts (t6 7) = true ∧ counts (t6 6) = true ∧ (downPort false).pen.getLsbD 2 = false ∧ ((downPort false).port 2).st = .down ∧ (downPort false).portUnused 2 = false
    ∧ (t1.port 2).st = .train ∧ (t1.port 2).tstep = 1 ∧ t1.pen = 4
    ∧ up.pen.getLsbD 2 = true ∧ ((after (.portDisable 2) up).port 2).st = .down
    ∧ ((after (.portDisable 2) up).port 2).keyTx = none ∧ (after (.portDisable 2) up).evt.pend = 0x4000
    ∧ (after (.portDisable 2) (downPort true)).pen = 0
    ∧ (up.port 2).st.usable = true ∧ ((after (.retrain 2) up).port 2).st = .train
    ∧ ((after (.trainingRetry 2) (downPort true)).port 2).st = .train
    ∧ ((after (.trainStepEnd 2 bad) t1).port 2).fenced = 8 ∧ ((after (.trainStepEnd 2 bad) t1).port 2).tstep = 2
    ∧ ((t6 7).port 2).exhausted = false ∧ ((t6 7).port 2).farReady = false ∧ ((after (.trainStepEnd 2 goodLanes) (t6 7)).port 2).st = .trained
    ∧ ((after (.trainStepEnd 2 goodLanes) (t6 7)).port 2).rx.lanes.length = 7
    ∧ ((after (.trainStepEnd 2 goodLanes) (t6 7)).port 2).tx.lanes.length = 8
    ∧ ((after (.trainStepEnd 2 goodLanes) (t6 6)).port 2).st = .down := by decide +kernel

/-- Port 0 of the pair in service on lanes 0 to 7 with spare 8, and keys. -/
def serving (q : Port) : State := { pair.setPort 0 q with pen := 1 }
def inService (n : Nat) (spare : Option Nat) (away : List Nat) : Port :=
  { st := .up, tx := ⟨List.range n, spare, away⟩, rx := ⟨List.range n, spare, away⟩ }

theorem witness_LanesAndKeys :
    let s := serving (inService 8 (some 8) [])
    let bare := serving (inService 8 none [])
    let seven := serving (inService 7 none [7])
    let full := serving (inService 8 none [8])
    let short := serving (inService 6 none [])
    let keyed := serving { inService 8 none [] with stTx := some ⟨5, 6⟩, stRx := some ⟨7, 8⟩ }
    let trained := serving { inService 8 none [] with st := .trained, txNew := true, stRx := some ⟨7, 8⟩ }
    let first := serving { inService 8 none [] with st := .trained, stRx := some ⟨7, 8⟩ }
    let waits := serving { inService 8 none [] with awaiting := some 3, stTx := some ⟨5, 6⟩, stRx := some ⟨7, 8⟩ }
    let full1 : State := serving { inService 8 none [] with stTx := some ⟨5, 6⟩, replay := [⟨4, .inr .wake, 77⟩] }
    counts s = true ∧ counts keyed = true ∧ counts trained = true ∧ counts first = true ∧ counts waits = true
    ∧ counts bare = true ∧ counts seven = true ∧ counts full = true ∧ counts short = true ∧ ((after (.keyReady 0) full1).port 0).txOld = 2
    ∧ ((after (.keyReady 0) full1).port 0).replay.map (fun k => k.pseq) = [4, 0]
    ∧ ((after (.laneRemovalNotice 0 3) waits).port 0).tx = (waits.port 0).tx
    ∧ ((after (.laneSignalLoss 0 3) s).port 0).rx = ⟨[0, 1, 2, 8, 4, 5, 6, 7], none, [3]⟩ ∧ s.svc.count.length = 204
    ∧ (after (.laneSignalLoss 0 3) s).svc.count.getD 198 0 = 1
    ∧ ((after (.laneSignalLoss 0 3) bare).port 0).rx = ⟨[0, 1, 2, 4, 5, 6, 7], none, [3]⟩
    ∧ ((after (.laneSignalLoss 0 3) seven).port 0).stalled = true
    ∧ ((after (.laneRemovalNotice 0 3) s).port 0).tx = ⟨[0, 1, 2, 8, 4, 5, 6, 7], none, [3]⟩
    ∧ ((after (.laneRetrainDone 0 7 true) seven).port 0).rx = ⟨[0, 1, 2, 3, 4, 5, 6, 7], none, []⟩
    ∧ ((after (.laneRetrainDone 0 8 true) full).port 0).rx = ⟨[0, 1, 2, 3, 4, 5, 6, 7], some 8, []⟩
    ∧ ((after (.laneRetrainDone 0 7 false) seven).port 0).fenced = 0x80
    ∧ (after (.laneRetrainDone 0 7 false) seven).evt.pend = 0x2000
    ∧ ((after (.laneRecoveryTimeout 0 true) short).port 0).st = .down
    ∧ ((after (.laneRecoveryTimeout 0 false) seven).port 0).st = .up
    ∧ (keyed.port 0).linked = true ∧ (keyed.port 0).awaiting = none ∧ (keyed.port 0).exhausted = false
    ∧ (after (.keyReady 0) keyed).out.links = [.sluice 0 .keySwitch 1000] ∧ ((after (.keyReady 0) keyed).port 0).txOut = true
    ∧ ((after (.keyReady 0) waits).port 0).keyTx = none ∧ ((after (.keySwitch 0 true) waits).port 0).keyRx = none
    ∧ ((after (.keySwitch 0 true) first).port 0).st = .trained ∧ ((after (.keySwitch 0 true) first).port 0).rxNew = true
    ∧ ((after (.keySwitch 0 false) keyed).port 0).awaiting = some 0
    ∧ (after (.keySwitch 0 false) keyed).out.links = [.sluice 0 (.replayReq 0) 1000]
    ∧ ((after (.keyReady 0) keyed).port 0).keyTx = some ⟨5, 6⟩ ∧ ((after (.keyReady 0) bare).port 0).farReady = true
    ∧ ((after (.keySwitch 0 true) trained).port 0).st = .up ∧ ((after (.keySwitch 0 true) trained).port 0).keyRx = some ⟨7, 8⟩
    ∧ ((after (.keySwitch 0 false) trained).port 0).st = .trained ∧ (after (.keySwitch 0 false) trained).key.keyErr = true
    ∧ (bare.port 0).stRx = none := by decide +kernel

-- Data flits.

/-- A store of four bytes to 0x100 from node 1, a read of 64 bytes from 0x100, and one accumulated FP32 element. -/
def aStore : Flit := { typ := 2, src := 1, addr := 0x100, eseq := 5, len := 1, payload := [1, 2, 3, 4] }
def aRead : Flit := { typ := 1, src := 1, addr := 0x100, eseq := 5, len := 1 }
def anAdd (packed : Bool) : Flit :=
  { typ := if packed then 4 else 3, src := 1, addr := 0x100, eseq := 6, len := 1, cnt := 1, estr := 4
    lfmt := if packed then 9 else 0, scale := 0x3F80, payload := if packed then [0x00, 0x40] else [0, 0, 0, 0x40] }

/-- `Taken` at port 0, as a test. -/
def taken (s : State) (f : Flit) : Bool :=
  counts s && (s.port 0).st == .up && isData f && ((s.port 0).awaiting == none || (s.port 0).awaiting == some f.pseq)
    && (received s 0 f).route f == .here && !s.frozenFor f

theorem witness_store : taken pair aStore = true ∧ (pair.rem.appliedOf 1).seen 5 = false
    ∧ inStacks 0x100 4 = true ∧ Mem.getN (after (.store 0 aStore true) pair).mem 0x100 4 = 0x04030201 := by
  decide +kernel

/-- Writes merged in the basin: bits of a word, the extremes 1.0, 1.0 with 2.0, −3.0, the same with indices, and a row record
with its maximum and sum 1.0, 1.0 with 2.0, 0.5 (R159, R228, R231, R344). -/
theorem witness_store_merges :
    let s (old : Nat) : State := { pair with mem := bytesAt 0x100 16 old }
    let f (m : Merge) (n v : Nat) : Flit := { aStore with
      merge := m, payload := (List.range n).map fun k => BitVec.ofNat 8 (v / 256 ^ k) }
    let got (m : Merge) (n old v : Nat) : Nat := Mem.getN (after (.store 0 (f m n v) true) (s old)).mem 0x100 16
    taken (s 5) (f .stat 8 9) = true ∧ Memory.wf (s 5).mem = true ∧ inStacks 0x100 16 = true ∧ hallNode 0x100 = 0
    ∧ got (.bits 0xFFFF00FF) 4 0x44332211 0xAA00 = 0x4433AA11
    ∧ got .stat 8 0x3F8000003F800000 0xC040000040000000 = 0xC040000040000000
    ∧ got .index 16 0x00000009000000093F8000003F800000 0x0000000200000001C040000040000000
      = 0x0000000200000001C040000040000000
    ∧ got (.rows false) 8 0x3F8000003F800000 0x3F00000040000000 = 0x3FC0000040000000 := by decide +kernel

/-- 2.0 added to zero (R207). -/
theorem witness_accumulate :
    taken pair (anAdd false) = true ∧ taken pair (anAdd true) = true ∧ (plainVals (anAdd false)).length = 1
    ∧ (packedVals (anAdd true)).length = 1 ∧ flitFits (anAdd false) 1 = true ∧ flitFits (anAdd true) 1 = true
    ∧ hallNode 0x100 = pair.hall.nid.toNat
    ∧ Mem.getN (after (.accumulateWrite 0 (anAdd false) true) pair).mem 0x100 4 = 0x40000000
    ∧ Mem.getN (after (.accumulateWriteCompressed 0 (anAdd true) true) pair).mem 0x100 4 = 0x40000000 := by
  decide +kernel

/-- The same store twice: the second changes nothing (R471). -/
theorem witness_RemoteWritesApplyAtMostOnce :
    let s := after (.store 0 aStore true) pair
    counts pair = true ∧ roomy pair 2 = true ∧ (pair.port 0).hold = []
    ∧ writeOf (.store 0 aStore true) = some (0, aStore, true) ∧ s.mem ≠ pair.mem
    ∧ (s.rem.appliedOf 1).seen 5 = true
    ∧ (after (.store 0 { aStore with payload := [9] } true) s).mem = s.mem := by decide +kernel

/-- `SendsAtOnce` after the route of a flit taken at port 1, or of an answer made at the destination, as a test. -/
def leaves (a : State) (entry : Option (Fin 6)) (f : Flit) : Bool :=
  match a.route f with
  | .out o g =>
    let g' := { g with vc := a.channel entry o g }
    (a.port o).st == .up && !(a.port o).exhausted && !(a.port o).stalled && (a.port o).credits[queueOf g'] != 0
      && decide ((a.port o).replay.length < 512)
  | _ => false

/-- The 16th failure of a lane in 2²⁰ of its slots: lane 0, which a flit of counter value 0 came on (R458). -/
theorem witness_FlitsOnTheirWay_lane :
    let s := pair.setPort 0 { inService 8 none [] with fails := List.replicate 15 (0, 0) }
    let q := s.port 0
    nth q.rx.lanes (q.countOf aStore.pseq % 8) 9 = 0 ∧ q.rx.spare = none ∧ q.awaiting = none
    ∧ (q.fails.filter fun x => x.1 == 0 && decide (q.countOf aStore.pseq / 8 < x.2 + 2 ^ 20)).length = 15
    ∧ ((after (.store 0 aStore false) s).port 0).rx = ⟨[1, 2, 3, 4, 5, 6, 7], none, [0]⟩ := by decide +kernel

/-- A flit with a bad tag; one for node 1 that passes through; a read answered to node 1. -/
theorem witness_FlitsOnTheirWay :
    let thru : Flit := { aStore with dst := 1, src := 3 }
    (pair.port 0).linked = true ∧ roomy pair 2 = true ∧ counts pair = true
    ∧ (pair.port 0).awaiting = none ∧ ((after (.store 0 aStore false) pair).port 0).awaiting = some 0
    ∧ (pair.port 0).exhausted = false ∧ flitOf (.store 2 aStore true) = some (2, aStore, true) ∧ (pair.port 2).st ≠ .up
    ∧ leaves (admitted pair 0 thru) (some 0) thru = true ∧ (pair.port 0).txCount.toNat + 3 < 2 ^ 64
    ∧ (after (.flitForward 0 thru true) pair).out.links.length = (admitted pair 0 thru).out.links.length + 2
    ∧ taken pair aRead = true ∧ inStacks aRead.addr.toNat 64 = true
    ∧ leaves (received pair 0 aRead) none { typ := 5, dst := 1, src := 0, addr := 0x100 } = true
    ∧ (after (.readRequest 0 aRead true) pair).out.links.length = (received pair 0 aRead).out.links.length + 1 := by
  decide +kernel

/-- One open read and one open store of this node's to node 1, and their answers. -/
theorem witness_AnswersEndRequests :
    let rq : Req := ⟨{ typ := 1, dst := 1, addr := 0x1000000000100, len := 1 }, 0, 0⟩
    let wr : Req := ⟨{ typ := 2, dst := 1, addr := 0x1000000000200, len := 1, eseq := 4 }, 0, 0⟩
    let again : Req := { wr with f := { wr.f with retx := true } }
    let s : State := { pair with rem := { pair.rem with reads := [rq], unacked := [wr] } }
    let rsp : Flit := { typ := 5, src := 1, addr := 0x1000000000100, len := 1, payload := List.replicate 64 7 }
    let ack : Flit := { typ := 6, src := 1, addr := 0x1000000000200, eseq := 4 }
    let neg (st : BitVec 4) : Flit := { ack with typ := 7, status := st }
    let own : State := { s with rem := { s.rem with reads := [{ rq with node := stashNode }] } }
    counts s = true ∧ Memory.wf s.mem = true ∧ (after (.readResponse 0 rsp true) own).rem.reads = []
    ∧ (after (.readResponse 0 rsp true) own).rem.got = [(0, stashNode, 0x1000000000100)] ∧ 0x100000 ≤ stashNode
    ∧ taken s rsp = true ∧ s.rem.reads.find? (fun q => q.f.dst == rsp.src && q.f.addr == rsp.addr) = some rq
    ∧ Memory.wf s.rem.data = true
    ∧ (after (.readResponse 0 rsp true) s).rem.reads = []
    ∧ Mem.get (after (.readResponse 0 rsp true) s).rem.data 0x100000000013F = 7
    ∧ pair.rem.reads = [] ∧ taken s ack = true ∧ s.requestOf ack = some wr ∧ s.rem.heldReq = [] ∧ s.hg.flight = []
    ∧ s.snapFlight = none ∧ (after (.endToEndAck 0 ack true) s).rem.unacked = []
    ∧ pair.requestOf ack = none ∧ s.refused (neg 1) = some wr ∧ taken s (neg 1) = true
    ∧ s.refused { neg 1 with src := 5 } = some wr
    ∧ (after (.negativeResponse 0 { neg 1 with src := 5 } true) s).rem.heldReq = [again] ∧ s.stepFlight = none
    ∧ (after (.negativeResponse 0 (neg 1) true) s).rem.heldReq = [again]
    ∧ (after (.negativeResponse 0 (neg 3) true) s).rem.heldReq = [again]
    ∧ (after (.negativeResponse 0 (neg 3) true) s).rem.frozen = [1]
    ∧ (after (.negativeResponse 0 (neg 2) true) s).evt.pend = 2 := by decide +kernel

/-- The acknowledgement of a moved entry's one store: it leaves the ring for the overflow stack (R287). -/
theorem witness_StashMoved :
    let wr : Req := ⟨{ typ := 2, dst := 1, addr := 0x1000000000200, len := 1, eseq := 4 }, 0, stashNode⟩
    let s : State := { pair with
      rem := { pair.rem with unacked := [wr] }
      hg := { pair.hg with slots := pair.hg.slots.set 0 {
        st := .run, hdr := { stashSize := 256, ovfBase := 0x1000000000200, ovfSize := 256 }
        stash := { ring := [(0, 64)], moving := true } } } }
    let ack : Flit := { typ := 6, src := 1, addr := 0x1000000000200, eseq := 4 }
    taken s ack = true ∧ s.requestOf ack = some wr ∧ s.rem.unacked.erase wr = [] ∧ s.rem.heldReq = [] ∧ s.hg.flight = []
    ∧ s.snapFlight = none ∧ s.stepFlight = none
    ∧ ((after (.endToEndAck 0 ack true) s).slot 0).stash = { bottom := 64, ovf := [(0, 64)] } := by decide +kernel

/-- A port with two flits to replay, one that carries no data flit, one that owes one, one with a flit that waits for a
credit, and one whose far end has not yet acknowledged its new key. -/
theorem witness_NoticesAreTaken_links :
    let q : Port := { inService 8 none [] with
      replay := [⟨4, .inl { aStore with pseq := 4 }, 0⟩, ⟨5, .inr .wake, 77⟩], credits := Vector.replicate 4 3 }
    let s := serving q
    let held := serving { q with hold := [⟨aStore, none, none⟩], credits := Vector.replicate 4 0 }
    let stalled := serving { q with stalled := true }
    let owes := serving { q with owed := [⟨4, .inl { aStore with pseq := 4 }, 0⟩] }
    let trained (r : Bool) := serving { q with st := .trained, txNew := true, txOut := true, rxNew := r, txCount := 6 }
    let new : Port := { q with txOut := true, txOld := 1, txCount := 6, lastAck := some 4 }
    let up : State := serving new
    let named := after (.linkAcknowledgement 0 4) up
    let fresh := after (.linkAcknowledgement 0 5) up
    (counts s = true ∧ counts up = true ∧ counts stalled = true ∧ counts owes = true ∧ counts held = true
      ∧ counts (trained true) = true ∧ (up.port 0).st ≠ .trained
      ∧ (named.port 0).txOut = true ∧ (named.port 0).replay.map (fun k => k.pseq) = [5] ∧ (named.port 0).txOld = 0
      ∧ (fresh.port 0).txOut = false ∧ (fresh.port 0).txNew = true ∧ (fresh.port 0).replay = []
      ∧ new.acksNew 4 = false ∧ new.acksNew 5 = true ∧ new.acksNew 6 = false ∧ { new with txCount := 0 }.acksNew 0 = true
      ∧ { new with lastAck := none }.acksNew 0 = true)
    ∧ ((s.port 0).linked = true ∧ (s.port 0).awaiting = none ∧ (after (.replayRequest 0 5) s).out.links = [.sluice 0 .wake 77]
      ∧ (after (.replayRequest 0 4) s).out.links.length = 2 ∧ (ready.port 0).linked = false
      ∧ (after (.replayRequest 0 4) stalled).out.links = [.sluice 0 .wake 77]
      ∧ ((after (.replayRequest 0 4) stalled).port 0).owed.length = 1)
    ∧ ((s.port 0).txOut = false ∧ (s.port 0).owed = [] ∧ (owes.port 0).hold = [] ∧ (owes.port 0).carries = true
      ∧ ((after (.creditReturn 0 2 4) owes).port 0).owed = []
      ∧ (after (.creditReturn 0 2 4) owes).out.links = [.data 0 { aStore with pseq := 4 }]
      ∧ ((trained true).port 0).linked = true ∧ ((after (.linkAcknowledgement 0 4) (trained true)).port 0).st = .up
      ∧ ((after (.linkAcknowledgement 0 4) (trained false)).port 0).st = .trained
      ∧ ((after (.linkAcknowledgement 0 4) (trained false)).port 0).txOut = false)
    ∧ (((after (.linkAcknowledgement 0 4) s).port 0).replay.length = 1 ∧ (s.port 0).hold = []
      ∧ ((after (.creditReturn 0 2 4) s).port 0).credits[2] = 7 ∧ ((after (.creditReturn 0 2 64) s).port 0).credits[2] = 64
      ∧ (held.port 0).st = .up ∧ (held.port 0).exhausted = false ∧ (held.port 0).stalled = false ∧ queueOf aStore = 0
      ∧ (held.port 0).replay.length < 512
      ∧ (after (.creditReturn 0 0 1) held).out.links = [.data 0 (padded aStore)] ∧ ((after (.creditReturn 0 0 1) held).port 0).hold = []
      ∧ ((after (.linkAcknowledgement 0 4) held).port 0).hold.length = 1) := by decide +kernel

/-- The acting manager of the pair with a ring, and a node whose STEP waits for step-done. -/
theorem witness_NoticesAreTaken :
    let man : State := { pair with
      hall := { pair.hall with mgr := 0, actMgr := 0 }
      tr := { pair.tr with live := { pair.tr.live with base := 0x10000, size := 1, en := true } } }
    let due : State := { man with hg := { man.hg with
      flight := [{ slot := 0, node := 0, opc := 0x52, phase := .waiting 2 }] } }
    let step : State := { pair with hg := { pair.hg with
      flight := [{ slot := 0, node := 0, opc := 0x52, phase := .waiting 2 }] } }
    (counts pair = true ∧ counts man = true ∧ counts step = true ∧ roomy due 2 = true
      ∧ pair.hall.actMgr ≠ pair.hall.nid ∧ man.hall.actMgr = man.hall.nid
      ∧ man.tr.live.telem = true ∧ man.tr.live.size ≠ 0 ∧ man.tr.lostSince = 0 ∧ Memory.wf man.mem = true
      ∧ (after (.telemetryFlit 1 5) man).tr.wr = 1 ∧ fld (recordAt man (after (.telemetryFlit 1 5) man) 0) 278 106 = 5)
    ∧ ((allPorts.all fun q => !pair.cableTo q 5 2) = true ∧ roomy pair 8 = true ∧ pair.cableTo 0 1 1 = true
      ∧ ((after (.portStateNotice 1 1 4) pair).port 0).st = .keepalive ∧ pair.hall.stOf 5 2 = .down ∧ (after (.portStateNotice 5 2 3) pair).hall.stOf 5 2 = .up
      ∧ (pair.port 0).st.usable = true ∧ (pair.port 0).exhausted = false
      ∧ .sluice 0 (.portNotice 5 2 .up) 1000 ∈ (after (.portStateNotice 5 2 3) pair).out.links
      ∧ .sluice 0 (.portNotice 0 1 .up) 1000 ∈ (after (.portStateNotice 0 1 0) pair).out.links)
    ∧ (after (.endMarker 1 2 3 4 5) pair).rem.markers = [⟨1, 2, 3, 4, 5⟩]
    ∧ (man.aloneLive = false ∧ (1#12) ∈ man.hall.live ∧ man.hall.live.length = 2 ∧ man.stw.live.en = false
      ∧ man.stepFlight = none ∧ (after (.stepReady 1 []) man).stw.ready = [1] ∧ due.stepFlight.isSome = true
      ∧ (after (.stepReady 1 []) due).stepFlight.map Flight.phase = some (.waiting 3)
      ∧ (after (.stepReady 5 []) due).stw.ready = [])
    ∧ (Memory.wf step.mem = true ∧ step.stepFlight.isSome = true
      ∧ (after (.stepDone [(3, 9, 8)]) step).stepFlight.map Flight.phase = some (.waiting 3)
      ∧ Mem.getN (after (.stepDone [(3, 9, 8)]) step).mem (hallLoc (step.stwAddr 3 + 112)) 48 = 9
      ∧ (after (.stepDone []) pair) = pair) := by decide +kernel

/-- A merge of one conversion into the LIVE block of an initialised layer of the acting manager (R248, R264). -/
theorem witness_NoticesAreTaken_merge :
    let man : State := { pair with
      hall := { pair.hall with mgr := 0, actMgr := 0 }, stw := { pair.stw with live := { en := true } }
      mem := bytesAt 64 48 emptyBlock ++ bytesAt 160 32 1 }
    let b : BitVec 384 := BitVec.ofNat 384 (emptyBlock + put 64 40 1)
    posValid (man.posBlock 0) = true ∧ Memory.wf man.mem = true
    ∧ Mem.getN (after (.stepReady 1 [(0, b)]) man).mem 64 48 = b.toNat := by decide +kernel

-- Snapshots.

/-- This node's SNAP (or RESTORE) in a phase, alone in the hall, with image buffers of 64 KiB at 0x100000. -/
def snapping (opc ph : Nat) (s : State) : State :=
  { s with
    hg := { s.hg with flight := [{ slot := 0, node := 0, opc := opc, word := opc + put 176 32 7, phase := .waiting ph }] }
    snap := { s.snap with
      sbase := 0x100000, imgpg := 16, drain := 0, capTick := 900, newest := 3
      buf := s.snap.buf.set 0 .capture, bufSnum := s.snap.bufSnum.set 0 7 } }

theorem witness_SnapshotPhases :
    let s := snapping 0x42 4 ready
    let two := snapping 0x42 4 pair
    let back : State := { ready with snap := { ready.snap with
      rb := .fallback, imgpg := 16, lost := [1], target := 5, newest := 5, buf := ready.snap.buf.set 0 .rebuild } }
    let run : State := { ready with snap := { ready.snap with rb := .running, imgpg := 16 } }
    counts pair = true ∧ counts two = true ∧ counts s = true ∧ counts back = true ∧ counts run = true ∧ counts ready = true
    ∧ pair.others = [1] ∧ pair.snap.readies = [] ∧ pair.snapFlight = none
    ∧ (after (.snapReady 1 7 2 9) pair).snap.readies = [⟨1, 7, 2, 9⟩] ∧ (after (.snapReady 5 7 2 9) pair).snap.readies = []
    ∧ (two.snapFlight.map fun f => (f.phase, snNum f.word)) = some (.waiting 4, 7)
    ∧ (after (.captureDone 1 7) two).snap.dones = [1] ∧ ready.snapFlight = none
    ∧ Memory.wf s.mem = true ∧ s.others = [] ∧ (after (.snapCaptureEnd []) s).snap.newest = 7
    ∧ (after (.snapCaptureEnd []) s).snapFlight.map Flight.phase = some (.waiting 6)
    ∧ Mem.getN (after (.snapCaptureEnd []) s).mem (hallLoc (s.bufAt s.captureBuf) + 8) 8 = 900
    ∧ run.rebuildReads = [] ∧ (run.dealt (run.solveAll [])).2 ≤ run.snap.imgpg.toNat
    ∧ back.rebuildReads = [] ∧ back.snap.buf[back.captureBuf] = .rebuild
    ∧ ((after (.rebuildDone [⟨1, 1, []⟩]) back).snap.rb, (after (.rebuildDone [⟨1, 1, []⟩]) back).snap.buf[0]) = (.done, .held)
    ∧ (after (.rebuildDone []) run).snap.rb = .done ∧ (after (.rebuildDone []) ready).snap.rb = .idle := by decide +kernel

/-- An image of step 5 in the buffer that a RESTORE reads (R514, R536). -/
theorem witness_RestoreWrites :
    let s : State := { snapping 0x43 4 ready with mem := bytesAt 0x100000 32 (put 128 32 5 + put 188 4 1) }
    let s : State := { s with snap := { s.snap with ownImage := some 0 } }
    s.others = [] ∧ (s.snapFlight.map fun f => (s.restoreAll f).hg.stepNo) = some 5
    ∧ (after (.restoreWriteEnd []) s).hg.stepNo = 5
    ∧ (after (.restoreWriteEnd []) s).snapFlight.map Flight.phase = some (.waiting 6) := by decide +kernel

/-- A node without an image of its own goes by the acting manager's, whose tag it checks (R514, R516, R537): this is one of
step 5 under its tag, and `late` one of step 6 without. -/
def noImage : State := { snapping 0x43 4 ready with key := { snapKey := some ⟨1, 2⟩ } }
def tagCells : Memory := bytesAt 32 16 35014845814111729836385751814868400902
def indexed : Image := ⟨0, 0, bytesAt 0 32 (7 + put 128 32 5 + put 188 4 1) ++ tagCells⟩
def late : Image := ⟨0, 0, bytesAt 0 32 (7 + put 128 32 6 + put 188 4 1)⟩
def given (x : Image) : Option Flight := noImage.snapFlight.map fun f => { f with images := [x] }
theorem witness_RestoreWrites_fit : noImage.snap.ownImage = none ∧ noImage.imageFit indexed 7 = true
    ∧ noImage.imageFit { indexed with node := 1 } 7 = false := by decide +kernel
theorem witness_RestoreWrites_late : noImage.imageFit late 7 = false := by decide +kernel
theorem witness_RestoreWrites_check :
    ((given indexed).bind fun f => (noImage.indexImage f).map (noImage.imageCheck f)) = some 0 := by decide +kernel
theorem witness_RestoreWrites_all :
    (given indexed).map (fun f => (noImage.restoreAll f).hg.stepNo) = some 5 := by decide +kernel
theorem witness_RestoreWrites_given : (after (.restoreWriteEnd [indexed]) noImage).hg.stepNo = 5 := by decide +kernel
theorem witness_RestoreWrites_kept :
    (given indexed).map (fun f => (after (.restoreWriteEnd [late]) (noImage.setFlight f)).hg.stepNo) = some 5 := by
  decide +kernel

/-- AES-256-GMAC of no block under a key and an IV of zeros, as published with the GCM mode (R516). -/
theorem test_gmac : lowBytes 16 (gmacOf 0 0 0 fun _ => [])
    = [0x53, 0x0F, 0x8A, 0xFB, 0xC7, 0x45, 0x36, 0xB9, 0xA9, 0x63, 0xB4, 0xF1, 0xC4, 0xCB, 0x73, 0x8B] := by
  decide +kernel

/-- Node 0 holds the parity of the nodes 1 and 2, whose enclosures are 1 and 2; its own is 3. -/
def holder : State :=
  { pair with
    hall := { pair.hall with xdim := 3, live := [0, 1, 2] }
    mem := bytesAt 0x2000 64 (put 0 4 2 + put 4 2 1 + put 8 12 1 + put 20 8 1 + put 28 12 2 + put 40 8 2 + put 168 12 0
      + put 180 8 3)
    snap := { pair.snap with
      sbase := 0x100000, pbase := 0x2000, imgpg := 1, pgcnt := 1, newest := 7
      buf := pair.snap.buf.set 0 .parity, bufSnum := pair.snap.bufSnum.set 0 7, bufDepth := pair.snap.bufDepth.set 0 1 } }

/-- The parity of two bytes (R513), the manager's word, copies to flash and store, a load that failed, reports, and the
history (R522 to R525). -/
theorem witness_ParityAndCopies :
    let imgs : List Image := [⟨1, 1, [(100, 0x55)]⟩, ⟨2, 1, [(100, 0x0F)]⟩]
    let s := holder
    let copy : State := { ready with snap := { ready.snap with
      buf := ready.snap.buf.set 1 .copy, bufSnum := ready.snap.bufSnum.set 1 7, copying := [(1, 1), (1, 2)] } }
    let load : State := { ready with snap := { ready.snap with buf := ready.snap.buf.set 0 .load, loads := [1] } }
    let lost : State := { ready with snap := { ready.snap with buf := ready.snap.buf.set 1 .rebuild, copying := [(1, 4)] } }
    let load4 : State := { ready with snap := { ready.snap with buf := ready.snap.buf.set 1 .load, copying := [(1, 4)] } }
    counts s = true ∧ counts copy = true ∧ counts load = true ∧ counts load4 = true
    ∧ (after (.ackLoad 7 true false) load4).snap.buf[1] = .held ∧ (after (.ackLoad 7 true true) load4).snap.buf[1] = .empty
    ∧ s.snapFlight = none ∧ (s.rolesOf 0)[0]? = some (0, 0) ∧ (s.rolesOf 0)[1]? = none ∧ s.hall.actMgr ≠ s.hall.nid
    ∧ (gMembers (s.group 0)).map (·.1) = [1, 2]
    ∧ Mem.get (after (.parityComplete 0 imgs) s).mem (hallLoc (s.parAt 0 0) + 100) = 0x5A
    ∧ (after (.parityComplete 0 imgs) s).snap.parSnum[0] = 7
    ∧ (after (.parityNotice 1 7) s).snap.durPar = 7 ∧ (after (.parityNotice 1 7) s).snap.buf[0] = .copy
    ∧ (after (.parityNotice 1 7) s).evt.pend = 0x100000 ∧ (after (.parityNotice 2 7) s).snap.durPar = 0
    ∧ copy.others = [] ∧ copy.pwr.st = .run ∧ (after (.ackFlash 7 false) copy).snap.durFlash = 7
    ∧ (after (.ackStore 7 false) (after (.ackFlash 7 false) copy)).snap.buf[1] = .held
    ∧ (after (.ackFlash 7 true) copy).snap.buf[1] = .held
    ∧ ready.snap.copying = [] ∧ load.snap.loads = [1] ∧ load.snap.loadBuf = 0
    ∧ (after (.ackLoad 7 false true) load).snap.buf[0] = .empty ∧ load.snap.rb ≠ .fallback ∧ load.snap.copying = []
    ∧ (after (.ackLoad 7 true false) lost).snap.copying = [] ∧ (after (.ackLoad 7 true false) lost).snap.buf[1] = .rebuild
    ∧ (after (.ackLoad 7 true true) lost).snap.buf[1] = .empty ∧ ready.snap.loads = []
    ∧ (after (.copyReport 0 true 7 true) ready).snap.durStore = 7
    ∧ (after (.copyReport 0 true 6 true) (after (.copyReport 0 true 7 true) ready)).snap.durStore = 7
    ∧ (after (.backupHistoryUpdate [8, 8, 8, 8, 8, 8, 8, 8] []) ready).snap.interval = 30 := by decide +kernel

/-- Two images of one byte each, and the second back from P and from Q (R513, R529). -/
theorem witness_ParityRecoversLostImages :
    let imgs : List Memory := [[(3, 0x80)], [(3, 0xC1), (9, 1)]]
    imgs.length ≤ 8 ∧ (∀ m ∈ imgs, Memory.wf m = true)
    ∧ solveGroup 2 [1] [(0, [(3, 0x80)])] [(0, parityOf2 0 imgs)] = [(1, [(3, 0xC1), (9, 1)])]
    ∧ solveGroup 2 [1] [(0, [(3, 0x80)])] [(1, parityOf2 1 imgs)] = [(1, [(3, 0xC1), (9, 1)])]
    ∧ solveGroup 2 [0, 1] [] [(0, parityOf2 0 imgs), (1, parityOf2 1 imgs)]
      = [(0, [(3, 0x80)]), (1, [(3, 0xC1), (9, 1)])] := by decide +kernel

/-- 1.5 in E4M3 is 0x3C and comes back; 2.5 goes to 3 and −2.5 to −3 (R107, R127). -/
theorem witness_RoundingIsNearest : Fmt.isInt .e4m3 = false ∧ 0x3C < 2 ^ Fmt.bits .e4m3
    ∧ (Fmt.decode .e4m3 0x3C).isNan = false ∧ (Fmt.decode .e4m3 0x3C).isInf = false
    ∧ Fmt.encode .e4m3 (Fmt.decode .e4m3 0x3C) = (0x3C, .none) ∧ Dy.round ⟨5, -1⟩ = 3 ∧ Dy.round ⟨-5, -1⟩ = -3 := by
  decide +kernel

-- Well-formed commands: one that is refused for each check.

theorem test_wf_nodes : Instr.wf (.nop 0 1048576) = false ∧ Instr.wf (.nop 0 1048575) = true := by decide +kernel
theorem test_wf_members : Instr.wf (.fprod 0 0 0 [⟨4, false, false⟩]) = false ∧ Instr.wf (.fprod 0 0 0 [⟨3, true, true⟩]) = true := by
  decide +kernel
theorem test_wf_contexts : Instr.wf (.ctxsave 0 0 [(1048576, 0)]) = false
    ∧ Instr.wf (.ctxload 0 0 [(1048576, 0)]) = false := by decide +kernel
theorem test_wf_skew : Instr.wf (.operandFetch 0 0 0 (some ⟨some 4, false, 0, 5, 5⟩)) = false
    ∧ Instr.wf (.operandFetch 0 0 0 (some ⟨none, false, 0, 2 ^ 28, 5⟩)) = false
    ∧ Instr.wf (.operandFetch 0 0 0 (some ⟨some 3, true, 0, 5, 6⟩)) = true := by decide +kernel
theorem test_wf_hits : Instr.wf (.gangStreamStart 0 0 [⟨4, false, false⟩]) = false
    ∧ Instr.wf (.gangStreamStart 0 0 [⟨3, true, true⟩]) = true := by decide +kernel
theorem test_wf_accesses : Instr.wf (.registerWrite 0x104 none 0) = false ∧ Instr.wf (.badAccess 0x104 4 true) = false
    ∧ Instr.wf (.badAccess 0x104 8 true) = true := by decide +kernel
theorem test_wf_findings : Instr.wf (.selftestBatchEnd [⟨32, [], false⟩]) = false
    ∧ Instr.wf (.selftestBatchEnd [⟨31, [(48, 0)], false⟩]) = false
    ∧ Instr.wf (.selftestBatchEnd [⟨31, [(47, 48)], false⟩]) = false
    ∧ Instr.wf (.selftestBatchEnd [⟨31, [(47, 47)], false⟩]) = true := by decide +kernel
theorem test_wf_sensors : Instr.wf (.sensorRead [1]) = false ∧ Instr.wf (.currentSample [1, 2, 3] [1, 2]) = false
    ∧ Instr.wf (.currentSample [1, 2] [1, 2]) = false
    ∧ Instr.wf (.currentSample [1, 2, 3, 4, 5] [1, 2, 3, 4, 5]) = false := by decide +kernel
theorem test_wf_time : Instr.wf (.timeFlit 0 (2 ^ 68) 0 0 0 0) = false ∧ Instr.wf (.timeFlit 0 0 (2 ^ 68) 0 0 0) = false
    ∧ Instr.wf (.timeFlit 0 0 0 (2 ^ 68) 0 0) = false ∧ Instr.wf (.timeFlit 0 0 0 0 (2 ^ 68) 0) = false := by
  decide +kernel
theorem test_wf_lanes : Instr.wf (.trainStepEnd 0 (goodLanes.drop 1)) = false
    ∧ Instr.wf (.trainStepEnd 0 (goodLanes.set 0 ⟨0, 0, some (0, 6, 0, false), true, 0⟩)) = false
    ∧ Instr.wf (.trainStepEnd 0 (goodLanes.set 0 ⟨0, 0, some (0, 0, 9, false), true, 0⟩)) = false
    ∧ Instr.wf (.laneSignalLoss 0 9) = false ∧ Instr.wf (.laneRemovalNotice 0 9) = false
    ∧ Instr.wf (.laneRetrainDone 0 18 true) = false := by decide +kernel
theorem test_wf_flits : Instr.wf (.store 0 { payload := List.replicate 129 0 } true) = false
    ∧ Instr.wf (.endToEndAck 0 { payload := List.replicate 129 0 } true) = false
    ∧ Instr.wf (.creditReturn 0 0 0) = false ∧ Instr.wf (.creditReturn 0 0 65) = false
    ∧ Instr.wf (.portStateNotice 0 0 7) = false := by decide +kernel
theorem test_wf_images : Instr.wf (.restoreWriteEnd [⟨0, 1, [(4096, 1)]⟩]) = false ∧ Instr.wf (.restore 0 0 [⟨0, 1, [(4096, 1)]⟩]) = false
    ∧ Instr.wf (.snapCaptureEnd [(3, 0)]) = false ∧ Instr.wf (.snapCaptureEnd [(3, 1), (3, 1)]) = false
    ∧ Instr.wf (.rebuildDone [⟨0, 1, [(4096, 1)]⟩]) = false ∧ Instr.wf (.rebuildDone [⟨0, 1, [(4095, 1)]⟩]) = true := by
  decide +kernel
theorem test_wf_history : Instr.wf (.backupHistoryUpdate [1] []) = false
    ∧ Instr.wf (.backupHistoryUpdate [1, 1, 1, 1, 1, 1, 1, 1] (List.replicate 17 1)) = false := by decide +kernel
end Sys2Proof.Tests
end

section
/-! What every command keeps, but the two that set the grade: the queue, the grade, the usable arrays, and the canonical
form of memory. -/
namespace Sys2Proof.Machine

/-- `t` is `s` after something that takes no command off the queue, sets no grade and no usable arrays, and keeps the
canonical form of memory. -/
def State.Keeps (s t : State) : Prop :=
  t.pending = s.pending ∧ t.grade = s.grade ∧ t.present = s.present ∧ (s.MemOk → t.MemOk)

/-- An outcome that goes on, in a state that keeps these. -/
def State.Goes (s : State) (o : Host.Outcome State Fault Refusal) : Prop := ∃ t, o = .next t ∧ s.Keeps t

theorem State.Goes.next {s a : State} (h : s.Keeps a) : s.Goes (.next a) := ⟨a, rfl, h⟩

namespace State.Keeps
variable {s a b : State} {α β γ : Type}

theorem refl (s : State) : s.Keeps s := ⟨rfl, rfl, rfl, id⟩

theorem next (h : s.Keeps a) : s.Goes (.next a) := ⟨a, rfl, h⟩

/-- Any other fields may be replaced. -/
theorem fields (h : s.Keeps a) {phase loadOpen warm scanAsked hg stw tr arrs evt tm cut hall pwr gov st pen ports key
    rem
    snap obs svc out free} : s.Keeps ⟨a.pending, a.mem, phase, loadOpen, warm, scanAsked, a.present, a.grade, hg, stw,
    tr,
    arrs, evt, tm, cut, hall, pwr, gov, st, pen, ports, key, rem, snap, obs, svc, out, free⟩ := h

theorem ite {c : Prop} [Decidable c] (h : s.Keeps a) (k : s.Keeps b) : s.Keeps (if c then a else b) := by
  split <;> assumption

theorem dite {c : Prop} [Decidable c] {f : c → State} {g : ¬c → State} (h : ∀ x, s.Keeps (f x)) (k : ∀ x, s.Keeps
    (g x)) :
    s.Keeps (if x : c then f x else g x) := by
  split
  · exact h _
  · exact k _

theorem iteFst {c : Prop} [Decidable c] {p q : State × α} (h : s.Keeps p.1) (k : s.Keeps q.1) :
    s.Keeps (if c then p else q).1 := by
  split <;> assumption

theorem fst (h : s.Keeps a) {x : α} : s.Keeps (a, x).1 := h

/-- The state of a pair, by the equation that names it. -/
theorem of_eq {p : State × α} {t : State} {x : α} (e : p = (t, x)) (h : s.Keeps p.1) : s.Keeps t := by
  subst e
  exact h

theorem pair {p : State × α} {k : State → α → State} (h : s.Keeps p.1)
    (hk : ∀ {t x}, s.Keeps t → s.Keeps (k t x)) : s.Keeps (Prod.casesOn p k) := hk h

theorem pairFst {p : State × α} {k : State → α → State × β} (h : s.Keeps p.1)
    (hk : ∀ {t x}, s.Keeps t → s.Keeps (k t x).1) : s.Keeps (Prod.casesOn p k : State × β).1 := hk h

theorem foldl {f : State → α → State} {l : List α} (h : s.Keeps a) (hf : ∀ {b x}, s.Keeps b → s.Keeps (f b x)) :
    s.Keeps (l.foldl f a) := by
  induction l generalizing a with
  | nil => exact h
  | cons x l ih => exact ih (hf h)

theorem foldlFst {f : State × β → α → State × β} {l : List α} {p : State × β} (h : s.Keeps p.1)
    (hf : ∀ {b x}, s.Keeps b.1 → s.Keeps (f b x).1) : s.Keeps (l.foldl f p).1 := by
  induction l generalizing p with
  | nil => exact h
  | cons x l ih => exact ih (hf h)

theorem foldlMid {f : γ × State × β → α → γ × State × β} {l : List α} {p : γ × State × β} (h : s.Keeps p.2.1)
    (hf : ∀ {b x}, s.Keeps b.2.1 → s.Keeps (f b x).2.1) : s.Keeps (l.foldl f p).2.1 := by
  induction l generalizing p with
  | nil => exact h
  | cons x l ih => exact ih (hf h)

theorem forN {f : State → Nat → State} {n : Nat} (h : s.Keeps a) (hf : ∀ {b k}, s.Keeps b → s.Keeps (f b k)) :
    s.Keeps (forN n a f) := h.foldl hf

theorem forNFst {f : State × β → Nat → State × β} {n : Nat} {p : State × β} (h : s.Keeps p.1)
    (hf : ∀ {b k}, s.Keeps b.1 → s.Keeps (f b k).1) : s.Keeps (Machine.forN n p f).1 := foldlFst h hf

/-- Another memory in canonical form. -/
theorem memory (h : s.Keeps a) {m : Memory} (hm : Memory.wf a.mem = true → Memory.wf m = true) :
    s.Keeps { a with mem := m } := by
  obtain ⟨h1, h2, h3, h4⟩ := h
  exact ⟨h1, h2, h3, fun k => hm (h4 k)⟩

/-- A slice of bytes written, and any other fields replaced. -/
theorem paste (h : s.Keeps a) {p n cells phase loadOpen warm scanAsked hg stw tr arrs evt tm cut hall pwr gov st pen
    ports
    key rem snap obs svc out free} : s.Keeps ⟨a.pending, Mem.paste a.mem p n cells, phase, loadOpen, warm, scanAsked,
    a.present, a.grade, hg, stw, tr, arrs, evt, tm, cut, hall, pwr, gov, st, pen, ports, key, rem, snap, obs, svc, out,
    free⟩ :=
  (h.memory fun hm => Memory.wf_paste hm _ _ _).fields

theorem trans (h : s.Keeps a) (k : a.Keeps b) : s.Keeps b := by
  obtain ⟨h1, h2, h3, h4⟩ := h
  obtain ⟨k1, k2, k3, k4⟩ := k
  exact ⟨k1.trans h1, k2.trans h2, k3.trans h3, fun m => k4 (h4 m)⟩

/-- Memory, trace records and events alone. -/
theorem notes (h : s.Keeps a) (n : a.Notes b) : s.Keeps b := by
  obtain ⟨m, x, e, l, rfl, -, -, -, -, hm⟩ := n
  exact h.trans ⟨rfl, rfl, rfl, hm⟩

theorem sends (h : s.Keeps a) (n : a.Sends b) : s.Keeps b := by
  obtain ⟨q, o, r, l, rfl⟩ := n
  exact h.fields

theorem readies (h : s.Keeps a) (n : a.Readies b) : s.Keeps b := by
  obtain ⟨t, n, k⟩ := n
  exact (h.notes n).sends k

end State.Keeps
end Sys2Proof.Machine
end

section
/-! What is kept by the operations of the state, the flags and the links. -/
namespace Sys2Proof.Machine.State.Keeps
variable {s a b : State}

theorem wrN (h : s.Keeps a) {x n v} : s.Keeps (a.wrN x n v) := h.memory fun hm => Memory.wf_setN hm _ _ _

theorem draw (h : s.Keeps a) : s.Keeps a.draw.2 := h.fields

theorem answer (h : s.Keeps a) {data} : s.Keeps (a.answer data) := h.fields

theorem setSlot (h : s.Keeps a) {i x} : s.Keeps (a.setSlot i x) := h.fields

theorem setPort (h : s.Keeps a) {p x} : s.Keeps (a.setPort p x) := h.fields

theorem setArr (h : s.Keeps a) {n x} : s.Keeps (a.setArr n x) := .dite (fun _ => h.fields) fun _ => h

theorem setDiag (h : s.Keeps a) {n x} : s.Keeps (a.setDiag n x) := .dite (fun _ => h.fields) fun _ => h

theorem setDep (h : s.Keeps a) {i n w} : s.Keeps (a.setDep i n w) := h.wrN

theorem setWait (h : s.Keeps a) {i n st wait waux wpeer} : s.Keeps (a.setWait i n st wait waux wpeer) := h.setDep

theorem setFlight (h : s.Keeps a) {f} : s.Keeps (a.setFlight f) := h.fields

theorem addFlight (h : s.Keeps a) {f} : s.Keeps (a.addFlight f) := h.fields

theorem dropFlight (h : s.Keeps a) {i n} : s.Keeps (a.dropFlight i n) := h.fields

theorem bump (h : s.Keeps a) {x1 i n} : s.Keeps (a.bump x1 i n) := .dite (fun _ => h.fields) fun _ => h

theorem bumpCounts (h : s.Keeps a) {core c} : s.Keeps (a.bumpCounts core c) := h.bump.bump.bump

theorem svcAdd (h : s.Keeps a) {i n} : s.Keeps (a.svcAdd i n) := h.fields

theorem putRec (h : s.Keeps a) {r} : s.Keeps (a.putRec r) := h.notes (a.putRec_notes r)

theorem trace (h : s.Keeps a) {recs} : s.Keeps (a.trace recs) :=
  .ite h (.ite h.fields.fields (h.fields.fields.foldl (fun h => h.putRec)))

theorem raise (h : s.Keeps a) {e w w0 w1 w2} : s.Keeps (a.raise e w w0 w1 w2) := .ite h.fields.trace h.fields

theorem traceInst (h : s.Keeps a) {rtype w body} : s.Keeps (a.traceInst rtype w body) := .ite h.trace h

theorem sampleBank (h : s.Keeps a) {x1} : s.Keeps (a.sampleBank x1) := .dite (fun _ => h.fields.trace) fun _ => h

theorem resetBank (h : s.Keeps a) {x1 cmdid} : s.Keeps (a.resetBank x1 cmdid) := .dite (fun _ => h.fields) fun _ => h

theorem putSluice (h : s.Keeps a) {p m} : s.Keeps (a.putSluice p m) := h.setPort.bump.fields

theorem sluiceOn (h : s.Keeps a) {p m} : s.Keeps (a.sluiceOn p m) := .ite h.putSluice h

theorem sluiceAll (h : s.Keeps a) {m but} : s.Keeps (a.sluiceAll m but) := h.foldl (fun h => .ite h h.sluiceOn)

theorem freeQueue (h : s.Keeps a) {came} : s.Keeps (a.freeQueue came) := by
  unfold State.freeQueue
  split
  exacts [h.sluiceOn, h]

theorem transmit (h : s.Keeps a) {p f came via wake} : s.Keeps (a.transmit p f came via wake) :=
  .ite h.setPort.bump.fields.freeQueue (.ite h.setPort.sluiceOn h.setPort)

theorem sendKept (h : s.Keeps a) {p k} : s.Keeps (a.sendKept p k) := by
  unfold State.sendKept
  split
  exacts [h.bump.fields, h.fields, h.bump.fields]

theorem sendAgain (h : s.Keeps a) {p l} : s.Keeps (a.sendAgain p l) := h.setPort.foldl (fun h => h.sendKept)

theorem release (h : s.Keeps a) {p} : s.Keeps (a.release p) := h.sendAgain.setPort.foldl (fun h => h.transmit)

theorem launch (h : s.Keeps a) {f wake} : s.Keeps (a.launch f wake).1 := by
  unfold State.launch
  split
  exacts [h.transmit.fst, h.fst]

theorem nak (h : s.Keeps a) {f status wake} : s.Keeps (a.nak f status wake) := h.launch

theorem showHeld (h : s.Keeps a) {q} : s.Keeps (a.showHeld q) :=
  .ite h (h.foldl (fun h => .ite h.setWait (.ite h.setWait h)))

theorem hold (h : s.Keeps a) {q} : s.Keeps (a.hold q) := h.fields.showHeld

theorem showNode (h : s.Keeps a) {i n} : s.Keeps (a.showNode i n) := by
  unfold State.showNode
  split
  exacts [h.showHeld, h]

theorem sendWrite (h : s.Keeps a) {i n f} : s.Keeps (a.sendWrite i n f) :=
  .ite h.hold (.pair h.fields.fields.launch fun h => .ite h h.hold)

theorem follow (h : s.Keeps a) {x1 bytes} : s.Keeps (a.follow x1 bytes) := h.fields

theorem sendRead (h : s.Keeps a) {i n x3} : s.Keeps (a.sendRead i n x3) :=
  .pair h.fields.launch fun h => .ite h h.hold

theorem holdReq (h : s.Keeps a) {q} : s.Keeps (a.holdReq q) := .ite h.fields h.fields.hold

theorem sendReq (h : s.Keeps a) {q} : s.Keeps (a.sendReq q) := .pair h.fields.launch fun h => .ite h h.hold

theorem resend (h : s.Keeps a) {pick} : s.Keeps (a.resend pick) :=
  h.fields.foldl (fun h => .ite h.sendReq h.sendWrite)

theorem retransmit (h : s.Keeps a) : s.Keeps a.retransmit := h.fields.foldl (fun h => .ite h h.sendReq)

theorem chooseParent (h : s.Keeps a) : s.Keeps a.chooseParent := .ite h.fields (by split; exacts [h.fields, h.fields])

theorem noteOwnPort (h : s.Keeps a) {p} : s.Keeps (a.noteOwnPort p) := h.fields

theorem announce (h : s.Keeps a) {p} : s.Keeps (a.announce p) := h.noteOwnPort.sluiceAll

theorem wakesSince (h : s.Keeps a) {s0} : s.Keeps (a.wakesSince s0) := h.foldl (fun h => .ite h.sluiceOn h)

theorem reroute (h : s.Keeps a) {held} : s.Keeps (a.reroute held) :=
  h.foldl (fun h => .ite h (by dsimp only; split; exacts [h.transmit, h.freeQueue.nak]))

theorem portDown (h : s.Keeps a) {p st ev} : s.Keeps (a.portDown p st ev) :=
  .retransmit (.wakesSince (.announce (.chooseParent (.reroute (.ite (h.setPort.foldl (fun h => h.setPort)).raise
              (h.setPort.foldl (fun h => h.setPort)))))))

theorem downExhausted (h : s.Keeps a) {p} : s.Keeps (a.downExhausted p) := .ite h.portDown h

theorem sweep (h : s.Keeps a) : s.Keeps a.sweep := h.foldl (fun h => h.downExhausted)

theorem sluiceIn (h : s.Keeps a) {p} {act : State → State} (k : ∀ {b}, s.Keeps b → s.Keeps (act b)) :
    s.Keeps (a.sluiceIn p act) := .ite (k h.sweep) h.sweep

theorem drainTelem (h : s.Keeps a) {p} : s.Keeps (a.drainTelem p) := by
  unfold State.drainTelem
  refine .ite h ?_
  split
  exact h.setPort.foldl (fun h => h.sluiceOn)

theorem telemetryOn (h : s.Keeps a) {p x2} : s.Keeps (a.telemetryOn p x2) := .drainTelem (.ite h.setPort h.setPort.bump)

theorem train (h : s.Keeps a) {p} : s.Keeps (a.train p) := .ite h h.setPort

end Sys2Proof.Machine.State.Keeps
end

section
/-! What is kept by operands, retirement, planes, the basin and loading. -/
namespace Sys2Proof.Machine.State.Keeps
variable {s a b : State}

theorem wrAny (h : s.Keeps a) {i n x3 k v} : s.Keeps (a.wrAny i n x3 k v) := .ite h.wrN h.follow.sendWrite

theorem mergeAt (h : s.Keeps a) {i n x3 k v m new} : s.Keeps (a.mergeAt i n x3 k v m new) := .ite h.wrN h.sendWrite

theorem writePlace (h : s.Keeps a) {i n p v} : s.Keeps (a.writePlace i n p v) :=
  .ite (.ite h.wrN (.ite (h.wrAny.foldl (fun h => h.wrAny)) h.follow.sendWrite)) (.wrAny (.ite h.wrN (.ite
          (h.wrAny.foldl (fun h => h.wrAny)) h.follow.sendWrite)))

theorem ladderFormat (h : s.Keeps a) {l} : s.Keeps (a.ladderFormat l) := h.notes (a.ladderFormat_notes l)

theorem initLayer (h : s.Keeps a) {l} : s.Keeps (a.initLayer l) := h.readies (a.initLayer_readies l)

theorem convCode (h : s.Keeps a) {k y c v sc} : s.Keeps (a.convCode k y c v sc).2.1 := by
  unfold State.convCode
  dsimp only
  split
  exacts [h, h.writePlace]

theorem convWrite (h : s.Keeps a) {k y c v sc} : s.Keeps (a.convWrite k y c v sc).1 :=
  (h.convCode (y := y) (c := c) (v := v) (sc := sc)).writePlace

theorem takePiece (h : s.Keeps a) {x p} : s.Keeps (a.takePiece x p).1 := by
  unfold State.takePiece
  dsimp only
  split
  exacts [h.wrN.fields.raise, h.wrN]

theorem carriedUpdate (h : s.Keeps a) {k g step who} : s.Keeps (a.carriedUpdate k g step who).1 := by
  unfold State.carriedUpdate
  split
  exacts [.iteFst (.pairFst h.takePiece fun h => h.fst) h.sendWrite.fst, h.fst]

theorem classGroup (h : s.Keeps a) {f g who core desc ix} : s.Keeps (a.classGroup f g who core desc ix).1 :=
  .fst (.ite (.raise (.bump (.ite h.bump.raise h))) (.ite h.bump.raise h))

theorem closeSink (h : s.Keeps a) {k y step who core} : s.Keeps (a.closeSink k y step who core).1 := by
  refine .bumpCounts (foldlFst h fun h => .pairFst ?_ fun h => .iteFst (.pairFst h.carriedUpdate fun h => h.fst) h.fst)
  split
  exacts [.pairFst h.classGroup fun h => h.fst, h]

theorem convGroup (h : s.Keeps a) {k y c v step} : s.Keeps (a.convGroup k y c v step).1 := h.convWrite

theorem addUse (h : s.Keeps a) {w t} (e : a.addUse w = some t) : s.Keeps t := by
  unfold State.addUse at e
  dsimp only at e
  split at e
  · exact Option.some.inj e ▸ h.wrN
  · split at e
    · exact Option.some.inj e ▸ h.wrN
    · exact nomatch e

theorem dropUse (h : s.Keeps a) {w} : s.Keeps (a.dropUse w) := .ite h (by dsimp only; split; exacts [h.wrN, h])

theorem mergeLive (h : s.Keeps a) {l x2} : s.Keeps (a.mergeLive l x2) :=
  .fields (.wrN (.ite h.initLayer (.ite h h.wrN)))

theorem takeBlock (h : s.Keeps a) {l x2} : s.Keeps (a.takeBlock l x2) := .ite h (.ite (.ite h.initLayer h) h.mergeLive)

theorem stewardMerge (h : s.Keeps a) {l g} : s.Keeps (a.stewardMerge l g) := .ite h.mergeLive h

theorem countWaits (h : s.Keeps a) : s.Keeps a.countWaits := .ite h (h.forN (fun h => .ite h.bump h)).fields

theorem setWaits (h : s.Keeps a) {l} : s.Keeps (a.setWaits l) := .ite h h.countWaits.fields

theorem noteReady (h : s.Keeps a) {i n} : s.Keeps (a.noteReady i n) := by
  unfold State.noteReady
  split
  exacts [h, .ite h.setWaits h]

theorem waitAt (h : s.Keeps a) {i n core} : s.Keeps (a.waitAt i n core) := h.setWaits

theorem endReady (h : s.Keeps a) {i n} : s.Keeps (a.endReady i n) := h.setWaits

theorem endWaits (h : s.Keeps a) {i} : s.Keeps (a.endWaits i) := h.setWaits

theorem noteAll (h : s.Keeps a) {i} : s.Keeps (a.noteAll i) := h.foldl (fun h => h.noteReady)

theorem clearWait (h : s.Keeps a) {i n wait} : s.Keeps (a.clearWait i n wait) := .ite h.setWait h

theorem nowResident (h : s.Keeps a) {i n} : s.Keeps (a.nowResident i n) := h.clearWait.endReady

theorem lower (h : s.Keeps a) {i m} : s.Keeps (a.lower i m) := by
  unfold State.lower
  exact .ite h.setDep.noteReady h.setDep

theorem serveSpill (h : s.Keeps a) : s.Keeps a.serveSpill := h.foldl (fun h => .ite h h.bump.fields.nowResident)

theorem evict (h : s.Keeps a) {drop} : s.Keeps (a.evict drop) := h.fields.serveSpill

theorem endSlot (h : s.Keeps a) {i} : s.Keeps (a.endSlot i) :=
  (h.forN (fun h => .ite h h.dropUse)).evict.endWaits.fields.fields.fields.setSlot.raise

theorem settle (h : s.Keeps a) {i} : s.Keeps (a.settle i) := .ite h.endSlot (.ite h.endSlot h)

theorem progress (h : s.Keeps a) {i} : s.Keeps (a.progress i) := h.setSlot

theorem retireOne (h : s.Keeps a) {i f r} : s.Keeps (a.retireOne i f r) := by
  unfold State.retireOne
  extract_lets _ s1 s2 s3 _ s4 s5 s6 s7 _ s8 s9
  have h1 : s.Keeps s1 := h.foldl (fun h => h.bump)
  have h2 : s.Keeps s2 := .ite h1.bump h1
  have h3 : s.Keeps s3 := h2.stewardMerge
  have h4 : s.Keeps s4 := h3.wrAny
  have h5 : s.Keeps s5 := h4.dropUse
  have h6 : s.Keeps s6 := h5.setDep
  have h7 : s.Keeps s7 := .ite h6.traceInst h6
  have h8 : s.Keeps s8 := h7.setSlot
  have h9 : s.Keeps s9 := h8.foldl (fun h => h.lower)
  exact .ite h9.endWaits.setSlot h9

theorem forget (h : s.Keeps a) {i n} : s.Keeps (a.forget i n) := h.fields

theorem retire (h : s.Keeps a) {f} : s.Keeps (a.retire f) :=
  (h.dropFlight.foldl (fun h => h.retireOne)).evict.forget.progress.settle

theorem raiseFail (h : s.Keeps a) {i n w core x} : s.Keeps (a.raiseFail i n w core x) := h.raise

theorem wakeForCore (h : s.Keeps a) : s.Keeps a.wakeForCore := .ite h.fields h

theorem onAwake (h : s.Keeps a) {onCore} (k : s.Keeps b) : s.Keeps (a.onAwake onCore b) := .ite h.wakeForCore k

theorem busy (h : s.Keeps a) : s.Keeps a.busy := h.fields

theorem attempt (h : s.Keeps a) {i n opc} {go : State → State} (k : ∀ {b}, s.Keeps b → s.Keeps (go b)) :
    s.Keeps (a.attempt i n opc go) := .ite h (.ite h.setWait (.ite h.setWait (.ite h (k h))))

theorem enter (h : s.Keeps a) {f nodes body} : s.Keeps (a.enter f nodes body) :=
  .progress (.foldl (.foldl (.addFlight (.ite h.busy h)) (fun h => h.setDep)) (fun h => .ite h.traceInst h))

theorem failNow (h : s.Keeps a) {i n w core onCore x} : s.Keeps (a.failNow i n w core onCore x) :=
  h.enter.raiseFail.retire

theorem askAll (h : s.Keeps a) {i n us} : s.Keeps (a.askAll i n us) := h.foldl (fun h => .ite h h.fields.sendRead)

theorem askFor (h : s.Keeps a) {i n us} : s.Keeps (a.askFor i n us) := h.askAll

theorem ageReads (h : s.Keeps a) : s.Keeps a.ageReads := h.fields

theorem effected (h : s.Keeps a) {f upd} : s.Keeps (a.effected f upd) := h.setFlight

theorem initFor (h : s.Keeps a) {i ts} : s.Keeps (a.initFor i ts) := h.readies (a.initFor_readies i ts)

theorem issue (h : s.Keeps a) {i n opc core onCore names check needs early} {effect : State → Flight → State}
    (k : ∀ {b f}, s.Keeps b → s.Keeps (effect b f)) :
    s.Keeps (a.issue i n opc core onCore names check needs effect early) := by
  unfold State.issue
  refine h.attempt fun h => ?_
  dsimp only
  refine .ite h.askAll.setWait ?_
  split
  · exact h.onAwake h.initFor.failNow
  · refine .ite h.askAll.setWait (h.onAwake ?_)
    split
    · exact h.initFor.bump.failNow
    · exact .ite (k h.initFor.enter) h.initFor.enter.askFor.showNode

theorem addPlace (h : s.Keeps a) {p f v} : s.Keeps (a.addPlace p f v).1 := h.wrN.fst

theorem accumulate (h : s.Keeps a) {i n x3 f c v} : s.Keeps (a.accumulate i n x3 f c v).1 := by
  unfold State.accumulate
  split
  exacts [h.fst, .iteFst (.pairFst h.addPlace fun h => h.fst) h.follow.sendWrite.fst]

theorem respond (h : s.Keeps a) {code slot tag index} : s.Keeps (a.respond code slot tag index) := h.fields

theorem addCounts (h : s.Keeps a) {i t} (e : a.addCounts i = some t) : s.Keeps t := by
  have fold : ∀ (l : List Nat) (o : Option State), (∀ t, o = some t → s.Keeps t) → ∀ t,
      l.foldl (fun a n => a.bind fun s => if counted (s.taskWord i n) then s.addUse (s.taskWord i n) else some s) o
        = some t → s.Keeps t := by
    intro l
    induction l with
    | nil => exact fun o ho => ho
    | cons n l ih =>
      refine fun o ho => ih _ fun t e => ?_
      obtain ⟨u, rfl, hu⟩ := Option.bind_eq_some_iff.mp e
      split at hu
      · exact (ho u rfl).addUse hu
      · exact Option.some.inj hu ▸ ho u rfl
  exact fold _ _ (fun t e => Option.some.inj e ▸ h) t e

theorem initDeps (h : s.Keeps a) {i} : s.Keeps (a.initDeps i) := h.forN (fun h => h.setDep)

theorem execSubmit (h : s.Keeps a) (req) : s.Goes (Machine.execSubmit req a) := by
  unfold Machine.execSubmit
  dsimp only
  split
  exacts [h.fields.respond.next, h.fields.setSlot.fields.next]

theorem accept (h : s.Keeps a) {l} : s.Keeps (a.accept l) := by
  have hc : s.Keeps ((a.addCounts l.slot).getD a) := by
    cases e : a.addCounts l.slot with
    | none => exact h
    | some t => exact h.addCounts e
  exact hc.initDeps.noteAll.setSlot.respond

theorem refuse (h : s.Keeps a) {l code ix} : s.Keeps (a.refuse l code ix) := h.setSlot.respond

theorem endLoad (h : s.Keeps a) {l} : s.Keeps (a.endLoad l) := by
  unfold State.endLoad
  dsimp only
  split
  exacts [h.fields.refuse, h.fields.setSlot.accept]

theorem abandon (h : s.Keeps a) {i} : s.Keeps (a.abandon i) := by
  unfold State.abandon
  split
  · exact h
  · exact h
  · split
    exacts [h.refuse.fields, h]
  · exact (h.forN (fun h => .ite h.dropUse h)).endWaits.setSlot.settle
  · exact h.endSlot

end Sys2Proof.Machine.State.Keeps
end

section
/-! What is kept by products and saved contexts. -/
namespace Sys2Proof.Machine.State.Keeps
variable {s a b : State}

theorem retireIdle (h : s.Keeps a) {i f built} : s.Keeps (a.retireIdle i f built) :=
  h.foldl (fun h => by split; exacts [h.raiseFail.retireOne, h.retireOne, h])

theorem shed (h : s.Keeps a) {i n g ok} : s.Keeps (a.shed i n g ok) := h.fields

theorem gangGo (h : s.Keeps a) {i n opc core g arrays checks skew} : s.Keeps (a.gangGo i n opc core g arrays checks
    skew) :=
  .ite (.retire (.retireIdle (.endReady (.bump (.bump (.ite h.enter h.enter.shed)))))) (.setFlight (.retireIdle
        (.endReady (.bump (.bump (.ite h.enter h.enter.shed))))))

theorem spillTile (h : s.Keeps a) {i j q row tile y} : s.Keeps (a.spillTile i j q row tile y).1 := by
  unfold State.spillTile
  split
  exacts [h.fst, h.fst.forNFst (fun h => h.forNFst (fun h => .iteFst h (.pairFst h fun h => .iteFst
            h.writePlace.fst (.pairFst h.accumulate fun h => h.fst))))]

theorem spillAll (h : s.Keeps a) {i j p y} : s.Keeps (a.spillAll i j p y).1 := h.fst.forNFst (fun h => h.spillTile)

theorem drainElem (h : s.Keeps a) {i step j p k y m n} : s.Keeps (a.drainElem i step j p k y m n).1 :=
  .iteFst (.iteFst h.fst h.writePlace.fst) (.iteFst (by
        split
        exacts [.iteFst (.pairFst h.accumulate fun h => h.fst) h.writePlace.fst, h.fst]) (.iteFst (.pairFst
          h.accumulate fun h => h.fst) h.convGroup))

theorem mergeRowRec (h : s.Keeps a) {i j m vals} : s.Keeps (a.mergeRowRec i j m vals) := by
  unfold State.mergeRowRec
  split
  exacts [h, .ite h h.mergeAt]

theorem lapse (h : s.Keeps a) {f j p r} : s.Keeps (a.lapse f j p r).1 := .iteFst h.raise.bump.fst h.fst

theorem drainRows (h : s.Keeps a) {f j k p hi r} : s.Keeps (a.drainRows f j k p hi r).1 := by
  unfold State.drainRows
  refine .pairFst h.lapse fun h => .pairFst h.spillAll fun h => .pairFst (.forNFst h.fst fun h => ?_) fun h => h.fst
  refine .pairFst (.forNFst h.fst fun h => ?_) fun h => .fst (.ite h.mergeRowRec h)
  exact .iteFst h (.pairFst h.drainElem fun h => h.fst)

theorem drainTo (h : s.Keeps a) {f j p hi r} : s.Keeps (a.drainTo f j p hi r).1 := by
  unfold State.drainTo
  split
  exacts [h.fst, .iteFst h.drainRows h.fst]

theorem drainJob (h : s.Keeps a) {f j p r} : s.Keeps (a.drainJob f j p r).1 := by
  unfold State.drainJob
  split
  exacts [h.fst, .pairFst h.drainTo fun h => .pairFst h.closeSink fun h => h.fst]

theorem drainSome (h : s.Keeps a) {f pick} : s.Keeps (a.drainSome f pick).1 :=
  .pairFst (h.fst.foldlFst (fun h => .pairFst (.iteFst h.drainTo h.fst) fun h => h.fst)) fun h => h.fst

theorem setUp (h : s.Keeps a) {j} : s.Keeps (a.setUp j) := h.setArr.bump

theorem parityHit (h : s.Keeps a) {i n hit} : s.Keeps (a.parityHit i n hit) := by
  unfold State.parityHit
  split
  · exact h
  split
  · exact h
  extract_lets mate before pass due
  split
  rename_i t g e
  replace h : s.Keeps t := .of_eq e h.drainSome
  extract_lets s1 _ hitNodes again s2 s3
  have h1 : s.Keeps s1 := .ite h.setUp h
  have h2 : s.Keeps s2 := h1.bump.bump
  have h3 : s.Keeps s3 := .ite h2.setArr h2.setArr.bump.bump
  exact h3.setFlight

theorem prodDispatch (h : s.Keeps a) {i n opc core hits} : s.Keeps (a.prodDispatch i n opc core hits) :=
  h.attempt (fun h0 => by
      split
      exacts [h0, .ite h0 (.ite h0.setWait (.ite h0.askAll.setWait (.ite (h0.onAwake h0.initFor.gangGo) (by
                split
                exacts [h0.setWait, .ite h0.askAll.setWait (.ite h0.setWait (h0.onAwake (h0.initFor.gangGo.foldl (fun
                          h19 => h19.parityHit))))]))))])

theorem chargePart (h : s.Keeps a) {g q} : s.Keeps (a.chargePart g q) := (h.forN (fun h => h.bump.bump.bump)).fields

theorem configure (h : s.Keeps a) {f} : s.Keeps (a.configure f) := h.foldl (fun h => h.setUp.setArr)

theorem drainOthers (h : s.Keeps a) {f cores} : s.Keeps (a.drainOthers f cores) := h.fields

theorem stream (h : s.Keeps a) {f} : s.Keeps (a.stream f) := (h.forN (fun h => h.configure.chargePart)).setFlight

theorem streamStart (h : s.Keeps a) {f} : s.Keeps (a.streamStart f) := (h.drainOthers.foldl (fun h => h.bump)).stream

theorem drainGang (h : s.Keeps a) {f} : s.Keeps (a.drainGang f).1 :=
  .pairFst (h.fst.foldlFst (fun h => .pairFst h.drainJob fun h => h.fst)) fun h => h.fst

theorem saveGang (h : s.Keeps a) {base f q} : s.Keeps (a.saveGang base f q) := h.foldl (fun h => h.wrN)

theorem spillStopped (h : s.Keeps a) {i j p} : s.Keeps (a.spillStopped i j p).1 :=
  .pairFst h.spillAll fun h => .pairFst (.iteFst h.fst h.spillTile) fun h => h.fst

theorem stopMember (h : s.Keeps a) {f q off j p} : s.Keeps (a.stopMember f q off j p).1 :=
  .iteFst h.drainTo (.iteFst h.fst (.iteFst (.pairFst h.drainTo fun h => h.fst) (.pairFst h.lapse fun h => .pairFst
          h.spillStopped fun h => h.fst)))

theorem stopGang (h : s.Keeps a) {base e f q off} : s.Keeps (a.stopGang base e f q off) := by
  unfold State.stopGang
  split
  rename_i t ps rs e
  replace h : s.Keeps t := .of_eq e (h.fst.foldlFst fun h => .pairFst h.stopMember fun h => h.fst)
  extract_lets _ s1 s2 s3 s4 _ s5
  have h1 : s.Keeps s1 := .ite h h.saveGang
  have h2 : s.Keeps s2 := h1.wrN
  have h3 : s.Keeps s3 := h2.setFlight.bump
  have h4 : s.Keeps s4 := h3.foldl fun h => h.setDep
  have h5 : s.Keeps s5 := h4.setSlot
  exact h5.evict

theorem repark (h : s.Keeps a) {base e p} : s.Keeps (a.repark base e p) :=
  (h.foldl (fun h => h.paste)).setFlight.wrN.setSlot.evict

theorem drainFinished (h : s.Keeps a) {cores} : s.Keeps (a.drainFinished cores) := by
  unfold State.drainFinished
  dsimp only
  exact h.foldl (fun h => .pair h.drainSome fun h => h.setFlight)

theorem noteDrains (h : s.Keeps a) {gangs stops} : s.Keeps (a.noteDrains gangs stops) :=
  h.foldl (fun h => h.setFlight)

theorem saveSlot (h : s.Keeps a) {c base stops} : s.Keeps (a.saveSlot c base stops).1 :=
  (((h.noteDrains.drainFinished.foldl (fun h => h.paste)).setSlot.foldl (fun h => h.stopGang)).foldl (fun h =>
        h.repark)).fst

theorem ctxSave (h : s.Keeps a) {stops f} : s.Keeps (a.ctxSave stops f) := by
  unfold State.ctxSave
  extract_lets w c base
  split
  rename_i t n e
  replace h : s.Keeps t := .of_eq e (.iteFst h.saveSlot h.fst)
  extract_lets head s1 s2
  have h1 : s.Keeps s1 := h.wrN
  have h2 : s.Keeps s2 := h1.paste
  exact h2.effected

theorem startCtxsave (h : s.Keeps a) {i n stops} : s.Keeps (a.startCtxsave i n stops) := h.issue (fun h => h.ctxSave)

theorem ctxLoad (h : s.Keeps a) {cores f} : s.Keeps (a.ctxLoad cores f) :=
  (h.setSlot.noteAll.foldl (fun h => by split; exacts [.ite h.setFlight h, h])).effected.settle

theorem startCtxload (h : s.Keeps a) {i n cores} : s.Keeps (a.startCtxload i n cores) := h.issue (fun h => h.ctxLoad)

theorem failSkewed (h : s.Keeps a) {f skew} : s.Keeps (a.failSkewed f skew).1 := by
  unfold State.failSkewed
  split
  exacts [h.fst, .fst (.ite (h.foldl (fun h => h.bump.raiseFail.retireOne.progress)) (h.foldl (fun h =>
            h.bump.raiseFail.retireOne.progress)).shed)]

theorem resumeGang (h : s.Keeps a) {f g r hits} : s.Keeps (a.resumeGang f g r hits) := by
  unfold State.resumeGang
  extract_lets i x entry cur lead _ s1
  have h1 : s.Keeps s1 := h.setSlot
  split
  rename_i t f e
  replace h : s.Keeps t := .of_eq e h1.failSkewed
  refine .ite h.retire ?_
  extract_lets _ _ _ f s2 s3 s4
  have h2 : s.Keeps s2 := h.setFlight
  have h3 : s.Keeps s3 := h2.foldl fun h => h.setDep
  have h4 : s.Keeps s4 := h3.foldl fun h => h.parityHit
  split
  exacts [h4.streamStart, h4]

theorem startGang (h : s.Keeps a) {f hits} : s.Keeps (a.startGang f hits) := by
  unfold State.startGang
  dsimp only
  split
  exacts [(h.setFlight.foldl (fun h => h.parityHit)).streamStart, h.setFlight.foldl (fun h => h.parityHit)]

theorem gangFetch (h : s.Keeps a) {i n g core skew} : s.Keeps (a.gangFetch i n g core skew) :=
  .ite h.askAll (.ite h (.ite h.askFor (.ite h (.ite (.fields (.ite h.bump h.bump.bump)) (.nowResident (.fields (.ite
                  h.bump h.bump.bump)))))))

theorem fetch (h : s.Keeps a) {i n core skew} : s.Keeps (a.fetch i n core skew) :=
  .ite h (.ite (by split; exacts [h, h.waitAt.gangFetch]) (.ite h.fields h))

end Sys2Proof.Machine.State.Keeps
end

section
/-! What is kept by conversions, moves, row statistics and the array cores. -/
namespace Sys2Proof.Machine.State.Keeps
variable {s a b : State}

theorem made (h : s.Keeps a) {f flags g} : s.Keeps (a.made f flags g) := h.effected

theorem qstatEffect (h : s.Keeps a) {i fl} : s.Keeps (a.qstatEffect i fl) := by
  unfold State.qstatEffect
  dsimp only
  split
  exacts [(h.foldl (fun h => .ite h.mergeAt h.wrAny)).bumpCounts.made, h.made]

theorem startQstat (h : s.Keeps a) {i n core} : s.Keeps (a.startQstat i n core) := h.issue (fun h => h.qstatEffect)

theorem putScale (h : s.Keeps a) {i n x3 f gc q step} : s.Keeps (a.putScale i n x3 f gc q step) := by
  unfold State.putScale
  split
  exacts [h, .ite h.wrAny (by dsimp only; split; exacts [.ite h.writePlace.writePlace h.writePlace, h.writePlace])]

theorem qconvEffect (h : s.Keeps a) {i fl} : s.Keeps (a.qconvEffect i fl) := by
  unfold State.qconvEffect
  extract_lets
  split
  · extract_lets
    split
    rename_i t gs extra y yv e
    replace h : s.Keeps t := by
      refine .of_eq e (.foldlFst h.fst fun h => ?_)
      split
      extract_lets
      split
      split
      · exact .pairFst (.iteFst h.convWrite h.fst) fun h => h.writePlace.fst
      · exact .pairFst h.convWrite fun h => h.fst
    extract_lets s1
    have h1 : s.Keeps s1 := h.foldl fun h => h.putScale
    split
    rename_i t y flags e
    replace h : s.Keeps t := .of_eq e h1.closeSink
    split
    rename_i t y e
    replace h : s.Keeps t := .of_eq e (.iteFst h.fst (.pairFst h.closeSink fun h => h.fst))
    split
    rename_i t flags e
    replace h : s.Keeps t := .of_eq e (.iteFst h.fst h.bump.raise.fst)
    exact h.bumpCounts.made
  · exact h.made

theorem startQconv (h : s.Keeps a) {i n core} : s.Keeps (a.startQconv i n core) := h.issue (fun h => h.qconvEffect)

theorem putCodes (h : s.Keeps a) {i n x3 gc sc z} : s.Keeps (a.putCodes i n x3 gc sc z) := by
  unfold State.putCodes
  dsimp only
  split
  · exact .writePlace (by split; exacts [h.writePlace, h])
  · split
    exacts [h.writePlace, h]

theorem rescaleEffect (h : s.Keeps a) {i fl} : s.Keeps (a.rescaleEffect i fl) := by
  unfold State.rescaleEffect
  extract_lets
  split
  · extract_lets
    split
    rename_i t y gs e
    replace h : s.Keeps t := by
      refine .of_eq e (.foldlFst h.fst fun h => ?_)
      dsimp only
      exact h.writePlace
    extract_lets s1
    have h1 : s.Keeps s1 := h.foldl fun h => h.putCodes
    split
    rename_i t y flags e
    exact (of_eq e h1.closeSink).made
  · exact h.made

theorem startRescale (h : s.Keeps a) {i n core} : s.Keeps (a.startRescale i n core) :=
  h.issue (fun h => h.rescaleEffect)

theorem convUnder (h : s.Keeps a) {k y c v step through sz} : s.Keeps (a.convUnder k y c v step through sz).1 := by
  unfold State.convUnder
  split
  exacts [.iteFst h.convWrite h.convGroup, h.convGroup]

theorem convThrough (h : s.Keeps a) {k y c v step through} : s.Keeps (a.convThrough k y c v step through).1 :=
  h.convUnder

theorem moveEffect (h : s.Keeps a) {fl src dst ps} : s.Keeps (a.moveEffect fl src dst ps) := by
  unfold State.moveEffect
  extract_lets i n core who step s0 sz
  split
  · extract_lets k mixed conv same s1 s2
    refine .ite ?_ ?_
    · have h1 : s.Keeps s1 := h.foldl fun h => h.foldl fun h => h.writePlace
      have h2 : s.Keeps s2 := .ite (h1.foldl fun h => h.putCodes) h1
      split
      · extract_lets
        split
        rename_i t y e
        replace h : s.Keeps t := .of_eq e (.foldlFst h2.fst fun h => .foldlFst h fun h => h.convWrite)
        extract_lets s3
        have h3 : s.Keeps s3 := .ite h (h.foldl fun h => h.putCodes)
        split
        rename_i t y flags e
        exact (of_eq e h3.closeSink).bumpCounts.made
      · exact h2.made
    · split
      rename_i t y e
      replace h : s.Keeps t := .of_eq e (.foldlFst h.fst fun h => .foldlFst h fun h => h.convThrough)
      split
      rename_i t y flags e
      exact (of_eq e h.closeSink).bumpCounts.made
  · exact h.made

theorem scatterAdd (h : s.Keeps a) {fl src dst ps} : s.Keeps (a.scatterAdd fl src dst ps) := by
  unfold State.scatterAdd
  dsimp only
  split
  exacts [.pair (h.fst.foldlFst (fun h => h.foldlFst (fun h => by
            split
            exacts [h.fst, .pairFst h.accumulate fun h => h.fst]))) fun h => h.bumpCounts.made, h.made]

theorem movement (h : s.Keeps a) {fl} : s.Keeps (a.movement fl) := by
  unfold State.movement
  dsimp only
  split
  exacts [.ite (.scatterAdd (.ite h.fields h)) (.moveEffect (.ite h.fields h)), h.made]

theorem startMove (h : s.Keeps a) {i n} : s.Keeps (a.startMove i n) := h.issue (fun h => h.movement)

theorem startGather (h : s.Keeps a) {i n} : s.Keeps (a.startGather i n) := h.issue (fun h => h.movement)

theorem startScatter (h : s.Keeps a) {i n} : s.Keeps (a.startScatter i n) := h.issue (fun h => h.movement)

theorem rowWork (h : s.Keeps a) {core clk} : s.Keeps (a.rowWork core clk) := h.fields.bump.bump

theorem maxidxEffect (h : s.Keeps a) {fl} : s.Keeps (a.maxidxEffect fl) := by
  unfold State.maxidxEffect
  dsimp only
  split
  exacts [.pair (h.fst.foldlFst (fun h => .fst (.ite h.mergeAt h.wrAny))) fun h => h.bumpCounts.rowWork.made,
      h.made]

theorem startMaxidx (h : s.Keeps a) {i n core} : s.Keeps (a.startMaxidx i n core) := h.issue (fun h => h.maxidxEffect)

theorem putRow (h : s.Keeps a) {k y row vs step} : s.Keeps (a.putRow k y row vs step).1 :=
  h.fst.foldlFst (fun h => h.convGroup)

theorem addRow (h : s.Keeps a) {i n t f vs} : s.Keeps (a.addRow i n t f vs).1 := by
  refine .foldlFst h.fst fun h => ?_
  dsimp only
  split
  · exact h
  · exact .pairFst h.accumulate fun h => h.fst

theorem rowrecEffect (h : s.Keeps a) {fl} : s.Keeps (a.rowrecEffect fl) := by
  unfold State.rowrecEffect
  extract_lets i w n s0 named dy ga dx dg db k
  clear_value dg db k
  split
  · extract_lets
    refine .ite h.rowWork.made ?_
    extract_lets
    split
    rename_i t y cs e
    replace h : s.Keeps t := by
      refine .of_eq e (.foldlFst h.fst fun h => ?_)
      split
      extract_lets dyv o s1
      have h1 : s.Keeps s1 := State.Keeps.wrAny h
      clear_value dyv
      split
      rename_i t y e
      replace h : s.Keeps t := by
        refine .of_eq e ?_
        split
        exacts [h1.putRow, h1.fst]
      split
      rename_i t cs e
      replace h : s.Keeps t := by
        refine .of_eq e ?_
        split
        exacts [.pairFst h.addRow fun h => h.fst, h.fst]
      refine .pairFst ?_ fun h => h.fst
      split
      exacts [.pairFst h.addRow fun h => h.fst, h.fst]
    extract_lets _ s1
    have h1 : s.Keeps s1 := h.bumpCounts.rowWork
    split
    · split
      rename_i t y flags e
      exact (of_eq e h1.closeSink).made
    · exact h1.made
  · exact h.made

theorem startRowrec (h : s.Keeps a) {i n core} : s.Keeps (a.startRowrec i n core) := h.issue (fun h => h.rowrecEffect)

theorem derivEffect (h : s.Keeps a) {fl} : s.Keeps (a.derivEffect fl) := by
  unfold State.derivEffect
  dsimp only
  split
  · split
    exacts [.pair (h.fst.foldlFst (fun h => .pairFst h.putRow fun h => h.fst)) fun h => .pair
        h.bumpCounts.closeSink fun h => h.rowWork.made, h.made]
  · exact h.made

theorem startDeriv (h : s.Keeps a) {i n core} : s.Keeps (a.startDeriv i n core) := h.issue (fun h => h.derivEffect)

end Sys2Proof.Machine.State.Keeps
end

section
/-! What is kept by the stash, REDUCE and the steward. -/
namespace Sys2Proof.Machine.State.Keeps
variable {s a b : State}

theorem pushHold (h : s.Keeps a) {i n t} (e : a.pushHold i n = some t) : s.Keeps t := by
  unfold State.pushHold at e
  extract_lets w x at e
  split at e
  · exact Option.some.inj e ▸ h.setWait
  split at e
  · exact nomatch e
  extract_lets s1 at e
  have h1 : s.Keeps s1 := h.setWait
  split at e
  · exact Option.some.inj e ▸ h1.setSlot.raise
  · exact Option.some.inj e ▸ h1

theorem putWords (h : s.Keeps a) {i off ws} : s.Keeps (a.putWords i off ws) := h.foldl (fun h => h.wrN)

theorem pushEffect (h : s.Keeps a) {fl} : s.Keeps (a.pushEffect fl) := by
  unfold State.pushEffect
  extract_lets i n w
  split
  · exact h.made
  rename_i p hp
  extract_lets
  split
  rename_i codes t y e
  replace h : s.Keeps t := by
    have hl : s.Keeps (codes, t, y).2.1 := by
      rw [← e]
      split
      · exact h
      · refine foldlMid h fun h => ?_
        dsimp only
        exact h.convCode
    exact hl
  split
  extract_lets ov ws s1 _ s2
  have h1 : s.Keeps s1 := h.putWords
  have h2 : s.Keeps s2 := h1.setSlot
  refine .ite ?_ h2.made
  extract_lets
  split
  rename_i t y flags e
  replace h : s.Keeps t := .of_eq e h2.closeSink
  extract_lets s3
  have h3 : s.Keeps s3 := .ite h h.bumpCounts
  exact h3.made

theorem startPush (h : s.Keeps a) {i n} : s.Keeps (a.startPush i n) := by
  refine h.attempt fun h => ?_
  split
  · exact h.pushHold ‹_›
  · exact h.issue fun h => h.pushEffect

theorem stashRetire (h : s.Keeps a) {fl} : s.Keeps (a.stashRetire fl) :=
  .ite (by split; exacts [h.setSlot, h]) (.ite (.ite h.setSlot h.setSlot) h)

theorem popHold (h : s.Keeps a) {i n t} (e : a.popHold i n = some t) : s.Keeps t := by
  unfold State.popHold at e
  split at e
  · exact Option.some.inj e ▸ h.setWait
  extract_lets us at e
  split at e
  · exact nomatch e
  · exact Option.some.inj e ▸ h.askFor.setWait

theorem popEffect (h : s.Keeps a) {fl} : s.Keeps (a.popEffect fl) := by
  unfold State.popEffect
  extract_lets
  split
  · extract_lets
    split
    extract_lets hasS hasZ sz under s1 s2
    have h1 : s.Keeps s1 := .ite h (h.foldl fun h => h.putCodes)
    have h2 : s.Keeps s2 := by
      unfold s2
      split
      · exact .ite h1 (h1.foldl fun h => h.writePlace)
      · exact h1
    refine .ite (State.Keeps.made (h2.foldl fun h => h.writePlace)) ?_
    extract_lets
    split
    rename_i t y e
    replace h : s.Keeps t := .of_eq e (.foldlFst h2.fst fun h => h.convUnder)
    split
    rename_i t y flags e
    exact (of_eq e h.closeSink).bumpCounts.made
  · exact h.made

theorem startPop (h : s.Keeps a) {i n} : s.Keeps (a.startPop i n) := by
  refine h.attempt fun h => ?_
  split
  · exact h.popHold ‹_›
  · exact h.issue fun h => h.popEffect

theorem stashMove (h : s.Keeps a) {i} : s.Keeps (a.stashMove i) := by
  unfold State.stashMove
  dsimp only
  split
  exacts [h, .ite h (h.forN (fun h => h.sendWrite)).setSlot]

theorem stashMoved (h : s.Keeps a) {i} : s.Keeps (a.stashMoved i) := by
  unfold State.stashMoved
  dsimp only
  split
  exacts [.ite h h.setSlot, h]

theorem stashReturn (h : s.Keeps a) {i} : s.Keeps (a.stashReturn i) := by
  unfold State.stashReturn
  dsimp only
  split
  exacts [h, .ite h h.setSlot.askFor]

theorem stashReturnEnd (h : s.Keeps a) {i} : s.Keeps (a.stashReturnEnd i) := by
  unfold State.stashReturnEnd
  dsimp only
  split
  exacts [.ite h (h.forN (fun h => h.wrN)).setSlot.forget, h]

theorem linkConvert (h : s.Keeps a) {i n w f y ix ls} : s.Keeps (a.linkConvert i n w f y ix ls).2.2.2.1 := by
  unfold State.linkConvert
  extract_lets res moved readRes plain
  clear_value res
  split
  rename_i sc z e
  extract_lets scd
  split
  rename_i out t y e
  have hl : s.Keeps (out, t, y).2.1 := by
    rw [← e]
    refine foldlMid h fun h => ?_
    dsimp only
    split
    exacts [h.writePlace, h]
  exact hl

theorem sluiceTo (h : s.Keeps a) {dst m} : s.Keeps (a.sluiceTo dst m).1 := by
  unfold State.sluiceTo
  split
  exacts [.iteFst h.downExhausted.sluiceOn.fst h.downExhausted.fst, h.fst]

theorem showWaits (h : s.Keeps a) : s.Keeps a.showWaits :=
  h.foldl (fun h => .ite h.setWait (h.foldl (fun h => .ite h h.clearWait)))

theorem noteEnds (h : s.Keeps a) : s.Keeps a.noteEnds := (h.foldl (fun h => .ite h h.setFlight)).showWaits

theorem sendOwed (h : s.Keeps a) : s.Keeps a.sendOwed :=
  h.fields.foldl (fun h => .pair h.sluiceTo fun h => .ite h h.fields)

theorem sendMarkers (h : s.Keeps a) : s.Keeps a.sendMarkers :=
  (h.sendOwed.foldl (fun h1 => .pair (h1.fst.foldlFst (fun h => .pairFst h.sluiceTo fun h5 => .iteFst h5.fst h)) fun
        h3 => .ite h3 h3.setFlight)).noteEnds

theorem reduceEffect (h : s.Keeps a) {fl} : s.Keeps (a.reduceEffect fl) := by
  unfold State.reduceEffect
  extract_lets i n w
  split
  · split
    · extract_lets mine leaf ls near far groups x
      clear_value x
      split
      rename_i t cs e
      replace h : s.Keeps t := by
        refine .of_eq e (.foldlFst h.fst fun h => ?_)
        split
        exacts [h, .pairFst h.addPlace fun h => h.fst]
      split
      rename_i t y e
      replace h : s.Keeps t := by
        refine .of_eq e (.foldlFst h.fst fun h => ?_)
        split
        · exact (h.foldl fun h => h.sendWrite).bump.fst
        · split
          rename_i sc z out t y e
          have hl : s.Keeps (sc, z, out, t, y).2.2.2.1 := e ▸ h.linkConvert
          exact (State.Keeps.foldl (a := t) hl fun h => h.sendWrite).bump.fst
      split
      rename_i t ga flags e
      replace h : s.Keeps t := by
        refine .of_eq e (.foldlFst h.fst fun h => ?_)
        split
        extract_lets
        exact .pairFst (.classGroup h) fun h => h.fst
      exact h.bumpCounts.made.sendMarkers
    · exact h.made
  · exact h.made

theorem startReduce (h : s.Keeps a) {i n} : s.Keeps (a.startReduce i n) := h.issue (fun h => h.reduceEffect)

theorem takeMarkers (h : s.Keeps a) {f} : s.Keeps (a.takeMarkers f) := h.fields.bump

theorem execEndMarker (h : s.Keeps a) (src layer opid ubatch step) : s.Goes (Machine.execEndMarker src layer opid ubatch
    step a) :=
  .next (.noteEnds (.ite h.fields.bump h.fields))

theorem evaluate (h : s.Keeps a) {l} : s.Keeps (a.evaluate l) := by
  unfold State.evaluate
  extract_lets s1
  have h1 : s.Keeps s1 := h.ladderFormat
  split
  extract_lets _ _ _ s2
  have h2 : s.Keeps s2 := h1.wrN.wrN.wrN
  exact .ite h2.fields h2

theorem tellNews (h : s.Keeps a) {v} : s.Keeps (a.tellNews v) := .ite (.trace (.ite h.raise h)) (.ite h.raise h)

theorem evaluateAll (h : s.Keeps a) : s.Keeps a.evaluateAll := (h.foldl (fun h => h.evaluate)).fields

theorem stepWait (h : s.Keeps a) {f phase peer} : s.Keeps (a.stepWait f phase peer) := h.setWait

theorem sendStepDone (h : s.Keeps a) {layers} : s.Keeps (a.sendStepDone layers) := h.foldl (fun h => h.sluiceTo)

theorem sendMerges (h : s.Keeps a) : s.Keeps a.sendMerges := h.fields.foldl (fun h => .ite h h.sendWrite.wrN)

theorem stepPump (h : s.Keeps a) : s.Keeps a.stepPump := by
  unfold State.stepPump
  split
  exacts [h, .ite h (.ite h.evaluateAll.setFlight (.ite (by
            split
            exacts [h.setFlight.stepWait, h.evaluateAll.sendStepDone.setFlight.fields]) (.ite h (.ite (.stepWait (.ite h
                  h.sendMerges.setFlight)) (.pair (.sluiceTo (.ite h h.sendMerges.setFlight)) fun h7 => .ite
                h7.setFlight.stepWait (.stepWait (.ite h h.sendMerges.setFlight)))))))]

theorem startStep (h : s.Keeps a) {i n} : s.Keeps (a.startStep i n) := .ite h.setWait (h.issue (fun h => h.stepPump))

theorem finishStep (h : s.Keeps a) : s.Keeps a.finishStep := (h.foldl (fun h => h.tellNews)).ageReads.fields

theorem execStepReady (h : s.Keeps a) (node merges) : s.Goes (Machine.execStepReady node merges a) :=
  .next (.ite h.sweep (.stepPump (.fields (.ite (h.sweep.foldl (fun h => h.mergeLive)) h.sweep))))

theorem execStepDone (h : s.Keeps a) (blocks) : s.Goes (Machine.execStepDone blocks a) :=
  .next (by split; exacts [.ite (h.foldl (fun h => h.wrN.wrN)).setFlight h, h])

end Sys2Proof.Machine.State.Keeps
end

section
/-! What is kept by snapshots. -/
namespace Sys2Proof.Machine.State.Keeps
variable {s a b : State}

theorem toLive (h : s.Keeps a) {m} : s.Keeps (a.toLive m) := h.foldl (fun h => h.sluiceTo)

theorem setBuf (h : s.Keeps a) {x1 x} : s.Keeps (a.setBuf x1 x) := h.fields

theorem putIndex (h : s.Keeps a) {i at_ e r x5} : s.Keeps (a.putIndex i at_ e r x5) :=
  .ite h.wrN.wrN.wrN (h.wrN.wrN.wrN.forN (fun h => h.wrN))

theorem putElems (h : s.Keeps a) {i at_ x3} : s.Keeps (a.putElems i at_ x3).1 :=
  .fst (.ite (h.foldl (fun h => h.wrN)) (.ite (h.foldl (fun h => h.wrN)) (h.foldl (fun h => h.wrN))))

theorem copyMem (h : s.Keeps a) {src dst n} : s.Keeps (a.copyMem src dst n) := h.paste

theorem writeImage (h : s.Keeps a) {f x ovf} : s.Keeps (a.writeImage f x ovf) := by
  unfold State.writeImage
  extract_lets i w base ts n pages src s1 s2
  have h1 : s.Keeps s1 := h.paste
  have h2 : s.Keeps s2 := h1.foldl fun h => h.foldl fun h => by
    split
    exacts [h.putIndex, h]
  split
  rename_i t p e
  replace h : s.Keeps t := by
    refine .of_eq e (.foldlFst h2.fst fun h => .foldlFst h fun h => ?_)
    split
    exacts [h.putElems, h]
  extract_lets s3 s4 st x top s5 s6 hdr
  have h4 : s.Keeps s4 := h.copyMem.copyMem
  have h5 : s.Keeps s5 := h4.foldl fun h => h.wrN
  have h6 : s.Keeps s6 := h5.foldl fun h => h.wrN
  split
  rename_i t p e
  replace h : s.Keeps t := .of_eq e (.foldlFst h6.fst fun h => .fst (h.forN fun h => h.wrN))
  exact h.wrN.wrN

theorem snapWait (h : s.Keeps a) {f phase peer} : s.Keeps (a.snapWait f phase peer) := h.setWait

theorem sendReady (h : s.Keeps a) {f check} : s.Keeps (a.sendReady f check) := h.fields.toLive.setFlight

theorem askLoad (h : s.Keeps a) {snum} : s.Keeps (a.askLoad snum) := by
  unfold State.askLoad
  split
  exacts [h, h.setBuf.raise]

theorem snapFails (h : s.Keeps a) {f st} : s.Keeps (a.snapFails f st) := h.raiseFail.setFlight

theorem holdSnap (h : s.Keeps a) {f} : s.Keeps (a.holdSnap f) := .ite h.sendReady h

theorem raiseRebuild (h : s.Keeps a) {what num} : s.Keeps (a.raiseRebuild what num) := h.raise

theorem loadImage (h : s.Keeps a) {f} : s.Keeps (a.loadImage f) := .ite h.fields.setFlight.askLoad h

theorem readyRestore (h : s.Keeps a) {f} : s.Keeps (a.readyRestore f) := .sendReady (.ite h h.raiseRebuild)

theorem restoreReady (h : s.Keeps a) {f} : s.Keeps (a.restoreReady f) :=
  .ite h.readyRestore (.ite h.setFlight.setBuf.fields.raise h.setFlight.snapWait)

theorem holdRestore (h : s.Keeps a) {f} : s.Keeps (a.holdRestore f) := by
  unfold State.holdRestore
  dsimp only
  split
  exacts [.ite h.fields.restoreReady h.fields.raiseRebuild.loadImage, h.loadImage]

theorem agreed (h : s.Keeps a) {f} : s.Keeps (a.agreed f) := .ite h.setFlight.setBuf.fields h.setFlight

theorem readyPump (h : s.Keeps a) {f} : s.Keeps (a.readyPump f) := by
  unfold State.readyPump
  split
  · exact h.snapWait
  · dsimp only
    split
    exacts [h.fields.snapFails, h.fields.agreed]

theorem donePump (h : s.Keeps a) {f} : s.Keeps (a.donePump f) := by
  unfold State.donePump
  split
  exacts [h.snapWait, h.setFlight.fields]

theorem holdPump (h : s.Keeps a) {f} : s.Keeps (a.holdPump f) := .ite (.ite h.holdSnap h.holdRestore) h.snapWait

theorem loadPump (h : s.Keeps a) {f} : s.Keeps (a.loadPump f) := .ite h h.restoreReady

theorem snapPhase (h : s.Keeps a) {p} : s.Keeps (a.snapPhase p) := by
  unfold State.snapPhase
  split
  exacts [h, .ite h (.ite h.holdPump (.ite h.loadPump (.ite h.readyPump h.donePump)))]

theorem snapPump (h : s.Keeps a) : s.Keeps a.snapPump := h.snapPhase.snapPhase.snapPhase.snapPhase

theorem snapIssue (h : s.Keeps a) {i n opc images} : s.Keeps (a.snapIssue i n opc images) :=
  h.attempt (fun h => .ite h.setWait (h.issue (fun h => h.setFlight.snapPump)))

theorem startSnap (h : s.Keeps a) {i n} : s.Keeps (a.startSnap i n) := h.snapIssue

theorem startRestore (h : s.Keeps a) {i n images} : s.Keeps (a.startRestore i n images) := h.snapIssue

theorem execSnapReady (h : s.Keeps a) (node snum depth check) : s.Goes (Machine.execSnapReady node snum depth check a)
  :=
  .next (.ite h.sweep h.sweep.fields.snapPump)

theorem execSnapCaptureEnd (h : s.Keeps a) (overflow) : s.Goes (Machine.execSnapCaptureEnd overflow a) := by
  unfold Machine.execSnapCaptureEnd
  extract_lets s1
  have h1 : s.Keeps s1 := h.sweep
  refine .next ?_
  split
  · extract_lets s2 num _ s3
    have h2 : s.Keeps s2 := h1.writeImage
    have h3 : s.Keeps s3 := h2.fields
    exact .ite h3.toLive.setFlight.snapPump h1
  · exact h1

theorem execCaptureDone (h : s.Keeps a) (node snum) : s.Goes (Machine.execCaptureDone node snum a) :=
  .next (by split; exacts [.ite h.sweep.fields.snapPump h.sweep, h.sweep])

theorem historyChanged (h : s.Keeps a) : s.Keeps a.historyChanged := h.fields.foldl (fun h => h.sluiceTo)

theorem execBackupHistoryUpdate (h : s.Keeps a) (costs intervals) : s.Goes (Machine.execBackupHistoryUpdate costs
    intervals a) :=
  h.fields.next

theorem execSnapdue (h : s.Keeps a) : s.Goes (Machine.execSnapdue a) := .next (.ite h h.fields.raise)

theorem parityDone (h : s.Keeps a) {num} : s.Keeps (a.parityDone num) :=
  h.fields.foldl (fun h => .ite (.ite h.setBuf (.fields (.ite h.setBuf.raise.raise h.setBuf.raise))) h)

theorem snapRetire (h : s.Keeps a) {f} : s.Keeps (a.snapRetire f) :=
  .ite h (.ite (.ite (h.foldl (fun h => .ite h.setBuf h)).parityDone (h.foldl (fun h => .ite h.setBuf h)))
      (.historyChanged (.fields (.ite (h.foldl (fun h => .ite h.setBuf h)).parityDone (h.foldl (fun h => .ite
                h.setBuf h))))))

theorem parityNotice (h : s.Keeps a) {node num} : s.Keeps (a.parityNotice node num) :=
  .ite h.fields.toLive.parityDone h.fields

theorem execParityComplete (h : s.Keeps a) (role images) : s.Goes (Machine.execParityComplete role images a) :=
  .next (.snapPump (by split; exacts [h.sweep, .ite h.sweep (.ite h.sweep.paste.parityNotice h.sweep.paste.sluiceTo)]))

theorem execParityNotice (h : s.Keeps a) (node snum) : s.Goes (Machine.execParityNotice node snum a) :=
  .next (.snapPump (.ite h.sweep.parityNotice (.ite h.sweep.parityDone h.sweep)))

theorem copied (h : s.Keeps a) {node store num} : s.Keeps (a.copied node store num) := .ite h.fields h.fields.fields

theorem ackCopy (h : s.Keeps a) {kind num fail} : s.Keeps (a.ackCopy kind num fail) := by
  unfold State.ackCopy
  split
  exacts [h, .ite (.ite h.fields.setBuf h.fields) (.copied (.toLive (.ite h.fields.setBuf h.fields)))]

theorem execCopyReport (h : s.Keeps a) (node store snum ok) : s.Goes (Machine.execCopyReport node store snum ok a) :=
  .next (.ite h.copied h)

theorem hostPages (h : s.Keeps a) : s.Keeps a.hostPages := h.setBuf.fields

theorem askLost (h : s.Keeps a) : s.Keeps a.askLost := .ite h h.hostPages.fields.raise

theorem ackLost (h : s.Keeps a) {x fail} : s.Keeps (a.ackLost x fail) := by
  unfold State.ackLost
  extract_lets _ s1 s2
  have h1 : s.Keeps s1 := h.fields
  have h2 : s.Keeps s2 := .ite h1.setBuf (.ite h1.setBuf h1)
  split
  exacts [.ite (.snapPump (.ite h2.sendReady h2.readyRestore)) h2, h2]

theorem ackLoad (h : s.Keeps a) {snum buf fail} : s.Keeps (a.ackLoad snum buf fail) := by
  unfold State.ackLoad
  extract_lets x good _ s1 done s2 _ _ s3 s4
  refine .ite h.ackLost (.ite h ?_)
  have h1 : s.Keeps s1 := .ite h h.fields
  have h2 : s.Keeps s2 := .ite h1 h1.raiseRebuild
  have h3 : s.Keeps s3 := h2.setBuf.fields
  have h4 : s.Keeps s4 := .ite h3.askLost h3
  refine .ite h2.askLoad ?_
  split
  exacts [.ite h4.restoreReady.snapPump h4, h4]

theorem restoreTensor (h : s.Keeps a) {f own e r x} : s.Keeps (a.restoreTensor f own e r x) := by
  unfold State.restoreTensor
  extract_lets
  split
  · exact h
  · refine h.foldl fun h => ?_
    dsimp only
    split
    exacts [h, .ite h.wrN (.ite h h.writePlace)]

theorem restoreVersions (h : s.Keeps a) {rd ver dt listed} : s.Keeps (a.restoreVersions rd ver dt listed) :=
  h.foldl (fun h => h.wrN)

theorem restoreStash (h : s.Keeps a) {i n rd st dt} : s.Keeps (a.restoreStash i n rd st dt) := by
  unfold State.restoreStash
  extract_lets
  split
  · exact h
  · split
    rename_i t p off e
    replace h : s.Keeps t := by
      refine .of_eq e (.foldlFst h.fst fun h => ?_)
      split
      exact .fst (.forN h fun h => h.sendWrite)
    split
    rename_i t p rg e
    replace h : s.Keeps t := by
      refine .of_eq e (.foldlFst h.fst fun h => ?_)
      split
      exact .fst (.forN h fun h => h.wrN)
    exact h.setSlot

theorem stewardBack (h : s.Keeps a) {own} : s.Keeps (a.stewardBack own) := h.ageReads.fields

theorem restoreAll (h : s.Keeps a) {f} : s.Keeps (a.restoreAll f) := by
  unfold State.restoreAll
  extract_lets
  split
  · exact h
  · extract_lets _ s1 _ _ s2 _ s3 _ s4
    have h1 : s.Keeps s1 := by
      refine h.foldl fun h => h.foldl fun h => ?_
      split
      exacts [h.restoreTensor, h]
    have h2 : s.Keeps s2 := h1.paste
    have h3 : s.Keeps s3 := h2.restoreVersions
    have h4 : s.Keeps s4 := h3.fields.stewardBack
    exact h4.restoreStash

theorem execRestoreWriteEnd (h : s.Keeps a) (images) : s.Goes (Machine.execRestoreWriteEnd images a) :=
  .next (by split; exacts [.ite h.sweep.restoreAll.toLive.setFlight.snapPump h.sweep, h.sweep])

theorem dropWork (h : s.Keeps a) {lost} : s.Keeps (a.dropWork lost) :=
  .fields (.foldl (.ite (by split; exacts [h.abandon, h]) h) (fun h => .ite h h.endSlot))

theorem discardNewer (h : s.Keeps a) {r} : s.Keeps (a.discardNewer r) :=
  (h.foldl (fun h => .ite h.setBuf.fields h)).fields

theorem dropPages (h : s.Keeps a) : s.Keeps a.dropPages := h.foldl (fun h => .ite h.setBuf.fields h)

theorem fallback (h : s.Keeps a) : s.Keeps a.fallback :=
  .ite h.fields (.ite h.discardNewer.fields.askLost h.discardNewer.fields.fields.askLoad)

theorem lossHistory (h : s.Keeps a) : s.Keeps a.lossHistory :=
  .ite h.fields (.ite h.fields.historyChanged h.fields.fields.historyChanged)

theorem startRebuild (h : s.Keeps a) {r worse} : s.Keeps (a.startRebuild r worse) :=
  .ite h.dropPages.fallback h.hostPages.fields

theorem abandonCut (h : s.Keeps a) : s.Keeps a.abandonCut := h.fields.raise

theorem breakCut (h : s.Keeps a) : s.Keeps a.breakCut := by
  unfold State.breakCut
  split
  exacts [h.abandonCut, h.fields, h.fields, h]

theorem loseNodes (h : s.Keeps a) {lost} : s.Keeps (a.loseNodes lost) := .ite h.breakCut h

theorem lossDeclared (h : s.Keeps a) {lost} : s.Keeps (a.lossDeclared lost) :=
  h.loseNodes.fields.raiseRebuild.dropWork.discardNewer.lossHistory.startRebuild

theorem execLossDeclaration (h : s.Keeps a) (lost) : s.Goes (Machine.execLossDeclaration lost a) :=
  .next (.ite h.sweep h.sweep.lossDeclared)

theorem takePages (h : s.Keeps a) {mine} : s.Keeps (a.takePages mine) := h.foldl (fun h => h.paste)

end Sys2Proof.Machine.State.Keeps
end

section
/-! What is kept by time, the hall and the links. -/
namespace Sys2Proof.Machine.State.Keeps
variable {s a b : State}

theorem advance (h : s.Keeps a) : s.Keeps a.advance := .ite h.fields (.ite h.fields h.fields)

theorem execTimeFlitSend (h : s.Keeps a) (port sixteenth) : s.Goes (Machine.execTimeFlitSend port a sixteenth) :=
  h.sluiceOn.drainTelem.downExhausted.next

theorem judge (h : s.Keeps a) {o} : s.Keeps (a.judge o) := .ite h.fields (.ite h.fields h.fields.raise)

theorem measured (h : s.Keeps a) {o} : s.Keeps (a.measured o) := .ite h.fields h.fields.judge

theorem spread (h : s.Keeps a) {x1 but} : s.Keeps (a.spread x1 but) := .ite h h.fields.sweep.sluiceAll

theorem scheduleStop (h : s.Keeps a) {x1} : s.Keeps (a.scheduleStop x1) := by
  unfold State.scheduleStop
  split
  exacts [h.fields.spread, .ite h.fields.spread h, h]

theorem stopWrite (h : s.Keeps a) {x1} : s.Keeps (a.stopWrite x1) := .ite h.fields h.scheduleStop

theorem execStopAtWrite (h : s.Keeps a) (t) : s.Goes (Machine.execStopAtWrite t a) := h.stopWrite.answer.next

theorem sayDone (h : s.Keeps a) : s.Keeps a.sayDone := h.fields.toLive

theorem lateStop (h : s.Keeps a) {x1} : s.Keeps (a.lateStop x1) := .ite h.fields.sayDone h.fields

theorem execStopCommand (h : s.Keeps a) (port t) : s.Goes (Machine.execStopCommand port t a) :=
  (h.sluiceIn (fun h => by
        split
        exacts [h, h, h, .ite h h.lateStop.spread, .ite h h.lateStop.spread, .ite (.spread (.ite h.lateStop
              h.fields)) h.spread, .spread (.ite h.lateStop h.fields)])).next

theorem execStopTick (h : s.Keeps a) : s.Goes (Machine.execStopTick a) := h.fields.next

theorem tryCommit (h : s.Keeps a) : s.Keeps a.tryCommit := .ite h.fields.raise h

theorem execCutLocalDone (h : s.Keeps a) : s.Goes (Machine.execCutLocalDone a) :=
  .next (.ite h.sweep (.ite h.sweep.abandonCut h.sweep.sayDone.tryCommit))

theorem execCutDoneNotice (h : s.Keeps a) (node late) : s.Goes (Machine.execCutDoneNotice node late a) :=
  .next (.ite h h.fields.tryCommit)

theorem resume (h : s.Keeps a) : s.Keeps a.resume := .ite h.fields.toLive h

theorem execResume (h : s.Keeps a) : s.Goes (Machine.execResume a) := h.sweep.resume.answer.next

theorem execResumeNotice (h : s.Keeps a) (node) : s.Goes (Machine.execResumeNotice node a) :=
  h.sweep.fields.resend.showWaits.next

theorem setRoot (h : s.Keeps a) {part continues} : s.Keeps (a.setRoot part continues) :=
  .ite h.fields (.ite h.fields.chooseParent h)

theorem soleHall (h : s.Keeps a) : s.Keeps a.soleHall := h.fields

theorem strangerHall (h : s.Keeps a) : s.Keeps a.strangerHall := h.fields

theorem takeOffer (h : s.Keeps a) : s.Keeps a.takeOffer := .ite h h.loseNodes.fields.setRoot.tryCommit

theorem execTimeFlit (h : s.Keeps a) (port send recv farRecv echoed hops) : s.Goes (Machine.execTimeFlit port send recv
    farRecv echoed hops a) :=
  .next (.ite h (.ite h.fields.chooseParent h.fields.chooseParent.measured.takeOffer))

theorem freeze (h : s.Keeps a) {part} : s.Keeps (a.freeze part) :=
  .setRoot (.ite (.fields (.fields (.fields (.ite h.abandonCut h)))) (.fields (.fields (.ite h.abandonCut h))))

theorem tell (h : s.Keeps a) {l m} : s.Keeps (a.tell l m) := h.foldl (fun h => h.sluiceTo)

theorem knowPart (h : s.Keeps a) {part} : s.Keeps (a.knowPart part) := h.fields.setRoot

theorem goOn (h : s.Keeps a) {part} : s.Keeps (a.goOn part) := .ite h.breakCut.knowPart h.breakCut.knowPart.tell.tell

theorem thaw (h : s.Keeps a) : s.Keeps a.thaw := h.fields.toLive

theorem offerSet (h : s.Keeps a) {part} : s.Keeps (a.offerSet part) := .ite h h.tell

theorem execPartitionEvaluation (h : s.Keeps a) (contNear) : s.Goes (Machine.execPartitionEvaluation a contNear) := by
  unfold Machine.execPartitionEvaluation
  extract_lets s1
  have h1 : s.Keeps s1 := h.sweep
  exact .next (.ite h1 (.ite h1 (.ite h1.knowPart.offerSet (.ite (.goOn (.ite (.thaw (.ite h1.raise h1)) (.ite h1.raise
                  h1))) (.freeze (.ite h1.raise h1))))))

theorem discardHeld (h : s.Keeps a) : s.Keeps a.discardHeld := h.fields

theorem execRejoin (h : s.Keeps a) (count lost) : s.Goes (Machine.execRejoin count a lost) :=
  .next (.ite h.sweep ((h.sweep.setWaits.fields.foldl (fun h => h.abandon)).discardHeld.foldl (fun h =>
          h.settle)).fields.chooseParent.takeOffer)

theorem handshake (h : s.Keeps a) {p m} : s.Keeps (a.handshake p m) := .ite h (.ite h.downExhausted h.putSluice)

theorem tellPorts (h : s.Keeps a) {p} : s.Keeps (a.tellPorts p) := h.foldl (fun h => h.sluiceOn)

theorem portUp (h : s.Keeps a) {p} : s.Keeps (a.portUp p) := h.setPort.release.announce

theorem sessionUp (h : s.Keeps a) {p} : s.Keeps (a.sessionUp p) :=
  .ite h.setPort.portUp.tellPorts.sendMarkers.drainTelem.resend.showWaits h

theorem linkAck (h : s.Keeps a) {p pseq} : s.Keeps (a.linkAck p pseq) := .ite h.setPort.fields h

theorem txPassed (h : s.Keeps a) {p} : s.Keeps (a.txPassed p) := .ite h.setPort.sessionUp h

theorem switchTx (h : s.Keeps a) {p} : s.Keeps (a.switchTx p) := by
  unfold State.switchTx
  dsimp only
  split
  exacts [.ite (.ite h.handshake h.handshake.setPort) h, h]

theorem sayReady (h : s.Keeps a) {p} : s.Keeps (a.sayReady p) := .ite h.handshake h

theorem execKeyReady (h : s.Keeps a) (port) : s.Goes (Machine.execKeyReady port a) :=
  (h.sluiceIn (fun h => h.setPort.switchTx)).next

theorem execKeySwitch (h : s.Keeps a) (port tagOk) : s.Goes (Machine.execKeySwitch port tagOk a) :=
  (h.sluiceIn (fun h => by
        dsimp only
        split
        exacts [.ite h.setPort.linkAck.sessionUp (.ite h.setPort.bump.fields h.setPort.bump.setPort.bump.sluiceOn),
          h])).next

theorem raiseFaults (h : s.Keeps a) {p} : s.Keeps (a.raiseFaults p) := h.setPort.foldl (fun h => h.raise)

theorem laneTrained (h : s.Keeps a) {p lane} : s.Keeps (a.laneTrained p lane) := .ite h.svcAdd h.setPort

theorem chooseStep (h : s.Keeps a) {p far} : s.Keeps (a.chooseStep p far) :=
  .ite h.portDown h.setPort.announce.sayReady.switchTx

theorem startTraining (h : s.Keeps a) {p} : s.Keeps (a.startTraining p) := .ite h h.train.announce

theorem execTrainStepEnd (h : s.Keeps a) (port lanes) : s.Goes (Machine.execTrainStepEnd port lanes a) :=
  .next (.ite h.sweep (by
        split
        exacts [h.sweep.setPort, .ite h.sweep.setPort.portDown (.ite h.sweep.setPort.raiseFaults.portDown
            h.sweep.setPort.raiseFaults), h.sweep.setPort.raiseFaults, h.sweep.setPort.raiseFaults,
          h.sweep.setPort.foldl (fun h => h.laneTrained), h.sweep.chooseStep, h.sweep]))

theorem execTrainingRetry (h : s.Keeps a) (port) : s.Goes (Machine.execTrainingRetry port a) :=
  .next (.ite h.sweep.startTraining h.sweep)

theorem restall (h : s.Keeps a) {p} : s.Keeps (a.restall p) := .ite h (.ite h.setPort h.setPort.release)

theorem laneLost (h : s.Keeps a) {port lane} : s.Keeps (a.laneLost port lane) :=
  .ite h (.ite (.portDown (.ite h.setPort.svcAdd h.setPort)) (.restall (.sluiceOn (.ite h.setPort.svcAdd h.setPort))))

theorem execLaneSignalLoss (h : s.Keeps a) (port lane) : s.Goes (Machine.execLaneSignalLoss port lane a) :=
  h.sweep.laneLost.next

theorem execLaneRemovalNotice (h : s.Keeps a) (port lane) : s.Goes (Machine.execLaneRemovalNotice port lane a) :=
  (h.sluiceIn (fun h => .ite h (.ite h.setPort.portDown h.setPort.restall))).next

theorem execLaneRetrainDone (h : s.Keeps a) (port lane pass) : s.Goes (Machine.execLaneRetrainDone port lane pass a) :=
  .next (.ite h.sweep (.ite (.ite h.sweep h.sweep.setPort.restall) (.ite h.sweep (.ite
            h.sweep.setPort.laneTrained.restall h.sweep.setPort.raiseFaults.restall))))

theorem execLaneRecoveryTimeout (h : s.Keeps a) (port transmit) : s.Goes (Machine.execLaneRecoveryTimeout port transmit
    a) :=
  .next (.ite h.sweep.portDown h.sweep)

theorem laneFailed (h : s.Keeps a) {p f} : s.Keeps (a.laneFailed p f) := .ite h (.ite h.setPort.laneLost h.setPort)

theorem tagFailure (h : s.Keeps a) {p f tagOk} : s.Keeps (a.tagFailure p f tagOk) := by
  unfold State.tagFailure
  dsimp only
  split
  exacts [.ite (.handshake (.bump (.ite h.bump h.bump.laneFailed))) (.ite h.bump h.bump.laneFailed), .handshake (.bump
        (.setPort (.ite h.bump h.bump.laneFailed)))]

theorem receive (h : s.Keeps a) {p f tagOk} {serve : State → Flit → State}
    (k : ∀ {b g}, s.Keeps b → s.Keeps (serve b g)) : s.Keeps (a.receive p f tagOk serve) := by
  unfold State.receive
  extract_lets s1 q s2 s3 came
  have h1 : s.Keeps s1 := h.sweep
  have h2 : s.Keeps s2 := h1.setPort.linkAck
  have h3 : s.Keeps s3 := h2.bump
  refine .ite h1 (.ite h1.tagFailure (.ite h1 ?_))
  refine .ite h2 ?_
  split
  exacts [k h3.freeQueue, h3.transmit, h3.freeQueue.nak]

theorem execReadRequest (h : s.Keeps a) (port f tagOk) : s.Goes (execReadRequest port f tagOk a) :=
  .next (h.receive fun h => .ite h.nak (.ite h.nak h.launch))

theorem endAck (h : s.Keeps a) {f} : s.Keeps (a.endAck f) := h.launch

theorem applyOnce (h : s.Keeps a) {f fits} {effect : State → State}
    (k : ∀ {b}, s.Keeps b → s.Keeps (effect b)) : s.Keeps (a.applyOnce f fits effect) :=
  .ite h.endAck (.ite h.nak (.ite h.nak (k h).fields.endAck))

theorem takeStore (h : s.Keeps a) {f} : s.Keeps (a.takeStore f) := by
  unfold State.takeStore
  dsimp only
  split
  exacts [h.foldl (fun h => h.wrN), h.wrN, h.wrN, h.wrN, h.wrN, h.takePiece, h.takeBlock]

theorem execStore (h : s.Keeps a) (port f tagOk) : s.Goes (execStore port f tagOk a) :=
  .next (h.receive fun h => h.applyOnce fun h => h.takeStore)

theorem remoteAdd (h : s.Keeps a) {f vs} : s.Keeps (a.remoteAdd f vs) :=
  .pair (h.fst.foldlFst (fun h => .pairFst h.addPlace fun h => h.fst)) fun h => h.bump.bump.bump

theorem execAccumulateWrite (h : s.Keeps a) (port f tagOk) : s.Goes (execAccumulateWrite port f tagOk a) :=
  .next (h.receive fun h => h.applyOnce fun h => h.remoteAdd)

theorem execAccumulateWriteCompressed (h : s.Keeps a) (port f tagOk) :
    s.Goes (execAccumulateWriteCompressed port f tagOk a) :=
  .next (h.receive fun h => h.applyOnce fun h => h.remoteAdd)

theorem showRead (h : s.Keeps a) {q} : s.Keeps (a.showRead q) :=
  .ite h (.ite (.ite h h.clearWait) (.clearWait (.ite h h.clearWait)))

theorem keepRead (h : s.Keeps a) {q bytes} : s.Keeps (a.keepRead q bytes) := h.fields.showRead

theorem execReadResponse (h : s.Keeps a) (port f tagOk) : s.Goes (execReadResponse port f tagOk a) := by
  refine .next (h.receive fun h => ?_)
  split
  exacts [h.keepRead, h]

theorem writeDone (h : s.Keeps a) {q} : s.Keeps (a.writeDone q) :=
  .showWaits (.resend (.snapPump (.stepPump (.sendMarkers (.ite h.fields.stashMoved h.fields)))))

theorem raiseNak (h : s.Keeps a) {p q} : s.Keeps (a.raiseNak p q) := h.bump.raise

theorem execFlitForward (h : s.Keeps a) (port f tagOk) : s.Goes (execFlitForward port f tagOk a) :=
  .next (h.receive fun h => h)

theorem execReplayRequest (h : s.Keeps a) (port pseq) : s.Goes (Machine.execReplayRequest port pseq a) :=
  (h.sluiceIn (fun h => h.sendAgain)).next

theorem execLinkAcknowledgement (h : s.Keeps a) (port pseq) : s.Goes (Machine.execLinkAcknowledgement port pseq a) :=
  (h.sluiceIn (fun h => .release (.ite h.setPort.txPassed h.setPort))).next

theorem execCreditReturn (h : s.Keeps a) (port queue n) : s.Goes (Machine.execCreditReturn port queue n a) :=
  (h.sluiceIn (fun h => h.setPort.release)).next

theorem execTelemetryFlit (h : s.Keeps a) (src body) : s.Goes (Machine.execTelemetryFlit src body a) :=
  .next (.ite h.trace h)

theorem lanesUp (h : s.Keeps a) {p bad} : s.Keeps (a.lanesUp p bad).1 :=
  .fst (.restall (.ite h.setPort h.setPort.svcAdd))

theorem tellLanes (h : s.Keeps a) {p out} : s.Keeps (a.tellLanes p out) := h.announce.foldl (fun h => h.sluiceOn)

theorem followFar (h : s.Keeps a) {p st} : s.Keeps (a.followFar p st) := .ite h.setPort (.ite (.ite h h.lanesUp) h)

theorem wakeIfWaits (h : s.Keeps a) {p} : s.Keeps (a.wakeIfWaits p) := .ite h.sluiceOn h

theorem portTold (h : s.Keeps a) {node port st new} : s.Keeps (a.portTold node port st new) :=
  .foldl (.sendMarkers (.foldl (.ite (h.foldl (fun h => h.followFar)).sluiceAll (h.foldl (fun h => h.followFar)))
        (fun h => h.announce))) (fun h => h.wakeIfWaits)

theorem execPortStateNotice (h : s.Keeps a) (node port state) : s.Goes (Machine.execPortStateNotice node port state a)
  :=
  .next (.foldl (.showWaits (.resend (.ite (.retransmit (.ite (.ite h.sweep h.sweep.announce) (.portTold (.ite h.sweep
                    h.sweep.fields)))) (.ite (.ite h.sweep h.sweep.announce) (.portTold (.ite h.sweep
                  h.sweep.fields)))))) (fun h => h.drainTelem))

end Sys2Proof.Machine.State.Keeps
end

section
/-! What is kept by start-up, self-test, power and the governor. -/
namespace Sys2Proof.Machine.State.Keeps
variable {s a b : State}

theorem enterInit (h : s.Keeps a) : s.Keeps a.enterInit :=
  .foldl (.ite h.fields.soleHall h.fields) (fun h => .ite h.startTraining h)

theorem crossActive (h : s.Keeps a) : s.Keeps a.crossActive := h.fields.foldl (fun h => h.svcAdd)

theorem execActiveClkCrossing (h : s.Keeps a) : s.Goes (Machine.execActiveClkCrossing a) := h.crossActive.next

theorem warmed (h : s.Keeps a) : s.Keeps a.warmed := h

theorem endAll (h : s.Keeps a) : s.Keeps a.endAll :=
  .foldl (by split; exacts [h.abandon, h]) (fun h => .ite h h.endSlot)

theorem execWarmReset (h : s.Keeps a) : s.Goes (Machine.execWarmReset a) :=
  .next (.ite h h.endAll.crossActive.warmed.enterInit)

theorem eraseKeys (h : s.Keeps a) : s.Keeps a.eraseKeys := h.fields.foldl (fun h => h.setPort)

theorem grantScan (h : s.Keeps a) : s.Keeps a.grantScan :=
  ((h.eraseKeys.foldl (fun h => h.setPort)).foldl (fun h => h.raise.noteOwnPort)).chooseParent.fields

theorem execScanRequest (h : s.Keeps a) : s.Goes (Machine.execScanRequest a) := .next (.ite h.fields h.grantScan)

theorem beginRun (h : s.Keeps a) : s.Keeps a.beginRun := h.fields

theorem execStartupPhaseEnd (h : s.Keeps a) : s.Goes (Machine.execStartupPhaseEnd a) :=
  .next (by split; exacts [.ite h.grantScan h.enterInit, .ite h.fields h.beginRun, h])

theorem testArray (h : s.Keeps a) {n plots shared} : s.Keeps (a.testArray n plots shared) := by
  unfold State.testArray
  extract_lets d bad cs d1 s1
  refine .ite h.setDiag (.ite h.setDiag.fields ?_)
  split
  rename_i x t e
  replace h : s.Keeps t := .of_eq (Prod.swap_inj.mpr e : (_, _) = (t, x)) h.draw
  exact h.setDiag.fields

theorem retestArray (h : s.Keeps a) {n ok} : s.Keeps (a.retestArray n ok) := .fields (.ite h h.setDiag)

theorem execSelftestBatchEnd (h : s.Keeps a) (found) : s.Goes (Machine.execSelftestBatchEnd found a) :=
  .next (.ite h (.ite (h.foldl (fun h => h.testArray)).fields (h.fields.foldl (fun h => h.retestArray))))

theorem blow (h : s.Keeps a) {n} : s.Keeps (a.blow n) := .ite h.fields.setDiag h.fields.setDiag

theorem recordRun (h : s.Keeps a) {tested} : s.Keeps (a.recordRun tested) := h.foldl (fun h => h.svcAdd.svcAdd)

theorem startTest (h : s.Keeps a) : s.Keeps a.startTest := .ite h.fields (.ite h.fields.beginRun h.beginRun)

theorem execStart (h : s.Keeps a) : s.Goes (Machine.execStart a) := h.startTest.answer.next

theorem execAutoidle (h : s.Keeps a) : s.Goes (Machine.execAutoidle a) := .next (.ite h.fields h)

theorem wake (h : s.Keeps a) : s.Keeps a.wake := h.fields

theorem setTarget (h : s.Keeps a) {x1} : s.Keeps (a.setTarget x1) := by
  unfold State.setTarget
  split
  exacts [.ite h.fields.wake h.fields, h.fields, h.fields, h]

theorem execTargetRun (h : s.Keeps a) : s.Goes (Machine.execTargetRun a) := h.setTarget.answer.next

theorem execTargetNap (h : s.Keeps a) : s.Goes (Machine.execTargetNap a) := h.setTarget.answer.next

theorem execTargetDeep (h : s.Keeps a) : s.Goes (Machine.execTargetDeep a) := h.setTarget.answer.next

theorem execNapEnter (h : s.Keeps a) : s.Goes (Machine.execNapEnter a) := .next (.ite h.crossActive.fields h)

theorem allKeepAlive (h : s.Keeps a) : s.Keeps a.allKeepAlive :=
  h.foldl (fun h => .ite h.setPort.announce (.ite h.setPort h))

theorem allBackUp (h : s.Keeps a) {errors dark} : s.Keeps (a.allBackUp errors dark) := by
  unfold State.allBackUp
  extract_lets back
  split
  rename_i t outs e
  replace h : s.Keeps t := .of_eq e (.foldlFst h.fst fun h => .pairFst h.lanesUp fun h => h.fst)
  refine .foldl (.foldl (.foldl h ?_) ?_) ?_
  exacts [fun h => h.tellLanes, fun h => .ite h.setPort.wakeIfWaits h, fun h => h.drainTelem]

theorem execDeepEnter (h : s.Keeps a) : s.Goes (Machine.execDeepEnter a) :=
  .next (.ite h.sweep.crossActive.fields.allKeepAlive h)

theorem arraysFresh (h : s.Keeps a) : s.Keeps a.arraysFresh := h.fields

theorem awake (h : s.Keeps a) : s.Keeps a.awake := h.arraysFresh.fields

theorem execNapWakeDone (h : s.Keeps a) : s.Goes (Machine.execNapWakeDone a) := .next (.ite h.awake h)

theorem execWakeRequest (h : s.Keeps a) (port) : s.Goes (Machine.execWakeRequest port a) :=
  (h.sluiceIn (fun h => .ite h.wake h)).next

theorem execCurrentSample (h : s.Keeps a) (ma mv) : s.Goes (Machine.execCurrentSample ma mv a) := h.fields.next

theorem svcPeak (h : s.Keeps a) {k x2} : s.Keeps (a.svcPeak k x2) := h.fields

theorem setLevel (h : s.Keeps a) {l calm} : s.Keeps (a.setLevel l calm) := .ite h.fields.raise h.fields

theorem execSensorRead (h : s.Keeps a) (temps) : s.Goes (Machine.execSensorRead temps a) :=
  .next (.ite (h.foldl (fun h => h.svcPeak)).fields.setLevel.raise (h.foldl (fun h => h.svcPeak)).fields)

theorem execThrottleLevelUpdate (h : s.Keeps a) : s.Goes (Machine.execThrottleLevelUpdate a) := h.setLevel.next

theorem execForecast (h : s.Keeps a) : s.Goes (execForecast a) := .next h.draw.draw.draw.fields

theorem execGovernorTelemetry (h : s.Keeps a) : s.Goes (Machine.execGovernorTelemetry a) :=
  .next (by split; exacts [h.sweep.telemetryOn, h.sweep])

end Sys2Proof.Machine.State.Keeps
end

section
/-! What is kept by UPDATE, retirement and the counters. -/
namespace Sys2Proof.Machine.State.Keeps
variable {s a b : State}

theorem updatePrep (h : s.Keeps a) {f} : s.Keeps (a.updatePrep f) := by
  unfold State.updatePrep
  dsimp only
  split
  exacts [h.wrN.setFlight, h]

theorem updateCommit (h : s.Keeps a) {f} : s.Keeps (a.updateCommit f) := h.wrN

theorem putState (h : s.Keeps a) {k y f vs} : s.Keeps (a.putState k y f vs).1 := by
  unfold State.putState
  extract_lets
  split
  rename_i t y e
  replace h : s.Keeps t := by
    refine .of_eq e (.foldlFst h.fst fun h => ?_)
    split
    exact h.convWrite
  exact .fst (.ite (h.foldl fun h => h.putCodes) h)

theorem updateEffect (h : s.Keeps a) {fl} : s.Keeps (a.updateEffect fl) := by
  unfold State.updateEffect
  extract_lets
  split
  · split
    · extract_lets
      split
      extract_lets
      split
      rename_i t y e
      replace h : s.Keeps t := .of_eq e (.foldlFst h.fst fun h => h.convWrite)
      split
      rename_i t y fl0 e
      replace h : s.Keeps t := .of_eq e h.closeSink
      split
      rename_i t y fl1 e
      replace h : s.Keeps t := by
        refine .of_eq e (.foldlFst h.fst fun h => ?_)
        split
        · exact .pairFst h.putState fun h => .pairFst h.closeSink fun h => h.fst
        · exact h
      extract_lets s1
      have h1 : s.Keeps s1 := .ite (h.foldl fun h => h.writePlace) h
      exact h1.bumpCounts.made
    · exact h.made
  · exact h.made

theorem startUpdate (h : s.Keeps a) {i n} : s.Keeps (a.startUpdate i n) :=
  h.attempt (fun h => .ite h.setWait (by
        dsimp only
        split
        exacts [(h.issue (fun h => h.updateEffect)).updatePrep, h.issue (fun h => h.updateEffect)]))

theorem startFence (h : s.Keeps a) {i n} : s.Keeps (a.startFence i n) := h.issue (fun h => h.setFlight.showWaits)

theorem startStopat (h : s.Keeps a) {i n} : s.Keeps (a.startStopat i n) := h.issue (fun h => h.scheduleStop.retire)

theorem startNop (h : s.Keeps a) {i n} : s.Keeps (a.startNop i n) := h.issue (fun h => h.retire)

theorem effectOf (h : s.Keeps a) {f} : s.Keeps (a.effectOf f) := by
  unfold State.effectOf
  split
  exacts [h.maxidxEffect, h.qstatEffect, h.qconvEffect, h.rescaleEffect, h.pushEffect, h.popEffect, h.rowrecEffect,
      h.derivEffect, h.movement, h.movement, h.movement, h.reduceEffect, h.updateEffect, h]

theorem actLate (h : s.Keeps a) {f} : s.Keeps (a.actLate f) := .ite h (.ite (.ite h h.effectOf) h)

theorem unitRetire (h : s.Keeps a) {f} : s.Keeps (a.unitRetire f) := by
  unfold State.unitRetire
  split
  exacts [h.stashRetire, h.stashRetire, h.takeMarkers, h.updateCommit, h.snapRetire, h.snapRetire, h]

theorem markSaved (h : s.Keeps a) {f} : s.Keeps (a.markSaved f) := .ite h.endWaits.setSlot h

theorem pumpAll (h : s.Keeps a) : s.Keeps a.pumpAll := h.sendMarkers.stepPump.snapPump

theorem finish (h : s.Keeps a) {f} : s.Keeps (a.finish f) := by
  unfold State.finish
  refine .ite ?_ (.ite h.retire.finishStep.pumpAll (.ite h.markSaved.retire.pumpAll h.unitRetire.retire.pumpAll))
  split
  rename_i t g e
  replace h : s.Keeps t := .of_eq e h.drainGang
  exact h.retire.pumpAll

theorem seatWaiting (h : s.Keeps a) {f} : s.Keeps (a.seatWaiting f) := .ite (.ite h.setFlight h.drainOthers.stream) h

theorem counterCmd (h : s.Keeps a) {bank op cmdid} : s.Keeps (a.counterCmd bank op cmdid) :=
  .ite h (.ite (.foldl (.ite (h.countWaits.foldl (fun h => h.sampleBank)) h.countWaits) (fun h => h.resetBank))
      (.ite (h.countWaits.foldl (fun h => h.sampleBank)) h.countWaits))

theorem execCounterSample (h : s.Keeps a) (bank cmdid) : s.Goes (Machine.execCounterSample bank cmdid a) :=
  h.counterCmd.answer.next

theorem execCounterReset (h : s.Keeps a) (bank cmdid) : s.Goes (Machine.execCounterReset bank cmdid a) :=
  h.counterCmd.answer.next

theorem execSampleAndReset (h : s.Keeps a) (bank cmdid) : s.Goes (Machine.execSampleAndReset bank cmdid a) :=
  h.counterCmd.answer.next

theorem execCntTagRead (h : s.Keeps a) (half) : s.Goes (Machine.execCntTagRead a half) := h.fields.answer.next

theorem execTraceLostRead (h : s.Keeps a) (half) : s.Goes (Machine.execTraceLostRead a half) :=
  .next (.answer (.ite h h.fields))

theorem execAutomaticSample (h : s.Keeps a) : s.Goes (Machine.execAutomaticSample a) :=
  .next (.ite h (h.countWaits.foldl (fun h => h.sampleBank)))

theorem positionOf (h : s.Keeps a) {c} : s.Keeps (a.positionOf c) := by
  unfold State.positionOf
  extract_lets
  split
  · exact h.trace
  · dsimp only
    exact .ite h.draw.trace (.ite h.draw.trace h.draw.trace)

theorem execPositionSample (h : s.Keeps a) : s.Goes (Machine.execPositionSample a) :=
  .next (.ite h (h.foldl (fun h => h.positionOf)))

theorem execHang (h : s.Keeps a) (slot) : s.Goes (Machine.execHang slot a) := .next (.ite h h.setSlot.raise)

end Sys2Proof.Machine.State.Keeps
end

section
/-! What is kept by the order of dispatch and what changes with it. -/
namespace Sys2Proof.Machine.State.Keeps
variable {s a b : State}

theorem attemptOn (h : s.Keeps a) {i n core} : s.Keeps (a.attemptOn i n core) := by
  unfold State.attemptOn
  split
  exacts [h.prodDispatch, h.prodDispatch, h.prodDispatch, h.prodDispatch, h.startMaxidx, h.startQstat, h.startQconv,
      h.startRescale, h.startRowrec, h.startDeriv, h.startPush, h.startPop, h.startMove, h.startGather, h.startScatter,
      h.startReduce, h.startUpdate, h.startSnap, h.startRestore, h.startFence, h.startStopat, h.startStep,
      h.startCtxsave, h.startCtxload, h.startNop, h]

theorem showReason (h : s.Keeps a) {i n} : s.Keeps (a.showReason i n) := by
  unfold State.showReason
  dsimp only
  split
  exacts [.ite h h.setWait, h]

theorem showReasons (h : s.Keeps a) : s.Keeps a.showReasons :=
  h.foldl (fun h => .ite (h.forN (fun h => h.showReason)) h)

theorem tookTurn (h : s.Keeps b) {i n} : s.Keeps (a.tookTurn b i n) := .ite h.fields.showReasons h

theorem inTurn (h : s.Keeps a) {i n opc} {go : State → State} (k : ∀ {b}, s.Keeps b → s.Keeps (go b)) :
    s.Keeps (a.inTurn i n opc go) :=
  .ite (.ite h.sweep.setWait h.sweep) (k h.sweep).tookTurn

theorem execOperandFetch (h : s.Keeps a) (slot node core skew) : s.Goes (Machine.execOperandFetch slot node core skew a)
  :=
  .next (.ite (.ite h.sweep (.ite (.showReason (.ite h.sweep.fetch.fields h.sweep.fetch)) (.ite h.sweep.fetch.fields
            h.sweep.fetch))) h.sweep.fetch)

theorem execFprod (h : s.Keeps a) (slot node core hits) : s.Goes (Machine.execFprod slot node core hits a) :=
  (h.inTurn (fun h => h.prodDispatch)).next

theorem execGdx (h : s.Keeps a) (slot node core hits) : s.Goes (Machine.execGdx slot node core hits a) :=
  (h.inTurn (fun h => h.prodDispatch)).next

theorem execGdw (h : s.Keeps a) (slot node core hits) : s.Goes (Machine.execGdw slot node core hits a) :=
  (h.inTurn (fun h => h.prodDispatch)).next

theorem execDist (h : s.Keeps a) (slot node core hits) : s.Goes (Machine.execDist slot node core hits a) :=
  (h.inTurn (fun h => h.prodDispatch)).next

theorem execMaxidx (h : s.Keeps a) (slot node core) : s.Goes (Machine.execMaxidx slot node core a) :=
  (h.inTurn (fun h => h.startMaxidx)).next

theorem execQstat (h : s.Keeps a) (slot node core) : s.Goes (Machine.execQstat slot node core a) :=
  (h.inTurn (fun h => h.startQstat)).next

theorem execQconv (h : s.Keeps a) (slot node core) : s.Goes (Machine.execQconv slot node core a) :=
  (h.inTurn (fun h => h.startQconv)).next

theorem execRescale (h : s.Keeps a) (slot node core) : s.Goes (Machine.execRescale slot node core a) :=
  (h.inTurn (fun h => h.startRescale)).next

theorem execRowrec (h : s.Keeps a) (slot node core) : s.Goes (Machine.execRowrec slot node core a) :=
  (h.inTurn (fun h => h.startRowrec)).next

theorem execDeriv (h : s.Keeps a) (slot node core) : s.Goes (Machine.execDeriv slot node core a) :=
  (h.inTurn (fun h => h.startDeriv)).next

theorem execPush (h : s.Keeps a) (slot node) : s.Goes (Machine.execPush slot node a) :=
  (h.inTurn (fun h => h.startPush)).next

theorem execPop (h : s.Keeps a) (slot node) : s.Goes (Machine.execPop slot node a) :=
  (h.inTurn (fun h => h.startPop)).next

theorem execMove (h : s.Keeps a) (slot node) : s.Goes (Machine.execMove slot node a) :=
  (h.inTurn (fun h => h.startMove)).next

theorem execGather (h : s.Keeps a) (slot node) : s.Goes (Machine.execGather slot node a) :=
  (h.inTurn (fun h => h.startGather)).next

theorem execScatter (h : s.Keeps a) (slot node) : s.Goes (Machine.execScatter slot node a) :=
  (h.inTurn (fun h => h.startScatter)).next

theorem execReduce (h : s.Keeps a) (slot node) : s.Goes (Machine.execReduce slot node a) :=
  (h.inTurn (fun h => h.startReduce)).next

theorem execUpdate (h : s.Keeps a) (slot node) : s.Goes (Machine.execUpdate slot node a) :=
  (h.inTurn (fun h => h.startUpdate)).next

theorem execSnap (h : s.Keeps a) (slot node) : s.Goes (Machine.execSnap slot node a) :=
  (h.inTurn (fun h => h.startSnap)).next

theorem execRestore (h : s.Keeps a) (slot node images) : s.Goes (Machine.execRestore slot node a images) :=
  (h.inTurn (fun h => h.startRestore)).next

theorem execFence (h : s.Keeps a) (slot node) : s.Goes (Machine.execFence slot node a) :=
  (h.inTurn (fun h => h.startFence)).next

theorem execStopat (h : s.Keeps a) (slot node) : s.Goes (Machine.execStopat slot node a) :=
  (h.inTurn (fun h => h.startStopat)).next

theorem execStep (h : s.Keeps a) (slot node) : s.Goes (Machine.execStep slot node a) :=
  (h.inTurn (fun h => h.startStep)).next

theorem execNop (h : s.Keeps a) (slot node) : s.Goes (Machine.execNop slot node a) :=
  (h.inTurn (fun h => h.startNop)).next

theorem execCtxsave (h : s.Keeps a) (slot node stops) : s.Goes (Machine.execCtxsave slot node stops a) :=
  (h.inTurn (fun h => h.startCtxsave)).next

theorem execCtxload (h : s.Keeps a) (slot node cores) : s.Goes (Machine.execCtxload slot node cores a) :=
  (h.inTurn (fun h => h.startCtxload)).next

theorem execGraphLoadComplete (h : s.Keeps a) : s.Goes (Machine.execGraphLoadComplete a) := by
  unfold Machine.execGraphLoadComplete
  split
  exacts [h.next, .next (.ite h.endLoad.showReasons h.endLoad)]

theorem execInstructionRetire (h : s.Keeps a) (slot node) : s.Goes (Machine.execInstructionRetire slot node a) := by
  unfold Machine.execInstructionRetire
  extract_lets s1
  have h1 : s.Keeps s1 := h.sweep
  exact .next (by
      split
      exacts [h1, by
        dsimp only
        split
        exacts [.ite h1.actLate.seatWaiting.sendMarkers h1.actLate.seatWaiting, .ite (.showWaits (.ite
              h1.actLate.seatWaiting.sendMarkers h1.actLate.seatWaiting)) (.ite (.askAll (.ite
                h1.actLate.seatWaiting.sendMarkers h1.actLate.seatWaiting)) (.showReasons (.finish (.ite
                  h1.actLate.seatWaiting.sendMarkers h1.actLate.seatWaiting))))]])

theorem stashChanged (h : s.Keeps b) {i} : s.Keeps (a.stashChanged i b) := .ite h h.showReasons

theorem execStashMove (h : s.Keeps a) (slot) : s.Goes (Machine.execStashMove slot a) :=
  h.sweep.stashMove.stashChanged.next

theorem execStashReturn (h : s.Keeps a) (slot) : s.Goes (Machine.execStashReturn slot a) :=
  h.sweep.stashReturn.stashChanged.next

theorem execStashReturnEnd (h : s.Keeps a) (slot) : s.Goes (Machine.execStashReturnEnd slot a) :=
  h.sweep.stashReturnEnd.snapPump.stashChanged.next

theorem execRebuildDone (h : s.Keeps a) (images) : s.Goes (Machine.execRebuildDone images a) :=
  .next (.ite (.ite h (.ite (.showReasons (.raiseRebuild (.fields (.ite h.setBuf h)))) (.showReasons (.raiseRebuild
              (.fields (.ite h.takePages.setBuf h.takePages)))))) (.ite h (.ite h.dropPages.fallback (.showReasons
            (.raiseRebuild (.fields (.ite h.takePages.setBuf h.takePages)))))))

theorem wroteEnd (h : s.Keeps a) {q} : s.Keeps (a.wroteEnd q) := .ite h.writeDone.showReasons h.writeDone

theorem execEndToEndAck (h : s.Keeps a) (port f tagOk) : s.Goes (Machine.execEndToEndAck port f tagOk a) :=
  (h.receive (fun h => by split; exacts [h.wroteEnd, h])).next

theorem execNegativeResponse (h : s.Keeps a) (port f tagOk) : s.Goes (Machine.execNegativeResponse port f tagOk a) :=
  (h.receive (fun h => by
        dsimp only
        split
        exacts [.ite h.holdReq (.ite h.raiseNak.wroteEnd (.ite h.fields.holdReq h)), .ite h.holdReq (.ite
            h.raiseNak.keepRead (.ite h.fields.holdReq h)), h])).showWaits.next

end Sys2Proof.Machine.State.Keeps
end

section
/-! What is kept by the registers. -/
namespace Sys2Proof.Machine.State.Keeps
variable {s a b : State}

theorem commit (h : s.Keeps a) : s.Keeps a.commit := .ite h.fields h.fields

theorem abortSlots (h : s.Keeps a) {mask} : s.Keeps (a.abortSlots mask) :=
  (h.sweep.foldl (fun h => .ite h.abandon h)).pumpAll.showReasons

theorem setSlotEn (h : s.Keeps a) {en} : s.Keeps (a.setSlotEn en) := h.fields.showReasons

theorem setVerBase (h : s.Keeps a) {x1} : s.Keeps (a.setVerBase x1) := .ite h h.fields

theorem placed (h : s.Keeps a) : s.Keeps a.placed :=
  .ite (h.foldl (fun h => h.setPort)) (.ite (h.foldl (fun h => h.setPort)).soleHall (h.foldl (fun h =>
          h.setPort)).strangerHall)

theorem setNodeId (h : s.Keeps a) {n} : s.Keeps (a.setNodeId n) := .ite h.fields h.fields.placed

theorem setTopo (h : s.Keeps a) {x y z clear} : s.Keeps (a.setTopo x y z clear) := .ite h.fields h.fields.placed

theorem linkCtrl (h : s.Keeps a) {pen retrain p} : s.Keeps (a.linkCtrl pen retrain p) :=
  .ite h.fields (.ite h.fields.startTraining (.ite (.ite h.fields h.fields.portDown) (.ite
          h.fields.portDown.startTraining h.fields)))

theorem stageKey (h : s.Keeps a) : s.Keeps a.stageKey :=
  .ite h.fields (.dite (fun _ => .ite h.fields.setPort.sayReady h.fields.setPort.switchTx) fun _ => h.fields.fields)

theorem keySelWrite (h : s.Keeps a) {kport kdir stage clear} : s.Keeps (a.keySelWrite kport kdir stage clear) :=
  .ite (.stageKey (.ite h.fields h)) (.fields (.ite h.fields h))

theorem keyWord (h : s.Keeps a) {w} : s.Keeps (a.keyWord w) := .ite h.fields h.fields

theorem snapWrite (h : s.Keeps a) {which w} : s.Keeps (a.snapWrite which w) :=
  .ite h.fields (by split; exacts [h.fields, h.fields, h.fields])

theorem svcLoadWrite (h : s.Keeps a) {v} : s.Keeps (a.svcLoadWrite v) := .ite h h.fields

theorem setTraceRd (h : s.Keeps a) {r} : s.Keeps (a.setTraceRd r) := .ite h h.fields

theorem snapAck (h : s.Keeps a) {v} : s.Keeps (a.snapAck v) := by
  unfold State.snapAck
  dsimp only
  split
  exacts [h.sweep.ackCopy.snapPump, h.sweep.ackCopy.snapPump, h.sweep.ackLoad, h.sweep]

theorem writeLow (h : s.Keeps a) {off w} : s.Keeps (a.writeLow off w) := by
  unfold State.writeLow
  split
  exacts [.ite (.commit (.ite h.fields h)) (.ite h.fields h), h.abortSlots, h.setSlotEn, h.setVerBase, h.fields,
      h.fields, h.fields, .ite h.stopWrite h, .ite h.fields.sweep.resume h.fields, .ite h h.fields, h]

theorem writeMid (h : s.Keeps a) {off w} : s.Keeps (a.writeMid off w) := by
  unfold State.writeMid
  split
  exacts [.ite h h.setTarget.fields, h.fields, .ite (.ite h.startTest h) (.ite (.ite h.startTest h) (.fields (.ite
            h.startTest h))), h.fields, h.fields, h.fields, .ite h.setNodeId h, .ite h.setTopo h, h.sweep.foldl (fun h2
        => h2.linkCtrl), .ite h.keySelWrite h, .ite h.keyWord h, h.fields, h]

theorem writeHigh (h : s.Keeps a) {off w} : s.Keeps (a.writeHigh off w) := by
  unfold State.writeHigh
  split
  exacts [h.fields, h.fields, h.fields, h.snapWrite, h.snapWrite, h.snapWrite, .ite h.snapAck h, h.fields, .ite
      h.counterCmd h, h.fields, .ite h h.fields, h.fields, h.fields, h.setTraceRd, h.fields, .ite h.svcLoadWrite h, h]

theorem writeNow (h : s.Keeps a) {off w} : s.Keeps (a.writeNow off w) := .ite h.writeLow (.ite h.writeMid h.writeHigh)

theorem regWrite (h : s.Keeps a) {off half v} : s.Keeps (a.regWrite off half v) := .ite h.fields h.writeNow

theorem write (h : s.Keeps a) {off half v} : s.Keeps (a.write off half v) := h.regWrite.answer

theorem write64 (h : s.Keeps a) {off v} : s.Keeps (a.write64 off v) := h.write

theorem execRegisterWrite (h : s.Keeps a) (offset half v) : s.Goes (Machine.execRegisterWrite offset half v a) :=
  .next (.ite h.write h.fields)

theorem execBadAccess (h : s.Keeps a) (offset size write) : s.Goes (Machine.execBadAccess offset size write a) :=
  .next (.ite h h.fields)

theorem execGo (h : s.Keeps a) : s.Goes (Machine.execGo a) := h.write64.next

theorem execAbort (h : s.Keeps a) (mask) : s.Goes (Machine.execAbort mask a) := h.write64.next

theorem execEventClear (h : s.Keeps a) (bits) : s.Goes (Machine.execEventClear bits a) := h.write64.next

theorem execMaskWrite (h : s.Keeps a) (mask) : s.Goes (Machine.execMaskWrite mask a) := h.write64.next

theorem execTraceRdWrite (h : s.Keeps a) (ridx) : s.Goes (Machine.execTraceRdWrite ridx a) := h.write64.next

theorem execKeySel (h : s.Keeps a) (kport kdir) : s.Goes (Machine.execKeySel kport kdir a) := h.write64.next

theorem execStage (h : s.Keeps a) : s.Goes (Machine.execStage a) := h.write64.next

theorem execKword (h : s.Keeps a) (w) : s.Goes (Machine.execKword w a) := h.write.next

theorem execSalt (h : s.Keeps a) (w) : s.Goes (Machine.execSalt w a) := h.write64.next

theorem execSvcLoad (h : s.Keeps a) (v) : s.Goes (Machine.execSvcLoad v a) := h.write.next

theorem execPortEnable (h : s.Keeps a) (port) : s.Goes (Machine.execPortEnable port a) := h.write64.next

theorem execPortDisable (h : s.Keeps a) (port) : s.Goes (Machine.execPortDisable port a) := h.write64.next

theorem execRetrain (h : s.Keeps a) (port) : s.Goes (Machine.execRetrain port a) := h.write64.next

theorem execAckFlash (h : s.Keeps a) (snum fail) : s.Goes (Machine.execAckFlash snum fail a) := h.write64.next

theorem execAckStore (h : s.Keeps a) (snum fail) : s.Goes (Machine.execAckStore snum fail a) := h.write64.next

theorem execAckLoad (h : s.Keeps a) (snum buf fail) : s.Goes (Machine.execAckLoad snum buf fail a) := h.write64.next

theorem execNodeIdWrite (h : s.Keeps a) (v) : s.Goes (Machine.execNodeIdWrite v a) := h.write.next

theorem execHallTopoWrite (h : s.Keeps a) (v) : s.Goes (Machine.execHallTopoWrite v a) := h.write.next

theorem execVerBaseWrite (h : s.Keeps a) (v) : s.Goes (Machine.execVerBaseWrite v a) := h.write.next

theorem execSnapConfigWrite (h : s.Keeps a) (which v) : s.Goes (Machine.execSnapConfigWrite which v a) := h.write.next

end Sys2Proof.Machine.State.Keeps
end

section
/-! What every command keeps. -/
namespace Sys2Proof.Machine.State.Keeps
variable {s a : State}

theorem execGangStreamStart (h : s.Keeps a) (slot node hits) : s.Goes (execGangStreamStart slot node a hits) := by
  unfold Machine.execGangStreamStart
  extract_lets s1
  have h1 : s.Keeps s1 := h.sweep
  clear_value s1
  refine .next ?_
  split
  · exact h1
  · refine .ite h1 ?_
    split
    · exact h1.startGang
    · split
      · exact h1
      · exact .ite (.ite h1.busy.resumeGang.showReasons h1.wakeForCore) h1
    · exact h1

theorem execDeepWakeDone (h : s.Keeps a) (errors dark) : s.Goes (execDeepWakeDone a errors dark) :=
  .next (.ite (h.sweep.fields.allBackUp.awake.foldl fun h => h.writeNow) h)

theorem execLiveSetChange (h : s.Keeps a) (set acked) : s.Goes (execLiveSetChange set a acked) :=
  .next (.ite h.sweep (.ite h.sweep.fields.takeOffer (.takeOffer (.ite h.sweep.fields h.sweep.fields.sluiceTo))))

/-- Every command but the two that set the grade goes on and keeps these. -/
theorem exec (h : s.Keeps a) {c : Instr} (h1 : c ≠ .coldReset) (h2 : c ≠ .selftestRunEnd) : s.Goes (exec c a) := by
  cases c with
  | submit req => exact h.execSubmit req
  | graphLoadComplete => exact h.execGraphLoadComplete
  | fprod slot node core hits => exact h.execFprod slot node core hits
  | gdx slot node core hits => exact h.execGdx slot node core hits
  | gdw slot node core hits => exact h.execGdw slot node core hits
  | dist slot node core hits => exact h.execDist slot node core hits
  | maxidx slot node core => exact h.execMaxidx slot node core
  | qstat slot node core => exact h.execQstat slot node core
  | qconv slot node core => exact h.execQconv slot node core
  | rescale slot node core => exact h.execRescale slot node core
  | push slot node => exact h.execPush slot node
  | pop slot node => exact h.execPop slot node
  | rowrec slot node core => exact h.execRowrec slot node core
  | deriv slot node core => exact h.execDeriv slot node core
  | move slot node => exact h.execMove slot node
  | gather slot node => exact h.execGather slot node
  | scatter slot node => exact h.execScatter slot node
  | reduce slot node => exact h.execReduce slot node
  | update slot node => exact h.execUpdate slot node
  | snap slot node => exact h.execSnap slot node
  | restore slot node images => exact h.execRestore slot node images
  | fence slot node => exact h.execFence slot node
  | stopat slot node => exact h.execStopat slot node
  | step slot node => exact h.execStep slot node
  | ctxsave slot node stops => exact h.execCtxsave slot node stops
  | ctxload slot node cores => exact h.execCtxload slot node cores
  | nop slot node => exact h.execNop slot node
  | operandFetch slot node core skew => exact h.execOperandFetch slot node core skew
  | gangStreamStart slot node hits => exact h.execGangStreamStart slot node hits
  | instructionRetire slot node => exact h.execInstructionRetire slot node
  | stashMove slot => exact h.execStashMove slot
  | stashReturn slot => exact h.execStashReturn slot
  | go => exact h.execGo
  | abort mask => exact h.execAbort mask
  | eventClear bits => exact h.execEventClear bits
  | maskWrite mask => exact h.execMaskWrite mask
  | counterSample bank cmdid => exact h.execCounterSample bank cmdid
  | counterReset bank cmdid => exact h.execCounterReset bank cmdid
  | sampleAndReset bank cmdid => exact h.execSampleAndReset bank cmdid
  | cntTagRead half => exact h.execCntTagRead half
  | traceLostRead half => exact h.execTraceLostRead half
  | traceRdWrite ridx => exact h.execTraceRdWrite ridx
  | stopAtWrite t => exact h.execStopAtWrite t
  | resume => exact h.execResume
  | keySel kport kdir => exact h.execKeySel kport kdir
  | stage => exact h.execStage
  | kword w => exact h.execKword w
  | salt w => exact h.execSalt w
  | svcLoad v => exact h.execSvcLoad v
  | start => exact h.execStart
  | portEnable port => exact h.execPortEnable port
  | portDisable port => exact h.execPortDisable port
  | retrain port => exact h.execRetrain port
  | targetRun => exact h.execTargetRun
  | targetNap => exact h.execTargetNap
  | targetDeep => exact h.execTargetDeep
  | nodeIdWrite v => exact h.execNodeIdWrite v
  | hallTopoWrite v => exact h.execHallTopoWrite v
  | verBaseWrite v => exact h.execVerBaseWrite v
  | snapConfigWrite which v => exact h.execSnapConfigWrite which v
  | ackFlash snum fail => exact h.execAckFlash snum fail
  | ackStore snum fail => exact h.execAckStore snum fail
  | ackLoad snum buf fail => exact h.execAckLoad snum buf fail
  | registerWrite offset half v => exact h.execRegisterWrite offset half v
  | badAccess offset size write => exact h.execBadAccess offset size write
  | coldReset => exact absurd rfl h1
  | warmReset => exact h.execWarmReset
  | scanRequest => exact h.execScanRequest
  | startupPhaseEnd => exact h.execStartupPhaseEnd
  | selftestBatchEnd found => exact h.execSelftestBatchEnd found
  | selftestRunEnd => exact absurd rfl h2
  | activeClkCrossing => exact h.execActiveClkCrossing
  | autoidle => exact h.execAutoidle
  | napEnter => exact h.execNapEnter
  | deepEnter => exact h.execDeepEnter
  | napWakeDone => exact h.execNapWakeDone
  | deepWakeDone errors dark => exact h.execDeepWakeDone errors dark
  | currentSample ma mv => exact h.execCurrentSample ma mv
  | sensorRead temps => exact h.execSensorRead temps
  | throttleLevelUpdate => exact h.execThrottleLevelUpdate
  | forecast => exact h.execForecast
  | governorTelemetry => exact h.execGovernorTelemetry
  | automaticSample => exact h.execAutomaticSample
  | positionSample => exact h.execPositionSample
  | hang slot => exact h.execHang slot
  | snapdue => exact h.execSnapdue
  | timeFlitSend port sixteenth => exact h.execTimeFlitSend port sixteenth
  | timeFlit port send recv farRecv echoed hops => exact h.execTimeFlit port send recv farRecv echoed hops
  | trainStepEnd port lanes => exact h.execTrainStepEnd port lanes
  | trainingRetry port => exact h.execTrainingRetry port
  | laneSignalLoss port lane => exact h.execLaneSignalLoss port lane
  | laneRetrainDone port lane pass => exact h.execLaneRetrainDone port lane pass
  | laneRecoveryTimeout port transmit => exact h.execLaneRecoveryTimeout port transmit
  | keyReady port => exact h.execKeyReady port
  | keySwitch port tagOk => exact h.execKeySwitch port tagOk
  | readRequest port f tagOk => exact h.execReadRequest port f tagOk
  | store port f tagOk => exact h.execStore port f tagOk
  | accumulateWrite port f tagOk => exact h.execAccumulateWrite port f tagOk
  | accumulateWriteCompressed port f tagOk => exact h.execAccumulateWriteCompressed port f tagOk
  | readResponse port f tagOk => exact h.execReadResponse port f tagOk
  | endToEndAck port f tagOk => exact h.execEndToEndAck port f tagOk
  | negativeResponse port f tagOk => exact h.execNegativeResponse port f tagOk
  | flitForward port f tagOk => exact h.execFlitForward port f tagOk
  | replayRequest port pseq => exact h.execReplayRequest port pseq
  | linkAcknowledgement port pseq => exact h.execLinkAcknowledgement port pseq
  | creditReturn port queue n => exact h.execCreditReturn port queue n
  | telemetryFlit src body => exact h.execTelemetryFlit src body
  | portStateNotice node port state => exact h.execPortStateNotice node port state
  | wakeRequest port => exact h.execWakeRequest port
  | stopCommand port t => exact h.execStopCommand port t
  | stopTick => exact h.execStopTick
  | cutLocalDone => exact h.execCutLocalDone
  | cutDoneNotice node late => exact h.execCutDoneNotice node late
  | resumeNotice node => exact h.execResumeNotice node
  | stepReady node merges => exact h.execStepReady node merges
  | stepDone blocks => exact h.execStepDone blocks
  | endMarker src layer opid ubatch step => exact h.execEndMarker src layer opid ubatch step
  | snapReady node snum depth check => exact h.execSnapReady node snum depth check
  | captureDone node snum => exact h.execCaptureDone node snum
  | snapCaptureEnd overflow => exact h.execSnapCaptureEnd overflow
  | parityComplete role images => exact h.execParityComplete role images
  | parityNotice node snum => exact h.execParityNotice node snum
  | liveSetChange set acked => exact h.execLiveSetChange set acked
  | partitionEvaluation contNear => exact h.execPartitionEvaluation contNear
  | lossDeclaration lost => exact h.execLossDeclaration lost
  | rebuildDone images => exact h.execRebuildDone images
  | rejoin count lost => exact h.execRejoin count lost
  | laneRemovalNotice port lane => exact h.execLaneRemovalNotice port lane
  | stashReturnEnd slot => exact h.execStashReturnEnd slot
  | restoreWriteEnd images => exact h.execRestoreWriteEnd images
  | copyReport node store snum ok => exact h.execCopyReport node store snum ok
  | backupHistoryUpdate costs intervals => exact h.execBackupHistoryUpdate costs intervals

/-- So does a tick. -/
theorem idle (h : s.Keeps a) : s.Keeps a.idle := .ite h (.ite h h)

end Sys2Proof.Machine.State.Keeps
end

section
/-! The grade: what sets it (R12, R13), and that everything else keeps it. -/
namespace Sys2Proof.Machine

theorem bit_eq_testBit (x i : Nat) : bit x i = x.testBit i := by
  simp only [bit, fld, Nat.testBit_eq_decide_div_mod_eq, Nat.shiftRight_eq_div_pow, pow_one]
  rfl

/-- Bit `n` of the set of arrays, from any set on. -/
theorem getLsbD_foldl_arrayBits (l : List Nat) (a : BitVec 32) {n : Nat} (hn : n < 32) :
    (l.foldl (fun a n => a ||| BitVec.ofNat 32 (2 ^ n)) a).getLsbD n = (a.getLsbD n || decide (n ∈ l)) := by
  induction l generalizing a with
  | nil => simp
  | cons m l ih =>
    have hm : (BitVec.ofNat 32 (2 ^ m)).getLsbD n = decide (n = m) := by
      rw [BitVec.getLsbD_ofNat, Nat.testBit_two_pow, decide_eq_true hn, Bool.true_and, decide_eq_decide, eq_comm]
    rw [List.foldl_cons, ih, BitVec.getLsbD_or, hm, Bool.or_assoc, ← Bool.decide_or]
    simp

theorem getLsbD_arrayBits (l : List Nat) {n : Nat} (hn : n < 32) : (arrayBits l).getLsbD n = decide (n ∈ l) := by
  rw [arrayBits, getLsbD_foldl_arrayBits l 0 hn]
  simp

theorem popCount_eq_countP (x w : Nat) : popCount x w = (List.range w).countP (bit x) := by
  have h : ∀ (l : List Nat) (a : Nat), l.foldl (fun a i => a + b2n (bit x i)) a = a + l.countP (bit x) := by
    intro l
    induction l with
    | nil => intro a; rfl
    | cons i l ih =>
      intro a
      rw [List.foldl_cons, ih, List.countP_cons, b2n]
      omega
  simpa [popCount] using h (List.range w) 0

/-- The set of arrays in a rising list has as many bits as the list has entries. -/
theorem popCount_arrayBits {l : List Nat} (h : l.Sublist (List.range 32)) :
    popCount (arrayBits l).toNat 32 = l.length := by
  have hl : (List.range 32).filter (· ∈ l) |>.Perm l := by
    refine (List.perm_ext_iff_of_nodup (List.nodup_range.filter _) (h.nodup List.nodup_range)).mpr fun n => ?_
    simpa using fun hn => List.mem_range.mp (h.subset hn)
  calc popCount (arrayBits l).toNat 32
    _ = (List.range 32).countP (· ∈ l) := by
      rw [popCount_eq_countP]
      refine List.countP_congr fun n hn => ?_
      rw [bit_eq_testBit, BitVec.testBit_toNat, getLsbD_arrayBits l (List.mem_range.mp hn)]
    _ = l.length := by rw [List.countP_eq_length_filter, hl.length_eq]

/-- The four grades, with the arrays that stay usable (R12, R13). -/
theorem gradeOf_cases {ok : List Nat} (h : ok.length ≤ 32) :
    ok.length = 32 ∧ gradeOf ok = (3, ok) ∨ (30 ≤ ok.length ∧ ok.length < 32) ∧ gradeOf ok = (2, ok.take 30) ∨
      (28 ≤ ok.length ∧ ok.length < 30) ∧ gradeOf ok = (1, ok.take 28) ∨ ok.length < 28 ∧ gradeOf ok = (0, ok) := by
  unfold gradeOf
  split
  · exact .inl ⟨‹_›, rfl⟩
  · split
    · exact .inr (.inl ⟨by omega, rfl⟩)
    · split
      · exact .inr (.inr (.inl ⟨by omega, rfl⟩))
      · exact .inr (.inr (.inr ⟨by omega, rfl⟩))

theorem State.regrade_grade (s : State) (ok : List Nat) : (s.regrade ok).grade = BitVec.ofNat 4 (gradeOf ok).1 := rfl
theorem State.regrade_present (s : State) (ok : List Nat) : (s.regrade ok).present = arrayBits (gradeOf ok).2 := rfl

/-- A grade agrees with its arrays where the good arrays are listed in rising order. -/
theorem State.regrade_gradeOk (s : State) {ok : List Nat} (h : ok.Sublist (List.range 32)) :
    (s.regrade ok).GradeOk := by
  have hlen : ok.length ≤ 32 := by simpa using h.length_le
  have htake : ∀ {k : Nat}, k ≤ ok.length → popCount (arrayBits (ok.take k)).toNat 32 = k := fun {k} hk => by
    rw [popCount_arrayBits ((ok.take_sublist k).trans h), List.length_take, Nat.min_eq_left hk]
  unfold State.GradeOk
  rw [s.regrade_grade, s.regrade_present]
  obtain ⟨h32, e⟩ | ⟨⟨h30, -⟩, e⟩ | ⟨⟨h28, -⟩, e⟩ | ⟨h0, e⟩ := gradeOf_cases hlen <;> rw [e]
  · obtain rfl : ok = List.range 32 := h.eq_of_length (by simpa)
    exact .inl ⟨rfl, rfl⟩
  · exact .inr (.inl ⟨rfl, htake h30⟩)
  · exact .inr (.inr (.inl ⟨rfl, htake h28⟩))
  · exact .inr (.inr (.inr ⟨rfl, (popCount_arrayBits h).trans_lt h0⟩))

theorem State.unfused_sublist (s : State) : s.unfused.Sublist (List.range 32) := List.filter_sublist

theorem State.Keeps.queue {s t : State} (h : s.Keeps t) : t.pending = s.pending := h.1

/-- Agreement of `GRADE` and the usable arrays is about these two fields alone. -/
theorem State.Keeps.gradeOk {s t : State} (h : s.Keeps t) (g : s.GradeOk) : t.GradeOk := by
  obtain ⟨-, h2, h3, -⟩ := h
  unfold State.GradeOk
  rw [h2, h3]
  exact g

-- The end of a self-test run.

/-- `t` is `s` after what the end of a self-test run does to arrays one by one: the service record, what is fused, the
arrays' marks and what their tests found may differ. -/
def State.Tests (s t : State) : Prop :=
  ∃ v f r d, t = { s with svc := v, out := { s.out with fused := f }, arrs := r, st := { s.st with diag := d } }

namespace State.Tests
variable {s t u : State}

theorem refl (s : State) : s.Tests s := ⟨_, _, _, _, rfl⟩

theorem trans (h : s.Tests t) (k : t.Tests u) : s.Tests u := by
  obtain ⟨v, f, r, d, rfl⟩ := h
  obtain ⟨v', f', r', d', rfl⟩ := k
  exact ⟨v', f', r', d', rfl⟩

theorem foldl {α : Type} {f : State → α → State} (hf : ∀ (s : State) x, s.Tests (f s x)) (l : List α) (s : State) :
    s.Tests (l.foldl f s) := by
  induction l generalizing s with
  | nil => exact refl s
  | cons x l ih => exact (hf s x).trans (ih _)

theorem svcAdd (s : State) (i n : Nat) : s.Tests (s.svcAdd i n) := ⟨_, _, _, _, rfl⟩

theorem setDiag (s : State) (n : Nat) (d : Diag) : s.Tests (s.setDiag n d) := by
  unfold State.setDiag
  split
  · exact ⟨_, _, _, _, rfl⟩
  · exact refl s

theorem setArr (s : State) (n : Nat) (a : Arr) : s.Tests (s.setArr n a) := by
  unfold State.setArr
  split
  · exact ⟨_, _, _, _, rfl⟩
  · exact refl s

theorem blow (s : State) (n : Nat) : s.Tests (s.blow n) := by
  have h : s.Tests { s with out := { s.out with fused := s.out.fused ++ [n] } } := ⟨_, _, _, _, rfl⟩
  unfold State.blow
  dsimp only
  split
  · exact h.trans (setDiag _ _ _)
  · exact h.trans (setDiag _ _ _)

theorem recordRun (s : State) (l : List Nat) : s.Tests (s.recordRun l) :=
  foldl (fun s _ => (svcAdd s _ _).trans (svcAdd _ _ _)) l s

/-- Grades do not depend on these. -/
theorem regrade (h : s.Tests t) (ok : List Nat) : (s.regrade ok).Tests (t.regrade ok) := by
  obtain ⟨v, f, r, d, rfl⟩ := h
  exact ⟨v, f, r, d, rfl⟩

end State.Tests

/-- Arrays that are not fused off and passed the run. -/
def State.passed (s : State) : List Nat := s.unfused.filter fun n => !s.st.failed.contains n

theorem State.passed_sublist (s : State) : s.passed.Sublist (List.range 32) :=
  List.filter_sublist.trans s.unfused_sublist

/-- A state as a run that passed the arrays `ok` of `tested` leaves it, before SELFTEST is raised. -/
def State.runEnded (s : State) (ok tested : List Nat) : State :=
  { s with phase := .ready, st := { s.st with busy := false, pass := arrayBits ok, tested := arrayBits tested } }

/-- What the end of a run does once every batch and retest is done: grades, the outcome of the run, and the event. -/
theorem execSelftestRunEnd_of_done {s : State} (hp : s.phase = .selftest) (hb : 8 ≤ s.st.batch) (hr :
    s.st.retest = []) :
    ∃ u, (s.regrade s.passed).Tests u ∧ execSelftestRunEnd s = .next ((u.runEnded s.passed s.unfused).raise .selftest
      { unit := 8 } s.passed.length s.unfused.length 0) := by
  have hc : ¬(s.phase ≠ .selftest ∨ s.st.batch < 8 ∨ s.st.retest ≠ []) := by
    simp [hp, hr, hb]
  refine ⟨_, ?_, congrArg _ (if_neg hc)⟩
  refine (State.Tests.regrade ?_ _).trans (.foldl (fun s _ => .setArr s _ _) _ _)
  exact (State.Tests.recordRun s _).trans (.foldl (fun s _ => .blow s _) _ _)

/-- Until then the end of a run changes nothing. -/
theorem execSelftestRunEnd_of_not_done {s : State} (h : s.phase ≠ .selftest ∨ s.st.batch < 8 ∨ s.st.retest ≠ []) :
    execSelftestRunEnd s = .next s := congrArg _ (if_pos h)

/-- Settles O37: a run's end is a grade, a few records of arrays, and the event, each said once above. -/
theorem selfTestRunEndSetsGrade : Obligations.SelfTestRunEndSetsGrade := by
  unfold Obligations.SelfTestRunEndSetsGrade
  intro s
  refine ⟨fun hp hb hr => ?_, fun _ h => execSelftestRunEnd_of_not_done (.inr h)⟩
  obtain ⟨u, ⟨v, f, r, d, hu⟩, he⟩ := execSelftestRunEnd_of_done hp hb hr
  have hpend := (u.runEnded s.passed s.unfused).raise_pend .selftest { unit := 8 } s.passed.length s.unfused.length 0
  obtain ⟨m, x, e, l, ht, -⟩ :=
    (u.runEnded s.passed s.unfused).raise_notes .selftest { unit := 8 } s.passed.length s.unfused.length 0
  rw [ht] at he hpend
  subst hu
  exact ⟨_, he, rfl, rfl, rfl, rfl, rfl, rfl, hpend, rfl, rfl, rfl⟩

-- Every command and every step.

theorem State.Tests.keeps {s t : State} (h : s.Tests t) : s.Keeps t := by
  obtain ⟨v, f, r, d, rfl⟩ := h
  exact (State.Keeps.refl s).fields

theorem State.Keeps.runEnded {s a : State} (h : s.Keeps a) {ok tested} : s.Keeps (a.runEnded ok tested) := h.fields

/-- Every command goes on, keeps the queue, and keeps the grade in agreement with the arrays. -/
theorem exec_goes (c : Instr) (s : State) : ∃ t, exec c s = .next t ∧ t.pending = s.pending ∧ (s.GradeOk →
    t.GradeOk) := by
  by_cases h1 : c = .coldReset
  · subst h1
    exact ⟨_, rfl, rfl, fun _ => State.regrade_gradeOk _ (State.unfused_sublist _)⟩
  by_cases h2 : c = .selftestRunEnd
  · subst h2
    by_cases h : s.phase ≠ .selftest ∨ s.st.batch < 8 ∨ s.st.retest ≠ []
    · exact ⟨s, execSelftestRunEnd_of_not_done h, rfl, id⟩
    · push Not at h
      obtain ⟨hp, hb, hr⟩ := h
      obtain ⟨u, hu, he⟩ := execSelftestRunEnd_of_done hp hb hr
      have ht := hu.keeps.runEnded (ok := s.passed) (tested := s.unfused)
      exact ⟨_, he, ht.raise.queue, fun _ => ht.raise.gradeOk (s.regrade_gradeOk s.passed_sublist)⟩
  obtain ⟨t, he, ht⟩ := (State.Keeps.refl s).exec h1 h2
  exact ⟨t, he, ht.queue, ht.gradeOk⟩

/-- Settles O2: every command's outcome goes on with the queue kept. -/
theorem everyCommandAnswersAndKeepsQueue : Obligations.EveryCommandAnswersAndKeepsQueue := by
  unfold Obligations.EveryCommandAnswersAndKeepsQueue
  intro c s
  obtain ⟨t, he, hq, -⟩ := exec_goes c s
  exact ⟨t, he, hq⟩

/-- Settles O4: a tick keeps grade and arrays; so does every command, or it sets both from one list of good arrays. -/
theorem stepKeepsGrade : Obligations.StepKeepsGrade := by
  unfold Obligations.StepKeepsGrade
  intro s t hs hstep
  unfold step at hstep
  split at hstep
  · obtain rfl : s.idle = t := by injection hstep
    exact (State.Keeps.refl s).idle.gradeOk hs
  · rename_i c r hq
    obtain ⟨u, he, -, hu⟩ := exec_goes c { s with pending := r }
    obtain rfl : u = t := by injection he.symm.trans hstep
    exact hu hs
end Sys2Proof.Machine
end

section
/-! Claims about a refused SUBMIT, the interrupt, the window's edges, and the choice of grades and repairs. -/
namespace Sys2Proof.Machine
open Sys2Proof.Claims

-- SUBMIT refused at once (R419, R420).

/-- A refusal answers with its code and closes the load window. -/
theorem execSubmit_of_refused {req : BitVec 128} {s : State} {code : Nat}
    (h : s.submitRefusal req.toNat (reqSlot req) = some code) :
    execSubmit req s = .next { s with
      loadOpen := false
      out := { s.out with resp := s.out.resp
        ++ [mkResponse code (fld req.toNat 8 4) (fld req.toNat 16 16) none] } } := by
  have h' : State.submitRefusal { s with loadOpen := false } req.toNat (reqSlot req) = some code := h
  simp only [execSubmit, h']
  rfl

/-- Settles O6: each case of the statement is one branch of the refusal. -/
theorem submitRefusedAtOnce : Obligations.SubmitRefusedAtOnce := by
  unfold Obligations.SubmitRefusedAtOnce
  intro req s code h
  refine execSubmit_of_refused ?_
  unfold State.submitRefusal
  obtain ⟨hv, rfl⟩ | ⟨hv, hl, rfl⟩ | ⟨hv, hl, hd, rfl⟩ | ⟨hv, hl, hp, hk, hw, hc, hg, rfl⟩ |
    ⟨hv, hl, hp, hk, hw, hc, hg, hs, rfl⟩ := h
  · rw [if_pos hv]
  · simp [hv, hl]
  · have hd' : (s.phase != .ready || !s.tm.lock || s.pwr.st == .deep || !s.cutOpen) = true := by
      simpa [or_assoc] using hd
    simp [hv, hl, hd']
  · simp [hv, hl, hp, hk, hw, hc, hg]
  · simpa [hv, hl, hp, hk, hw, hc, hs] using hg

-- The event interrupt (R7).

/-- Settles O25: a word is not zero exactly where one of its bits is set. -/
theorem interruptFollowsUnmaskedEvents : Obligations.InterruptFollowsUnmaskedEvents := by
  unfold Obligations.InterruptFollowsUnmaskedEvents
  intro s
  have hbit : ∀ k, k < 26 → (s.evt.pend &&& ~~~s.evt.mask).getLsbD k
      = (s.evt.pend.getLsbD k && !s.evt.mask.getLsbD k) := fun k hk => by simp [hk]
  constructor
  · intro h
    by_contra hno
    refine (bne_iff_ne.mp h) (BitVec.eq_of_getLsbD_eq fun k hk => ?_)
    by_contra hk'
    exact hno ⟨k, hk, by simpa [hk] using hk'⟩
  · rintro ⟨k, hk, hp, hm⟩
    refine bne_iff_ne.mpr fun h0 => ?_
    have := hbit k hk
    rw [h0, hp, hm] at this
    simp at this

-- The window (R4, R5).

/-- Settles O26: the access is of no size and alignment that the window takes. -/
theorem badAccessHasNoEffect : Obligations.BadAccessHasNoEffect := by
  unfold Obligations.BadAccessHasNoEffect
  intro off size write s h
  have hbad : ¬((size = 4 ∨ size = 8) ∧ off.toNat % size = 0) := by
    rintro ⟨h4 | h8, ha⟩ <;> omega
  exact congrArg _ (if_neg hbad)

section Unassigned
variable {n : Nat} (h : n ∉ assigned)
include h

theorem State.readLow_unassigned (s : State) : s.readLow n = 0 := by
  unfold State.readLow
  split <;> simp [assigned] at h ⊢

theorem State.readMid_unassigned (s : State) : s.readMid n = 0 := by
  unfold State.readMid
  split <;> simp [assigned] at h ⊢

theorem State.readHigh_unassigned (s : State) : s.readHigh n = 0 := by
  unfold State.readHigh
  split <;> simp [assigned] at h ⊢

theorem State.readReg_unassigned (s : State) : s.readReg n = 0 := by
  simp [State.readReg, s.readLow_unassigned h, s.readMid_unassigned h, s.readHigh_unassigned h]

theorem State.writeLow_unassigned (s : State) (w : Wr) : s.writeLow n w = s := by
  unfold State.writeLow
  split <;> simp [assigned] at h ⊢

theorem State.writeMid_unassigned (s : State) (w : Wr) : s.writeMid n w = s := by
  unfold State.writeMid
  split <;> simp [assigned] at h ⊢

theorem State.writeHigh_unassigned (s : State) (w : Wr) : s.writeHigh n w = s := by
  unfold State.writeHigh
  split <;> simp [assigned] at h ⊢

theorem heldInDeep_unassigned : heldInDeep n = false := by
  simp [assigned, heldInDeep] at h ⊢
  omega

theorem State.regWrite_unassigned (s : State) (half : Option Bool) (v : BitVec 64) : s.regWrite n half v = s := by
  simp [State.regWrite, State.writeNow, heldInDeep_unassigned h, s.writeLow_unassigned h, s.writeMid_unassigned h,
    s.writeHigh_unassigned h]

end Unassigned

/-- A write of the window at an aligned offset (R3). -/
theorem execRegisterWrite_of_aligned {off : BitVec 16} (h : off.toNat % 8 = 0) (half : Option Bool) (v : BitVec 64)
    (s : State) : execRegisterWrite off half v s = .next (s.write off.toNat half v) := congrArg _ (if_pos h)

/-- Settles O27: no case of a read or a write names the offset. -/
theorem unassignedOffsetsReadZero : Obligations.UnassignedOffsetsReadZero := by
  unfold Obligations.UnassignedOffsetsReadZero
  intro off half v s ha h
  refine ⟨s.readReg_unassigned h, (execRegisterWrite_of_aligned ha half v s).trans ?_⟩
  rw [State.write, s.regWrite_unassigned h]
  rfl

-- Grades and repairs (R12, R13, R551).

/-- What `covers2` considers: a row and a column that cover every failing plot, none of a spare that is taken. -/
theorem mem_covers2 {plots : List (Nat × Nat)} {frow fcol : Option Nat} {x : Option Nat × Option Nat} :
    x ∈ covers2 plots frow fcol ↔
      (x.1 = none ∨ frow.isSome = false ∧ ∃ p ∈ plots, x.1 = some p.1) ∧
      (x.2 = none ∨ fcol.isSome = false ∧ ∃ p ∈ plots, x.2 = some p.2) ∧
      ∀ p ∈ plots, x.1 = some p.1 ∨ x.2 = some p.2 := by
  obtain ⟨r, c⟩ := x
  have spare : ∀ (f : Option Nat) (g : Nat × Nat → Nat) (y : Option Nat),
      y ∈ none :: (if f.isSome then [] else plots.map fun p => some (g p)) ↔
        y = none ∨ f.isSome = false ∧ ∃ p ∈ plots, y = some (g p) := by
    intro f g y
    cases f <;> simp [eq_comm]
  simp only [covers2, List.mem_filter, List.mem_flatMap, List.mem_map, spare]
  simp only [Prod.mk.injEq, List.all_eq_true, Bool.or_eq_true, beq_iff_eq]
  constructor
  · rintro ⟨⟨_, hr, _, hc, rfl, rfl⟩, h⟩
    exact ⟨hr, hc, h⟩
  · rintro ⟨hr, hc, h⟩
    exact ⟨⟨r, hr, c, hc, rfl, rfl⟩, h⟩

/-- A spare that is free need only be one of those that the failing plots name, or none. -/
theorem exists_spare_of_free {plots : List (Nat × Nat)} {f : Option Nat} (g : Nat × Nat → Nat) {y : Option Nat}
    (hf : f.isSome = true → y = none) :
    ∃ z, (z = none ∨ f.isSome = false ∧ ∃ p ∈ plots, z = some (g p)) ∧
      ∀ p ∈ plots, y = some (g p) → z = some (g p) := by
  by_cases h : ∃ p ∈ plots, y = some (g p)
  · obtain ⟨p, hp, rfl⟩ := h
    refine ⟨some (g p), .inr ⟨?_, p, hp, rfl⟩, fun _ _ e => e⟩
    cases hs : f.isSome with
    | false => rfl
    | true => cases hf hs
  · exact ⟨none, .inl rfl, fun p hp e => absurd ⟨p, hp, e⟩ h⟩

/-- A repair that may use any free spares is matched by one that the engine considers (R551). -/
theorem covers2_ne_nil {plots : List (Nat × Nat)} {frow fcol r c : Option Nat} (hr : frow.isSome = true → r = none)
    (hc : fcol.isSome = true → c = none) (h : ∀ p ∈ plots, r = some p.1 ∨ c = some p.2) :
    covers2 plots frow fcol ≠ [] := by
  obtain ⟨r', hr', hrow⟩ := exists_spare_of_free (plots := plots) Prod.fst hr
  obtain ⟨c', hc', hcol⟩ := exists_spare_of_free (plots := plots) Prod.snd hc
  have hmem : (r', c') ∈ covers2 plots frow fcol :=
    mem_covers2.mpr ⟨hr', hc', fun p hp => (h p hp).imp (hrow p hp) (hcol p hp)⟩
  exact List.ne_nil_of_mem hmem

/-- Settles O38: the grades by their four cases, the repairs by what `covers2` holds. -/
theorem gradeAndRepair : Obligations.GradeAndRepair := by
  unfold Obligations.GradeAndRepair
  refine ⟨fun ok hlen => ?_, fun plots frow fcol => ⟨fun x hx => ?_, fun r c hr hc h => covers2_ne_nil hr hc h⟩⟩
  · obtain ⟨h, e⟩ | ⟨h, e⟩ | ⟨h, e⟩ | ⟨h, e⟩ := gradeOf_cases hlen <;> rw [e]
    · simp [h, nth]
    · refine ⟨by omega, by omega, by omega, by omega, ?_, ⟨_, (ok.take_append_drop 30).symm⟩, nofun⟩
      simp [nth, h.1]
    · refine ⟨by omega, by omega, by omega, by omega, ?_, ⟨_, (ok.take_append_drop 28).symm⟩, nofun⟩
      simp [nth, h.1]
    · simp
      omega
  · obtain ⟨hr, hc, h⟩ := mem_covers2.mp hx
    refine ⟨h, fun hf => ?_, fun hf => ?_⟩
    · exact hr.resolve_right fun ⟨hn, _⟩ => by simp [hn] at hf
    · exact hc.resolve_right fun ⟨hn, _⟩ => by simp [hn] at hf
end Sys2Proof.Machine
end

section
/-! Claims about plain and guarded registers: what a write of a register or of a half leaves to be read (R3, R5, R17,
R439, R508, R510, R602). -/
namespace Sys2Proof.Machine
open Sys2Proof.Claims

-- Fields of registers, bit by bit.

/-- A field above a number that ends below it. -/
theorem testBit_add_put {a lo : Nat} (h : a < 2 ^ lo) (w b i : Nat) :
    (a + put lo w b).testBit i = if i < lo then a.testBit i else (decide (i - lo < w) && b.testBit (i - lo)) := by
  rw [put, Nat.shiftLeft_eq, Nat.add_comm, Nat.mul_comm, Nat.testBit_two_pow_mul_add _ h, Nat.testBit_mod_two_pow]

theorem add_put_lt {a lo w k : Nat} (h : a < 2 ^ lo) (hk : lo + w = k) (b : Nat) : a + put lo w b < 2 ^ k := by
  subst hk
  have : b % 2 ^ w + 1 ≤ 2 ^ w := Nat.mod_lt _ (by positivity)
  calc a + put lo w b
    _ < 2 ^ lo + (b % 2 ^ w) * 2 ^ lo := by rw [put, Nat.shiftLeft_eq]; omega
    _ = (b % 2 ^ w + 1) * 2 ^ lo := by ring
    _ ≤ 2 ^ w * 2 ^ lo := Nat.mul_le_mul_right _ this
    _ = 2 ^ (lo + w) := by ring

/-- Bit `i` of a register after a write `w`. -/
def Wr.merged (w : Wr) (old : Bool) (i : Nat) : Bool := if w.reach.getLsbD i then w.v.getLsbD i else old

/-- A field after a write, bit by bit. -/
theorem Wr.getLsbD_get (w : Wr) {lo n j : Nat} (hj : j < n) (h : lo + n ≤ 64) (old : BitVec n) :
    (BitVec.ofNat n (w.get lo n old.toNat)).getLsbD j = w.merged (old.getLsbD j) (lo + j) := by
  have h64 : lo + j < 64 := by omega
  simp only [Wr.get, Wr.merged, fld, BitVec.getLsbD_ofNat, Nat.testBit_mod_two_pow, Nat.testBit_shiftRight,
    BitVec.testBit_toNat, BitVec.getLsbD_or, BitVec.getLsbD_and, BitVec.getLsbD_not, Nat.testBit_shiftLeft, hj, h64]
  cases w.reach.getLsbD (lo + j) <;> simp

/-- A register of fields that fill the bits below `k` turns from `a` into `b` by the write `w`. -/
def Wr.Turns (w : Wr) (k a b : Nat) : Prop :=
  a < 2 ^ k ∧ b < 2 ^ k ∧ ∀ i, i < k → b.testBit i = w.merged (a.testBit i) i

/-- A register of one field. -/
theorem Wr.turns_field (w : Wr) {n : Nat} (x : BitVec n) (h : n ≤ 64) :
    w.Turns n x.toNat (BitVec.ofNat n (w.get 0 n x.toNat)).toNat := by
  refine ⟨x.isLt, BitVec.isLt _, fun i hi => ?_⟩
  rw [BitVec.testBit_toNat, BitVec.testBit_toNat, w.getLsbD_get hi (by omega), Nat.zero_add]

/-- One field more. -/
theorem Wr.Turns.put {w : Wr} {lo a b : Nat} (h : w.Turns lo a b) {n : Nat} (x : BitVec n) (hn : lo + n ≤ 64) :
    w.Turns (lo + n) (a + put lo n x.toNat) (b + Machine.put lo n (BitVec.ofNat n (w.get lo n x.toNat)).toNat) := by
  obtain ⟨ha, hb, hi⟩ := h
  refine ⟨add_put_lt ha rfl _, add_put_lt hb rfl _, fun i hlt => ?_⟩
  rw [testBit_add_put ha, testBit_add_put hb]
  split
  · exact hi i ‹_›
  · have hj : i - lo < n := by omega
    rw [BitVec.testBit_toNat, BitVec.testBit_toNat, w.getLsbD_get hj hn, Nat.add_sub_cancel' (by omega)]
    simp [hj]

/-- What the register reads afterwards, bit by bit. -/
theorem Wr.Turns.getLsbD_ofNat {w : Wr} {k a b : Nat} (h : w.Turns k a b) {i : Nat} (hi : i < 64) :
    (BitVec.ofNat 64 b).getLsbD i = (decide (i < k) && w.merged ((BitVec.ofNat 64 a).getLsbD i) i) := by
  obtain ⟨-, hb, hbit⟩ := h
  rw [BitVec.getLsbD_ofNat, BitVec.getLsbD_ofNat, decide_eq_true hi, Bool.true_and, Bool.true_and]
  by_cases hk : i < k
  · rw [hbit i hk, decide_eq_true hk, Bool.true_and]
  · rw [decide_eq_false hk, Bool.false_and]
    exact Nat.testBit_lt_two_pow (hb.trans_le (Nat.pow_le_pow_right (by decide) (by omega)))

/-- A write as the window hands it on. -/
def writeOf (half : Option Bool) (v : BitVec 64) : Wr := ⟨v &&& reachOf half, reachOf half⟩

/-- What a write leaves to be read: of the fields in the low `k` bits those that it reaches,
and the others' old values. -/
theorem Wr.Turns.read {half : Option Bool} {v m : BitVec 64} {k a b : Nat} (h : (writeOf half v).Turns k a b)
    (hm : ∀ i, i < 64 → m.getLsbD i = decide (i < k)) :
    BitVec.ofNat 64 b = (v &&& m &&& reachOf half) ||| (BitVec.ofNat 64 a &&& ~~~reachOf half) := by
  refine BitVec.eq_of_getLsbD_eq fun i hi => ?_
  have ha : (BitVec.ofNat 64 a).getLsbD i = (decide (i < k) && (BitVec.ofNat 64 a).getLsbD i) := by
    by_cases hk : i < k
    · simp [hk]
    · rw [BitVec.getLsbD_ofNat, Nat.testBit_lt_two_pow (h.1.trans_le (Nat.pow_le_pow_right (by decide) (by omega)))]
      simp
  rw [h.getLsbD_ofNat hi, BitVec.getLsbD_or, BitVec.getLsbD_and, BitVec.getLsbD_and, BitVec.getLsbD_and,
    BitVec.getLsbD_not, hm i hi, ha]
  simp only [Wr.merged, writeOf, BitVec.getLsbD_and]
  cases (reachOf half).getLsbD i <;> cases decide (i < k) <;> simp [hi]

/-- A register as a number. -/
def State.regNat (s : State) (off : Nat) : Nat :=
  if off < 0x400 then s.readLow off else if off < 0x800 then s.readMid off else s.readHigh off

theorem State.readReg_eq_ofNat (s : State) (off : Nat) : s.readReg off = BitVec.ofNat 64 (s.regNat off) := rfl

/-- A register of `k` bits of fields at `off` takes every write at once, whatever the power state. -/
def Plain (off k : Nat) : Prop :=
  heldInDeep off = false ∧ ∀ (s : State) (w : Wr), w.Turns k (s.regNat off) (((s.writeNow off w).answer 0).regNat off)

theorem State.regWrite_of_not_held {off : Nat} (h : heldInDeep off = false) (s : State) (half : Option Bool)
    (v : BitVec 64) : s.regWrite off half v = s.writeNow off (writeOf half v) := by
  simp [State.regWrite, h, writeOf]

/-- What a plain register reads after a write of all of it or of a half. -/
theorem Plain.readReg {off k : Nat} (h : Plain off k) {m : BitVec 64} (hm : ∀ i, i < 64 → m.getLsbD i = decide (i < k))
    (s : State) (half : Option Bool) (v : BitVec 64) :
    (s.write off half v).readReg off = (v &&& m &&& reachOf half) ||| (s.readReg off &&& ~~~reachOf half) := by
  rw [State.write, State.regWrite_of_not_held h.1, State.readReg_eq_ofNat, State.readReg_eq_ofNat]
  exact (h.2 s (writeOf half v)).read hm

theorem plain_slotEn : Plain 0x110 16 := by
  refine ⟨rfl, fun s w => ?_⟩
  have hread : ∀ t : State, (t.answer 0).regNat 0x110 = t.hg.slotEn.toNat := fun _ => rfl
  have hwrite : s.writeNow 0x110 w = s.setSlotEn (BitVec.ofNat 16 (w.get 0 16 s.hg.slotEn.toNat)) := rfl
  obtain ⟨m, e, -⟩ :=
    State.showReasons_writes { s with hg := { s.hg with slotEn := BitVec.ofNat 16 (w.get 0 16 s.hg.slotEn.toNat) } }
  rw [hread, hwrite, State.setSlotEn, e]
  exact w.turns_field s.hg.slotEn (by decide)

theorem plain_evtMask : Plain 0x208 26 := ⟨rfl, fun s w => w.turns_field s.evt.mask (by decide)⟩

theorem plain_governor : Plain 0x410 40 :=
  ⟨rfl, fun s w => ((((w.turns_field s.gov.tlim (by decide)).put s.gov.tcrit (by decide)).put s.gov.stage
    (by decide)).put s.gov.tmax (by decide)).put s.gov.plim (by decide)⟩

theorem plain_repairMode : Plain 0x508 2 := ⟨rfl, fun s w => w.turns_field s.st.mode (by decide)⟩

theorem plain_arrayEnable : Plain 0x528 32 := ⟨rfl, fun s w => w.turns_field s.hg.aen (by decide)⟩

theorem plain_counterSelect : Plain 0xA08 9 :=
  ⟨rfl, fun s w => (w.turns_field s.obs.rbank (by decide)).put s.obs.ridx (by decide)⟩

theorem plain_serviceSelect : Plain 0xC00 8 := ⟨rfl, fun s w => w.turns_field s.svc.sel (by decide)⟩

/-- A plain register of the low `k` bits, in the words of the obligation. -/
theorem Plain.readsBack {off k : Nat} (h : Plain off k) {m : BitVec 64} (hm : ∀ i : Fin 64, m.getLsbD i = decide
    (i.val < k))
    (ho : (BitVec.ofNat 16 off).toNat = off) (ha : off % 8 = 0) (v : BitVec 64) (s : State) :
    (∃ t, Machine.exec (.registerWrite (BitVec.ofNat 16 off) none v) s = .next t ∧ t.readReg off = v &&& m) ∧
    (∃ t, Machine.exec (.registerWrite (BitVec.ofNat 16 off) (some false) v) s = .next t ∧
      t.readReg off = (v &&& m &&& 0xFFFFFFFF) ||| (s.readReg off &&& 0xFFFFFFFF00000000)) ∧
    (∃ t, Machine.exec (.registerWrite (BitVec.ofNat 16 off) (some true) v) s = .next t ∧
      t.readReg off = (v &&& m &&& 0xFFFFFFFF00000000) ||| (s.readReg off &&& 0xFFFFFFFF)) := by
  have hread := fun half => h.readReg (m := m) (fun i hi => hm ⟨i, hi⟩) s half v
  have hexec : ∀ half, Machine.exec (.registerWrite (BitVec.ofNat 16 off) half v) s = .next (s.write off half v) :=
    fun half => (execRegisterWrite_of_aligned (by rw [ho]; exact ha) half v s).trans (by rw [ho])
  refine ⟨⟨_, hexec none, (hread none).trans ?_⟩, ⟨_, hexec _, hread (some false)⟩, ⟨_, hexec _, hread (some true)⟩⟩
  have hall : reachOf none = BitVec.allOnes 64 := rfl
  rw [hall, BitVec.and_allOnes, BitVec.not_allOnes, BitVec.and_zero, BitVec.or_zero]

/-- Settles O28: the seven registers are plain. -/
theorem registersReadBack : Obligations.RegistersReadBack := by
  unfold Obligations.RegistersReadBack
  intro v s off m h
  simp only [List.mem_cons, List.not_mem_nil, or_false, Prod.mk.injEq] at h
  obtain ⟨rfl, rfl⟩ | ⟨rfl, rfl⟩ | ⟨rfl, rfl⟩ | ⟨rfl, rfl⟩ | ⟨rfl, rfl⟩ | ⟨rfl, rfl⟩ | ⟨rfl, rfl⟩ := h
  · exact plain_slotEn.readsBack (by decide) rfl rfl v s
  · exact plain_evtMask.readsBack (by decide) rfl rfl v s
  · exact plain_governor.readsBack (by decide) rfl rfl v s
  · exact plain_repairMode.readsBack (by decide) rfl rfl v s
  · exact plain_arrayEnable.readsBack (by decide) rfl rfl v s
  · exact plain_counterSelect.readsBack (by decide) rfl rfl v s
  · exact plain_serviceSelect.readsBack (by decide) rfl rfl v s

end Sys2Proof.Machine
end

section
/-! Claims about registers that take a write only where the rules allow (R17, R508, R510, R602). -/
namespace Sys2Proof.Machine
open Sys2Proof.Claims

@[simp] theorem writeOf_none_v (v : BitVec 64) : (writeOf none v).v = v := BitVec.and_allOnes

/-- A 64-bit write reaches every field. -/
@[simp] theorem Wr.get_writeOf_none (v : BitVec 64) (lo n old : Nat) : (writeOf none v).get lo n old = fld v.toNat lo n
    := by
  have hr : (writeOf none v).reach = BitVec.allOnes 64 := rfl
  rw [Wr.get, writeOf_none_v, hr, BitVec.and_allOnes, BitVec.not_allOnes, BitVec.and_zero, BitVec.or_zero]

/-- A 64-bit write of a register that DEEP does not hold. -/
theorem State.write_none_of_not_held {off : Nat} (h : heldInDeep off = false) (s : State) (v : BitVec 64) :
    s.write off none v = (s.writeNow off (writeOf none v)).answer 0 := by
  rw [State.write, s.regWrite_of_not_held h]

theorem execVerBaseWrite_eq (v : BitVec 64) (s : State) :
    execVerBaseWrite v s = .next ((s.setVerBase (fld v.toNat 0 60)).answer 0) := by
  rw [execVerBaseWrite, s.write_none_of_not_held rfl]
  exact congrArg (fun n => Host.Outcome.next ((s.setVerBase n).answer 0)) (Wr.get_writeOf_none v 0 60 _)

theorem execSnapConfigWrite_eq (which : Fin 3) (v : BitVec 64) (s : State) :
    execSnapConfigWrite which v s = .next ((s.snapWrite which.val (writeOf none v)).answer 0) := by
  match which with
  | 0 | 1 | 2 => rw [execSnapConfigWrite, s.write_none_of_not_held rfl]; rfl

theorem execSvcLoad_eq (v : BitVec 64) (s : State) : execSvcLoad v s = .next ((s.svcLoadWrite v).answer 0) := by
  rw [execSvcLoad, s.write_none_of_not_held rfl]
  exact congrArg (fun x => Host.Outcome.next ((s.svcLoadWrite x).answer 0)) (writeOf_none_v v)

/-- `FGE_VER_BASE` is taken where every slot is free and the table is aligned and this node's (R602). -/
theorem State.setVerBase_of_free {s : State} {b : Nat} (hf : ∀ i, (s.slot i).st = .free) (ha : b % 4096 = 0)
    (hm : s.mine b (4 * 2 ^ 20) = true) :
    s.setVerBase b = { s with hg := { s.hg with verBase := BitVec.ofNat 60 b } } := by
  refine if_neg ?_
  rw [Bool.not_eq_true, Bool.or_eq_false_iff, Bool.or_eq_false_iff, hm]
  exact ⟨⟨by simp [hf], by simp [ha]⟩, rfl⟩

theorem State.setVerBase_of_bad {s : State} {b : Nat}
    (h : (∃ i, (s.slot i).st ≠ .free) ∨ b % 4096 ≠ 0 ∨ s.mine b (4 * 2 ^ 20) = false) : s.setVerBase b = s := by
  refine if_pos ?_
  rw [Bool.or_eq_true, Bool.or_eq_true, or_assoc]
  obtain ⟨i, hi⟩ | ha | hm := h
  · exact .inl (List.any_eq_true.mpr ⟨i, (by decide : ∀ i : Fin 16, i ∈ allSlots) i, bne_iff_ne.mpr hi⟩)
  · exact .inr (.inl (bne_iff_ne.mpr ha))
  · exact .inr (.inr (by rw [hm]; rfl))

theorem State.snapWrite_of_busy {s : State} (h : s.snapBusy = true) (which : Nat) (w : Wr) :
    s.snapWrite which w = { s with snap := { s.snap with cfgErr := true } } := if_pos h

/-- Settles O32: each register by its two cases. -/
theorem guardedRegisterWrites : Obligations.GuardedRegisterWrites := by
  unfold Obligations.GuardedRegisterWrites
  intro v s b
  refine ⟨fun hf ha hm => (execVerBaseWrite_eq v s).trans ?_, fun h => (execVerBaseWrite_eq v s).trans ?_,
    fun hb k => (execSnapConfigWrite_eq k v s).trans ?_, fun hb => ⟨(execSnapConfigWrite_eq 0 v s).trans ?_,
    (execSnapConfigWrite_eq 1 v s).trans ?_, (execSnapConfigWrite_eq 2 v s).trans ?_⟩,
    fun h => (execSvcLoad_eq v s).trans ?_, fun ho hi => ⟨_, execSvcLoad_eq v s, ?_⟩⟩
  · rw [State.setVerBase_of_free hf ha hm]
    rfl
  · rw [State.setVerBase_of_bad h]
    rfl
  · rw [State.snapWrite_of_busy hb]
    rfl
  · simp [State.snapWrite, hb, answered, State.answer, b]
  · simp [State.snapWrite, hb, answered, State.answer, b]
  · simp [State.snapWrite, hb, answered, State.answer]
  · have hskip : s.svcLoadWrite v = s := if_pos (by simpa using h)
    rw [hskip]
    rfl
  · have hload : (!s.loadOpen || decide (204 ≤ s.svc.sel.toNat)) = false := by simp [ho, hi]
    simp [State.svcLoadWrite, hload, answered, State.answer]
end Sys2Proof.Machine
end

section
/-! The warm reset (R16, R545, R547, R557, R589): ending every slot, the counts of active clk, the registers, and the
ports that train. -/
namespace Sys2Proof.Machine
open Sys2Proof.Claims

-- Ending every slot.

/-- `t` is `s` after slots ended: memory, slots, version counts, trace records, events, requests, counters
and responses may differ. -/
def State.Ends (s t : State) : Prop :=
  ∃ mem hg stw tr evt rem obs out, t = { s with
    mem := mem, hg := hg, stw := stw, tr := tr, evt := evt, rem := rem, obs := obs, out := out }

namespace State.Ends
variable {s a b : State}

theorem refl (s : State) : s.Ends s := ⟨_, _, _, _, _, _, _, _, rfl⟩

theorem fields (h : s.Ends a) {mem hg stw tr evt rem obs out} : s.Ends { a with
    mem := mem, hg := hg, stw := stw, tr := tr, evt := evt, rem := rem, obs := obs, out := out } := by
  obtain ⟨_, _, _, _, _, _, _, _, rfl⟩ := h
  exact ⟨_, _, _, _, _, _, _, _, rfl⟩

theorem notes (h : s.Ends a) (n : a.Notes b) : s.Ends b := by
  obtain ⟨_, _, _, _, rfl, -⟩ := n
  exact h.fields

theorem ite {c : Prop} [Decidable c] (h : s.Ends a) (k : s.Ends b) : s.Ends (if c then a else b) := by
  split <;> assumption

theorem foldl {α : Type} {f : State → α → State} {l : List α} (h : s.Ends a) (hf : ∀ {b x}, s.Ends b → s.Ends (f b x)) :
    s.Ends (l.foldl f a) := by
  induction l generalizing a with
  | nil => exact h
  | cons x l ih => exact ih (hf h)

theorem forN {f : State → Nat → State} {n : Nat} (h : s.Ends a) (hf : ∀ {b k}, s.Ends b → s.Ends (f b k)) :
    s.Ends (forN n a f) := h.foldl hf

theorem bump (h : s.Ends a) {x i n} : s.Ends (a.bump x i n) := by
  obtain ⟨_, e, -⟩ := a.bump_shape x i n
  rw [e]
  exact h.fields

theorem setWait (h : s.Ends a) {i n st wait waux wpeer} : s.Ends (a.setWait i n st wait waux wpeer) :=
  h.notes (a.setWait_writes i n st wait waux wpeer).notes

theorem countWaits (h : s.Ends a) : s.Ends a.countWaits := .ite h (h.forN fun h => .ite h.bump h).fields

theorem setWaits (h : s.Ends a) {l} : s.Ends (a.setWaits l) := .ite h h.countWaits.fields

theorem nowResident (h : s.Ends a) {i n} : s.Ends (a.nowResident i n) := setWaits (.ite h.setWait h)

theorem serveSpill (h : s.Ends a) : s.Ends a.serveSpill := h.foldl fun h => .ite h h.bump.fields.nowResident

theorem evict (h : s.Ends a) {drop} : s.Ends (a.evict drop) := h.fields.serveSpill

theorem endWaits (h : s.Ends a) {i} : s.Ends (a.endWaits i) := h.setWaits

theorem setSlot (h : s.Ends a) {i x} : s.Ends (a.setSlot i x) := h.fields

theorem dropUse (h : s.Ends a) {w} : s.Ends (a.dropUse w) := by
  unfold State.dropUse
  refine .ite h ?_
  dsimp only
  split
  · exact h.fields
  · exact h

theorem raise (h : s.Ends a) {e w x y z} : s.Ends (a.raise e w x y z) := h.notes (a.raise_notes e w x y z)

theorem endSlot (h : s.Ends a) {i} : s.Ends (a.endSlot i) :=
  (h.forN fun h => .ite h h.dropUse).evict.endWaits.fields.fields.fields.setSlot.raise

theorem settle (h : s.Ends a) {i} : s.Ends (a.settle i) := .ite h.endSlot (.ite h.endSlot h)

theorem abandon (h : s.Ends a) {i} : s.Ends (a.abandon i) := by
  unfold State.abandon
  split
  · exact h
  · exact h
  · split
    · exact h.fields
    · exact h
  · exact (h.forN fun h => .ite h.dropUse h).endWaits.setSlot.settle
  · exact h.endSlot

theorem endAll (h : s.Ends a) : s.Ends a.endAll := by
  refine .foldl ?_ fun h => .ite h h.endSlot
  split
  · exact h.abandon
  · exact h

end State.Ends

-- Active clk (R557).

/-- Counts added one by one, from counter `j` on. -/
theorem count_foldl_svcAdd (l : List Nat) (j : Nat) (s : State) (h : j + l.length ≤ s.svc.count.length) (k : Nat) :
    ((l.zipIdx j).foldl (fun s a => s.svcAdd a.2 a.1) s).svc.count.getD k 0
      = if j ≤ k ∧ k < j + l.length then min (ctrMax : Int) (s.svc.count.getD k 0 + nth l (k - j) 0)
        else s.svc.count.getD k 0 := by
  induction l generalizing j s with
  | nil => simp
  | cons n l ih =>
    rw [List.length_cons] at h
    have hlen : (s.svcAdd j n).svc.count.length = s.svc.count.length := List.length_set
    have hset : (s.svcAdd j n).svc.count.getD k 0
        = if j = k then min (ctrMax : Int) (s.svc.count.getD j 0 + n) else s.svc.count.getD k 0 := by
      simp only [State.svcAdd, List.getD_eq_getElem?_getD, List.getElem?_set]
      split
      · rw [if_pos (by omega)]
        rfl
      · rfl
    have hroom : j + 1 + l.length ≤ (s.svcAdd j n).svc.count.length := by omega
    rw [List.zipIdx_cons, List.foldl_cons, ih (j + 1) (s.svcAdd j n) hroom, hset, List.length_cons]
    obtain hk | rfl | hk := Nat.lt_trichotomy k j
    · rw [if_neg (by omega), if_neg (by omega), if_neg (by omega)]
    · rw [if_neg (by omega), if_pos rfl, if_pos (by omega), Nat.sub_self]
      rfl
    · have hd : k - j = (k - (j + 1)) + 1 := by omega
      rw [if_neg (by omega : ¬j = k), hd]
      simp only [nth, List.getD_cons_succ]
      refine if_congr (by omega) rfl rfl

theorem crossActive_shape (s : State) :
    ∃ c, s.crossActive = { s with svc := { s.svc with active := List.replicate 32 0, count := c } } := by
  have fold : ∀ (l : List (Nat × Nat)) (s : State),
      ∃ c, l.foldl (fun s a => s.svcAdd a.2 a.1) s = { s with svc := { s.svc with count := c } } := by
    intro l
    induction l with
    | nil => exact fun s => ⟨_, rfl⟩
    | cons a l ih => exact fun s => (ih (s.svcAdd a.2 a.1)).imp fun _ e => e
  exact (fold s.svc.active.zipIdx { s with svc := { s.svc with active := List.replicate 32 0 } }).imp fun _ e => e

/-- A count of active clk is added to the counter of its array; the other counters stand. -/
theorem count_crossActive {s : State} (hc : s.svc.count.length = 204) (ha : s.svc.active.length = 32) (k : Nat) :
    s.crossActive.svc.count.getD k 0
      = if k < 32 then min (ctrMax : Int) (s.svc.count.getD k 0 + nth s.svc.active k 0) else s.svc.count.getD k 0 := by
  have h := count_foldl_svcAdd s.svc.active 0 { s with svc := { s.svc with active := List.replicate 32 0 } }
    (by rw [ha, hc]; decide) k
  rw [ha] at h
  refine h.trans (if_congr (by omega) rfl rfl)

-- The ports train (R547).

/-- No port carries anything or holds a key. -/
def State.Dead (s : State) : Prop :=
  ∀ p, (s.port p).st.usable = false ∧ (s.port p).keyTx = none ∧ (s.port p).keyRx = none ∧ (s.port p).stTx = none ∧
    (s.port p).stRx = none

theorem State.sluiceOn_of_not_usable {s : State} {p : Fin 6} (h : (s.port p).st.usable = false) (m : Sluice) :
    s.sluiceOn p m = s := by
  simp [State.sluiceOn, h]

theorem State.Dead.sluiceAll {s : State} (h : s.Dead) (m : Sluice) : s.sluiceAll m = s := by
  unfold State.sluiceAll
  generalize allPorts = l
  induction l with
  | nil => rfl
  | cons p l ih =>
    have hp := State.sluiceOn_of_not_usable (h p).1 m
    rw [List.foldl_cons]
    simpa [hp] using ih

/-- Whether a port that is DOWN trains when it may (R547). -/
def State.trainable (s : State) (p : Fin 6) : Prop := s.portUnused p = false ∧ s.pen.getLsbD p.val = true

/-- `t` is `s` with the ports of `l` in training where they were DOWN and may train, which this node knows. -/
def State.Trains (l : List (Fin 6)) (s t : State) : Prop :=
  (∃ q h, t = { s with ports := q, hall := { s.hall with portSts := h } }) ∧ t.Dead ∧
    (∀ p, p ∈ l → (s.port p).st = .down → s.trainable p → (t.port p).st = .train) ∧
    ∀ p, ¬(p ∈ l ∧ (s.port p).st = .down ∧ s.trainable p) → (t.port p).st = (s.port p).st

/-- The step of `State.enterInit` at one port. -/
def State.trainNext (s : State) (p : Fin 6) : State := if (s.port p).st = .down then s.startTraining p else s

theorem State.Dead.setPort {s : State} (h : s.Dead) {p : Fin 6} {q : Port} (hq : q.st.usable = false)
    (h1 : q.keyTx = none) (h2 : q.keyRx = none) (h3 : q.stTx = none) (h4 : q.stRx = none) : (s.setPort p q).Dead := by
  intro o
  by_cases ho : o = p
  · subst ho
    rw [State.port_setPort_same]
    exact ⟨hq, h1, h2, h3, h4⟩
  · rw [s.port_setPort_other q ho]
    exact h o

theorem State.train_of_trainable {s : State} {p : Fin 6} (h : s.trainable p) :
    s.train p = s.setPort p { (s.port p).rest .train with tstep := 1, fenced := 0, invert := 0 } := by
  simp [State.train, h.1]

/-- A port that may train does, and no flit goes out on a port that carries none. -/
theorem State.Dead.startTraining {s : State} (hd : s.Dead) (hp : s.phase = .init) {p : Fin 6} (hc : s.trainable p) :
    s.startTraining p = (s.train p).noteOwnPort p ∧ (s.train p).Dead := by
  obtain ⟨hu, hen⟩ := hc
  have ht := State.train_of_trainable ⟨hu, hen⟩
  have hdead : (s.train p).Dead := by
    rw [ht]
    exact hd.setPort rfl rfl rfl (hd p).2.2.2.1 (hd p).2.2.2.2
  have hnote : ((s.train p).noteOwnPort p).Dead := hdead
  refine ⟨?_, hdead⟩
  have hgo : ¬(s.portUnused p = true ∨ (!s.pen.getLsbD p.val) = true ∨ s.phase = .power ∨ s.phase = .fuse ∨ s.phase =
      .scan) := by
    simp [hu, hen, hp]
  rw [State.startTraining, if_neg hgo, State.announce, hnote.sluiceAll]

theorem State.Dead.trainNext {s : State} (hd : s.Dead) (hp : s.phase = .init) (p : Fin 6) :
    s.Trains [p] (s.trainNext p) := by
  have stay : ¬((s.port p).st = .down ∧ s.trainable p) → s.trainNext p = s → s.Trains [p] (s.trainNext p) := by
    intro hno e
    rw [e]
    refine ⟨⟨_, _, rfl⟩, hd, fun o ho h1 h2 => ?_, fun _ _ => rfl⟩
    obtain rfl := List.mem_singleton.mp ho
    exact absurd ⟨h1, h2⟩ hno
  by_cases hs : (s.port p).st = .down
  · by_cases hc : s.trainable p
    · obtain ⟨e, hdead⟩ := hd.startTraining hp hc
      have ht := State.train_of_trainable hc
      rw [State.trainNext, if_pos hs, e]
      refine ⟨⟨(s.train p).ports, (s.hall.told s.hall.nid p.val ((s.train p).port p).st).portSts, ?_⟩, hdead,
        fun o ho _ _ => ?_, fun o ho => ?_⟩
      · rw [ht]
        rfl
      · obtain rfl := List.mem_singleton.mp ho
        change ((s.train o).port o).st = _
        rw [ht, State.port_setPort_same]
        rfl
      · change ((s.train p).port o).st = _
        have hne : o ≠ p := fun e => ho ⟨by simp [e], by rw [e]; exact hs, by rw [e]; exact hc⟩
        rw [ht, s.port_setPort_other _ hne]
    · refine stay (fun h => hc h.2) ?_
      rw [State.trainNext, if_pos hs, State.startTraining, if_pos]
      unfold State.trainable at hc
      cases hu : s.portUnused p <;> simp_all
  · exact stay (fun h => hs h.1) (if_neg hs)

theorem State.Dead.foldl_trainNext {s : State} (hd : s.Dead) (hp : s.phase = .init) (l : List (Fin 6)) :
    s.Trains l (l.foldl State.trainNext s) := by
  induction l generalizing s with
  | nil => exact ⟨⟨_, _, rfl⟩, hd, nofun, fun _ _ => rfl⟩
  | cons p l ih =>
    obtain ⟨⟨q, h, e⟩, hd1, h1, h2⟩ := hd.trainNext hp p
    obtain ⟨⟨q', h', e'⟩, hd2, h3, h4⟩ := ih hd1 (by rw [e]; exact hp)
    have hsame : ∀ o, (s.trainNext p).trainable o ↔ s.trainable o := fun o => by rw [e]; rfl
    refine ⟨⟨q', h', by rw [List.foldl_cons, e', e]⟩, hd2, fun o ho hs hc => ?_, fun o ho => ?_⟩
    · by_cases hop : o = p
      · have ht := h1 o (by simp [hop]) hs hc
        exact (h4 o fun h => by simp [ht] at h).trans ht
      · have hs1 : ((s.trainNext p).port o).st = .down := (h2 o fun h => hop (by simpa using h.1)).trans hs
        exact h3 o (by simpa [hop] using ho) hs1 ((hsame o).mpr hc)
    · have hs1 : ((s.trainNext p).port o).st = (s.port o).st :=
        h2 o fun h => ho ⟨by simpa using .inl (by simpa using h.1), h.2⟩
      rw [List.foldl_cons, h4 o fun h => ho ⟨List.mem_cons_of_mem _ h.1, hs1 ▸ h.2.1, (hsame o).mp h.2.2⟩, hs1]

-- The registers.

/-- The state that `State.enterInit` hands to the ports. -/
def State.inInit (s : State) : State :=
  if s.hall.single then State.soleHall { s with phase := .init } else { s with phase := .init }

theorem State.enterInit_eq (s : State) : s.enterInit = allPorts.foldl State.trainNext s.inInit := rfl

theorem State.inInit_shape (s : State) : ∃ h t, s.inInit = { s with phase := .init, hall := h, tm := t } ∧
    t.tick = s.tm.tick ∧ h.mgr = s.hall.mgr ∧ h.backup = s.hall.backup ∧ h.nid = s.hall.nid ∧ h.xdim = s.hall.xdim ∧
    h.ydim = s.hall.ydim ∧ h.zdim = s.hall.zdim := by
  unfold State.inInit
  split
  · exact ⟨_, _, rfl, rfl, rfl, rfl, rfl, rfl, rfl, rfl⟩
  · exact ⟨_, _, rfl, rfl, rfl, rfl, rfl, rfl, rfl, rfl⟩

/-- What INIT changes: where the node stands in the hall's live set and the tick's tree, and the ports. -/
theorem State.Dead.enterInit {s : State} (hd : s.Dead) :
    (∃ q h t, s.enterInit = { s with phase := .init, ports := q, hall := h, tm := t } ∧ t.tick = s.tm.tick ∧
      h.mgr = s.hall.mgr ∧ h.backup = s.hall.backup ∧ h.nid = s.hall.nid ∧ h.xdim = s.hall.xdim ∧
      h.ydim = s.hall.ydim ∧ h.zdim = s.hall.zdim) ∧ s.enterInit.Dead ∧
    (∀ p, (s.port p).st = .down → s.trainable p → (s.enterInit.port p).st = .train) ∧
    ∀ p, ¬((s.port p).st = .down ∧ s.trainable p) → (s.enterInit.port p).st = (s.port p).st := by
  obtain ⟨h, t, e, ht, h1, h2, h3, h4, h5, h6⟩ := s.inInit_shape
  have hport : s.inInit.port = s.port := by
    rw [e]
    rfl
  have hdead : s.inInit.Dead := fun p => by
    rw [hport]
    exact hd p
  have hc : ∀ p, s.inInit.trainable p ↔ s.trainable p := fun p => by
    rw [e]
    simp only [State.trainable, State.portUnused, Hall.dim, h4, h5, h6]
  obtain ⟨⟨q, l, e'⟩, hdead', htrain, hstay⟩ := hdead.foldl_trainNext (by rw [e]) allPorts
  rw [← s.enterInit_eq] at e' hdead' htrain hstay
  rw [e] at e'
  rw [hport] at htrain hstay
  refine ⟨⟨q, _, t, e', ht, h1, h2, h3, h4, h5, h6⟩, hdead', fun p hs hp => ?_, fun p hp => ?_⟩
  · exact htrain p ((by decide : ∀ p : Fin 6, p ∈ allPorts) p) hs ((hc p).mpr hp)
  · exact hstay p fun ⟨_, hs, hp'⟩ => hp ⟨hs, (hc p).mp hp'⟩

theorem State.port_warmed (s : State) (p : Fin 6) : s.warmed.port p = s.deadPort p :=
  match p with
  | 0 | 1 | 2 | 3 | 4 | 5 => rfl

theorem State.warmed_dead (s : State) : s.warmed.Dead := by
  intro p
  rw [s.port_warmed]
  refine ⟨?_, rfl, rfl, rfl, rfl⟩
  unfold State.deadPort
  split <;> rfl

/-- The ports after a warm reset (R443, R545, R547). -/
theorem State.port_enterInit_warmed (s : State) (p : Fin 6) : (s.warmed.enterInit.port p).st =
    if s.hall.dim (p.val / 2) = 1 then .unused else if s.pen.getLsbD p.val then .train else .down := by
  obtain ⟨-, -, htrain, hstay⟩ := s.warmed_dead.enterInit
  have hst : (s.warmed.port p).st = if s.hall.dim (p.val / 2) = 1 then .unused else .down := by
    rw [s.port_warmed]
    simp [State.deadPort, State.portUnused, portDim]
  have hc : s.warmed.trainable p ↔ ¬s.hall.dim (p.val / 2) = 1 ∧ s.pen.getLsbD p.val = true := by
    have hu : s.warmed.portUnused p = (s.hall.dim (p.val / 2) == 1) := rfl
    have hp : s.warmed.pen = s.pen := rfl
    rw [State.trainable, hu, hp, beq_eq_false_iff_ne]
  by_cases hd : s.hall.dim (p.val / 2) = 1
  · rw [if_pos hd, hstay p fun h => (hc.mp h.2).1 hd, hst, if_pos hd]
  · rw [if_neg hd] at hst ⊢
    split
    · exact htrain p hst (hc.mpr ⟨hd, ‹_›⟩)
    · rw [hstay p fun h => ‹¬_› (hc.mp h.2).2, hst]

/-- Marks of the arrays outlast a warm reset; their configuration does not (R589). -/
theorem State.arr_warmed (s : State) (k : Nat) :
    s.warmed.arr k = { dot := (s.arr k).dot, unuse := (s.arr k).unuse } := by
  simp only [State.arr, State.warmed, Vector.toList_map, List.getD_eq_getElem?_getD, List.getElem?_map]
  cases s.arrs.toList[k]? <;> rfl

theorem execWarmReset_of_up {s : State} (h : ¬(s.phase = .power ∨ s.phase = .fuse ∨ s.phase = .scan)) :
    execWarmReset s = .next s.endAll.crossActive.warmed.enterInit := by
  rw [execWarmReset, if_neg h]

/-- The state whose registers a warm reset sets: slots have ended, and the counts of active clk have crossed (R557). -/
theorem endAll_crossActive_shape (s : State) : ∃ mem hg stw tr evt rem obs out c, s.endAll.crossActive = { s with
      mem := mem, hg := hg, stw := stw, tr := tr, evt := evt, rem := rem, obs := obs, out := out
      svc := { s.svc with active := List.replicate 32 0, count := c } } ∧
    (s.svc.count.length = 204 → s.svc.active.length = 32 → ∀ k, c.getD k 0
      = if k < 32 then min (ctrMax : Int) (s.svc.count.getD k 0 + nth s.svc.active k 0) else s.svc.count.getD k 0) := by
  obtain ⟨mem, hg, stw, tr, evt, rem, obs, out, he⟩ := (State.Ends.refl s).endAll
  have hs : s.endAll.svc = s.svc := by rw [he]
  obtain ⟨c, hv⟩ := crossActive_shape s.endAll
  refine ⟨mem, hg, stw, tr, evt, rem, obs, out, c, by rw [hv, he], fun hc ha k => ?_⟩
  have hk := count_crossActive (s := s.endAll) (by rw [hs]; exact hc) (by rw [hs]; exact ha) k
  rw [hs, hv] at hk
  exact hk

/-- Settles O34: slots end, active clk crosses, the registers are set, and ports train, each with its own frame. -/
theorem warmResetKeepsWhatTheMapKeeps : Obligations.WarmResetKeepsWhatTheMapKeeps := by
  unfold Obligations.WarmResetKeepsWhatTheMapKeeps
  intro s h1 h2 h3
  refine ⟨_, execWarmReset_of_up (by simp [h1, h2, h3]), ?_⟩
  obtain ⟨_, _, _, _, _, _, _, _, c, hu, hcount⟩ := endAll_crossActive_shape s
  generalize s.endAll.crossActive = u at *
  have hst := u.port_enterInit_warmed
  have harr := u.arr_warmed
  obtain ⟨⟨q, h, t, hw, htick, hm, hb, hn, hx, hy, hz⟩, hkeys, -, -⟩ := u.warmed_dead.enterInit
  generalize u.warmed.enterInit = w at *
  subst hw hu
  refine ⟨rfl, rfl, htick, rfl, rfl, rfl, hm, hb, hn, hx, hy, hz, rfl, rfl, rfl, rfl, rfl, rfl, rfl, rfl, rfl, rfl, rfl,
    rfl, rfl, rfl, rfl, rfl, rfl, rfl, rfl, rfl, rfl, rfl, rfl, rfl, fun hc ha => ⟨rfl, fun k hk => ?_,
    fun k hk => ?_⟩, rfl, rfl, rfl, rfl, rfl, rfl, rfl, rfl, hst, fun p => (hkeys p).2, fun k => ?_⟩
  · exact (hcount hc ha k).trans (if_pos hk)
  · exact (hcount hc ha k).trans (if_neg (Nat.not_lt.mpr hk))
  · exact harr k ▸ ⟨rfl, rfl, rfl, rfl, rfl⟩
end Sys2Proof.Machine
end

section
/-! The governor's samples, readings and forecasts (R15, R564, R566, R568). -/
namespace Sys2Proof.Machine
open Sys2Proof.Claims

-- The hottest sensor.

/-- One step of `hottest`. -/
def hotter (a : Nat × Int) (x : BitVec 16 × Nat) : Nat × Int := if a.2 < x.1.toInt then (x.2, x.1.toInt) else a

theorem foldl_hotter (l : List (BitVec 16)) (j : Nat) (a : Nat × Int) :
    let r := (l.zipIdx j).foldl hotter a
    a.2 ≤ r.2 ∧ (∀ x ∈ l, x.toInt ≤ r.2) ∧ (r = a ∨ ∃ k x, l[k]? = some x ∧ r = (j + k, x.toInt)) := by
  induction l generalizing j a with
  | nil => simp
  | cons y l ih =>
    obtain ⟨h1, h2, h3⟩ := ih (j + 1) (hotter a (y, j))
    have hy : a.2 ≤ (hotter a (y, j)).2 ∧ y.toInt ≤ (hotter a (y, j)).2 := by
      by_cases hlt : a.2 < y.toInt
      · simp only [hotter, hlt, if_true]
        omega
      · simp only [hotter, hlt, if_false]
        omega
    simp only [List.zipIdx_cons, List.foldl_cons]
    refine ⟨hy.1.trans h1, ?_, ?_⟩
    · intro x hx
      obtain rfl | hx := List.mem_cons.mp hx
      · exact hy.2.trans h1
      · exact h2 x hx
    · obtain h | ⟨k, x, hk, h⟩ := h3
      · rw [h]
        unfold hotter
        split
        · exact .inr ⟨0, y, rfl, rfl⟩
        · exact .inl rfl
      · exact .inr ⟨k + 1, x, hk, by rw [h, Nat.add_assoc, Nat.add_comm 1]⟩

/-- The hottest reading is one of the readings, and none is above it. -/
theorem hottest_spec {l : List (BitVec 16)} (h : l ≠ []) :
    (∃ k x, l[k]? = some x ∧ hottest l = (k, x.toInt)) ∧ ∀ x ∈ l, x.toInt ≤ (hottest l).2 := by
  obtain ⟨-, h2, h3⟩ := foldl_hotter l 0 (0, (l.headD 0).toInt)
  refine ⟨?_, h2⟩
  obtain h0 | ⟨k, x, hk, hr⟩ := h3
  · obtain ⟨y, l, rfl⟩ := List.exists_cons_of_ne_nil h
    exact ⟨0, y, rfl, h0⟩
  · exact ⟨k, x, hk, by rw [Nat.zero_add] at hr; exact hr⟩

/-- Some sensor reads above a temperature exactly where the hottest does. -/
theorem Governor.above_iff_hottest {g : Governor} (h : g.temps ≠ []) (c : BitVec 8) :
    g.above c = true ↔ ((8 * c.toNat : Nat) : Int) < (hottest g.temps).2 := by
  obtain ⟨⟨k, x, hk, e⟩, hmax⟩ := hottest_spec h
  simp only [Governor.above, List.any_eq_true, decide_eq_true_eq]
  constructor
  · rintro ⟨y, hy, hlt⟩
    exact hlt.trans_le (hmax y hy)
  · intro hlt
    exact ⟨x, List.mem_of_getElem? hk, by simpa [e] using hlt⟩

-- Peaks (R15).

/-- Peaks raised one by one, from sensor `j` on. -/
theorem count_foldl_svcPeak (l : List (BitVec 16)) (j : Nat) (s : State) (h : 128 + j + l.length ≤ s.svc.count.length)
    (k : Nat) :
    ((l.zipIdx j).foldl (fun s x => s.svcPeak x.2 x.1.toInt) s).svc.count.getD (128 + k) 0
      = if j ≤ k ∧ k < j + l.length then max (s.svc.count.getD (128 + k) 0) (nth l (k - j) 0).toInt
        else s.svc.count.getD (128 + k) 0 := by
  induction l generalizing j s with
  | nil => simp
  | cons n l ih =>
    rw [List.length_cons] at h
    have hlen : (s.svcPeak j n.toInt).svc.count.length = s.svc.count.length := List.length_set
    have hset : (s.svcPeak j n.toInt).svc.count.getD (128 + k) 0
        = if j = k then max (s.svc.count.getD (128 + j) 0) n.toInt else s.svc.count.getD (128 + k) 0 := by
      simp only [State.svcPeak, List.getD_eq_getElem?_getD, List.getElem?_set, Nat.add_left_cancel_iff]
      split
      · rw [if_pos (by omega)]
        rfl
      · rfl
    have hroom : 128 + (j + 1) + l.length ≤ (s.svcPeak j n.toInt).svc.count.length := by omega
    rw [List.zipIdx_cons, List.foldl_cons, ih (j + 1) (s.svcPeak j n.toInt) hroom, hset, List.length_cons]
    obtain hk | rfl | hk := Nat.lt_trichotomy k j
    · rw [if_neg (by omega), if_neg (by omega), if_neg (by omega)]
    · rw [if_neg (by omega), if_pos rfl, if_pos (by omega), Nat.sub_self]
      rfl
    · have hd : k - j = (k - (j + 1)) + 1 := by omega
      rw [if_neg (by omega : ¬j = k), hd]
      simp only [nth, List.getD_cons_succ]
      refine if_congr (by omega) rfl rfl

/-- Peaks change the service record's counts alone. -/
theorem foldl_svcPeak_shape (l : List (BitVec 16 × Nat)) (s : State) :
    ∃ c, l.foldl (fun s x => s.svcPeak x.2 x.1.toInt) s = { s with svc := { s.svc with count := c } } := by
  induction l generalizing s with
  | nil => exact ⟨_, rfl⟩
  | cons x l ih => exact (ih (s.svcPeak x.2 x.1.toInt)).imp fun _ e => e

-- The readings.

/-- The state of a reading of the sixteen sensors before what a critical one sets off (R564). -/
def State.sensed (s : State) (temps : List (BitVec 16)) : State :=
  let t := temps.zipIdx.foldl (fun s x => s.svcPeak x.2 x.1.toInt) s
  { t with gov := { t.gov with
    temps := temps, hsens := BitVec.ofNat 4 (hottest temps).1, temp := BitVec.ofInt 16 (hottest temps).2
    hot := decide ((8 * t.gov.tlim.toNat : Nat) < (hottest temps).2)
    crit := decide ((8 * t.gov.tcrit.toNat : Nat) < (hottest temps).2) } }

theorem map_nth_range {l : List (BitVec 16)} (h : l.length = 16) : (List.range 16).map (fun k => nth l k 0) = l := by
  refine List.ext_getElem? fun k => ?_
  by_cases hk : k < 16
  · simp [hk, nth, h]
  · simp [hk, h]

theorem execSensorRead_eq {temps : List (BitVec 16)} (h : temps.length = 16) (s : State) :
    execSensorRead temps s = .next (let t := s.sensed temps
      if t.gov.above t.gov.tcrit then
        (t.setLevel t.gov.top 0).raise .thermal { unit := 14 } (hottest temps).1 (unsgn 32 (hottest temps).2) 0
      else t) := by
  unfold execSensorRead
  rw [map_nth_range h]
  rfl

/-- What a reading changes: peaks, and what the governor knows of the sensors. -/
theorem State.sensed_shape (s : State) (temps : List (BitVec 16)) : ∃ c, s.sensed temps = { s with
    svc := { s.svc with count := c }
    gov := { s.gov with
      temps := temps, hsens := BitVec.ofNat 4 (hottest temps).1, temp := BitVec.ofInt 16 (hottest temps).2
      hot := decide ((8 * s.gov.tlim.toNat : Nat) < (hottest temps).2)
      crit := decide ((8 * s.gov.tcrit.toNat : Nat) < (hottest temps).2) } } ∧
    (temps.length = 16 → s.svc.count.length = 204 → ∀ k, k < 16 →
      c.getD (128 + k) 0 = max (s.svc.count.getD (128 + k) 0) (nth temps k 0).toInt) := by
  obtain ⟨c, hc⟩ := foldl_svcPeak_shape temps.zipIdx s
  refine ⟨c, by rw [State.sensed, hc], fun hl hn k hk => ?_⟩
  have := count_foldl_svcPeak temps 0 s (by omega) k
  rw [if_pos ⟨Nat.zero_le k, by omega⟩, hc] at this
  exact this

/-- A level that is set changes the level and its calm periods, and notes an event at most (R568). -/
theorem State.setLevel_notes (s : State) (l calm : Nat) :
    State.Notes { s with gov := { s.gov with level := BitVec.ofNat 4 l, calm := calm } } (s.setLevel l calm) := by
  unfold State.setLevel
  dsimp only
  split
  · exact State.raise_notes _ _ _ _ _ _
  · exact .refl _

/-- THROTTLE is pending where the level rises from 0 (R568). -/
theorem State.setLevel_pend {s : State} {l : Nat} (h0 : s.gov.level = 0) (hl : 0 < l) (calm : Nat) :
    (s.setLevel l calm).evt.pend.getLsbD 23 = true := by
  unfold State.setLevel
  dsimp only
  rw [if_pos ⟨h0, hl⟩]
  exact State.raise_pend _ .throttle _ _ _ _

/-- What a reading of the sixteen sensors leaves in the governor and the service record (R15, R564). -/
theorem State.sensed_spec (s : State) {temps : List (BitVec 16)} (h : temps.length = 16) :
    let g := (s.sensed temps).gov
    g.temps = temps ∧ g.temp.toInt = (hottest temps).2 ∧ g.hsens.toNat = (hottest temps).1 ∧
      (∀ x ∈ temps, x.toInt ≤ g.temp.toInt) ∧ (g.hot = true ↔ (8 * s.gov.tlim.toNat : Nat) < g.temp.toInt) ∧
      (g.crit = true ↔ (8 * s.gov.tcrit.toNat : Nat) < g.temp.toInt) ∧ (g.crit = g.above s.gov.tcrit) := by
  have hne : temps ≠ [] := by
    rintro rfl
    simp at h
  obtain ⟨⟨k, x, hk, e⟩, hmax⟩ := hottest_spec hne
  obtain ⟨c, hs, -⟩ := s.sensed_shape temps
  have hk16 : k < 16 := h ▸ (List.getElem?_eq_some_iff.mp hk).1
  have htemp : (BitVec.ofInt 16 (hottest temps).2).toInt = (hottest temps).2 := by
    rw [e, BitVec.ofInt_toInt]
  have hsens : (BitVec.ofNat 4 (hottest temps).1).toNat = (hottest temps).1 := by
    rw [e, BitVec.toNat_ofNat]
    exact Nat.mod_eq_of_lt hk16
  rw [hs]
  refine ⟨rfl, htemp, hsens, fun x hx => htemp.symm ▸ hmax x hx, ?_, ?_, ?_⟩
  · simp [htemp]
  · simp [htemp]
  · rw [Bool.eq_iff_iff, Governor.above_iff_hottest hne]
    simp

/-- The clause of O42 about a reading. -/
theorem execSensorRead_spec (s : State) {temps : List (BitVec 16)} (h : temps.length = 16) :
    ∃ t, execSensorRead temps s = .next t ∧ t.gov.temps = temps ∧
      t.gov.temp.toInt = (hottest temps).2 ∧ t.gov.hsens.toNat = (hottest temps).1 ∧
      (∀ x ∈ temps, x.toInt ≤ t.gov.temp.toInt) ∧
      (t.gov.hot = true ↔ (8 * s.gov.tlim.toNat : Nat) < t.gov.temp.toInt) ∧
      (t.gov.crit = true ↔ (8 * s.gov.tcrit.toNat : Nat) < t.gov.temp.toInt) ∧
      (s.svc.count.length = 204 → ∀ k, k < 16 →
        t.svc.count.getD (128 + k) 0 = max (s.svc.count.getD (128 + k) 0) (nth temps k 0).toInt) ∧
      (t.gov.crit = true → t.gov.level.toNat = min 12 s.gov.tmax.toNat ∧ t.gov.calm = 0 ∧
        t.evt.pend.getLsbD 24 = true ∧ (s.gov.level = 0 → 0 < s.gov.tmax.toNat → t.evt.pend.getLsbD 23 = true)) ∧
      (t.gov.crit = false → t.gov.level = s.gov.level ∧ t.gov.calm = s.gov.calm ∧ t.evt = s.evt ∧ t.mem = s.mem) ∧
      t.gov.hist = s.gov.hist ∧ t.hg = s.hg := by
  obtain ⟨h1, h2, h3, h4, h5, h6, hcrit⟩ := s.sensed_spec h
  obtain ⟨c, hs, hcount⟩ := s.sensed_shape temps
  replace hcount := hcount h
  rw [execSensorRead_eq h]
  have htc : (s.sensed temps).gov.tcrit = s.gov.tcrit := by rw [hs]
  have htop : (s.sensed temps).gov.top = min 12 s.gov.tmax.toNat := by rw [hs]; rfl
  dsimp only
  rw [htc, htop, ← hcrit]
  by_cases hc : (s.sensed temps).gov.crit = true
  · rw [if_pos hc]
    have hlev : (BitVec.ofNat 4 (min 12 s.gov.tmax.toNat)).toNat = min 12 s.gov.tmax.toNat := by
      rw [BitVec.toNat_ofNat]
      omega
    have hpend := fun h0 hl => State.setLevel_pend (s := s.sensed temps) (l := min 12 s.gov.tmax.toNat) h0 hl 0
    obtain hn := (s.sensed temps).setLevel_notes (min 12 s.gov.tmax.toNat) 0
    generalize (s.sensed temps).setLevel (min 12 s.gov.tmax.toNat) 0 = u at *
    have hthermal := u.raise_pend .thermal { unit := 14 } (hottest temps).1 (unsgn 32 (hottest temps).2) 0
    have hn' := u.raise_notes .thermal { unit := 14 } (hottest temps).1 (unsgn 32 (hottest temps).2) 0
    refine ⟨_, rfl, ?_⟩
    generalize u.raise .thermal { unit := 14 } (hottest temps).1 (unsgn 32 (hottest temps).2) 0 = t at *
    have hkeep : ∀ k, u.evt.pend.getLsbD k = true → t.evt.pend.getLsbD k = true := by
      obtain ⟨_, _, _, _, rfl, -, -, -, hk, -⟩ := hn'
      exact hk
    obtain ⟨_, _, _, _, rfl, -⟩ := hn.trans hn'
    refine ⟨h1, h2, h3, h4, h5, h6, ?_, fun _ => ⟨hlev, rfl, hthermal, fun h0 hl => ?_⟩, fun hf => ?_, ?_, ?_⟩
    · rw [hs]
      exact hcount
    · exact hkeep 23 (hpend (by rw [hs]; exact h0) (by omega))
    · exact absurd (hf.symm.trans hc) (by decide)
    · rw [hs]
    · rw [hs]
  · rw [if_neg hc]
    refine ⟨_, rfl, h1, h2, h3, h4, h5, h6, ?_, fun ht => absurd ht hc, fun _ => ?_, ?_, ?_⟩
    · rw [hs]
      exact hcount
    · rw [hs]
      exact ⟨rfl, rfl, rfl, rfl⟩
    · rw [hs]
    · rw [hs]
end Sys2Proof.Machine
end

section
/-! Reports of the governor (R463, R569, R585): the queue of a port, and ports that have used up their counters. -/
namespace Sys2Proof.Machine
open Sys2Proof.Claims

-- What sending does to the ports.

/-- A port as sending leaves it: its state, its key, and that it has no counter value left. -/
def Port.Lasts (q q' : Port) : Prop :=
  q'.st = q.st ∧ q'.keyTx = q.keyTx ∧ (q.exhausted = true → q'.exhausted = true)

theorem Port.Lasts.refl (q : Port) : q.Lasts q := ⟨rfl, rfl, id⟩

theorem Port.Lasts.trans {q q' q'' : Port} (h : q.Lasts q') (k : q'.Lasts q'') : q.Lasts q'' := by
  obtain ⟨h1, h2, h3⟩ := h
  obtain ⟨k1, k2, k3⟩ := k
  exact ⟨k1.trans h1, k2.trans h2, k3 ∘ h3⟩

/-- A flit given to a port that has counter values left. -/
theorem Port.lasts_took {q : Port} (h : q.exhausted = false) (w : Flit ⊕ Sluice) (stamp : BitVec 40) :
    q.Lasts (q.took w stamp) := ⟨rfl, rfl, fun he => absurd (he.symm.trans h) (by decide)⟩

/-- `t` is `s` after sending: every port lasts, no event is lost, and the governor is as it was. -/
def State.Talks (s t : State) : Prop :=
  t.gov = s.gov ∧ (∀ k, s.evt.pend.getLsbD k = true → t.evt.pend.getLsbD k = true) ∧ ∀ p, (s.port p).Lasts (t.port p)

namespace State.Talks
variable {s a b : State}

theorem refl (s : State) : s.Talks s := ⟨rfl, fun _ h => h, fun _ => .refl _⟩

theorem trans (h : s.Talks a) (k : a.Talks b) : s.Talks b := by
  obtain ⟨h1, h2, h3⟩ := h
  obtain ⟨k1, k2, k3⟩ := k
  exact ⟨k1.trans h1, fun k hk => k2 k (h2 k hk), fun p => (h3 p).trans (k3 p)⟩

/-- Fields that are none of these may be replaced. -/
theorem fields (h : s.Talks a) {pending mem phase loadOpen warm scanAsked present grade hg stw tr arrs tm cut hall pwr
    st
    pen key rem snap obs svc out free} : s.Talks ⟨pending, mem, phase, loadOpen, warm, scanAsked, present, grade, hg,
    stw, tr,
    arrs, a.evt, tm, cut, hall, pwr, a.gov, st, pen, a.ports, key, rem, snap, obs, svc, out, free⟩ := h

theorem ite {c : Prop} [Decidable c] (h : s.Talks a) (k : s.Talks b) : s.Talks (if c then a else b) := by
  split <;> assumption

theorem pair {α : Type} {p : State × α} {k : State → α → State} (h : s.Talks p.1)
    (hk : ∀ {t x}, s.Talks t → s.Talks (k t x)) : s.Talks (Prod.casesOn p k) := hk h

theorem foldl {α : Type} {f : State → α → State} {l : List α} (h : s.Talks a)
    (hf : ∀ {b x}, s.Talks b → s.Talks (f b x)) : s.Talks (l.foldl f a) := by
  induction l generalizing a with
  | nil => exact h
  | cons x l ih => exact ih (hf h)

theorem notes (h : s.Talks a) (n : a.Notes b) : s.Talks b := by
  obtain ⟨_, _, _, _, rfl, -, -, -, hk, -⟩ := n
  exact h.trans ⟨rfl, hk, fun _ => .refl _⟩

theorem setPort (h : s.Talks a) {p : Fin 6} {q : Port} (hq : (a.port p).Lasts q) : s.Talks (a.setPort p q) := by
  refine h.trans ⟨rfl, fun _ h => h, fun o => ?_⟩
  by_cases ho : o = p
  · subst ho
    rw [State.port_setPort_same]
    exact hq
  · rw [a.port_setPort_other q ho]
    exact .refl _

/-- Other fields of a port may be replaced, and its count while it has values left. -/
theorem portFields (h : s.Talks a) {p : Fin 6} {tx rx fenced invert laneOf tstep faults awaiting trained synced stalled
    txCount rxCount replay hold credits telem keyRx stTx stRx farReady txNew rxNew owed fails farDeep txOut txOld
    lastAck
    telAt telSent} (hx : (a.port p).exhausted = true → txCount = (a.port p).txCount) :
    s.Talks (a.setPort p ⟨(a.port p).st, tx, rx, fenced, invert, laneOf, tstep, faults, awaiting, trained, synced,
    stalled,
      txCount, rxCount, replay, hold, credits, telem, (a.port p).keyTx, keyRx, stTx, stRx, farReady, txNew, rxNew, owed,
      fails, farDeep, txOut, txOld, lastAck, telAt, telSent⟩) :=
  h.setPort ⟨rfl, rfl, fun he => (congrArg (fun c : BitVec 64 => c.toNat == 2 ^ 64 - 1) (hx he)).trans he⟩

theorem bump (h : s.Talks a) {x i n} : s.Talks (a.bump x i n) := by
  obtain ⟨_, e, -⟩ := a.bump_shape x i n
  rw [e]
  exact h.fields

theorem sluiceOn (h : s.Talks a) {p m} : s.Talks (a.sluiceOn p m) := by
  unfold State.sluiceOn
  dsimp only
  split
  · rename_i hc
    exact (h.setPort (Port.lasts_took (by simpa using hc.2) _ _)).bump.fields
  · exact h

theorem sluiceAll (h : s.Talks a) {m but} : s.Talks (a.sluiceAll m but) := h.foldl fun h => .ite h h.sluiceOn

theorem freeQueue (h : s.Talks a) {came} : s.Talks (a.freeQueue came) := by
  unfold State.freeQueue
  split
  · exact h.sluiceOn
  · exact h

theorem transmit (h : s.Talks a) {p f came via wake} : s.Talks (a.transmit p f came via wake) := by
  unfold State.transmit
  dsimp only
  split
  · rename_i hc
    have he : (a.port p).exhausted = false := by
      simpa using ((Bool.and_eq_true _ _).mp ((Bool.and_eq_true _ _).mp hc.1).1).2
    exact (h.portFields fun hx => absurd (hx.symm.trans he) (by decide)).bump.fields.freeQueue
  · exact .ite (h.portFields fun _ => rfl).sluiceOn (h.portFields fun _ => rfl)

theorem launch (h : s.Talks a) {f wake} : s.Talks (a.launch f wake).1 := by
  unfold State.launch
  split
  · exact h.transmit
  · exact h

theorem nak (h : s.Talks a) {f status wake} : s.Talks (a.nak f status wake) := h.launch

theorem reroute (h : s.Talks a) {held} : s.Talks (a.reroute held) := by
  refine h.foldl fun h => .ite h ?_
  extract_lets
  split
  · exact h.transmit
  · exact h.freeQueue.nak

theorem chooseParent (h : s.Talks a) : s.Talks a.chooseParent := by
  unfold State.chooseParent
  refine .ite h.fields ?_
  split
  · exact h.fields
  · exact h.fields

theorem announce (h : s.Talks a) {p} : s.Talks (a.announce p) := sluiceAll (h.fields)

theorem wakesSince (h : s.Talks a) {s0} : s.Talks (a.wakesSince s0) := h.foldl fun h => .ite h.sluiceOn h

theorem setWait (h : s.Talks a) {i n st wait waux wpeer} : s.Talks (a.setWait i n st wait waux wpeer) :=
  h.notes (a.setWait_writes i n st wait waux wpeer).notes

theorem showHeld (h : s.Talks a) {q} : s.Talks (a.showHeld q) :=
  .ite h (h.foldl fun h => .ite h.setWait (.ite h.setWait h))

theorem hold (h : s.Talks a) {q} : s.Talks (a.hold q) := h.fields.showHeld

theorem sendReq (h : s.Talks a) {q} : s.Talks (a.sendReq q) := .pair h.fields.launch fun h => .ite h h.hold

theorem retransmit (h : s.Talks a) : s.Talks a.retransmit := h.fields.foldl fun h => .ite h h.sendReq

theorem drainTelem (h : s.Talks a) {p} : s.Talks (a.drainTelem p) := by
  unfold State.drainTelem
  refine .ite h ?_
  dsimp only
  exact (h.portFields fun _ => rfl).foldl fun h => h.sluiceOn

theorem telemetryOn (h : s.Talks a) {p b} : s.Talks (a.telemetryOn p b) :=
  .drainTelem (.ite (h.portFields fun _ => rfl) (h.portFields fun _ => rfl).bump)

theorem pend (h : s.Talks a) {k : Nat} (hk : s.evt.pend.getLsbD k = true) : a.evt.pend.getLsbD k = true := by
  obtain ⟨-, h2, -⟩ := h
  exact h2 k hk

theorem port (h : s.Talks a) (p : Fin 6) : (s.port p).Lasts (a.port p) := by
  obtain ⟨-, -, h3⟩ := h
  exact h3 p

end State.Talks

-- Ports that have used up their counters (R463).

/-- A port that is DOWN without a key, with LINKDOWN raised. -/
def State.Fell (s : State) (p : Fin 6) : Prop :=
  (s.port p).st = .down ∧ (s.port p).keyTx = none ∧ s.evt.pend.getLsbD 14 = true

theorem State.Talks.fell {s t : State} (h : s.Talks t) {p : Fin 6} (k : s.Fell p) : t.Fell p := by
  obtain ⟨hst, hkey, -⟩ := h.port p
  obtain ⟨k1, k2, k3⟩ := k
  exact ⟨hst.trans k1, hkey.trans k2, h.pend k3⟩

/-- A linked port that has used up its counter values. -/
def Port.Spent (q : Port) : Prop := q.linked = true ∧ q.exhausted = true

theorem Port.Lasts.spent {q q' : Port} (h : q.Lasts q') (k : q.Spent) : q'.Spent := by
  obtain ⟨hst, -, hx⟩ := h
  refine ⟨?_, hx k.2⟩
  rw [Port.linked, hst]
  exact k.1

/-- A port as it goes DOWN. -/
def Port.fallen (q : Port) : Port := { q.rest .down with hold := [] }

/-- A port that goes DOWN with its event: what follows is sending, and LINKDOWN is pending. -/
theorem State.portDown_talks (s : State) (p : Fin 6) :
    (s.setPort p (s.port p).fallen).Talks (s.portDown p .down true) ∧
      (s.portDown p .down true).evt.pend.getLsbD 14 = true := by
  unfold State.portDown
  extract_lets q _ s1 s2 s3
  have h2 : s1.Talks s2 := (State.Talks.refl s1).foldl fun h => h.portFields fun _ => rfl
  have h3 : s2.Talks s3 := (State.Talks.refl s2).notes (s2.raise_notes .linkdown { unit := 15 } p.val 0 0)
  have hpend : s3.evt.pend.getLsbD 14 = true := s2.raise_pend .linkdown { unit := 15 } p.val 0 0
  have h4 := (State.Talks.refl s3).reroute (held := q.hold) |>.chooseParent.announce (p := p) |>.wakesSince (s0 := s3)
    |>.retransmit
  exact ⟨(h2.trans h3).trans h4, h4.pend hpend⟩

theorem State.gov_portDown (s : State) (p : Fin 6) : (s.portDown p .down true).gov = s.gov :=
  (s.portDown_talks p).1.1

theorem State.portDown_fell (s : State) (p : Fin 6) : (s.portDown p .down true).Fell p := by
  obtain ⟨h, hpend⟩ := s.portDown_talks p
  obtain ⟨hst, hkey, -⟩ := h.port p
  rw [State.port_setPort_same] at hst hkey
  exact ⟨hst, hkey, hpend⟩

theorem State.portDown_other (s : State) {p o : Fin 6} (h : o ≠ p) :
    (s.port o).Lasts ((s.portDown p .down true).port o) := by
  have := (s.portDown_talks p).1.port o
  rwa [s.port_setPort_other _ h] at this

theorem State.downExhausted_of_spent {s : State} {p : Fin 6} (h : (s.port p).Spent) :
    s.downExhausted p = s.portDown p .down true := by
  obtain ⟨hl, hx⟩ := h
  unfold Port.linked at hl
  simp [State.downExhausted, hl, hx]

theorem State.downExhausted_of_not_spent {s : State} {p : Fin 6} (h : ¬(s.port p).Spent) : s.downExhausted p = s := by
  refine if_neg fun hc => h ?_
  rw [Bool.and_eq_true] at hc
  exact hc

theorem State.gov_downExhausted (s : State) (p : Fin 6) : (s.downExhausted p).gov = s.gov := by
  by_cases h : (s.port p).Spent
  · rw [State.downExhausted_of_spent h, s.gov_portDown]
  · rw [State.downExhausted_of_not_spent h]

/-- A port that fell stays so while others are looked at. -/
theorem State.Fell.downExhausted {s : State} {p : Fin 6} (h : s.Fell p) (o : Fin 6) : (s.downExhausted o).Fell p := by
  by_cases hs : (s.port o).Spent
  · rw [State.downExhausted_of_spent hs]
    by_cases ho : p = o
    · rw [ho]
      exact s.portDown_fell o
    · obtain ⟨h1, h2, h3⟩ := h
      obtain ⟨hst, hkey, -⟩ := s.portDown_other ho
      exact ⟨hst.trans h1, hkey.trans h2, (s.portDown_talks o).2⟩
  · rw [State.downExhausted_of_not_spent hs]
    exact h

/-- Every port of `l` that has used up its counter values falls (R463). -/
theorem State.foldl_downExhausted_fell {l : List (Fin 6)} {s : State} {p : Fin 6}
    (h : s.Fell p ∨ p ∈ l ∧ (s.port p).Spent) : (l.foldl State.downExhausted s).Fell p := by
  induction l generalizing s with
  | nil => exact h.resolve_right fun h => by simp at h
  | cons o l ih =>
    refine ih ?_
    obtain h | ⟨hp, hs⟩ := h
    · exact .inl (h.downExhausted o)
    · by_cases ho : p = o
      · subst ho
        rw [State.downExhausted_of_spent hs]
        exact .inl (s.portDown_fell p)
      · refine .inr ⟨(List.mem_cons.mp hp).resolve_left ho, ?_⟩
        by_cases hso : (s.port o).Spent
        · rw [State.downExhausted_of_spent hso]
          exact (s.portDown_other ho).spent hs
        · rw [State.downExhausted_of_not_spent hso]
          exact hs

theorem State.sweep_fell {s : State} {p : Fin 6} (h : (s.port p).Spent) : s.sweep.Fell p :=
  State.foldl_downExhausted_fell (.inr ⟨(by decide : ∀ p : Fin 6, p ∈ allPorts) p, h⟩)

theorem State.gov_sweep (s : State) : s.sweep.gov = s.gov := by
  unfold State.sweep
  generalize allPorts = l
  induction l generalizing s with
  | nil => rfl
  | cons p l ih => exact (ih (s.downExhausted p)).trans (s.gov_downExhausted p)

-- A report (R569, R585).

/-- A port that a spent counter takes down stays down with the report, and the governor is as it was (R463). -/
theorem execGovernorTelemetry_of_spent {s : State} {p : Fin 6} (h : (s.port p).Spent) :
    ∃ t, execGovernorTelemetry s = .next t ∧ t.Fell p ∧ t.gov = s.gov := by
  have hfell := State.sweep_fell h
  have hgov := s.gov_sweep
  unfold execGovernorTelemetry
  generalize s.sweep = u at *
  refine ⟨_, rfl, ?_⟩
  split
  · rename_i o _ _
    have hk := (State.Talks.refl u).telemetryOn (p := o) (b := u.gov.report)
    exact ⟨hk.fell hfell, hk.1.trans hgov⟩
  · exact ⟨hfell, hgov⟩

/-- A dimension's hop goes out by a port that carries data (R467). -/
theorem State.usable_of_routeDim {s : State} {f g : Flit} {d : Nat} {p : Fin 6} (h : s.routeDim f d = .inr (.out p g)) :
    (s.port p).st.usable = true := by
  unfold State.routeDim at h
  extract_lets size dd neg port at h
  clear_value neg port
  by_cases h0 : dd = 0
  · simp [h0] at h
  · rw [if_neg h0] at h
    by_cases h1 : (s.port (port neg)).st.usable = true
    · rw [if_pos h1] at h
      cases h
      exact h1
    · rw [if_neg h1] at h
      by_cases h2 : (f.det || !(s.port (port !neg)).st.usable) = true
      · simp [h2] at h
      · rw [if_neg h2] at h
        cases h
        simp only [Bool.or_eq_true, not_or] at h2
        simpa using h2.2

theorem State.usable_of_route {s : State} {f g : Flit} {p : Fin 6} (h : s.route f = .out p g) :
    (s.port p).st.usable = true := by
  unfold State.route at h
  split at h
  · rename_i e
    subst h
    exact State.usable_of_routeDim e
  · split at h
    · rename_i e
      subst h
      exact State.usable_of_routeDim e
    · split at h
      · rename_i e
        subst h
        exact State.usable_of_routeDim e
      · cases h

theorem State.putSluice_shape (s : State) (p : Fin 6) (m : Sluice) : ∃ o, s.putSluice p m = { s with
    ports := s.ports.set p ((s.port p).took (.inr m) s.stamp)
    obs := o
    out := { s.out with links := s.out.links ++ [.sluice p m s.stamp] } } := by
  obtain ⟨o, h, -⟩ := (s.setPort p ((s.port p).took (.inr m) s.stamp)).bump_shape (9 + p.val) 5 1
  refine ⟨o, ?_⟩
  rw [State.putSluice, h]
  rfl

/-- Telemetry flits that a port has counter values for all go out, in order, with the tick's stamp (R451, R585). -/
theorem State.foldl_telemetry {s : State} {p : Fin 6} (hu : (s.port p).st.usable = true) (l : List (BitVec 106))
    (hx : (s.port p).txCount.toNat + l.length < 2 ^ 64 - 1) :
    let t := l.foldl (fun s b => s.sluiceOn p (.telemetry s.hall.actMgr b)) s
    t.out.links = s.out.links ++ l.map (fun b => .sluice p (.telemetry s.hall.actMgr b) s.stamp) ∧
      (t.port p).telem = (s.port p).telem ∧ (∀ o, o ≠ p → t.port o = s.port o) ∧ t.gov = s.gov ∧ t.mem = s.mem := by
  induction l generalizing s with
  | nil => exact ⟨by simp, rfl, fun _ _ => rfl, rfl, rfl⟩
  | cons b l ih =>
    rw [List.length_cons] at hx
    have hgo : s.sluiceOn p (.telemetry s.hall.actMgr b) = s.putSluice p (.telemetry s.hall.actMgr b) := by
      refine if_pos ⟨hu, ?_⟩
      have : (s.port p).txCount.toNat ≠ 2 ^ 64 - 1 := by omega
      simpa [Port.exhausted] using this
    obtain ⟨o, ho⟩ := s.putSluice_shape p (.telemetry s.hall.actMgr b)
    have hp : (s.putSluice p (.telemetry s.hall.actMgr b)).port p
        = (s.port p).took (.inr (.telemetry s.hall.actMgr b)) s.stamp := by
      rw [ho]
      exact s.port_setPort_same p _
    have hother : ∀ q, q ≠ p → (s.putSluice p (.telemetry s.hall.actMgr b)).port q = s.port q := fun q hq => by
      rw [ho]
      exact s.port_setPort_other _ hq
    have hcount : ((s.port p).took (.inr (.telemetry s.hall.actMgr b)) s.stamp).txCount.toNat
        = (s.port p).txCount.toNat + 1 := by
      rw [Port.took, BitVec.toNat_add]
      exact Nat.mod_eq_of_lt (by simp; omega)
    obtain ⟨h1, h2, h3, h4, h5⟩ := ih (s := s.putSluice p (.telemetry s.hall.actMgr b)) (by rw [hp]; exact hu)
      (by rw [hp, hcount]; omega)
    rw [List.foldl_cons, hgo]
    refine ⟨h1.trans ?_, h2.trans (by rw [hp]; rfl), fun q hq => (h3 q hq).trans (hother q hq), h4.trans (by rw [ho]),
      h5.trans (by rw [ho])⟩
    rw [ho]
    simp [State.stamp]

theorem execGovernorTelemetry_of_out {s : State} {p : Fin 6} {f : Flit} (hc : Counting s)
    (h : s.route { dst := s.hall.actMgr } = .out p f) :
    execGovernorTelemetry s = .next (s.telemetryOn p s.gov.report) := by
  simp only [execGovernorTelemetry, State.sweep_of_counting hc, h]

theorem execGovernorTelemetry_of_here {s : State} (hc : Counting s) (h : s.route { dst := s.hall.actMgr } = .here) :
    execGovernorTelemetry s = .next s := by
  simp only [execGovernorTelemetry, State.sweep_of_counting hc, h]

/-- A port's queue of telemetry with one more report, whose oldest gives way at 64 (R585). -/
def Port.queued (q : Port) (b : BitVec 106) : List (BitVec 106) :=
  (if q.telem.length < 64 then q.telem else q.telem.tail) ++ [b]

theorem telemWindow_cap (q : Port) (tick : Nat) : (q.telemWindow tick).2 ≤ 10 := by
  unfold Port.telemWindow
  split
  · simp
  · dsimp only
    split <;> omega

/-- What a port sends of the reports that wait at it (R585). -/
theorem State.drainTelem_spec {s : State} {p : Fin 6} (hu : (s.port p).st.usable = true)
    (hx : (s.port p).txCount.toNat + 10 < 2 ^ 64 - 1) :
    let q := s.port p
    let n := (q.telemWindow s.tm.tick.toNat).2 - (if q.telAt = (q.telemWindow s.tm.tick.toNat).1 then q.telSent else 0)
    let t := s.drainTelem p
    t.out.links = s.out.links ++ (q.telem.take n).map (fun b => .sluice p (.telemetry s.hall.actMgr b) s.stamp) ∧
      (t.port p).telem = q.telem.drop n ∧ (∀ o, o ≠ p → t.port o = s.port o) ∧ t.gov = s.gov ∧ t.mem = s.mem := by
  intro q n
  have hx' : q.txCount.toNat + 10 < 2 ^ 64 - 1 := hx
  have hne : q.exhausted = false := by
    have : q.txCount.toNat ≠ 2 ^ 64 - 1 := by omega
    simpa [Port.exhausted] using this
  have hgo : ¬(!q.st.usable || q.exhausted) = true := by
    rw [hu, hne]
    decide
  have htake : q.telem.take (min n q.telem.length) = q.telem.take n := by simp [List.take_eq_take_iff]
  have hdrop : q.telem.drop (min n q.telem.length) = q.telem.drop n := by simp [List.drop_eq_drop_iff]
  have hlen : (q.telem.take n).length ≤ 10 := by
    have := telemWindow_cap q s.tm.tick.toNat
    rw [List.length_take]
    omega
  obtain ⟨at', sent, e⟩ : ∃ at' sent, s.drainTelem p = (q.telem.take n).foldl
      (fun s b => s.sluiceOn p (.telemetry s.hall.actMgr b))
      (s.setPort p { q with telem := q.telem.drop n, telAt := at', telSent := sent }) := by
    rw [← htake, ← hdrop]
    exact ⟨_, _, if_neg hgo⟩
  generalize hu' : s.setPort p { q with telem := q.telem.drop n, telAt := at', telSent := sent } = u at e
  have hp : u.port p = { q with telem := q.telem.drop n, telAt := at', telSent := sent } := by
    rw [← hu']
    exact s.port_setPort_same p _
  obtain ⟨h1, h2, h3, h4, h5⟩ := State.foldl_telemetry (s := u) (p := p) (by rw [hp]; exact hu) (q.telem.take n)
    (by rw [hp]; exact (Nat.add_le_add_left hlen _).trans_lt hx')
  rw [e]
  refine ⟨?_, h2.trans (by rw [hp]), fun o ho => (h3 o ho).trans ?_, h4.trans ?_, h5.trans ?_⟩
  · rw [h1, ← hu']
    rfl
  · rw [← hu', s.port_setPort_other _ ho]
  · rw [← hu']
    rfl
  · rw [← hu']
    rfl

/-- A report at a port that carries data and comes to the end of its counter by no ten flits (R569, R585). -/
theorem State.telemetryOn_spec {s : State} {p : Fin 6} (hu : (s.port p).st.usable = true)
    (hx : (s.port p).txCount.toNat + 10 < 2 ^ 64 - 1) (b : BitVec 106) :
    let q := s.port p
    let n := (q.telemWindow s.tm.tick.toNat).2 - (if q.telAt = (q.telemWindow s.tm.tick.toNat).1 then q.telSent else 0)
    let t := s.telemetryOn p b
    t.out.links = s.out.links ++ ((q.queued b).take n).map (fun b => .sluice p (.telemetry s.hall.actMgr b) s.stamp) ∧
      (t.port p).telem = (q.queued b).drop n ∧ (∀ o, o ≠ p → t.port o = s.port o) ∧ t.gov = s.gov ∧ t.mem = s.mem := by
  intro q n
  obtain ⟨c, e⟩ : ∃ c, s.telemetryOn p b
      = State.drainTelem { s.setPort p { q with telem := q.queued b } with obs := c } p := by
    unfold State.telemetryOn Port.queued
    dsimp only
    by_cases hl : q.telem.length < 64
    · rw [if_pos hl, if_pos hl]
      exact ⟨_, rfl⟩
    · rw [if_neg hl, if_neg hl]
      obtain ⟨c, hc, -⟩ := (s.setPort p { q with telem := q.telem.tail ++ [b] }).bump_shape (9 + p.val) 6 1
      exact ⟨c, congrArg (fun u => State.drainTelem u p) hc⟩
  have hp : State.port { s.setPort p { q with telem := q.queued b } with obs := c } p
      = { q with telem := q.queued b } := s.port_setPort_same p _
  obtain ⟨h1, h2, h3, h4, h5⟩ := State.drainTelem_spec
    (s := { s.setPort p { q with telem := q.queued b } with obs := c }) (p := p) (by rw [hp]; exact hu)
    (by rw [hp]; exact hx)
  rw [hp] at h1 h2
  rw [e]
  exact ⟨h1, h2, fun o ho => (h3 o ho).trans (s.port_setPort_other _ ho), h4, h5⟩

theorem exec_governorTelemetry (s : State) : exec .governorTelemetry s = execGovernorTelemetry s := rfl

/-- Settles O42: each command by what it was shown to do above. -/
theorem governorKeepsReadingsAndReports : Obligations.GovernorKeepsReadingsAndReports := by
  unfold Obligations.GovernorKeepsReadingsAndReports
  intro s
  refine ⟨fun ma mv => ⟨_, rfl, rfl, rfl, rfl⟩, fun temps h => execSensorRead_spec s h, ⟨_, rfl, rfl, rfl, rfl⟩,
    fun hc h => execGovernorTelemetry_of_here hc h,
    fun p f hc h hx => ⟨_, (exec_governorTelemetry s).trans (execGovernorTelemetry_of_out hc h),
      State.telemetryOn_spec (State.usable_of_route h) hx _⟩,
    fun p hl hx => ?_, fun hc ha => ?_⟩
  · obtain ⟨t, he, ⟨h1, h2, h3⟩, hg⟩ := execGovernorTelemetry_of_spent ⟨hl, hx⟩
    exact ⟨t, he, h1, h2, h3, hg⟩
  · obtain ⟨c, e⟩ := crossActive_shape s
    have hcount := count_crossActive hc ha
    rw [e] at hcount
    refine ⟨s.crossActive, rfl, ?_⟩
    rw [e]
    exact ⟨rfl, fun k hk => (hcount k).trans (if_pos hk), rfl⟩
end Sys2Proof.Machine
end

section
/-! What the work of an instruction leaves as it was: the registers and the instructions in flight. -/
namespace Sys2Proof.Claims
open Sys2Proof.Machine

theorem SameRegisters.trans {s t u : State} (h : SameRegisters s t) (k : SameRegisters t u) : SameRegisters s u := by
  obtain ⟨h1, h2, h3, h4, h5, h6, h7, h8, h9, h10, h11, h12, h13, h14, h15, h16, h17, h18, h19⟩ := h
  obtain ⟨k1, k2, k3, k4, k5, k6, k7, k8, k9, k10, k11, k12, k13, k14, k15, k16, k17, k18, k19⟩ := k
  exact ⟨k1.trans h1, k2.trans h2, k3.trans h3, k4.trans h4, k5.trans h5, k6.trans h6, k7.trans h7, k8.trans h8,
    k9.trans h9, k10.trans h10, k11.trans h11, k12.trans h12, k13.trans h13, k14.trans h14, k15.trans h15,
    k16.trans h16, k17.trans h17, k18.trans h18, k19.trans h19⟩

/-- Fields that hold no register may be replaced. -/
theorem SameRegisters.fields {s : State} {mem scanAsked stw arrs cut pwr ports rem snap obs svc out free slots loading
    flight resident stepNo held turn fetchTurn rowLast resWait resFrom} (h : svc.load = s.svc.load) : SameRegisters s
    ⟨s.pending, mem, s.phase, s.loadOpen, s.warm, scanAsked, s.present, s.grade, ⟨slots, loading, flight, resident,
    s.hg.slotEn, stepNo, s.hg.verBase, s.hg.aen, held, turn, fetchTurn, rowLast, resWait, resFrom⟩, stw, s.tr, arrs,
    s.evt, s.tm, cut, s.hall, pwr, s.gov, s.st, s.pen, ports, s.key, rem, snap, obs, svc, out, free⟩ :=
  ⟨rfl, rfl, rfl, rfl, rfl, rfl, rfl, rfl, rfl, rfl, rfl, rfl, rfl, rfl, rfl, rfl, rfl, rfl, h⟩

/-- Memory, trace records, events and a ladder's first reports alone. -/
theorem SameRegisters.of_notes {s t : State} (h : s.Notes t) : SameRegisters s t := by
  obtain ⟨m, x, e, l, rfl, hlive, hpend, hmask, -, -⟩ := h
  exact ⟨rfl, rfl, rfl, rfl, rfl, rfl, rfl, rfl, rfl, rfl, rfl, rfl, hmask, hlive, hpend, rfl, rfl, rfl, rfl⟩

end Sys2Proof.Claims

namespace Sys2Proof.Machine
open Sys2Proof.Claims

/-- `t` is `s` after something that changes no register and neither adds, drops nor changes an instruction in flight. -/
def State.Retains (s t : State) : Prop := SameRegisters s t ∧ t.hg.flight = s.hg.flight

namespace State.Retains
variable {s a b : State}

theorem refl (s : State) : s.Retains s := ⟨.fields rfl, rfl⟩

theorem trans (h : s.Retains a) (k : a.Retains b) : s.Retains b := by
  obtain ⟨h1, h2⟩ := h
  obtain ⟨k1, k2⟩ := k
  exact ⟨h1.trans k1, k2.trans h2⟩

/-- Fields that hold no register and no instruction in flight may be replaced. -/
theorem fields (h : s.Retains a) {mem scanAsked stw arrs cut pwr ports rem snap obs out free slots loading resident
    stepNo held turn fetchTurn rowLast resWait resFrom} : s.Retains ⟨a.pending, mem, a.phase, a.loadOpen, a.warm,
    scanAsked, a.present, a.grade, ⟨slots, loading, a.hg.flight, resident, a.hg.slotEn, stepNo, a.hg.verBase, a.hg.aen,
    held, turn, fetchTurn, rowLast, resWait, resFrom⟩, stw, a.tr, arrs, a.evt, a.tm, cut, a.hall, pwr, a.gov, a.st,
    a.pen, ports, a.key, rem, snap, obs, a.svc, out, free⟩ :=
  h.trans ⟨.fields rfl, rfl⟩

theorem notes (h : s.Retains a) (n : a.Notes b) : s.Retains b := by
  refine h.trans ⟨.of_notes n, ?_⟩
  obtain ⟨m, x, e, l, rfl, -⟩ := n
  rfl

theorem sends (h : s.Retains a) (n : a.Sends b) : s.Retains b := by
  obtain ⟨q, o, r, l, rfl⟩ := n
  exact h.fields

theorem readies (h : s.Retains a) (n : a.Readies b) : s.Retains b := by
  obtain ⟨t, hn, hs⟩ := n
  exact (h.notes hn).sends hs

theorem ite {c : Prop} [Decidable c] (h : s.Retains a) (k : s.Retains b) : s.Retains (if c then a else b) := by
  split <;> assumption

theorem foldl {α : Type} {f : State → α → State} {l : List α} (h : s.Retains a)
    (hf : ∀ {b x}, s.Retains b → s.Retains (f b x)) : s.Retains (l.foldl f a) := by
  induction l generalizing a with
  | nil => exact h
  | cons x l ih => exact ih (hf h)

theorem forN {f : State → Nat → State} {n : Nat} (h : s.Retains a) (hf : ∀ {b k}, s.Retains b → s.Retains (f b k)) :
    s.Retains (forN n a f) := h.foldl hf

-- Memory, counters and requests.

theorem wrN (h : s.Retains a) {x n v} : s.Retains (a.wrN x n v) := h.fields

theorem setDep (h : s.Retains a) {i n w} : s.Retains (a.setDep i n w) := h.wrN

theorem setSlot (h : s.Retains a) {i x} : s.Retains (a.setSlot i x) := h.fields

theorem bump (h : s.Retains a) {x i n} : s.Retains (a.bump x i n) := by
  obtain ⟨_, e, -⟩ := a.bump_shape x i n
  rw [e]
  exact h.fields

theorem showHeld (h : s.Retains a) {q} : s.Retains (a.showHeld q) :=
  .ite h (h.foldl fun h => .ite h.setDep (.ite h.setDep h))

theorem hold (h : s.Retains a) {q} : s.Retains (a.hold q) := h.fields.showHeld

theorem launch (h : s.Retains a) {f wake} : s.Retains (a.launch f wake).1 := h.sends (a.launch_sends f wake)

theorem sendWrite (h : s.Retains a) {i n f} : s.Retains (a.sendWrite i n f) := by
  unfold State.sendWrite
  dsimp only
  exact .ite h.hold (.ite h.fields.launch h.fields.launch.hold)

theorem wrAny (h : s.Retains a) {i n x k v} : s.Retains (a.wrAny i n x k v) :=
  .ite h.wrN (h.sends (a.follow_sends _ _)).sendWrite

-- Retirement.

theorem dropUse (h : s.Retains a) {w} : s.Retains (a.dropUse w) := by
  unfold State.dropUse
  refine .ite h ?_
  dsimp only
  split
  · exact h.wrN
  · exact h

theorem initLayer (h : s.Retains a) {l} : s.Retains (a.initLayer l) := h.readies (a.initLayer_readies l)

theorem stewardMerge (h : s.Retains a) {l g} : s.Retains (a.stewardMerge l g) :=
  .ite (.fields (.wrN (.ite h.initLayer (.ite h h.wrN)))) h

theorem countWaits (h : s.Retains a) : s.Retains a.countWaits := .ite h (h.forN fun h => .ite h.bump h).fields

theorem setWaits (h : s.Retains a) {l} : s.Retains (a.setWaits l) := .ite h h.countWaits.fields

theorem noteReady (h : s.Retains a) {i n} : s.Retains (a.noteReady i n) := by
  unfold State.noteReady
  split
  · exact h
  · exact .ite h.setWaits h

theorem lower (h : s.Retains a) {i m} : s.Retains (a.lower i m) := by
  unfold State.lower
  exact .ite h.setDep.noteReady h.setDep

theorem traceInst (h : s.Retains a) {rtype w body} : s.Retains (a.traceInst rtype w body) :=
  h.notes (a.traceInst_notes rtype w body)

theorem raiseFail (h : s.Retains a) {i n w core x} : s.Retains (a.raiseFail i n w core x) :=
  h.notes (a.raise_notes _ _ _ _ _)

theorem retireOne (h : s.Retains a) {i f r} : s.Retains (a.retireOne i f r) := by
  unfold State.retireOne
  extract_lets _ s1 s2 s3 _ s4 s5 s6 s7 _ s8 s9
  have counts : s.Retains s2 := .ite (.bump (h.foldl fun h => h.bump)) (h.foldl fun h => h.bump)
  have record : s.Retains s4 := counts.stewardMerge.wrAny
  have word : s.Retains s6 := record.dropUse.setDep
  have trace : s.Retains s7 := .ite word.traceInst word
  have lowered : s.Retains s9 := trace.setSlot.foldl fun h => h.lower
  exact .ite lowered.setWaits.setSlot lowered

end State.Retains

-- Dispatch.

/-- Entering a dispatch puts it in flight and retains the rest; IDLE ends where it is to a core (R559). -/
theorem State.enter_retains (s : State) (f : Flight) (nodes : List Nat) (body : Nat) :
    let z := if f.onCore then s.busy else s
    (z.addFlight { f with dstamp := z.tm.tick, stepNo := z.hg.stepNo }).Retains (s.enter f nodes body) := by
  intro z
  obtain ⟨t, hn, e⟩ := s.enter_shape f nodes body
  rw [e]
  exact ((State.Retains.refl _).notes hn).setSlot

/-- The turn of a dispatch, and what the dependence words show after it (R430, R587). -/
theorem State.tookTurn_retains (s t : State) (i : Fin 16) (n : Nat) : t.Retains (s.tookTurn t i n) := by
  obtain ⟨l, m, e, -⟩ := s.tookTurn_shape t i n
  rw [e]
  exact (State.Retains.refl t).fields

end Sys2Proof.Machine
end

section
/-! The list of flights: what is in flight after an entry is added, replaced, or all entries change but for their keys. -/
namespace Sys2Proof.Machine
open Sys2Proof.Claims

/-- A change of flight entries under which every node's entry stays its own. -/
def KeepsNode (F : Flight → Flight) : Prop := ∀ x, (F x).slot = x.slot ∧ (F x).node = x.node

theorem State.flightOf_map {s t : State} {F : Flight → Flight} (hF : KeepsNode F)
    (h : t.hg.flight = s.hg.flight.map F) (i : Fin 16) (n : Nat) : t.flightOf i n = (s.flightOf i n).map F := by
  have hkey : ((fun x : Flight => x.slot == i && x.node == n) ∘ F) = fun x => x.slot == i && x.node == n := by
    funext x
    obtain ⟨hs, hn⟩ := hF x
    simp [hs, hn]
  rw [State.flightOf, h, List.find?_map, hkey]
  rfl

/-- The entry found for a node is that node's. -/
theorem State.key_of_flightOf {s : State} {i : Fin 16} {n : Nat} {f : Flight} (h : s.flightOf i n = some f) :
    f.slot = i ∧ f.node = n := by
  simpa using List.find?_some h

theorem State.flightOf_congr {s t : State} (h : t.hg.flight = s.hg.flight) (i : Fin 16) (n : Nat) :
    t.flightOf i n = s.flightOf i n := congrArg (List.find? _) h

theorem State.isSome_flightOf_addFlight (s : State) (f : Flight) :
    ((s.addFlight f).flightOf f.slot f.node).isSome = true := by
  simp [State.flightOf, State.addFlight]

theorem keepsNode_replace (f : Flight) : KeepsNode fun x => if x.slot == f.slot && x.node == f.node then f else x := by
  intro x
  dsimp only
  split
  · rename_i h
    simp only [Bool.and_eq_true, beq_iff_eq] at h
    exact ⟨h.1.symm, h.2.symm⟩
  · exact ⟨rfl, rfl⟩

/-- A replaced entry is the one found for its node, where the node had one. -/
theorem State.flightOf_setFlight {s : State} {f : Flight} (h : (s.flightOf f.slot f.node).isSome = true) :
    (s.setFlight f).flightOf f.slot f.node = some f := by
  obtain ⟨x, hx⟩ := Option.isSome_iff_exists.mp h
  obtain ⟨hs, hn⟩ := State.key_of_flightOf hx
  rw [State.flightOf_map (keepsNode_replace f) rfl, hx]
  simp [hs, hn]

theorem State.setFlight_sameRegisters (s : State) (f : Flight) : SameRegisters s (s.setFlight f) := .fields rfl

end Sys2Proof.Machine
end

section
/-! The dispatch of a gang whose members all go ahead without a skew (R36, R39, R77, R78, R429). -/
namespace Sys2Proof.Machine
open Sys2Proof.Claims

/-- Without a skew the checks stand. -/
theorem withSkew_none (g : Span) (checks : List (Nat × Option Fail)) (runs : Nat → Bool) :
    withSkew g checks none runs = checks := by
  unfold withSkew
  refine (List.map_congr_left ?_).trans (List.map_id checks)
  rintro ⟨m, _ | e⟩ - <;> rfl

theorem State.Retains.retireIdle {s a : State} (h : s.Retains a) {i f built} : s.Retains (a.retireIdle i f built) := by
  refine h.foldl fun h => ?_
  split
  · exact h.raiseFail.retireOne
  · exact h.retireOne
  · exact h

/-- The flight entry that a gang's dispatch enters, before its members are set in it. -/
def State.gangFlight (a : State) (i : Fin 16) (n opc : Nat) (core : Fin 8) (g : Span) : Flight :=
  { slot := i, node := n, opc := opc, core := core, onCore := true, word := a.taskWord i n
    dstamp := a.tm.tick, stepNo := a.hg.stepNo
    fixed := (g.nodes.filterMap fun m => a.tensor i (pDC (a.taskWord i m))).flatMap (a.carriedCells i n) }

/-- A gang of which members run is in flight with them; its failing and skipped members retire, and no register
changes. -/
theorem State.gangGo_of_running {a : State} {i : Fin 16} {n opc : Nat} {core : Fin 8} {g : Span} {arrays : List Nat}
    {checks : List (Nat × Option Fail)} (h : running (a.buildGang i g arrays checks) ≠ []) :
    let t := a.gangGo i n opc core g arrays checks none
    t.flightOf i n = some ((a.gangFlight i n opc core g).launch (running (a.buildGang i g arrays checks))) ∧
      SameRegisters a t := by
  unfold State.gangGo
  rw [withSkew_none]
  extract_lets _ built f _ _ s1 _ s2 s3 run t
  have ht : t = s3.setFlight (f.launch run) := if_neg h
  rw [ht]
  have entered : (a.busy.addFlight f).Retains s1 := a.enter_retains f g.nodes _
  have shed : (a.busy.addFlight f).Retains s2 := .ite entered entered.fields
  have idle : (a.busy.addFlight f).Retains s3 := shed.bump.bump.setWaits.retireIdle
  obtain ⟨regs, flights⟩ := idle
  have there : (s3.flightOf i n).isSome = true := by
    rw [State.flightOf_congr flights]
    exact a.busy.isSome_flightOf_addFlight f
  have added : SameRegisters a (a.busy.addFlight f) := .fields rfl
  exact ⟨State.flightOf_setFlight there, (added.trans regs).trans (s3.setFlight_sameRegisters _)⟩

/-- What the dispatch of a gang asks for, `a` being the engine as its checks find it: its members are ready and there is
an array of the core for each; its checks have what they read, some member runs and has what it reads; and its operands,
which are resident as `r`, met no skew, with room for its outputs (R36, R77, R78, R429). -/
structure State.GangReady (s a : State) (i : Fin 16) (n : Nat) (core : Fin 8) (g : Span) (r : Resident) : Prop where
  leads : s.gangAt i n = some g
  ready : ∀ m ∈ g.nodes, depSt (s.depWord i m) = 1
  members : 0 < g.members
  arrays : g.members ≤ (s.coreArrays core.val).length
  first : s.gangFirst i n g (g.nodes.flatMap fun m => s.prodNames i (s.taskWord i m)) = []
  begun : a = s.initFor i (g.nodes.flatMap fun m => s.prodNames i (s.taskWord i m))
  live : a.gangLive i (a.gangChecks i g) ≠ []
  late : a.gangLate i n (a.gangLive i (a.gangChecks i g)) = []
  resident : (s.hg.resident.find? fun x => x.slot == i && x.node == n && x.core == core && !x.waits) = some r
  aligned : r.skew = none
  room : a.storeUsed core + sumN ((a.gangLive i (a.gangChecks i g)).map fun m => outRoom (a.taskWord i m)) ≤ storeRoom

/-- A gang that has what its dispatch asks for goes as its checks have it. -/
theorem State.prodDispatch_of_ready {s a : State} {i : Fin 16} {n opc : Nat} {core : Fin 8} {g : Span} {r : Resident}
    (hd : Dispatchable s i n opc true) (h : s.GangReady a i n core g r) :
    s.prodDispatch i n opc core [] = a.gangGo i n opc core g (s.coreArrays core.val) (a.gangChecks i g) none := by
  obtain ⟨hg, hready, hpos, harrays, hfirst, rfl, hlive, hlate, hr, hskew, hroom⟩ := h
  generalize ha : s.initFor i (g.nodes.flatMap fun m => s.prodNames i (s.taskWord i m)) = a at *
  have hall : (g.nodes.all fun m => depSt (s.depWord i m) == 1) = true := by simpa using hready
  have hseats : ¬(s.coreArrays core.val = [] ∨ (s.coreArrays core.val).length < g.members ∧
      ((List.range 8).any fun c => decide (g.members ≤ (s.coreArrays c).length)) = true) := by
    rintro (h | ⟨h, -⟩)
    · rw [h, List.length_nil] at harrays
      omega
    · omega
  have hno : a.skewIn i r = none := by rw [State.skewIn, hskew, Option.bind_none]
  rw [State.prodDispatch, State.attempt_of_dispatchable hd]
  simp only [hg, hall, Bool.not_true, Bool.false_eq_true, if_false, if_neg hseats, hfirst, ne_eq, not_true_eq_false, ha,
    if_neg hlive, hr, hlate, if_neg (Nat.not_lt.mpr hroom), hno, List.foldl_nil, State.onAwake_of_dispatchable hd]

/-- A product instruction in its turn attempts its gang's dispatch. -/
theorem exec_product {c : Instr} {i : Fin 16} {n opc : Nat} {core : Fin 8} {s : State}
    (hc : c = .fprod i n core [] ∧ opc = 0x03 ∨ c = .gdx i n core [] ∧ opc = 0x01
      ∨ c = .gdw i n core [] ∧ opc = 0x02 ∨ c = .dist i n core [] ∧ opc = 0x04)
    (hd : Dispatchable s i n opc true) :
    exec c s = .next (s.tookTurn (s.prodDispatch i n opc core []) i n) := by
  have turn := State.inTurn_of_turn (n := n) (opc := opc) (go := fun s => s.prodDispatch i n opc core []) hd.turn
    hd.counting
  obtain ⟨rfl, rfl⟩ | ⟨rfl, rfl⟩ | ⟨rfl, rfl⟩ | ⟨rfl, rfl⟩ := hc <;> exact congrArg Host.Outcome.next turn

/-- Settles O12: the dispatch reaches the gang's go, which enters its running members; the turn that it takes changes
dependence words alone. -/
theorem productGangsEnterTheirCore : Obligations.ProductGangsEnterTheirCore := by
  unfold Obligations.ProductGangsEnterTheirCore
  intro i n opc core c s g r hc hd hg hready hpos harrays names hfirst a built live hlive hlate hr hskew hroom hrun
  have goes := State.prodDispatch_of_ready hd
    ⟨hg, hready, hpos, harrays, hfirst, rfl, hlive, hlate, hr, hskew, hroom⟩
  obtain ⟨begun, -⟩ := (State.Retains.refl s).readies (s.initFor_readies i names)
  obtain ⟨htick, hstep⟩ := (s.initFor_readies i names).stamps
  have hbuilt : built = a.buildGang i g (s.coreArrays core.val) (a.gangChecks i g) := by
    simp only [built, withSkew_none]
  rw [hbuilt] at hrun ⊢
  obtain ⟨hflight, gone⟩ := State.gangGo_of_running (n := n) (opc := opc) (core := core) hrun
  obtain ⟨turned, hkept⟩ := s.tookTurn_retains
    (a.gangGo i n opc core g (s.coreArrays core.val) (a.gangChecks i g) none) i n
  refine ⟨_, exec_product hc hd, ?_⟩
  rw [goes]
  refine ⟨?_, (begun.trans gone).trans turned⟩
  rw [State.flightOf_congr hkept, hflight, State.gangFlight, htick, hstep]

end Sys2Proof.Machine
end

section
/-! The start of a gang's stream (R36, R37, R62, R66, R80, R103): the arrays that take its members' configuration, and the
gangs that give way to it. -/
namespace Sys2Proof.Machine
open Sys2Proof.Claims

-- Arrays.

theorem State.arr_setArr_same (s : State) {k : Nat} (hk : k < 32) (x : Arr) : (s.setArr k x).arr k = x := by
  simp [State.setArr, State.arr, hk]

theorem State.arr_setArr_other (s : State) {k m : Nat} (h : k ≠ m) (x : Arr) : (s.setArr k x).arr m = s.arr m := by
  unfold State.setArr
  split
  · simp [State.arr, Vector.getElem?_set_ne _ h]
  · rfl

@[simp] theorem State.arr_bump (s : State) (b i n k : Nat) : (s.bump b i n).arr k = s.arr k := by
  obtain ⟨_, e, -⟩ := s.bump_shape b i n
  rw [e]
  rfl

theorem State.arr_setSvc (s : State) (v : Service) (k : Nat) : ({ s with svc := v } : State).arr k = s.arr k := rfl

/-- What keeps an array at each step keeps it over a list. -/
theorem State.arr_foldl {α : Type} {f : State → α → State} {k : Nat} {l : List α}
    (hf : ∀ (s : State), ∀ x ∈ l, (f s x).arr k = s.arr k) (s : State) : (l.foldl f s).arr k = s.arr k := by
  induction l generalizing s with
  | nil => rfl
  | cons x l ih =>
    exact (ih (fun s y hy => hf s y (List.mem_cons_of_mem _ hy)) _).trans (hf s x List.mem_cons_self)

/-- `t` is `s` after arrays took a configuration and what they stream was counted. -/
def State.Configures (s t : State) : Prop :=
  ∃ x o v, t = { s with arrs := x, obs := o, svc := { s.svc with active := v } }

namespace State.Configures
variable {s a : State}

theorem refl (s : State) : s.Configures s := ⟨_, _, _, rfl⟩

theorem fields (h : s.Configures a) {x o v} :
    s.Configures { a with arrs := x, obs := o, svc := { a.svc with active := v } } := by
  obtain ⟨_, _, _, rfl⟩ := h
  exact ⟨_, _, _, rfl⟩

theorem foldl {α : Type} {f : State → α → State} {l : List α} (h : s.Configures a)
    (hf : ∀ {b x}, s.Configures b → s.Configures (f b x)) : s.Configures (l.foldl f a) := by
  induction l generalizing a with
  | nil => exact h
  | cons x l ih => exact ih (hf h)

theorem bump (h : s.Configures a) {b i n} : s.Configures (a.bump b i n) := by
  obtain ⟨_, e, -⟩ := a.bump_shape b i n
  rw [e]
  exact h.fields

theorem setArr (h : s.Configures a) {k x} : s.Configures (a.setArr k x) := by
  unfold State.setArr
  split
  · exact h.fields
  · exact h

theorem configure (h : s.Configures a) {f} : s.Configures (a.configure f) := h.foldl fun h => h.setArr.bump.setArr

theorem chargePart (h : s.Configures a) {g q} : s.Configures (a.chargePart g q) :=
  fields (h.foldl fun h => h.bump.bump.bump)

end State.Configures

theorem State.arr_setUp_same (s : State) {j : Job} (h : j.array < 32) :
    (s.setUp j).arr j.array = { s.arr j.array with cls := j.cls, a16 := j.a16, op := j.cellOp } := by
  simp only [State.setUp, State.arr_bump, s.arr_setArr_same h]

theorem State.arr_setUp_other (s : State) {j : Job} {k : Nat} (h : j.array ≠ k) : (s.setUp j).arr k = s.arr k := by
  simp only [State.setUp, State.arr_bump, s.arr_setArr_other h]

/-- An array of no member keeps its configuration. -/
theorem State.arr_configure_other (s : State) {f : Flight} {k : Nat} (h : ∀ j ∈ f.jobs, j.array ≠ k) :
    (s.configure f).arr k = s.arr k := by
  refine State.arr_foldl (fun s j hj => ?_) s
  rw [State.arr_setArr_other _ (h j hj), s.arr_setUp_other (h j hj)]

/-- `b` is array `a` in the configuration of a member, with its marks as they were (R62). -/
def Job.Configured (j : Job) (a b : Arr) : Prop :=
  b.cls = j.cls ∧ b.a16 = j.a16 ∧ b.op = j.cellOp ∧ b.dot = a.dot ∧ b.unuse = a.unuse

/-- The array of the only member takes its configuration. -/
theorem State.arr_configure_only (s : State) {f : Flight} {j : Job} (hf : f.jobs = [j]) (h : j.array < 32) :
    j.Configured (s.arr j.array) ((s.configure f).arr j.array) := by
  unfold State.configure
  dsimp only
  rw [hf, List.foldl_cons, List.foldl_nil, State.arr_setArr_same _ h, s.arr_setUp_same h]
  exact ⟨rfl, rfl, rfl, rfl, rfl⟩

@[simp] theorem State.arr_chargePart (s : State) (g : Flight) (q k : Nat) : (s.chargePart g q).arr k = s.arr k := by
  unfold State.chargePart
  extract_lets f as u
  have counted : u.arr k = s.arr k := State.arr_foldl (fun s c _ => by simp only [State.arr_bump]) s
  rw [State.arr_setSvc, counted]

-- The parts of a gang.

theorem Flight.jobs_of_mem_planed {f : Flight} {x : Job × Plane} (h : x ∈ f.planed) : x.1 ∈ f.jobs := by
  obtain ⟨y, hy, rfl⟩ := List.mem_map.mp h
  exact List.fst_mem_of_mem_zipIdx hy

theorem Flight.jobs_of_mem_only {f : Flight} {pick : Job × Plane → Bool} {j : Job} (h : j ∈ (f.only pick).jobs) :
    j ∈ f.jobs := by
  obtain ⟨x, hx, rfl⟩ := List.mem_map.mp h
  exact Flight.jobs_of_mem_planed (List.mem_filter.mp hx).1

theorem Flight.jobs_of_mem_part {f : Flight} {q : Nat} {j : Job} (h : j ∈ (f.seated.partOf q).jobs) : j ∈ f.jobs :=
  Flight.jobs_of_mem_only (Flight.jobs_of_mem_only h)

/-- The members of a part of a gang of one member, which runs on an array. -/
theorem Flight.jobs_part_of_only {f : Flight} {j : Job} (hf : f.jobs = [j]) (h : j.array < 32)
    (hd : j.done (nth f.planes 0 {}) = false) (q : Nat) :
    (f.seated.partOf q).jobs = if j.part = q then [j] else [] := by
  have seated : f.seated.jobs = [j] := by simp [Flight.seated, Flight.only, Flight.planed, hf, h, hd]
  simp only [Flight.partOf, Flight.only, Flight.planed, seated, List.zipIdx_singleton, List.map_cons, List.map_nil,
    List.filter_cons, List.filter_nil]
  by_cases hq : j.part = q <;> simp [hq]

/-- The first `n` parts of a gang take their arrays and are counted. -/
def State.startParts (s : State) (f : Flight) (n : Nat) : State :=
  forN n s fun s q => (s.configure (f.seated.partOf q)).chargePart f.seated q

theorem State.startParts_succ (s : State) (f : Flight) (n : Nat) : s.startParts f (n + 1)
    = ((s.startParts f n).configure (f.seated.partOf n)).chargePart f.seated n := by
  simp only [State.startParts, forN, List.range_succ, List.foldl_append, List.foldl_cons, List.foldl_nil]

theorem State.Configures.startParts {s a : State} (h : s.Configures a) {f n} : s.Configures (a.startParts f n) :=
  h.foldl fun h => h.configure.chargePart

/-- An array that no member of these parts runs on stays as it was. -/
theorem State.arr_startParts_other (s : State) {f : Flight} {k n : Nat}
    (h : ∀ q, q < n → ∀ j ∈ (f.seated.partOf q).jobs, j.array ≠ k) : (s.startParts f n).arr k = s.arr k := by
  refine State.arr_foldl (fun s q hq => ?_) s
  rw [State.arr_chargePart, s.arr_configure_other (h q (List.mem_range.mp hq))]

/-- The array of a gang's only member takes its configuration. -/
theorem State.arr_startParts_only (s : State) {f : Flight} {j : Job} (hf : f.jobs = [j]) (h : j.array < 32)
    (hd : j.done (nth f.planes 0 {}) = false) :
    j.Configured (s.arr j.array) ((s.startParts f f.parts).arr j.array) := by
  have hpart := Flight.jobs_part_of_only hf h hd
  have hparts : f.parts = j.part + 1 := by simp [Flight.parts, hf]
  have before : (s.startParts f j.part).arr j.array = s.arr j.array := by
    refine s.arr_startParts_other fun q hq j' hj => ?_
    rw [hpart, if_neg (Nat.ne_of_gt hq)] at hj
    cases hj
  rw [hparts, State.startParts_succ, State.arr_chargePart, ← before]
  exact State.arr_configure_only _ (by rw [hpart, if_pos rfl]) h

-- The start of the stream.

/-- A gang whose first step has entered. -/
def Flight.started (g : Flight) : Flight :=
  { g with
    phase := .streaming, lost := []
    jobs := g.jobs.map fun j => if j.array < 32 then { j with due := false } else j }

/-- What another gang on the cores of `g`'s arrays becomes as `g` starts (`State.drainOthers`). -/
def Flight.giveWay (g x : Flight) : Flight :=
  if x.phase == .streaming && x.placed && !(x.slot == g.slot && x.node == g.node) && x.cores.any g.cores.contains then
    { x with phase := .draining }
  else x

theorem Flight.giveWay_keepsNode (g : Flight) : KeepsNode g.giveWay := by
  intro x
  unfold Flight.giveWay
  split <;> exact ⟨rfl, rfl⟩

/-- A gang that streams on while `g` starts shares no core with it. -/
theorem Flight.cores_of_giveWay {g x : Flight} (hs : (g.giveWay x).phase = .streaming)
    (hp : (g.giveWay x).placed = true) :
    (g.giveWay x).slot = g.slot ∧ (g.giveWay x).node = g.node ∨ ∀ c ∈ (g.giveWay x).cores, c ∉ g.cores := by
  unfold Flight.giveWay at hs hp ⊢
  split at hs
  · cases hs
  · rename_i h
    rw [if_neg h] at hp ⊢
    by_cases hown : x.slot = g.slot ∧ x.node = g.node
    · exact .inl hown
    · refine .inr fun c hc hg => h ?_
      have shares : x.cores.any g.cores.contains = true := by simpa using ⟨c, hc, hg⟩
      simpa [hs, hp, shares, ← not_and_or] using hown

/-- All that the start of a stream changes: other gangs give way, its arrays are configured, and counters rise. -/
theorem State.streamStart_spec (s : State) (g : Flight) : ∃ u : State, s.streamStart g = u.setFlight g.started ∧
    State.Configures { s with hg := { s.hg with flight := s.hg.flight.map g.giveWay } } u ∧
    (∀ j, g.jobs = [j] → j.array < 32 → j.done (nth g.planes 0 {}) = false →
      j.Configured (s.arr j.array) (u.arr j.array)) ∧
    ∀ k, (∀ j ∈ g.jobs, j.array ≠ k) → u.arr k = s.arr k := by
  let f : Flight := { g with phase := .streaming }
  obtain ⟨w, e, hw, harr⟩ : ∃ w : State, s.streamStart g = (w.startParts f f.parts).setFlight g.started ∧
      State.Configures { s with hg := { s.hg with flight := s.hg.flight.map g.giveWay } } w ∧
      ∀ k, w.arr k = s.arr k :=
    ⟨_, rfl, (State.Configures.refl _).foldl fun h => h.bump,
      fun k => State.arr_foldl (fun u c _ => u.arr_bump _ _ _ k) _⟩
  refine ⟨_, e, hw.startParts, fun j hj hk hd => ?_, fun k h => ?_⟩
  · rw [← harr]
    exact w.arr_startParts_only (f := f) hj hk hd
  · rw [w.arr_startParts_other fun q _ j hj => h j (Flight.jobs_of_mem_part (f := f) hj), harr]

/-- Members whose arrays kept their mode stay where they are (R40, R103). -/
theorem State.jobs_reseat_of_kept {s : State} {f : Flight}
    (h : ∀ j ∈ f.jobs, j.array < 32 ∧ (s.arr j.array).unuse = false ∧ (s.arr j.array).dot = j.dot) :
    (s.reseat f).jobs = f.jobs := by
  refine (List.map_congr_left fun j hj => ?_).trans (List.map_id f.jobs)
  obtain ⟨hseat, hok, hdot⟩ := h j hj
  exact if_neg (by simp [hok, hdot, hseat])

theorem exec_gangStreamStart (i : Fin 16) (n : Nat) (hits : List ParityHit) (s : State) :
    exec (.gangStreamStart i n hits) s = execGangStreamStart i n s hits := rfl

/-- A dispatched gang starts where it is, or where its members were placed anew. -/
theorem execGangStreamStart_of_dispatched {s : State} {i : Fin 16} {n : Nat} {f : Flight} (hc : Counting s)
    (hf : s.flightOf i n = some f) (hj : f.jobs ≠ []) (hp : f.phase = .dispatched) :
    exec (.gangStreamStart i n []) s = .next ((s.setFlight (s.reseat f)).streamStart (s.reseat f)) := by
  obtain ⟨rfl, rfl⟩ := State.key_of_flightOf hf
  have hset : (s.setFlight (s.reseat f)).flightOf f.slot f.node = some (s.reseat f) :=
    State.flightOf_setFlight (f := s.reseat f) (by rw [Option.isSome_iff_exists]; exact ⟨f, hf⟩)
  simp only [exec_gangStreamStart, execGangStreamStart, State.sweep_of_counting hc, hf, if_neg hj, hp, State.startGang,
    List.foldl_nil, hset]

/-- Settles O14: the start of the stream by its shape, on the state in which the gang is placed anew. -/
theorem streamConfiguresArrays : Obligations.StreamConfiguresArrays := by
  unfold Obligations.StreamConfiguresArrays
  intro i n s f hc hf hj hp g
  refine ⟨State.jobs_reseat_of_kept, _, execGangStreamStart_of_dispatched hc hf hj hp, ?_⟩
  obtain ⟨rfl, rfl⟩ := State.key_of_flightOf hf
  obtain ⟨u, hstart, ⟨x, o, v, rfl⟩, honly, hother⟩ := (s.setFlight g).streamStart_spec g
  rw [hstart]
  refine ⟨State.flightOf_setFlight (f := g.started) ?_, fun y hy hs hp => ?_, rfl, rfl, .fields rfl, honly,
    fun k _ h => hother k h⟩
  · have there : (s.setFlight g).flightOf g.slot g.node = some g :=
      State.flightOf_setFlight (Option.isSome_iff_exists.mpr ⟨f, hf⟩)
    have drained := State.flightOf_map (s := s.setFlight g) g.giveWay_keepsNode (t := { s.setFlight g with
      hg := { (s.setFlight g).hg with flight := (s.setFlight g).hg.flight.map g.giveWay } }) rfl g.slot g.node
    rw [there] at drained
    exact Option.isSome_iff_exists.mpr ⟨_, drained⟩
  · obtain ⟨z, hz, rfl⟩ := List.mem_map.mp hy
    obtain ⟨w, -, rfl⟩ := List.mem_map.mp hz
    by_cases own : ((g.giveWay w).slot == g.started.slot && (g.giveWay w).node == g.started.node) = true
    · rw [if_pos own]
      exact .inl ⟨rfl, rfl⟩
    · rw [if_neg own] at hs hp ⊢
      exact Flight.cores_of_giveWay hs hp

end Sys2Proof.Machine
end

section
/-! The end of a wake (R63, R462, R561 to R563, R592): what the return of the lanes leaves as it was, the state of every
port after it, and the writes that waited for it. -/
namespace Sys2Proof.Machine
open Sys2Proof.Claims

-- What lanes that return change.

/-- `t` is `s` but for what the links hold and count: ports, link counters, requests, what went out, the hall's record of
port states and the service record. -/
def State.OnlyLinks (s t : State) : Prop :=
  ∃ (q : Vector Port 6) (o : Observe) (r : Remote) (l : List Sent) (n : List ((BitVec 12 × Nat) × PortSt)) (v : Service),
    t = { s with
      ports := q, obs := o, rem := r, out := { s.out with links := l }, hall := { s.hall with portSts := n }, svc := v }

theorem State.OnlyLinks.refl (s : State) : s.OnlyLinks s := ⟨_, _, _, _, _, _, rfl⟩

theorem State.OnlyLinks.trans {s t u : State} (h : s.OnlyLinks t) (k : t.OnlyLinks u) : s.OnlyLinks u := by
  obtain ⟨_, _, _, _, _, _, rfl⟩ := h
  obtain ⟨_, _, _, _, _, _, rfl⟩ := k
  exact ⟨_, _, _, _, _, _, rfl⟩

theorem State.Sends.onlyLinks {s t : State} (h : s.Sends t) : s.OnlyLinks t := by
  obtain ⟨_, _, _, _, rfl⟩ := h
  exact ⟨_, _, _, _, _, _, rfl⟩

theorem State.onlyLinks_setPort (s : State) (p : Fin 6) (q : Port) : s.OnlyLinks (s.setPort p q) := ⟨_, _, _, _, _, _, rfl⟩

/-- `t` is `s` after flits and notices went out: only the links differ, and every port lasts. -/
def State.Relays (s t : State) : Prop := s.OnlyLinks t ∧ s.Talks t

namespace State.Relays
variable {s a b : State}

theorem refl (s : State) : s.Relays s := ⟨.refl s, .refl s⟩

theorem onlyLinks (h : s.Relays a) : s.OnlyLinks a := h.1

theorem talks (h : s.Relays a) : s.Talks a := h.2

theorem st (h : s.Relays a) (p : Fin 6) : (a.port p).st = (s.port p).st := (h.talks.port p).1

theorem trans (h : s.Relays a) (k : a.Relays b) : s.Relays b :=
  ⟨h.onlyLinks.trans k.onlyLinks, h.talks.trans k.talks⟩

theorem ite {c : Prop} [Decidable c] (h : s.Relays a) (k : s.Relays b) : s.Relays (if c then a else b) := by
  split <;> assumption

theorem foldl {α : Type} {f : State → α → State} {l : List α} (h : s.Relays a)
    (hf : ∀ {b x}, s.Relays b → s.Relays (f b x)) : s.Relays (l.foldl f a) := by
  induction l generalizing a with
  | nil => exact h
  | cons x l ih => exact ih (hf h)

/-- The links' own counters, their log, the hall's record of port states and the service record may be replaced. -/
theorem fields (h : s.Relays a) {obs links portSts svc} : s.Relays { a with
    obs := obs, out := { a.out with links := links }, hall := { a.hall with portSts := portSts }, svc := svc } :=
  ⟨h.onlyLinks.trans ⟨_, _, _, _, _, _, rfl⟩, h.talks.fields⟩

/-- A port's queues, lanes and marks may be replaced. -/
theorem setPort (h : s.Relays a) {p : Fin 6} {q : Port} (hst : q.st = (a.port p).st := by rfl)
    (hkey : q.keyTx = (a.port p).keyTx := by rfl) (hx : q.txCount = (a.port p).txCount := by rfl) :
    s.Relays (a.setPort p q) :=
  ⟨h.onlyLinks.trans (a.onlyLinks_setPort p q),
    h.talks.setPort ⟨hst, hkey, fun he => (congrArg (fun c : BitVec 64 => c.toNat == 2 ^ 64 - 1) hx).trans he⟩⟩

/-- A flit that goes out is counted. -/
theorem counted (h : s.Relays a) {p : Fin 6} {n : Nat} {x : Sent} : s.Relays { a.bump (9 + p.val) n 1 with
    out := { a.out with links := a.out.links ++ [x] } } := by
  obtain ⟨_, e, -⟩ := a.bump_shape (9 + p.val) n 1
  rw [e]
  exact h.fields

theorem svcAdd (h : s.Relays a) {i n} : s.Relays (a.svcAdd i n) := h.fields

theorem sluiceOn (h : s.Relays a) {p m} : s.Relays (a.sluiceOn p m) :=
  h.trans ⟨(a.sluiceOn_sends p m).onlyLinks, (Talks.refl a).sluiceOn⟩

theorem transmit (h : s.Relays a) {p f came via wake} : s.Relays (a.transmit p f came via wake) :=
  h.trans ⟨(a.transmit_sends p f came via wake).onlyLinks, (Talks.refl a).transmit⟩

theorem sendKept (h : s.Relays a) {p k} : s.Relays (a.sendKept p k) := by
  unfold State.sendKept
  split
  · exact h.counted
  · exact h.fields
  · exact h.counted

theorem sendAgain (h : s.Relays a) {p l} : s.Relays (a.sendAgain p l) := h.setPort.foldl fun h => h.sendKept

theorem release (h : s.Relays a) {p} : s.Relays (a.release p) := h.sendAgain.setPort.foldl fun h => h.transmit

theorem restall (h : s.Relays a) {p} : s.Relays (a.restall p) := .ite h (.ite h.setPort h.setPort.release)

theorem announce (h : s.Relays a) {p} : s.Relays (a.announce p) :=
  .foldl (.fields h) fun h => .ite h h.sluiceOn

theorem tellLanes (h : s.Relays a) {p out} : s.Relays (a.tellLanes p out) := h.announce.foldl fun h => h.sluiceOn

theorem wakeIfWaits (h : s.Relays a) {p} : s.Relays (a.wakeIfWaits p) := .ite h.sluiceOn h

theorem drainTelem (h : s.Relays a) {p} : s.Relays (a.drainTelem p) := by
  unfold State.drainTelem
  refine .ite h ?_
  dsimp only
  exact h.setPort.foldl fun h => h.sluiceOn

end State.Relays

-- Which ports return (R462, R563).

/-- All lanes of a port run again: it is UP, and what follows is sending. -/
theorem State.lanesUp_relays (s : State) (p : Fin 6) (bad : List Nat) :
    ∃ q : Port, q.st = .up ∧ (s.setPort p q).Relays (s.lanesUp p bad).1 := by
  unfold State.lanesUp
  dsimp only
  exact ⟨_, rfl, .restall (.ite (.refl _) (.svcAdd (.refl _)))⟩

theorem State.lanesUp_spec (s : State) (o : Fin 6) (bad : List Nat) : s.OnlyLinks (s.lanesUp o bad).1 ∧
    ∀ p, ((s.lanesUp o bad).1.port p).st = if p = o then .up else (s.port p).st := by
  obtain ⟨q, hq, h⟩ := s.lanesUp_relays o bad
  refine ⟨(s.onlyLinks_setPort o q).trans h.onlyLinks, fun p => (h.st p).trans ?_⟩
  by_cases hp : p = o
  · rw [if_pos hp, hp, s.port_setPort_same, hq]
  · rw [if_neg hp, s.port_setPort_other q hp]

/-- One port returns, and the lanes taken out of it are noted. -/
def State.returnPort (errors : List (Fin 6 × Nat)) (a : State × List (Fin 6 × List Nat)) (p : Fin 6) :
    State × List (Fin 6 × List Nat) :=
  let back := a.1.lanesUp p ((errors.filter fun e => e.1 == p).map (·.2))
  (back.1, a.2 ++ [(p, back.2)])

/-- The ports of a list return one after the other. -/
theorem State.foldl_returnPort_spec (errors : List (Fin 6 × Nat)) (l : List (Fin 6))
    (a : State × List (Fin 6 × List Nat)) : a.1.OnlyLinks (l.foldl (State.returnPort errors) a).1 ∧
    ∀ p, ((l.foldl (State.returnPort errors) a).1.port p).st = if p ∈ l then .up else (a.1.port p).st := by
  induction l generalizing a with
  | nil => exact ⟨.refl _, fun p => by simp⟩
  | cons o l ih =>
    obtain ⟨hlinks, hst⟩ := a.1.lanesUp_spec o ((errors.filter fun e => e.1 == o).map (·.2))
    obtain ⟨klinks, kst⟩ := ih (State.returnPort errors a o)
    refine ⟨hlinks.trans klinks, fun p => (kst p).trans ?_⟩
    rw [State.returnPort, hst p]
    by_cases hp : p = o <;> simp [hp]

/-- The ports whose lanes return: those that kept one alive, but for the dark ones. -/
def State.returning (s : State) (dark : List (Fin 6)) : List (Fin 6) :=
  allPorts.filter fun p => (s.port p).st == .keepalive && !dark.contains p

theorem State.mem_returning {s : State} {dark : List (Fin 6)} {p : Fin 6} :
    p ∈ s.returning dark ↔ (s.port p).st = .keepalive ∧ p ∉ dark := by
  simp [State.returning, (by decide : ∀ p : Fin 6, p ∈ allPorts) p]

/-- After the lanes are back, only flits and notices go out. -/
theorem State.allBackUp_relays (s : State) (errors : List (Fin 6 × Nat)) (dark : List (Fin 6)) :
    ((s.returning dark).foldl (State.returnPort errors) (s, [])).1.Relays (s.allBackUp errors dark) := by
  refine .foldl (.foldl (.foldl (.refl _) ?_) ?_) ?_
  exacts [fun h => h.tellLanes, fun h => .ite h.setPort.wakeIfWaits h, fun h => h.drainTelem]

theorem State.allBackUp_onlyLinks (s : State) (errors : List (Fin 6 × Nat)) (dark : List (Fin 6)) :
    s.OnlyLinks (s.allBackUp errors dark) := by
  obtain ⟨returned, -⟩ := State.foldl_returnPort_spec errors (s.returning dark) (s, [])
  exact returned.trans (s.allBackUp_relays errors dark).onlyLinks

/-- A port that kept a lane alive is UP again where its far end is awake (R462). -/
theorem State.st_allBackUp (s : State) (errors : List (Fin 6 × Nat)) {dark : List (Fin 6)} {p : Fin 6}
    (h : (s.port p).st = .keepalive) :
    ((s.allBackUp errors dark).port p).st = if p ∈ dark then .keepalive else .up := by
  obtain ⟨-, returned⟩ := State.foldl_returnPort_spec errors (s.returning dark) (s, [])
  rw [(s.allBackUp_relays errors dark).st p, returned p, h]
  by_cases hp : p ∈ dark <;> simp [State.mem_returning, h, hp]

-- The end of a wake from DEEP (R563, R592).

/-- What the wake from DEEP alone leaves, before the held writes act. -/
def State.woken (s : State) (errors : List (Fin 6 × Nat)) (dark : List (Fin 6)) : State :=
  ({ s with hg := { s.hg with held := [] } }.allBackUp errors dark).awake

/-- The held writes have no part in it. -/
theorem State.woken_unheld (s : State) (errors : List (Fin 6 × Nat)) (dark : List (Fin 6)) :
    State.woken { s with hg := { s.hg with held := [] } } errors dark = s.woken errors dark := rfl

theorem State.port_awake (s : State) (p : Fin 6) : s.awake.port p = s.port p := rfl

/-- The wake brings back UP the ports that kept a lane alive, but for the dark ones. -/
theorem State.st_woken (s : State) (errors : List (Fin 6 × Nat)) {dark : List (Fin 6)} {p : Fin 6}
    (h : (s.port p).st = .keepalive) :
    ((s.woken errors dark).port p).st = if p ∈ dark then .keepalive else .up := by
  rw [State.woken, State.port_awake]
  exact State.st_allBackUp _ errors h

/-- A held write acts: a report of snapshots as a whole, any other in its lower half. -/
def State.writeHeld (s : State) (h : BitVec 16 × BitVec 64) : State :=
  s.writeNow h.1.toNat ⟨h.2, reachOf (if h.1 = 0x918 then none else some false)⟩

theorem exec_deepWakeDone (errors : List (Fin 6 × Nat)) (dark : List (Fin 6)) (s : State) :
    exec (.deepWakeDone errors dark) s = execDeepWakeDone s errors dark := rfl

theorem execDeepWakeDone_of_counting {s : State} (hc : Counting s) (hw : s.pwr.st = .waking)
    (hd : s.pwr.wakeFrom = .deep) (errors : List (Fin 6 × Nat)) (dark : List (Fin 6)) :
    exec (.deepWakeDone errors dark) s = .next (s.hg.held.foldl State.writeHeld (s.woken errors dark)) := by
  rw [exec_deepWakeDone, execDeepWakeDone, if_pos ⟨hw, hd⟩, State.sweep_of_counting hc]
  rfl

/-- The wake touches the links, the arrays, the power state and the held writes. -/
theorem State.woken_shape (s : State) (errors : List (Fin 6 × Nat)) (dark : List (Fin 6)) :
    ({ s with
      hg := { s.hg with held := [] }
      arrs := s.arrs.map fun a => ({ dot := a.dot, unuse := a.unuse } : Arr)
      pwr := { s.pwr with st := .run, startAfter := false } } : State).OnlyLinks (s.woken errors dark) := by
  obtain ⟨_, _, _, _, _, _, e⟩ := State.allBackUp_onlyLinks { s with hg := { s.hg with held := [] } } errors dark
  rw [State.woken, e]
  exact ⟨_, _, _, _, _, _, rfl⟩

-- GO in DEEP (R592, R595 to R598).

theorem State.asleep_of_not_awake {s : State} (h : ¬Awake s) : s.asleep = true := by
  rw [Awake, not_and_not_right] at h
  by_cases hd : s.pwr.st = .deep
  · simp [State.asleep, hd]
  · simp [State.asleep, h hd]

theorem exec_go (s : State) : exec .go s = .next (s.write64 0x018 1) := rfl

/-- A GO in DEEP is held, in place of an earlier one. -/
theorem State.write_go_of_asleep {s : State} (h : s.asleep = true) : s.write64 0x018 1 = answered { s with
    hg := { s.hg with held := s.hg.held.filter (fun h => h.1.toNat != 0x018) ++ [(0x018, 1)] } } := by
  rw [State.write64, State.write, State.regWrite, h]
  rfl

/-- A held GO commits. -/
theorem State.writeHeld_go (s : State) : s.writeHeld (0x018, 1) = s.commit := rfl

/-- Whether a commit is refused hangs on the pending copies and the node (R596). -/
theorem State.commitBad_congr {s t : State} (hs : t.stw.pend = s.stw.pend) (ht : t.tr.pend = s.tr.pend)
    (hn : t.hall.nid = s.hall.nid) : t.commitBad = s.commitBad := by
  unfold State.commitBad State.mine
  rw [hs, ht, hn]

/-- An accepted commit takes every pending copy (R596). -/
theorem State.commit_of_good {s : State} (h : s.commitBad = false) : ∃ x : Trace, x.live = s.tr.pend ∧
    s.commit = { s with stw := { s.stw with set := some s.stw.pend }, tr := x } := by
  refine ⟨_, ?_, if_neg (by rw [h]; decide)⟩
  split <;> rfl

-- A wake request (R462, R561).

/-- A data flit at a node in DEEP begins a wake. -/
theorem execWakeRequest_of_deep {s : State} {p : Fin 6} (hc : Counting s) (hd : s.pwr.st = .deep)
    (hu : (s.port p).st.usable = true) (ha : (s.port p).awaiting = none) :
    execWakeRequest p s = .next s.wake := by
  rw [execWakeRequest, State.sluiceIn, State.sweep_of_counting hc]
  simp [Port.linked, hu, ha, hd]

theorem execWakeRequest_of_not {s : State} {p : Fin 6} (hc : Counting s)
    (h : s.pwr.st ≠ .deep ∨ (s.port p).st.usable = false ∨ (s.port p).awaiting ≠ none) :
    execWakeRequest p s = .next s := by
  rw [execWakeRequest, State.sluiceIn, State.sweep_of_counting hc]
  obtain hd | hu | ha := h
  · simp [hd]
  · simp [hu]
  · simp [Option.isNone_eq_false_iff.mpr (Option.isSome_iff_ne_none.mpr ha)]

theorem exec_wakeRequest (p : Fin 6) (s : State) : exec (.wakeRequest p) s = execWakeRequest p s := rfl

theorem exec_napWakeDone (s : State) : exec .napWakeDone s = execNapWakeDone s := rfl

/-- Settles O41: a wake by what it leaves of the state, held writes as the fold over them that a wake runs. -/
theorem wakesEndInRun : Obligations.WakesEndInRun := by
  unfold Obligations.WakesEndInRun
  intro s hc
  refine ⟨fun hw hn => ?_, fun errors dark hw hd hh => ?_, fun errors dark u hw hd hu => ?_, fun ha => ?_,
    fun errors dark hw hd hh hgood => ?_, fun p hd hu ha => ?_, fun p h => ?_⟩
  · rw [exec_napWakeDone, execNapWakeDone, if_pos ⟨hw, hn⟩]
    rfl
  · refine ⟨_, execDeepWakeDone_of_counting hc hw hd errors dark, ?_⟩
    rw [hh, List.foldl_nil]
    have hst := fun p => s.st_woken errors (dark := dark) (p := p)
    obtain ⟨_, _, _, _, _, _, e⟩ := s.woken_shape errors dark
    rw [e] at hst ⊢
    exact ⟨rfl, by rw [← hh], rfl, rfl, hst⟩
  · rw [execDeepWakeDone_of_counting (s := { s with hg := { s.hg with held := [] } }) hc hw hd, List.foldl_nil,
      State.woken_unheld] at hu
    rw [execDeepWakeDone_of_counting hc hw hd, Host.Outcome.next.inj hu]
    rfl
  · rw [exec_go, State.write_go_of_asleep (State.asleep_of_not_awake ha)]
  · refine ⟨_, execDeepWakeDone_of_counting hc hw hd errors dark, ?_⟩
    rw [hh, List.foldl_cons, List.foldl_nil, State.writeHeld_go]
    obtain ⟨_, _, _, _, _, _, e⟩ := s.woken_shape errors dark
    have good : (s.woken errors dark).commitBad = false := by
      rw [State.commitBad_congr (s := s) (by rw [e]) (by rw [e]) (by rw [e]), hgood]
    obtain ⟨x, hx, hcommit⟩ := State.commit_of_good good
    rw [hcommit, hx, e]
    exact ⟨rfl, rfl, rfl, rfl, rfl⟩
  · rw [exec_wakeRequest, execWakeRequest_of_deep hc hd hu ha, State.wake, hd]
  · rw [exec_wakeRequest, execWakeRequest_of_not hc h]

end Sys2Proof.Machine
end

section
/-! Rounding (R127) and the conversion of a value to a float format (R107, R128): what rounding to nearest does to a
dyadic number, a float code as a place on the ladder of representable magnitudes, and the order of that ladder. -/
namespace Sys2Proof.Machine

-- Whole numbers (R127).

theorem roundQ_ofNat (n k : Nat) : roundQ n 1 k = n * 2 ^ k := by
  simp only [roundQ, Int.toNat_natCast, Int.toNat_neg_natCast, pow_zero, mul_one, one_ne_zero, if_false]
  omega

theorem roundQ_neg (n k : Nat) : roundQ n 1 (-(k : Int)) = (2 * n + 2 ^ k) / (2 * 2 ^ k) := by
  simp [roundQ]

theorem roundQ_zero (e : Int) : roundQ 0 1 e = 0 := by
  simp [roundQ]

/-- The nearest multiple of `2 ^ k` lies within half of `2 ^ k`, and never exactly half of it below. -/
theorem roundQ_neg_nearest (n k : Nat) :
    2 * n < 2 * (roundQ n 1 (-(k : Int)) * 2 ^ k) + 2 ^ k ∧ 2 * (roundQ n 1 (-(k : Int)) * 2 ^ k) ≤ 2 * n + 2 ^ k := by
  rw [roundQ_neg]
  have hp : 0 < 2 ^ k := by positivity
  generalize 2 ^ k = p at *
  have hdiv := Nat.div_add_mod (2 * n + p) (2 * p)
  have hmod := Nat.mod_lt (2 * n + p) (y := 2 * p) (by omega)
  rw [mul_assoc, mul_comm p] at hdiv
  omega

theorem Dy.round_natCast (n : Nat) (e : Int) : Dy.round ⟨n, e⟩ = roundQ n 1 e := by
  simp [Dy.round]

theorem Dy.round_neg_natCast (n : Nat) (e : Int) : Dy.round ⟨-n, e⟩ = -roundQ n 1 e := by
  obtain rfl | h := n.eq_zero_or_pos
  · simp [Dy.round, roundQ_zero]
  · simp [Dy.round, h]

/-- Rounding keeps a whole number as it is. -/
theorem Dy.round_whole (m : Int) (k : Nat) : Dy.round ⟨m, k⟩ = m * 2 ^ k := by
  obtain ⟨n, rfl | rfl⟩ := m.eq_nat_or_neg
  · simp [Dy.round_natCast, roundQ_ofNat]
  · simp [Dy.round_neg_natCast, roundQ_ofNat]

/-- Rounding goes to a whole number within one half, and from an exact half away from zero. -/
theorem Dy.round_nearest (m : Int) (k : Nat) :
    2 * (Dy.round ⟨m, -(k : Int)⟩ * 2 ^ k - m).natAbs ≤ 2 ^ k ∧
      (2 * (Dy.round ⟨m, -(k : Int)⟩ * 2 ^ k - m).natAbs = 2 ^ k →
        m.natAbs < (Dy.round ⟨m, -(k : Int)⟩ * 2 ^ k).natAbs) := by
  obtain ⟨n, hm⟩ := m.eq_nat_or_neg
  obtain ⟨hlow, hhigh⟩ := roundQ_neg_nearest n k
  have hp : 0 < 2 ^ k := by positivity
  have hr : ((roundQ n 1 (-(k : Int)) * 2 ^ k : Nat) : Int) = roundQ n 1 (-(k : Int)) * 2 ^ k := by push_cast; rfl
  generalize roundQ n 1 (-(k : Int)) * 2 ^ k = r at *
  obtain rfl | rfl := hm
  · rw [Dy.round_natCast, ← hr]
    omega
  · rw [Dy.round_neg_natCast, neg_mul, ← hr]
    omega

-- Float codes (R107).

/-- Bits of the exponent field of a float format. -/
abbrev Fmt.expBits (f : Fmt) : Nat := f.lay.1

/-- Bits of the mantissa field of a float format. -/
abbrev Fmt.manBits (f : Fmt) : Nat := f.lay.2.1

/-- Bias of the exponent field of a float format. -/
abbrev Fmt.bias (f : Fmt) : Nat := f.lay.2.2

/-- Exponent field that gives a magnitude code its step: subnormals have that of the smallest normals. -/
def Fmt.lift (f : Fmt) (a : Nat) : Nat := max 1 (a / 2 ^ f.manBits)

/-- Significand of a magnitude code, with the leading one that a normal leaves out. -/
def Fmt.sig (f : Fmt) (a : Nat) : Nat := a - (f.lift a - 1) * 2 ^ f.manBits

/-- Exponent of the last place of a magnitude code's significand. -/
def Fmt.ulp (f : Fmt) (a : Nat) : Int := f.lift a - f.bias - f.manBits

theorem Fmt.one_le_lift (f : Fmt) (a : Nat) : 1 ≤ f.lift a := le_max_left ..

theorem Fmt.lift_mono (f : Fmt) {a b : Nat} (h : a ≤ b) : f.lift a ≤ f.lift b :=
  max_le_max_left 1 (Nat.div_le_div_right h)

/-- A magnitude code counts the representable magnitudes below it: whole steps, then the significand. -/
theorem Fmt.lift_mul_add_sig (f : Fmt) (a : Nat) : (f.lift a - 1) * 2 ^ f.manBits + f.sig a = a := by
  have hq : f.lift a - 1 ≤ a / 2 ^ f.manBits := Nat.sub_le_iff_le_add.2 (max_le (Nat.le_add_left ..) (Nat.le_succ _))
  exact Nat.add_sub_cancel' ((Nat.mul_le_mul_right _ hq).trans (Nat.div_mul_le_self ..))

theorem Fmt.sig_lt (f : Fmt) (a : Nat) : f.sig a < 2 * 2 ^ f.manBits := by
  have hlt : a < (f.lift a + 1) * 2 ^ f.manBits := by
    rw [← Nat.div_lt_iff_lt_mul (Nat.two_pow_pos _)]
    exact Nat.lt_succ_of_le (le_max_right ..)
  have hsum := f.lift_mul_add_sig a
  have hstep : (f.lift a + 1) * 2 ^ f.manBits = (f.lift a - 1) * 2 ^ f.manBits + 2 * 2 ^ f.manBits := by
    rw [← add_mul]
    congr 1
    have := f.one_le_lift a
    omega
  omega

/-- Above the subnormals the leading one is there. -/
theorem Fmt.le_sig {f : Fmt} {a : Nat} (h : 1 < f.lift a) : 2 ^ f.manBits ≤ f.sig a := by
  have hle : f.lift a * 2 ^ f.manBits ≤ a := by
    obtain hl | hl := max_choice 1 (a / 2 ^ f.manBits)
    · exact absurd (h.trans_eq hl) (lt_irrefl 1)
    · rw [Fmt.lift, hl]
      exact Nat.div_mul_le_self ..
  have hsum := f.lift_mul_add_sig a
  have hstep : f.lift a * 2 ^ f.manBits = (f.lift a - 1) * 2 ^ f.manBits + 2 ^ f.manBits := by
    rw [← Nat.succ_mul]
    congr 1
    omega
  omega

-- The order of magnitudes.

/-- The order of dyadic numbers, over any exponent that is not above theirs. -/
theorem Dy.lt_iff {x y : Dy} {k : Int} (hx : k ≤ x.e) (hy : k ≤ y.e) :
    x.lt y = true ↔ x.m * 2 ^ (x.e - k).toNat < y.m * 2 ^ (y.e - k).toNat := by
  have hs : ∀ z : Dy, x.e ⊓ y.e ≤ z.e →
      z.m * 2 ^ (z.e - k).toNat = z.m * 2 ^ (z.e - x.e ⊓ y.e).toNat * 2 ^ (x.e ⊓ y.e - k).toNat := fun z hz => by
    rw [mul_assoc, ← pow_add]
    congr 2
    omega
  rw [hs x (min_le_left ..), hs y (min_le_right ..), mul_lt_mul_iff_left₀ (by positivity)]
  simp [Dy.lt, Dy.sub, Dy.add, Dy.neg, shl]

theorem Fmt.ulp_eq (f : Fmt) (a : Nat) : f.ulp a = (1 - f.bias - f.manBits) + (f.lift a - 1 : Nat) := by
  have := f.one_le_lift a
  rw [Fmt.ulp]
  omega

/-- Larger magnitude codes have no smaller magnitudes. -/
theorem Fmt.sig_mul_mono (f : Fmt) {a b : Nat} (h : a ≤ b) :
    f.sig a * 2 ^ (f.lift a - 1) ≤ f.sig b * 2 ^ (f.lift b - 1) := by
  obtain hl | hl := (f.lift_mono h).eq_or_lt
  · have ha := f.lift_mul_add_sig a
    have hb := f.lift_mul_add_sig b
    rw [hl] at ha ⊢
    exact Nat.mul_le_mul_right _ (by omega)
  · have ha := f.one_le_lift a
    calc f.sig a * 2 ^ (f.lift a - 1)
        ≤ 2 * 2 ^ f.manBits * 2 ^ (f.lift a - 1) := Nat.mul_le_mul_right _ (f.sig_lt a).le
      _ = 2 ^ f.manBits * 2 ^ (f.lift a - 1 + 1) := by ring
      _ ≤ f.sig b * 2 ^ (f.lift b - 1) :=
        Nat.mul_le_mul (Fmt.le_sig (ha.trans_lt hl)) (Nat.pow_le_pow_right two_pos (by omega))

theorem Fmt.not_lt_of_le (f : Fmt) {a b : Nat} (h : a ≤ b) :
    Dy.lt ⟨f.sig b, f.ulp b⟩ ⟨f.sig a, f.ulp a⟩ = false := by
  have hk : ∀ c, 1 - (f.bias : Int) - f.manBits ≤ f.ulp c := fun c => by rw [f.ulp_eq]; omega
  rw [Bool.eq_false_iff, ne_eq, Dy.lt_iff (hk b) (hk a), not_lt]
  simp only [f.ulp_eq, add_sub_cancel_left, Int.toNat_natCast]
  exact_mod_cast f.sig_mul_mono h

-- Conversion (R128).

theorem Fmt.maxDy_eq {f : Fmt} (hf : f.isInt = false) : f.maxDy = ⟨f.sig f.maxCode, f.ulp f.maxCode⟩ := by
  revert hf
  cases f <;> decide +kernel

theorem log2Q_one {n : Nat} (h : n ≠ 0) : log2Q n 1 = Nat.log2 n := by
  have hle : ¬ n < 2 ^ Nat.log2 n := (Nat.log2_self_le h).not_gt
  have h1 : Nat.log2 1 = 0 := rfl
  simp [log2Q, h1, hle]

/-- The step that the conversion of a code's own magnitude finds is the code's (R107). -/
theorem Fmt.max_log2_sig {f : Fmt} {a : Nat} (h : f.sig a ≠ 0) :
    max ((Nat.log2 (f.sig a) : Int) + f.ulp a) (1 - f.bias) = f.lift a - f.bias := by
  have hhigh : Nat.log2 (f.sig a) < f.manBits + 1 := (Nat.log2_lt h).2 ((f.sig_lt a).trans_eq (Nat.pow_succ' ..).symm)
  obtain hl | hl := (f.one_le_lift a).eq_or_lt
  · rw [Fmt.ulp]
    omega
  · have hlow : f.manBits ≤ Nat.log2 (f.sig a) := (Nat.le_log2 h).2 (Fmt.le_sig hl)
    rw [Fmt.ulp]
    omega

theorem Fmt.sig_eq_zero {f : Fmt} {a : Nat} : f.sig a = 0 ↔ a = 0 := by
  refine ⟨fun h => ?_, fun h => by rw [h]; exact Nat.zero_sub _⟩
  have hsum := f.lift_mul_add_sig a
  obtain hl | hl := (f.one_le_lift a).eq_or_lt
  · rw [h, ← hl, Nat.sub_self, Nat.zero_mul] at hsum
    exact hsum.symm
  · have := (Nat.two_pow_pos f.manBits).trans_le (Fmt.le_sig hl)
    omega

/-- The nearest representable magnitude to that of a code is its own. -/
theorem Fmt.encMag_sig (f : Fmt) (a : Nat) : f.encMag (f.sig a) 1 (f.ulp a) = a := by
  have hdef : f.encMag (f.sig a) 1 (f.ulp a) =
      if f.sig a = 0 then 0
      else (max (log2Q (f.sig a) 1 + f.ulp a) (1 - (f.bias : Int)) + f.bias - 1).toNat * 2 ^ f.manBits +
        roundQ (f.sig a) 1 (f.ulp a - (max (log2Q (f.sig a) 1 + f.ulp a) (1 - (f.bias : Int)) - f.manBits)) := rfl
  rw [hdef]
  split_ifs with h
  · exact (Fmt.sig_eq_zero.1 h).symm
  · have hround := roundQ_ofNat (f.sig a) 0
    rw [Nat.cast_zero, pow_zero, mul_one] at hround
    rw [log2Q_one h, Fmt.max_log2_sig h, Fmt.ulp, sub_self, hround, sub_add_cancel, Int.pred_toNat, Int.toNat_natCast,
      f.lift_mul_add_sig]

/-- A magnitude code up to the largest is converted to itself, uncounted. -/
theorem Fmt.encQuot_sig {f : Fmt} {a : Nat} (hf : f.isInt = false) (ha : a ≤ f.maxCode) (neg : Bool) :
    f.encQuot neg (f.sig a) 1 (f.ulp a) = (f.signed neg a, .none) := by
  have hmax : (f.maxDy.mul (Dy.ofInt 1)).lt ⟨f.sig a, f.ulp a⟩ = false := by
    simpa [Fmt.maxDy_eq hf, Dy.mul, Dy.ofInt] using f.not_lt_of_le ha
  simp [Fmt.encQuot, hmax, f.encMag_sig, Fmt.sig_eq_zero]

-- What a float code reads as (R107).

/-- Magnitude field of a float code, without the sign. -/
def Fmt.mag (f : Fmt) (c : Nat) : Nat := fld c 0 (f.expBits + f.manBits)

/-- The value of a float code that is neither a NaN nor an infinity. -/
def Fmt.finite (f : Fmt) (c : Nat) : Val :=
  .num (bit c (f.expBits + f.manBits)) (f.sig (f.mag c)) (f.ulp (f.mag c))

theorem fld_lt (x lo w : Nat) : fld x lo w < 2 ^ w := Nat.mod_lt _ (Nat.two_pow_pos w)

/-- The exponent field stands above the mantissa field. -/
theorem Fmt.mag_eq (f : Fmt) (c : Nat) :
    f.mag c = fld c f.manBits f.expBits * 2 ^ f.manBits + fld c 0 f.manBits := by
  simp only [Fmt.mag, fld, Nat.shiftRight_eq_div_pow, pow_zero, Nat.div_one]
  rw [add_comm, pow_add, Nat.mod_mul, add_comm, mul_comm]

theorem Fmt.mag_div (f : Fmt) (c : Nat) : f.mag c / 2 ^ f.manBits = fld c f.manBits f.expBits := by
  rw [f.mag_eq, mul_comm, Nat.mul_add_div (Nat.two_pow_pos _), Nat.div_eq_of_lt (fld_lt ..), add_zero]

/-- The value of R107 from the fields of a code. -/
theorem Fmt.finite_eq (f : Fmt) (c : Nat) :
    f.finite c =
      if fld c f.manBits f.expBits = 0 then
        .num (bit c (f.expBits + f.manBits)) (fld c 0 f.manBits) (1 - f.bias - f.manBits)
      else .num (bit c (f.expBits + f.manBits)) (2 ^ f.manBits + fld c 0 f.manBits)
        (fld c f.manBits f.expBits - f.bias - f.manBits) := by
  rw [Fmt.finite, Fmt.ulp, Fmt.sig, Fmt.lift, f.mag_div]
  split_ifs with h
  · simp [h, f.mag_eq]
  · have h1 : 1 ≤ fld c f.manBits f.expBits := Nat.one_le_iff_ne_zero.2 h
    rw [max_eq_right h1, f.mag_eq, Nat.sub_mul, one_mul]
    have hle := Nat.le_mul_of_pos_left (2 ^ f.manBits) h1
    congr 1
    generalize 2 ^ f.manBits = p at *
    omega

/-- Sign and magnitude fields make up the code. -/
theorem Fmt.signed_bit_mag {f : Fmt} {c : Nat} (h : c < 2 ^ (f.expBits + f.manBits + 1)) :
    f.signed (bit c (f.expBits + f.manBits)) (f.mag c) = c := by
  have hdef : f.signed (bit c (f.expBits + f.manBits)) (f.mag c) =
      f.mag c + if bit c (f.expBits + f.manBits) then 2 ^ (f.expBits + f.manBits) else 0 := rfl
  have hdiv : c / 2 ^ (f.expBits + f.manBits) < 2 := by
    rwa [Nat.div_lt_iff_lt_mul (Nat.two_pow_pos _), ← pow_succ']
  have hsum := Nat.mod_add_div c (2 ^ (f.expBits + f.manBits))
  rw [hdef, bit_eq_testBit, Nat.testBit_eq_decide_div_mod_eq, Nat.mod_eq_of_lt hdiv, Fmt.mag, fld, Nat.shiftRight_zero]
  interval_cases c / 2 ^ (f.expBits + f.manBits) <;> simpa using hsum

theorem Fmt.bits_eq {f : Fmt} (hf : f.isInt = false) : f.bits = f.expBits + f.manBits + 1 := by
  revert hf
  cases f <;> decide

/-- E2M1, E2M3 and E3M2 have neither NaNs nor infinities. -/
theorem Fmt.decode_of_plain {f : Fmt} (h : f = .e2m1 ∨ f = .e2m3 ∨ f = .e3m2) (c : Nat) :
    f.decode c = f.finite c ∧ f.mag c ≤ f.maxCode := by
  have hmag : f.mag c < 2 ^ (f.expBits + f.manBits) := fld_lt ..
  have hmax : 2 ^ (f.expBits + f.manBits) = f.maxCode + 1 := by
    obtain rfl | rfl | rfl := h <;> rfl
  rw [f.finite_eq]
  refine ⟨?_, by omega⟩
  obtain rfl | rfl | rfl := h <;> rfl

/-- E4M3 has no infinities, and its NaNs have one magnitude code. -/
theorem Fmt.decode_e4m3 (c : Nat) :
    Fmt.decode .e4m3 c = if Fmt.mag .e4m3 c = 0x7F then .nan (bit c 7) else Fmt.finite .e4m3 c := by
  have hdef : Fmt.decode .e4m3 c =
      if (fld c 3 4 == 15 && fld c 0 3 == 7) = true then .nan (bit c 7) else
        if fld c 3 4 = 0 then .num (bit c 7) (fld c 0 3) (1 - 7 - 3)
        else .num (bit c 7) (2 ^ 3 + fld c 0 3) (fld c 3 4 - 7 - 3) := rfl
  have hnan : (fld c 3 4 == 15 && fld c 0 3 == 7) = true ↔ Fmt.mag .e4m3 c = 0x7F := by
    have hmag : Fmt.mag .e4m3 c = fld c 3 4 * 2 ^ 3 + fld c 0 3 := Fmt.mag_eq ..
    have hex := fld_lt c 3 4
    have hm := fld_lt c 0 3
    simp only [Bool.and_eq_true, beq_iff_eq]
    omega
  rw [hdef, if_congr hnan rfl rfl, Fmt.finite_eq]
  rfl

/-- With infinities, what an exponent field of all ones reads as lies above the finite magnitudes. -/
theorem Fmt.decode_of_inf {f : Fmt} (h : f = .e5m2 ∨ f = .bf16 ∨ f = .fp16 ∨ f = .fp32) (c : Nat) :
    f.decode c =
      if f.mag c ≤ f.maxCode then f.finite c
      else if fld c 0 f.manBits = 0 then .inf (bit c (f.expBits + f.manBits))
      else .nan (bit c (f.expBits + f.manBits)) := by
  have hdef : f.decode c =
      if (fld c f.manBits f.expBits == 2 ^ f.expBits - 1 && fld c 0 f.manBits == 0) = true then
        .inf (bit c (f.expBits + f.manBits))
      else if (fld c f.manBits f.expBits == 2 ^ f.expBits - 1) = true then .nan (bit c (f.expBits + f.manBits))
      else f.finite c := by
    rw [f.finite_eq]
    obtain rfl | rfl | rfl | rfl := h <;> rfl
  have hmax : f.maxCode + 1 = (2 ^ f.expBits - 1) * 2 ^ f.manBits := by
    obtain rfl | rfl | rfl | rfl := h <;> rfl
  have hfin : f.mag c ≤ f.maxCode ↔ fld c f.manBits f.expBits ≠ 2 ^ f.expBits - 1 := by
    have hex := fld_lt c f.manBits f.expBits
    rw [← Nat.lt_succ_iff, Nat.succ_eq_add_one, hmax, ← Nat.div_lt_iff_lt_mul (Nat.two_pow_pos _), f.mag_div]
    omega
  rw [hdef, if_congr hfin rfl rfl]
  by_cases htop : fld c f.manBits f.expBits = 2 ^ f.expBits - 1 <;> simp [htop]

/-- A code that reads as neither a NaN nor an infinity reads as R107 gives it, up to the largest finite magnitude. -/
theorem Fmt.decode_eq_finite {f : Fmt} {c : Nat} (hf : f.isInt = false) (hn : (f.decode c).isNan = false)
    (hi : (f.decode c).isInf = false) : f.decode c = f.finite c ∧ f.mag c ≤ f.maxCode := by
  have hinf (h : f = .e5m2 ∨ f = .bf16 ∨ f = .fp16 ∨ f = .fp32) :
      f.decode c = f.finite c ∧ f.mag c ≤ f.maxCode := by
    rw [Fmt.decode_of_inf h] at hn hi ⊢
    split_ifs at hn hi ⊢ with hmag
    · exact ⟨rfl, hmag⟩
    · cases hi
    · cases hn
  cases f with
  | int2 | int3 | int4 | int8 => cases hf
  | e2m1 | e2m3 | e3m2 => exact Fmt.decode_of_plain (by simp) c
  | e4m3 =>
    have hlt : Fmt.mag .e4m3 c < 2 ^ 7 := fld_lt ..
    rw [Fmt.decode_e4m3] at hn ⊢
    split_ifs at hn ⊢ with hmag
    · cases hn
    · exact ⟨rfl, show Fmt.mag .e4m3 c ≤ 0x7E by omega⟩
  | e5m2 | bf16 | fp16 | fp32 => exact hinf (by simp)

/-- Settles O60: a finite float code is a place on the ladder of representable magnitudes, and the conversion finds that
place again; whole numbers by the division that rounds them. -/
theorem roundingIsNearest : Obligations.RoundingIsNearest := by
  unfold Obligations.RoundingIsNearest
  refine ⟨fun f c hf hc hn hi => ?_, fun m k => ?_⟩
  · obtain ⟨hdec, hmax⟩ := Fmt.decode_eq_finite hf hn hi
    rw [Fmt.bits_eq hf] at hc
    rw [hdec, Fmt.finite, Fmt.encode, Fmt.encQuot_sig hf hmax, Fmt.signed_bit_mag hc]
  · obtain ⟨hhalf, htie⟩ := Dy.round_nearest m k
    exact ⟨hhalf, htie, Dy.round_whole m k⟩

end Sys2Proof.Machine
end

section
/-! The reception of a data flit at its destination (R449, R450, R467): link traffic about it, and that no port decides whether
a flit is at its destination. -/
namespace Sys2Proof.Machine
open Sys2Proof.Claims

-- Link traffic.

/-- `t` is `s` after link traffic: it was sent as in `State.Sends`, and no request of this node changed. -/
def State.Passes (s t : State) : Prop :=
  ∃ (q : Vector Port 6) (o : Observe) (l : List Sent),
    t = { s with ports := q, obs := o, out := { s.out with links := l } }

namespace State.Passes
variable {s a : State}

theorem refl (s : State) : s.Passes s := ⟨_, _, _, rfl⟩

/-- The ports, the counters and what went out may be replaced. -/
theorem fields (h : s.Passes a) {q o l} :
    s.Passes { a with ports := q, obs := o, out := { a.out with links := l } } := by
  obtain ⟨_, _, _, rfl⟩ := h
  exact ⟨_, _, _, rfl⟩

theorem ite {c : Prop} [Decidable c] {b : State} (h : s.Passes a) (k : s.Passes b) : s.Passes (if c then a else b) := by
  split <;> assumption

theorem setPort (h : s.Passes a) {p q} : s.Passes (a.setPort p q) := h.fields

theorem bump (h : s.Passes a) {b i n} : s.Passes (a.bump b i n) := by
  obtain ⟨_, e, -⟩ := a.bump_shape b i n
  rw [e]
  exact h.fields

theorem linkAck (h : s.Passes a) {p n} : s.Passes (a.linkAck p n) := .ite h.fields h

theorem sluiceOn (h : s.Passes a) {p m} : s.Passes (a.sluiceOn p m) := by
  obtain ⟨_, _, _, e⟩ := a.sluiceOn_shape p m
  rw [e]
  exact h.fields

theorem freeQueue (h : s.Passes a) {came} : s.Passes (a.freeQueue came) := by
  unfold State.freeQueue
  split
  · exact h.sluiceOn
  · exact h

theorem transmit (h : s.Passes a) {p f came via wake} : s.Passes (a.transmit p f came via wake) := by
  unfold State.transmit
  dsimp only
  split
  · exact (fields h.setPort.bump).freeQueue
  · exact .ite h.setPort.sluiceOn h.setPort

theorem launch (h : s.Passes a) {f wake} : s.Passes (a.launch f wake).1 := by
  unfold State.launch
  split
  · exact h.transmit
  · exact h

theorem endAck (h : s.Passes a) {f} : s.Passes (a.endAck f) := h.launch

theorem received (s : State) (p : Fin 6) (f : Flit) : s.Passes (received s p f) := (refl s).setPort.linkAck.bump.sluiceOn

end State.Passes

-- Routing.

/-- The steps that a flit has left in a dimension, in the direction of rising coordinates (R467). -/
def State.stepsLeft (s : State) (f : Flit) (d : Nat) : Nat :=
  (coord f.dst.toNat d + s.hall.dim d - coord s.hall.nid.toNat d) % s.hall.dim d

theorem State.routeDim_of_done {s : State} {f : Flit} {d : Nat} (h : s.stepsLeft f d = 0) :
    s.routeDim f d = .inl { f with det := false } := if_pos h

/-- A dimension with steps left is a hop or a dead end, never the destination (R467). -/
theorem State.routeDim_of_left {s : State} {f : Flit} {d : Nat} (h : s.stepsLeft f d ≠ 0) :
    ∃ hop, s.routeDim f d = .inr hop ∧ hop ≠ .here := by
  unfold State.routeDim
  extract_lets size dd neg port
  rw [if_neg (show dd ≠ 0 from h)]
  split_ifs <;> exact ⟨_, rfl, by simp⟩

theorem State.routeDim_ne_here (s : State) (f : Flit) (d : Nat) : s.routeDim f d ≠ .inr .here := by
  by_cases h : s.stepsLeft f d = 0
  · simp [State.routeDim_of_done h]
  · obtain ⟨hop, e, hne⟩ := State.routeDim_of_left h
    simpa [e] using hne

/-- Whether a dimension of the routing is finished hangs on the hall alone (R467). -/
theorem State.routeDim_inl_congr {s t : State} (hh : t.hall = s.hall) {f g : Flit} {d : Nat}
    (h : s.routeDim f d = .inl g) : t.routeDim f d = .inl g := by
  have hleft : t.stepsLeft f d = s.stepsLeft f d := by rw [State.stepsLeft, State.stepsLeft, hh]
  by_cases hs : s.stepsLeft f d = 0
  · rw [← h, State.routeDim_of_done hs, State.routeDim_of_done (hleft.trans hs)]
  · obtain ⟨hop, e, -⟩ := State.routeDim_of_left hs
    cases e.symm.trans h

/-- A flit is at its destination when its three dimensions are finished (R467). -/
theorem State.route_eq_here {s : State} {f : Flit} : s.route f = .here ↔
    ∃ g0 g1 g2, s.routeDim f 0 = .inl g0 ∧ s.routeDim g0 1 = .inl g1 ∧ s.routeDim g1 2 = .inl g2 := by
  constructor
  · intro h
    unfold State.route at h
    split at h
    · next h0 => exact absurd (h ▸ h0) (s.routeDim_ne_here _ _)
    · next g0 h0 =>
      split at h
      · next h1 => exact absurd (h ▸ h1) (s.routeDim_ne_here _ _)
      · next g1 h1 =>
        split at h
        · next h2 => exact absurd (h ▸ h2) (s.routeDim_ne_here _ _)
        · next g2 h2 => exact ⟨g0, g1, g2, h0, h1, h2⟩
  · rintro ⟨g0, g1, g2, h0, h1, h2⟩
    simp only [State.route, h0, h1, h2]

/-- A flit is at its destination whatever the ports (R467). -/
theorem State.route_here_congr {s t : State} (hh : t.hall = s.hall) {f : Flit} (h : s.route f = .here) :
    t.route f = .here := by
  obtain ⟨g0, g1, g2, h0, h1, h2⟩ := State.route_eq_here.mp h
  have keeps := fun {f g d} => State.routeDim_inl_congr hh (f := f) (g := g) (d := d)
  exact State.route_eq_here.mpr ⟨g0, g1, g2, keeps h0, keeps h1, keeps h2⟩

-- Reception.

/-- A data flit at its destination is served once its credit is returned (R449, R450). -/
theorem State.receive_of_taken {s : State} {p : Fin 6} {f : Flit} (ht : Taken s p f)
    (hr : (received s p f).route f = .here) (serve : State → Flit → State) :
    s.receive p f true serve = serve (received s p f) f := by
  obtain ⟨hup, hdata, hawait, hc⟩ := ht
  have htyp : f.typ.toNat ≤ 7 := by simp [isData] at hdata; exact hdata.2
  have hlinked : (s.port p).linked = true := by simp [Port.linked, hup, PortSt.usable]
  have hadmitted : (admitted s p f).route f = .here := by
    obtain ⟨_, _, _, e⟩ := (admitted s p f).sluiceOn_shape p (.credit (queueOf f) 1)
    refine State.route_here_congr ?_ hr
    rw [received, e]
  have hnone : ¬((s.port p).awaiting.isSome = true ∧ (s.port p).awaiting ≠ some f.pseq) := by
    rcases hawait with h | h <;> simp [h]
  unfold State.receive
  rw [State.sweep_of_counting hc]
  dsimp only
  rw [if_neg (by simp [hlinked, hup]), if_neg (by simp; omega), if_neg hnone, if_neg (by simp [hdata])]
  change (match (admitted s p f).route f with
    | .here => _
    | .out o g => _
    | .unreachable => _) = _
  rw [hadmitted]
  rfl

end Sys2Proof.Machine
end

section
/-! Stores and accumulate-writes at their destination (R159, R207, R228, R231, R344, R470, R471, R474, R477): the mark
of a write that is applied, and what its effect leaves in memory. -/
namespace Sys2Proof.Machine
open Sys2Proof.Claims

-- Addresses within a stack.

/-- Within a stack, places follow one another (R466). -/
theorem hallLoc_add {h k : Nat} (hk : hallOff h + k < stackBytes) : hallLoc (h + k) = hallLoc h + k := by
  simp only [hallOff, hallLoc, fld, stackBytes, Nat.shiftRight_zero] at *
  omega

/-- Addresses within a stack are of one node (R466). -/
theorem hallNode_add {h k : Nat} (hk : hallOff h + k < stackBytes) : hallNode (h + k) = hallNode h := by
  simp only [hallOff, hallNode, fld, stackBytes, Nat.shiftRight_eq_div_pow] at *
  omega

theorem Mem.getN_lt (m : Memory) (a n : Nat) : Mem.getN m a n < 256 ^ n := by
  induction n generalizing a with
  | zero => simp [Mem.getN]
  | succ n ih =>
    have hbyte := (Mem.get m a).isLt
    have hrest := ih (a + 1)
    rw [Mem.getN, Nat.pow_succ]
    omega

/-- Bytes of this node's stacks are read from its memory. -/
theorem State.rdN_of_here {s : State} {a n : Nat} (hnode : hallNode a = s.hall.nid.toNat)
    (hs : hallOff a + n ≤ stackBytes) : s.rdN a n = Mem.getN s.mem (hallLoc a) n := by
  suffices h : ∀ m k, k + m = n → s.rdN (a + k) m = Mem.getN s.mem (hallLoc a + k) m from h n 0 (Nat.zero_add n)
  intro m
  induction m with
  | zero => exact fun _ _ => rfl
  | succ m ih =>
    intro k hk
    have hin : hallOff a + k < stackBytes := by omega
    have hbyte : s.byteAt (a + k) = Mem.get s.mem (hallLoc a + k) := by
      rw [State.byteAt, if_pos ((hallNode_add hin).trans hnode), hallLoc_add hin]
    rw [State.rdN, Mem.getN, hbyte, Nat.add_assoc, ih (k + 1) (by omega), Nat.add_assoc]

-- The mark of R471.

/-- `e` is below the base, and stays so while the window slides up to `k` places, or stands in the window. -/
def StaysSeen (e k base : Nat) (win : List Nat) : Prop :=
  base < 2 ^ 32 ∧ 2 ^ 31 + k ≤ (e + 2 ^ 32 - base) % 2 ^ 32 ∨ e ∈ win ∧ k < 2 ^ 31

theorem StaysSeen.seen {e k base : Nat} {win : List Nat} (h : StaysSeen e k base win) (src : BitVec 12) :
    (⟨src, base, win⟩ : Applied).seen e = true := by
  rcases h with ⟨-, hbelow⟩ | ⟨hmem, -⟩
  · rw [Applied.seen, decide_eq_true ((Nat.le_add_right _ k).trans hbelow), Bool.true_or]
  · simp [Applied.seen, hmem]

/-- As the base slides, its own number passes below it, and the others stay where they are. -/
theorem StaysSeen.slide {e k base : Nat} {win : List Nat} (he : e < 2 ^ 32) (h : StaysSeen e (k + 1) base win) :
    StaysSeen e k ((base + 1) % 2 ^ 32) (win.filter (· != base)) := by
  rcases h with ⟨hbase, hbelow⟩ | ⟨hmem, hk⟩
  · exact .inl (by omega)
  · by_cases heb : e = base
    · exact .inl (by omega)
    · exact .inr ⟨List.mem_filter.mpr ⟨hmem, by simpa using heb⟩, by omega⟩

theorem seen_slideWindow {e : Nat} (he : e < 2 ^ 32) (src : BitVec 12) {k base : Nat} {win : List Nat}
    (h : StaysSeen e k base win) :
    (⟨src, (slideWindow k base win).1, (slideWindow k base win).2⟩ : Applied).seen e = true := by
  induction k generalizing base win with
  | zero => exact h.seen src
  | succ k ih =>
    rw [slideWindow]
    split
    · exact ih (h.slide he)
    · exact h.seen src

/-- A request that is applied is seen from then on (R471). -/
theorem Remote.seen_apply (r : Remote) (src : BitVec 12) {e : Nat} (he : e < 2 ^ 32) :
    ((r.apply src e).appliedOf src).seen e = true := by
  have hwin : StaysSeen e 1024 (r.appliedOf src).base (e :: (r.appliedOf src).win) :=
    .inr ⟨List.mem_cons_self, by decide⟩
  simpa [Remote.apply, Remote.appliedOf] using seen_slideWindow he src hwin

/-- A write whose effect left `s` is marked as applied and acknowledged (R471). -/
def State.markApplied (s : State) (f : Flit) : State := ({ s with rem := s.rem.apply f.src f.eseq.toNat }).endAck f

theorem State.markApplied_shape (s : State) (f : Flit) :
    ({ s with rem := s.rem.apply f.src f.eseq.toNat } : State).Passes (s.markApplied f) := (State.Passes.refl _).endAck

theorem State.seen_markApplied (s : State) (f : Flit) :
    ((s.markApplied f).rem.appliedOf f.src).seen f.eseq.toNat = true := by
  obtain ⟨_, _, _, e⟩ := s.markApplied_shape f
  rw [e]
  exact s.rem.seen_apply f.src f.eseq.isLt

@[simp] theorem State.mem_markApplied (s : State) (f : Flit) : (s.markApplied f).mem = s.mem := by
  obtain ⟨_, _, _, e⟩ := s.markApplied_shape f
  rw [e]

-- A write that is applied.

/-- A write that an UP port takes, that is for this node, and that is neither applied before nor frozen out. -/
structure Arrives (s : State) (p : Fin 6) (f : Flit) : Prop where
  taken : Taken s p f
  here : (received s p f).route f = .here
  unseen : (s.rem.appliedOf f.src).seen f.eseq.toNat = false
  unfrozen : s.frozenFor f = false

/-- A write that fits in the stacks takes effect and is marked as applied. -/
theorem Arrives.applyOnce {s : State} {p : Fin 6} {f : Flit} (h : Arrives s p f) (effect : State → State) :
    (received s p f).applyOnce f true effect = (effect (received s p f)).markApplied f := by
  obtain ⟨-, -, hunseen, hunfrozen⟩ := h
  obtain ⟨_, _, _, e⟩ := State.Passes.received s p f
  have hseen : ((received s p f).rem.appliedOf f.src).seen f.eseq.toNat = false := by rw [e, ← hunseen]
  have hfrozen : (received s p f).frozenFor f = false := by rw [e, ← hunfrozen]; rfl
  simp [State.applyOnce, hseen, hfrozen, State.markApplied]

theorem exec_store (p : Fin 6) (f : Flit) (ok : Bool) (s : State) : exec (.store p f ok) s = execStore p f ok s := rfl

theorem exec_accumulateWrite (p : Fin 6) (f : Flit) (ok : Bool) (s : State) :
    exec (.accumulateWrite p f ok) s = execAccumulateWrite p f ok s := rfl

theorem exec_accumulateWriteCompressed (p : Fin 6) (f : Flit) (ok : Bool) (s : State) :
    exec (.accumulateWriteCompressed p f ok) s = execAccumulateWriteCompressed p f ok s := rfl

theorem Arrives.exec_store {s : State} {p : Fin 6} {f : Flit} (h : Arrives s p f)
    (hs : inStacks f.addr.toNat (storeSpan f) = true) :
    exec (.store p f true) s = .next (((received s p f).takeStore f).markApplied f) := by
  rw [Machine.exec_store, execStore, State.receive_of_taken h.taken h.here, hs, h.applyOnce]

/-- The two forms of an accumulate-write, each with the values that it carries (R210, R477). -/
def Accumulates (c : Instr) (p : Fin 6) (f : Flit) (vs : List Val) : Prop :=
  c = .accumulateWrite p f true ∧ vs = plainVals f ∨ c = .accumulateWriteCompressed p f true ∧ vs = packedVals f

theorem Arrives.exec_accumulates {s : State} {p : Fin 6} {f : Flit} (h : Arrives s p f) {c : Instr} {vs : List Val}
    (hc : Accumulates c p f vs) (hs : flitFits f vs.length = true) :
    exec c s = .next (((received s p f).remoteAdd f vs).markApplied f) := by
  rcases hc with ⟨rfl, rfl⟩ | ⟨rfl, rfl⟩
  · rw [exec_accumulateWrite, execAccumulateWrite, State.receive_of_taken h.taken h.here, hs, h.applyOnce]
  · rw [exec_accumulateWriteCompressed, execAccumulateWriteCompressed, State.receive_of_taken h.taken h.here, hs,
      h.applyOnce]

/-- An effect on memory and counters alone leaves the rest as it was. -/
theorem sameBesides_markApplied {s u : State} {p : Fin 6} {f : Flit} {m : Memory} {o : Observe}
    (hu : u = { received s p f with mem := m, obs := o }) : SameBesides s (u.markApplied f) := by
  obtain ⟨_, _, _, e⟩ := State.Passes.received s p f
  obtain ⟨_, _, _, k⟩ := u.markApplied_shape f
  rw [k, hu, e]
  exact ⟨rfl, rfl, rfl, rfl, rfl, rfl, rfl⟩

-- Stores.

/-- Bytes written one after the other within a stack stand there, and no other byte changes. -/
theorem State.wrBytes_spec {a : Nat} {l : List Byte} {k : Nat} {s : State} (hm : s.MemOk)
    (hs : hallOff a + (k + l.length) ≤ stackBytes) :
    ∃ m, (l.zipIdx k).foldl (fun s b => s.wrN (a + b.2) 1 b.1.toNat) s = { s with mem := m } ∧
      (∀ j, (h : j < l.length) → Mem.get m (hallLoc a + k + j) = l[j]) ∧
      ∀ x, x < hallLoc a + k ∨ hallLoc a + k + l.length ≤ x → Mem.get m x = Mem.get s.mem x := by
  induction l generalizing k s with
  | nil => exact ⟨s.mem, rfl, fun j h => absurd h (Nat.not_lt_zero j), fun _ _ => rfl⟩
  | cons b l ih =>
    rw [List.length_cons] at hs
    have hset : (s.wrN (a + k) 1 b.toNat).mem = Mem.set s.mem (hallLoc a + k) b := by
      rw [State.wrN_mem, hallLoc_add (by omega), Mem.setN, Mem.setN, BitVec.ofNat_toNat, BitVec.setWidth_eq]
    obtain ⟨m, e, hbytes, hframe⟩ := ih (k := k + 1) (s := s.wrN (a + k) 1 b.toNat) (Memory.wf_setN hm _ _ _)
      (by omega)
    rw [hset] at hframe
    refine ⟨m, e, fun j hj => ?_, fun x hx => ?_⟩
    · cases j with
      | zero => exact (hframe _ (by omega)).trans (Mem.get_set_same hm _ _)
      | succ j =>
        have := hbytes j (by simpa using hj)
        rwa [show hallLoc a + (k + 1) + j = hallLoc a + k + (j + 1) by omega] at this
    · rw [List.length_cons] at hx
      rw [hframe x (by omega), Mem.get_set_other hm _ (by omega)]

/-- A plain store's bytes stand at its address, and no other byte changes (R470). -/
theorem State.takeStore_of_plain {s : State} {f : Flit} (hm : s.MemOk) (hplain : f.merge = .plain)
    (hs : hallOff f.addr.toNat + f.bytes.length ≤ stackBytes) :
    ∃ m, s.takeStore f = { s with mem := m } ∧
      (∀ k, (h : k < f.bytes.length) → Mem.get m (hallLoc f.addr.toNat + k) = f.bytes[k]) ∧
      ∀ x, x < hallLoc f.addr.toNat ∨ hallLoc f.addr.toNat + f.bytes.length ≤ x → Mem.get m x = Mem.get s.mem x := by
  rw [State.takeStore, hplain]
  exact State.wrBytes_spec (k := 0) hm (by rwa [Nat.zero_add])

/-- What a store that is merged leaves of `n` bytes `old`: bits of one element beside the others of its word, extremes, or a
row record (R159, R228, R231, R344). -/
def MergesTo (f : Flit) (n old new : Nat) : Prop :=
  let v := bytesNat f.bytes
  (∃ keep, f.merge = .bits keep ∧ n = 4 ∧ new = (old &&& keep.toNat) ||| v)
    ∨ f.merge = .stat ∧ n = 8 ∧ new = (Stat.merge old ⟨fld v 0 32, fld v 32 32⟩).record
    ∨ f.merge = .index ∧ n = 16
      ∧ new = (MaxRec.merge old ⟨fld v 0 32, fld v 32 32, fld v 64 32, fld v 96 32⟩).pack
    ∨ (∃ exps, f.merge = .rows exps ∧ n = 8 ∧ new = (mergeRow exps (RowStat.ofCode old) (RowStat.ofCode v)).code)

theorem State.takeStore_of_mergesTo {s : State} {f : Flit} {n new : Nat}
    (h : MergesTo f n (s.rdN f.addr.toNat n) new) :
    storeSpan f = n ∧ s.takeStore f = s.wrN f.addr.toNat n new := by
  unfold storeSpan State.takeStore
  obtain ⟨keep, hk, rfl, e⟩ | ⟨hk, rfl, e⟩ | ⟨hk, rfl, e⟩ | ⟨exps, hk, rfl, e⟩ := h
  all_goals
    rw [hk, e]
    exact ⟨rfl, rfl⟩

-- Accumulate-writes.

/-- One value of an accumulate-write into its element, with the counts so far. -/
def State.addElement (f : Flit) (a : State × Counts) (v : Val × Nat) : State × Counts :=
  let (s, c) := a.1.addPlace (flitTarget f v.2) (flitBasin f) v.1
  (s, a.2.plus c)

/-- The sum of an element and a value, as the basin of the flit forms it. -/
def State.elementSum (s : State) (f : Flit) (v : Val × Nat) : Nat :=
  (basinSum (flitBasin f) (s.readPlace (flitTarget f v.2)) v.1).1

theorem flitTarget_width (f : Flit) (j : Nat) : (flitTarget f j).w / 8 = if f.bfmt then 8 else 4 := by
  cases h : f.bfmt <;> simp [flitTarget, h]

theorem flitTarget_zero (f : Flit) : (flitTarget f 0).addr = f.addr.toNat := by simp [flitTarget]

theorem State.addElement_fst (f : Flit) (a : State × Counts) (v : Val × Nat) : (State.addElement f a v).1
    = a.1.wrN (flitTarget f v.2).addr (if f.bfmt then 8 else 4) (a.1.elementSum f v) := by
  rw [← flitTarget_width f v.2]
  rfl

/-- An accumulate-write adds its values in turn, and counts. -/
theorem State.remoteAdd_shape (s : State) (f : Flit) (vs : List Val) :
    ∃ o, s.remoteAdd f vs = { (vs.zipIdx.foldl (State.addElement f) (s, {})).1 with obs := o } := by
  obtain ⟨r, hr⟩ : ∃ r, r = vs.zipIdx.foldl (State.addElement f) (s, {}) := ⟨_, rfl⟩
  have e : s.remoteAdd f vs = ((r.1.bump 8 0 r.2.sat).bump 8 1 r.2.uflow).bump 8 2 vs.length := by rw [hr]; rfl
  obtain ⟨_, e1, -⟩ := r.1.bump_shape 8 0 r.2.sat
  rw [e1] at e
  obtain ⟨_, e2, -⟩ := State.bump_shape _ 8 1 r.2.uflow
  rw [e2] at e
  obtain ⟨o, e3, -⟩ := State.bump_shape _ 8 2 vs.length
  rw [e3] at e
  exact ⟨o, hr ▸ e⟩

/-- Adding values changes no byte outside their elements. -/
theorem State.foldl_addElement_spec (f : Flit) (l : List (Val × Nat)) (a : State × Counts) :
    ∃ m, (l.foldl (State.addElement f) a).1 = { a.1 with mem := m } ∧ (a.1.MemOk → ∀ x, (∀ v ∈ l,
      x < hallLoc (flitTarget f v.2).addr ∨ hallLoc (flitTarget f v.2).addr + (if f.bfmt then 8 else 4) ≤ x) →
      Mem.get m x = Mem.get a.1.mem x) := by
  induction l generalizing a with
  | nil => exact ⟨a.1.mem, rfl, fun _ _ _ => rfl⟩
  | cons v l ih =>
    obtain ⟨m, e, hframe⟩ := ih (State.addElement f a v)
    rw [State.addElement_fst] at e hframe
    refine ⟨m, e, fun hm x hx => ?_⟩
    rw [hframe (Memory.wf_setN hm _ _ _) x fun w hw => hx w (List.mem_cons_of_mem _ hw)]
    exact Mem.get_setN_other hm _ (hx v List.mem_cons_self)

/-- An accumulate-write changes no byte but those of its elements (R207, R477). -/
theorem State.remoteAdd_frame {s : State} (hm : s.MemOk) (f : Flit) (vs : List Val) :
    ∃ m o, s.remoteAdd f vs = { s with mem := m, obs := o } ∧ ∀ x, (∀ j, j < vs.length →
      x < hallLoc (flitTarget f j).addr ∨ hallLoc (flitTarget f j).addr + (if f.bfmt then 8 else 4) ≤ x) →
      Mem.get m x = Mem.get s.mem x := by
  obtain ⟨o, e⟩ := s.remoteAdd_shape f vs
  obtain ⟨m, k, hframe⟩ := State.foldl_addElement_spec f vs.zipIdx (s, {})
  rw [k] at e
  exact ⟨m, o, e, fun x hx => hframe hm x fun v hv => hx v.2 (List.snd_lt_of_mem_zipIdx hv)⟩

/-- A single FP32 element within this node's stacks becomes the basin's sum (R207, R208). -/
theorem State.remoteAdd_single {s : State} (hm : s.MemOk) {f : Flit} {v : Val} (hw : f.bfmt = false)
    (hnode : hallNode f.addr.toNat = s.hall.nid.toNat) (hs : flitFits f 1 = true) :
    Mem.getN (s.remoteAdd f [v]).mem (hallLoc f.addr.toNat) 4
      = (basinSum (.op .fp32) (Mem.getN s.mem (hallLoc f.addr.toNat) 4) v).1 % 2 ^ 32 := by
  have hin : hallOff f.addr.toNat + 4 ≤ stackBytes := by
    simp [flitFits, hw] at hs
    omega
  have hold : s.readPlace (flitTarget f 0) = Mem.getN s.mem (hallLoc f.addr.toNat) 4 := by
    have hlt : Mem.getN s.mem (hallLoc f.addr.toNat) 4 < 2 ^ 32 := Mem.getN_lt ..
    have hwidth : (flitTarget f 0).w = 32 := by simp [flitTarget, hw]
    have hsh : (flitTarget f 0).sh = 0 := rfl
    rw [State.readPlace, hwidth, hsh, flitTarget_zero, if_neg (by decide), State.rdN_of_here hnode hin, fld,
      Nat.shiftRight_zero, Nat.mod_eq_of_lt hlt]
  have hnew : s.elementSum f (v, 0) = (basinSum (.op .fp32) (Mem.getN s.mem (hallLoc f.addr.toNat) 4) v).1 := by
    rw [State.elementSum, hold, flitBasin, hw]
    rfl
  obtain ⟨_, e⟩ := s.remoteAdd_shape f [v]
  rw [e]
  change Mem.getN (State.addElement f (s, {}) (v, 0)).1.mem _ 4 = _
  rw [State.addElement_fst, hnew, flitTarget_zero, hw, State.wrN_mem]
  exact Mem.getN_setN hm _ 4 _

/-- Settles O52: a write that arrives is its effect on the engine that received it, marked as applied; the effect by what it
leaves in memory. -/
theorem writesAtTheirDestination : Obligations.WritesAtTheirDestination := by
  unfold Obligations.WritesAtTheirDestination
  intro p f s hm htaken hhere hunseen hunfrozen at_ width
  have ha : Arrives s p f := ⟨htaken, hhere, hunseen, hunfrozen⟩
  obtain ⟨q, o, l, e⟩ := State.Passes.received s p f
  have hmem : (received s p f).mem = s.mem := by rw [e]
  have hhall : (received s p f).hall = s.hall := by rw [e]
  have hok : (received s p f).MemOk := by rw [State.MemOk, hmem]; exact hm
  refine ⟨fun hplain hs => ?_, fun n new => ?_, fun hs => ?_, fun c vs hc hs => ?_⟩
  · have hspan : storeSpan f = f.bytes.length := by rw [storeSpan, hplain]
    obtain ⟨m, heffect, hbytes, hframe⟩ := State.takeStore_of_plain hok hplain (of_decide_eq_true hs)
    refine ⟨_, ha.exec_store (hspan ▸ hs), fun k hk => ?_, fun x hx => ?_, State.seen_markApplied _ f,
      sameBesides_markApplied (heffect.trans rfl)⟩
    · rw [State.mem_markApplied, heffect]
      exact hbytes k hk
    · rw [State.mem_markApplied, heffect, ← hmem]
      exact hframe x hx
  · intro v old hmerge hnode hs
    have hin : hallOff f.addr.toNat + n ≤ stackBytes := of_decide_eq_true hs
    have hold : (received s p f).rdN f.addr.toNat n = old := by
      rw [State.rdN_of_here (hhall ▸ hnode) hin, hmem]
    obtain ⟨hspan, heffect⟩ := State.takeStore_of_mergesTo (s := received s p f) (n := n) (new := new)
      (by rw [hold]; exact hmerge)
    refine ⟨_, ha.exec_store (hspan.symm ▸ hs), ?_, fun x hx => ?_, State.seen_markApplied _ f,
      sameBesides_markApplied (heffect.trans rfl)⟩
    · rw [State.mem_markApplied, heffect, State.wrN_mem, Mem.getN_setN hok, Nat.pow_mul]
    · rw [State.mem_markApplied, heffect, State.wrN_mem, Mem.get_setN_other hok _ hx, hmem]
  · exact ⟨_, ha.exec_store hs, State.seen_markApplied _ f⟩
  · obtain ⟨m, o, heffect, hframe⟩ := State.remoteAdd_frame hok f vs
    refine ⟨_, ha.exec_accumulates hc hs, fun x hx => ?_, fun v hv hw hnode => ?_, State.seen_markApplied _ f,
      sameBesides_markApplied heffect⟩
    · rw [State.mem_markApplied, heffect, ← hmem]
      exact hframe x hx
    · subst hv
      rw [State.mem_markApplied, State.remoteAdd_single hok hw (hhall ▸ hnode) hs, hmem]

end Sys2Proof.Machine
end

section
/-! CTXSAVE of a slot whose drains read spilled sums of another node (R219, R234): it waits for them at its dispatch. -/
namespace Sys2Proof.Machine
open Sys2Proof.Claims

/-- A task word of a product of one element with long accumulation, its spill tensor descriptor 0 (R217, R380). -/
def spillingWord : Nat :=
  0x03 + put 280 20 1 + put 320 9 1 + put 329 9 1 + put 356 36 (2 ^ 36 - 1) + put 399 1 1

/-- A descriptor of a tensor of one FP32 element, whole on node 1 (R321). -/
def farSpill : Nat :=
  put 48 12 1 + put 60 4 11 + put 64 3 1 + put 68 2 1 + put 128 16 0xFFFF + put 224 20 1 + put 344 24 1

/-- The gang of that word in slot 1, which streams on after a segment that spilled (R218). -/
def spillingGang : Flight :=
  { slot := 1, node := 0, opc := 0x03, onCore := true, word := spillingWord, phase := .streaming
    results := [{ node := 0 }], jobs := [{ node := 0, word := spillingWord }], planes := [{ seg := 1 }] }

/-- Node 0 of a hall of two: slot 0 with a ready CTXSAVE of slot 1 into 0x20000, and slot 1 with the gang in flight. -/
def State.savingSpilled : State :=
  { State.reset.setPort 0 { st := .up } with
    phase := .ready
    hall := { xdim := 2, live := [0, 1] }
    hg := {
      slots := ((Vector.replicate 16 {}).set 0
          { st := .run, hdr := { twCount := 1, twBase := 0x1000, workBase := 0x5000 } }).set 1
          { st := .run, hdr := {
              twCount := 1, twBase := 0x1040, workBase := 0x5040, descBase := 0x3000, descCount := 1
              allocBase := 0x4000, allocCount := 1 } }
      flight := [spillingGang] }
    mem := [(0x1000, 0x53 + put 160 4 1 + put 192 60 0x20000), (0x1040, spillingWord), (0x3000, farSpill),
      (0x5000, mkDep 0 1 0 0 0xFFF), (0x5040, mkDep 0 2 0 0 0xFFF)].foldl (fun m x => Mem.setN m x.1 64 x.2) [] }

theorem State.savingSpilled_dispatchable : Dispatchable .savingSpilled 0 0 0x53 false := by
  constructor <;> decide +kernel

/-- The CTXSAVE stays ready, and its dependence word shows that it waits for data of another node (R219, R587). -/
theorem exec_ctxsave_savingSpilled :
    ∃ t, exec (.ctxsave 0 0 []) .savingSpilled = .next t ∧ t.depWord 0 0 = mkDep 0 1 0x02 0 0xFFF :=
  ⟨_, rfl, by decide +kernel⟩

/-- Refutes O11: the CTXSAVE of `State.savingSpilled` meets the hypotheses of its clause, but a spilled sum that the drain
of the saved gang reads lies on node 1 and was not read (R219, R234; log 125). It waits, where the clause has it
dispatched. -/
theorem not_contextInstructionsActAtDispatch : ¬ Obligations.ContextInstructionsActAtDispatch := by
  unfold Obligations.ContextInstructionsActAtDispatch
  intro h
  obtain ⟨-, hsave, -⟩ := h 0 0 .savingSpilled
  have hgoes := hsave [] State.savingSpilled_dispatchable (by decide +kernel)
  obtain ⟨t, hexec, hwaits⟩ := exec_ctxsave_savingSpilled
  rw [← Host.Outcome.next.inj (hgoes.symm.trans hexec)] at hwaits
  exact absurd hwaits (by decide +kernel)

end Sys2Proof.Machine
end

section
/-! A credit for a data flit of this node that waited at a port (R449): the flit goes out with the tick of its sending in
`STAMP` (R451, R486). -/
namespace Sys2Proof.Machine
open Sys2Proof.Claims

/-- A store of this node to node 1, made at tick 900. -/
def heldStore : Flit := { typ := 2, dst := 1, addr := 0x1000000000100, stamp := 900, len := 1 }

/-- The engine at tick 1000, with the store at port 0, which is UP and has no credit for it. -/
def State.awaitingCredit : State :=
  { State.reset.setPort 0 { st := .up, hold := [⟨heldStore, none, none⟩], credits := Vector.replicate 4 0 } with
    phase := .ready, tm := { tick := 1000 }, hall := { xdim := 2, live := [0, 1] } }

theorem exec_creditReturn_awaitingCredit :
    ∃ t, exec (.creditReturn 0 0 1) .awaitingCredit = .next t ∧
      t.out.links = [.data 0 { padded heldStore with pseq := 0, stamp := 1000 }] :=
  ⟨_, rfl, by decide +kernel⟩

/-- Refutes O56: with its credit the store of `State.awaitingCredit` goes out stamped 1000, since it is a flit of this node
(R451, R486), where the clause on a waiting flit leaves it the stamp 900. -/
theorem not_noticesAreTaken : ¬ Obligations.NoticesAreTaken := by
  unfold Obligations.NoticesAreTaken
  intro h
  obtain ⟨-, -, -, -, -, -, hcredit, -⟩ := h .awaitingCredit (by unfold Counting; decide +kernel)
  obtain ⟨-, -, -, hwaiting⟩ := hcredit 0 0 1 (by unfold Hears; decide +kernel)
  obtain ⟨hgoes, -⟩ := hwaiting heldStore none rfl rfl
  obtain ⟨t, hexec, -, hkept, -⟩ := hgoes rfl rfl rfl (by decide +kernel) (by decide +kernel)
  obtain ⟨u, hexec', hstamped⟩ := exec_creditReturn_awaitingCredit
  rw [← Host.Outcome.next.inj (hexec.symm.trans hexec'), hkept] at hstamped
  exact absurd hstamped (by decide +kernel)

end Sys2Proof.Machine
end

section
/-! Dispatch of the instructions with conditions of their own: PUSH and POP (R280, R285, R287, R289, R290), UPDATE (R309,
R310), SNAP and RESTORE (R532); and of REDUCE, which has none. -/
namespace Sys2Proof.Machine
open Sys2Proof.Claims

/-- A command acts at its dispatch where what it attempts in its turn is the effect on the state entered (R429, R430). -/
theorem actsAtDispatch_of_attempt {c : Instr} {i : Fin 16} {n opc : Nat} {core : Fin 8} {onCore : Bool}
    {ts : State → Nat → List Tensor} {check : State → Nat → Option Fail} {needs early : State → Nat → List Nat}
    {free : State → Prop} {effect : State → Flight → State} (go : State → State)
    (hexec : ∀ s, exec c s = .next (s.inTurn i n opc go))
    (hgo : ∀ s, Dispatchable s i n opc onCore → free s → Unhindered s i n opc core onCore ts check needs early →
      go s = effect (entered s i n opc core onCore ts) (flightAt s i n opc core onCore ts)) :
    ActsAtDispatch c i n opc core onCore ts check needs early free effect := by
  intro s hd hfree hu
  rw [hexec, State.inTurn_of_turn hd.turn hd.counting, hgo s hd hfree hu]

variable {s : State} {i : Fin 16} {n : Nat}

/-- A PUSH goes where the stash is free and the ring has room (R280, R285). -/
theorem State.startPush_of_free (hd : Dispatchable s i n 0x20 false) (hfree : s.pushHold i n = none) :
    s.startPush i n = s.issue i n 0x20 0 false (fun s w => s.pushNames i w) (fun s w => s.pushCheck i w)
      (fun s w => s.pushNeeds i w) (fun s f => s.pushEffect f) noUnits := by
  rw [State.startPush, State.attempt_of_dispatchable hd, hfree]
  rfl

/-- A POP of a free stash whose top entry is here goes (R285, R290). -/
theorem State.startPop_of_free (hd : Dispatchable s i n 0x21 false) (hfree : s.popHold i n = none) :
    s.startPop i n = s.issue i n 0x21 0 false (fun s w => (s.tensor i (sDesc w)).toList) (fun s w => s.popCheck i w)
      (fun s w => s.popNeeds i w) (fun s f => s.popEffect f) noUnits := by
  rw [State.startPop, State.attempt_of_dispatchable hd, hfree]
  rfl

/-- The UPDATE of a node takes the other buffer of its version, where it is in flight (R310). -/
def State.takeOther (s : State) (i : Fin 16) (n : Nat) : State :=
  match s.flightOf i n with
  | some f => s.updatePrep f
  | none => s

/-- An UPDATE whose other buffer holds no version in use goes, and takes that buffer (R309, R310). -/
theorem State.startUpdate_of_free (hd : Dispatchable s i n 0x41 false) (hfree : s.updateWaits (s.taskWord i n) = false) :
    s.startUpdate i n = (s.issue i n 0x41 0 false (fun s w => s.updateNames i w) (fun s w => s.updateCheck i w)
      (fun s w => s.updateNeeds i w) (fun s f => s.updateEffect f) noUnits).takeOther i n := by
  rw [State.startUpdate, State.attempt_of_dispatchable hd]
  exact if_neg (by simp [hfree])

/-- A SNAP or RESTORE goes while no rebuild runs (R532). -/
theorem State.snapIssue_of_free {opc : Nat} (hd : Dispatchable s i n opc false)
    (hfree : s.snap.rb ≠ .running ∧ s.snap.rb ≠ .fallback) (images : List Image) :
    s.snapIssue i n opc images = s.issue i n opc 0 false
      (fun s w => if s.missing i n (s.listEarly i w) = [] then s.listed i w else []) (fun s w => s.snapDispatch i w)
      noUnits (fun s f => (s.setFlight { f with phase := .waiting 1, images := images }).snapPump)
      fun s w => s.listEarly i w := by
  rw [State.snapIssue, State.attempt_of_dispatchable hd, if_neg (not_or.mpr hfree)]
  rfl

/-- A SNAP has no images to read; both commands go the same way (R519, R534). -/
theorem exec_snapOrRestore {opc : Nat} {images : List Image} (h : opc = 0x42 ∧ images = [] ∨ opc = 0x43) (s : State) :
    exec (if opc = 0x42 then .snap i n else .restore i n images) s
      = .next (s.inTurn i n opc fun s => s.snapIssue i n opc images) := by
  obtain ⟨rfl, rfl⟩ | rfl := h
  · rfl
  · rfl

/-- Settles O10: past its own condition each is the issue of an instruction of one task word. -/
theorem waitingInstructionsActAtDispatch : Obligations.WaitingInstructionsActAtDispatch := by
  unfold Obligations.WaitingInstructionsActAtDispatch
  intro i n
  refine ⟨?push, ?pop, ?update, fun opc images h => ?snap, ?reduce⟩
  case push =>
    refine actsAtDispatch_of_attempt (fun s => s.startPush i n) (fun _ => rfl) fun s hd hfree hu => ?_
    rw [State.startPush_of_free hd hfree, State.issue_of_dispatchable hd hu]
  case pop =>
    refine actsAtDispatch_of_attempt (fun s => s.startPop i n) (fun _ => rfl) fun s hd hfree hu => ?_
    rw [State.startPop_of_free hd hfree, State.issue_of_dispatchable hd hu]
  case update =>
    refine actsAtDispatch_of_attempt (fun s => s.startUpdate i n) (fun _ => rfl) fun s hd hfree hu => ?_
    have hissue := State.issue_of_dispatchable (effect := fun s f => s.updateEffect f) hd hu
    exact (State.startUpdate_of_free hd hfree).trans (congrArg (·.takeOther i n) hissue)
  case snap =>
    refine actsAtDispatch_of_attempt _ (exec_snapOrRestore h) fun s hd hfree hu => ?_
    rw [State.snapIssue_of_free hd hfree, State.issue_of_dispatchable hd hu]
  case reduce =>
    exact actsAtDispatch_of_attempt (fun s => s.startReduce i n) (fun _ => rfl) fun s hd _ hu =>
      State.issue_of_dispatchable hd hu

end Sys2Proof.Machine
end

section
/-! The acknowledgement of a moved stash entry (R287) that comes by a port whose counter it uses up (R463), while a REDUCE that
retired still owes an end marker (R478). -/
namespace Sys2Proof.Machine
open Sys2Proof.Claims

/-- The store of a ring entry of 64 bytes to the overflow stack on node 1 (R287). -/
def movedStore : Req :=
  ⟨{ typ := 2, dst := 1, addr := 0x1000000009000, len := 1, used := 64, payload := List.replicate 64 0 }, 0, stashNode⟩

/-- Node 1's acknowledgement of that store (R471). -/
def movedAck : Flit := { typ := 6, src := 1, addr := 0x1000000009000 }

/-- Node 0 of a hall of two, whose port 1 is UP with two counter values left, and whose port 0 went DOWN as an end marker for
node 1 was to take it: the marker is owed. The oldest entry of slot 0's ring is being moved. -/
def State.movingWithOwedEnd : State :=
  { (State.reset.setPort 0 {}).setPort 1 { st := .up, txCount := 0xFFFFFFFFFFFFFFFD } with
    phase := .ready
    hall := { xdim := 2, live := [0, 1], portSts := [((0, 0), .down), ((0, 1), .up)] }
    hg := {
      slots := (Vector.replicate 16 {}).set 0 {
        st := .run
        hdr := { stashBase := 0x8000, stashSize := 128, ovfBase := 0x1000000009000, ovfSize := 4096 }
        stash := { ring := [(0, 64)], moving := true } } }
    rem := { unacked := [movedStore], owedEnds := [(⟨0, 0, 0, 0, 0⟩, 1)] } }

theorem State.movingWithOwedEnd_taken : Taken .movingWithOwedEnd 1 movedAck := by
  unfold Taken Counting
  decide +kernel

/-- The link acknowledgement and the credit take both counter values, so port 1 goes DOWN where the end marker is to go out
on it (R463), and the hall's record of port states shows it (R469). -/
theorem exec_endToEndAck_movingWithOwedEnd :
    ∃ t, exec (.endToEndAck 1 movedAck true) .movingWithOwedEnd = .next t ∧ t.hall.stOf 0 1 = .down :=
  ⟨_, rfl, by decide +kernel⟩

/-- Refutes O20: the acknowledgement that ends the move of `State.movingWithOwedEnd` meets the hypotheses of its clause, but
the port that it came by goes DOWN with it, which changes the hall's record of port states, where the clause has every
register of `SameRegisters` as it was. -/
theorem not_stashControllerMovesEntries : ¬ Obligations.StashControllerMovesEntries := by
  unfold Obligations.StashControllerMovesEntries
  intro h
  obtain ⟨-, -, hmoved, -⟩ := h 0 .movingWithOwedEnd (by unfold Counting; decide +kernel)
  obtain ⟨t, hexec, -, -, -, hsame⟩ := hmoved 0 64 [] 1 movedAck movedStore (by decide +kernel) (by decide +kernel)
    State.movingWithOwedEnd_taken (by decide +kernel) (by decide +kernel) rfl rfl (by decide +kernel) rfl
    (by decide +kernel) (by unfold ShowsNoHold; decide +kernel) (by decide +kernel) (by decide +kernel)
  obtain ⟨u, hexec', hdown⟩ := exec_endToEndAck_movingWithOwedEnd
  rw [← Host.Outcome.next.inj (hexec.symm.trans hexec'), hsame.hall] at hdown
  exact absurd hdown (by decide +kernel)

end Sys2Proof.Machine
end

section
/-! The canonical form of memory (log 2) over every command and step. -/
namespace Sys2Proof.Machine

theorem State.Keeps.memOk {s t : State} (h : s.Keeps t) (hm : s.MemOk) : t.MemOk := by
  obtain ⟨-, -, -, k⟩ := h
  exact k hm

/-- Every command keeps the canonical form of memory, the two that set the grade among them. -/
theorem exec_memOk (c : Instr) {s t : State} (hm : s.MemOk) (he : exec c s = .next t) : t.MemOk := by
  by_cases h1 : c = .coldReset
  · subst h1
    obtain rfl := Host.Outcome.next.inj he
    exact hm
  by_cases h2 : c = .selftestRunEnd
  · subst h2
    by_cases h : s.phase ≠ .selftest ∨ s.st.batch < 8 ∨ s.st.retest ≠ []
    · obtain rfl := Host.Outcome.next.inj ((execSelftestRunEnd_of_not_done h).symm.trans he)
      exact hm
    · push Not at h
      obtain ⟨hp, hb, hr⟩ := h
      obtain ⟨u, hu, hd⟩ := execSelftestRunEnd_of_done hp hb hr
      obtain rfl := Host.Outcome.next.inj (hd.symm.trans he)
      exact hu.keeps.runEnded.raise.memOk hm
  obtain ⟨u, hu, hk⟩ := (State.Keeps.refl s).exec h1 h2
  obtain rfl := Host.Outcome.next.inj (hu.symm.trans he)
  exact hk.memOk hm

/-- Settles O3: a tick writes no byte, and every command keeps the form. -/
theorem stepKeepsMemory : Obligations.StepKeepsMemory := by
  unfold Obligations.StepKeepsMemory
  intro s t hm hstep
  unfold step at hstep
  split at hstep
  · obtain rfl := Host.Outcome.next.inj hstep
    exact (State.Keeps.refl s).idle.memOk hm
  · rename_i c r _
    exact exec_memOk c (s := { s with pending := r }) hm hstep

end Sys2Proof.Machine
end

section
/-! Dispatch of the data instructions, which have no conditions of their own (R370, R373, R429). -/
namespace Sys2Proof.Machine
open Sys2Proof.Claims

/-- An instruction whose attempt is its issue alone acts at its dispatch. -/
theorem actsAtDispatch_of_issue {c : Instr} {i : Fin 16} {n opc : Nat} {core : Fin 8} {onCore : Bool}
    {ts : State → Nat → List Tensor} {check : State → Nat → Option Fail} {needs early : State → Nat → List Nat}
    {free : State → Prop} {effect : State → Flight → State}
    (hexec : ∀ s, exec c s
      = .next (s.inTurn i n opc fun s => s.issue i n opc core onCore ts check needs effect early)) :
    ActsAtDispatch c i n opc core onCore ts check needs early free effect :=
  actsAtDispatch_of_attempt _ hexec fun _ hd _ hu => State.issue_of_dispatchable hd hu

/-- Settles O9: each of the nine is the issue of an instruction of one task word. -/
theorem dataInstructionsActAtDispatch : Obligations.DataInstructionsActAtDispatch := by
  unfold Obligations.DataInstructionsActAtDispatch
  intro i n core
  refine ⟨?maxidx, ?qstat, ?qconv, ?rescale, ?rowrec, ?deriv, ?move, ?gather, ?scatter⟩
  case maxidx => exact actsAtDispatch_of_issue fun _ => rfl
  case qstat => exact actsAtDispatch_of_issue fun _ => rfl
  case qconv => exact actsAtDispatch_of_issue fun _ => rfl
  case rescale => exact actsAtDispatch_of_issue fun _ => rfl
  case rowrec => exact actsAtDispatch_of_issue fun _ => rfl
  case deriv => exact actsAtDispatch_of_issue fun _ => rfl
  case move => exact actsAtDispatch_of_issue fun _ => rfl
  case gather => exact actsAtDispatch_of_issue fun _ => rfl
  case scatter => exact actsAtDispatch_of_issue fun _ => rfl

end Sys2Proof.Machine
end

section
/-! A FENCE whose dependence word lies on another node (R587, R591). -/
namespace Sys2Proof.Machine
open Sys2Proof.Claims

/-- Slot 0 runs a graph of one FENCE in mode 0, and its dependence words lie on node 1: this node has read the word's
bytes, state 1 with five operations left. -/
def State.fenceWordElsewhere : State :=
  { State.reset with
    phase := .ready
    mem := [(0x1000, 0x50)]
    hg := { slots := (Vector.replicate 16 {}).set 0 {
      st := .run, hdr := { twCount := 1, twBase := 0x1000, workBase := 2 ^ 48 } } }
    rem := { data := Mem.setN [] (2 ^ 48) 8 (mkDep 5 1 0 0 0xFFF) } }

theorem State.fenceWordElsewhere_dispatchable : Dispatchable .fenceWordElsewhere 0 0 0x50 false where
  ready := by decide +kernel
  enabled := by decide +kernel
  noStep := by decide +kernel
  unsaved := by decide +kernel
  resumed := by decide +kernel
  running := by decide +kernel
  awake := nofun
  turn := by decide +kernel
  counting := by decide +kernel

/-- The FENCE waits for nothing, and its word, on this node or not, keeps its REM. -/
theorem exec_fence_fenceWordElsewhere :
    ∃ t, exec (.fence 0 0) .fenceWordElsewhere = .next t ∧ Mem.getN t.mem 0 8 ≠ mkDep 0 2 0 0 0xFFF :=
  ⟨_, rfl, by decide +kernel⟩

/-- Refutes O15: the FENCE of `State.fenceWordElsewhere` meets the hypotheses, but its word, which lies on node 1, is read as
it was there and keeps its REM of 5, where the clause has it 0. -/
theorem not_fenceEntersFlight : ¬ Obligations.FenceEntersFlight := by
  unfold Obligations.FenceEntersFlight
  intro h
  have honly : ∀ j, State.fenceWordElsewhere.shown j = true → j = 0 := by decide +kernel
  have hno : ∀ a, ¬ShownAt .fenceWordElsewhere a ∧ ¬ReasonAt .fenceWordElsewhere (some (0, 0)) a := by
    refine fun a => ⟨fun ⟨f, hf, _⟩ => absurd hf List.not_mem_nil, fun ⟨j, m, hj, hm, hne, _⟩ => hne ?_⟩
    obtain rfl := honly j hj
    obtain rfl : m = 0 := Nat.lt_one_iff.mp hm
    rfl
  obtain ⟨t, hexec, -, -, hword, -⟩ := h 0 0 .fenceWordElsewhere (by unfold State.MemOk; decide +kernel)
    State.fenceWordElsewhere_dispatchable rfl (by decide +kernel) (by decide +kernel) fun a _ _ => hno a
  obtain ⟨u, hexec', hkept⟩ := exec_fence_fenceWordElsewhere
  obtain rfl := Host.Outcome.next.inj (hexec.symm.trans hexec')
  exact hkept ((hword (by decide +kernel)).trans (by decide +kernel))

end Sys2Proof.Machine
end

section
/-! The retirement of a MOVE after which two end markers, owed by a REDUCE that retired (R478), use up the counter of the port
that they take (R463). -/
namespace Sys2Proof.Machine
open Sys2Proof.Claims

/-- The MOVE in flight, its effect made. -/
def effectedMove : Flight :=
  { slot := 0, node := 0, opc := 0x30, word := 0x30, phase := .effected, results := [{ node := 0 }] }

/-- Node 0 of a hall of two: the MOVE is in flight, and two end markers to node 1 are owed, where port 0, which is UP, has two
counter values left. -/
def State.movedWithOwedEnds : State :=
  { State.reset.setPort 0 { st := .up, txCount := 0xFFFFFFFFFFFFFFFE } with
    phase := .ready
    hall := { xdim := 2, live := [0, 1], portSts := [((0, 0), .up)] }
    mem := [(0x1000, 0x30), (0x1040, 0x5F), (0x5001, 0x20), (0x5009, 0x20)]
    hg := {
      slots := (Vector.replicate 16 {}).set 0 {
        st := .run, hdr := { twCount := 2, twBase := 0x1000, compBase := 0x2000, workBase := 0x5000 } }
      flight := [effectedMove] }
    rem := { owedEnds := [(⟨0, 0, 0, 0, 0⟩, 1), (⟨0, 0, 0, 0, 1⟩, 1)] } }

/-- The first marker takes the last counter value but one, so port 0 is DOWN where the second is to go out on it (R463), and
the hall's record of port states shows it (R469). -/
theorem exec_instructionRetire_movedWithOwedEnds :
    ∃ t, exec (.instructionRetire 0 0) .movedWithOwedEnds = .next t ∧ t.hall.stOf 0 0 = .down :=
  ⟨_, rfl, by decide +kernel⟩

theorem State.movedWithOwedEnds_shown : ∀ j, State.movedWithOwedEnds.shown j = true → j = 0 := by decide +kernel

/-- Of the words of other nodes there is one, that of node 1, behind that of the MOVE. -/
theorem State.reasonAt_movedWithOwedEnds {a : Nat} (h : ReasonAt .movedWithOwedEnds (some (0, 0)) a) :
    0x5008 ≤ a ∧ a < 0x5010 := by
  obtain ⟨j, m, hj, hm, hne, hlow, hhigh⟩ := h
  obtain rfl := State.movedWithOwedEnds_shown j hj
  obtain rfl : m = 1 := by
    have hlt : m < 2 := hm
    have hpos : m ≠ 0 := by rintro rfl; exact hne rfl
    omega
  exact ⟨hlow, hhigh⟩

theorem State.movedWithOwedEnds_retiresAlone : RetiresAlone .movedWithOwedEnds 0 0 effectedMove { node := 0 } where
  mem := by unfold State.MemOk; decide +kernel
  counting := by unfold Counting; decide +kernel
  flight := by decide +kernel
  results := rfl
  node := rfl
  good := by decide
  untraced := rfl
  running := rfl
  more := by decide +kernel
  dispatched := by decide +kernel
  noUse := by decide +kernel
  noSuccessor := by decide +kernel
  noSnap := by decide +kernel
  noStep := by decide +kernel
  noReduce := by decide +kernel
  noSpillWait := by decide +kernel
  here := by decide +kernel
  apart := by
    refine ⟨by decide +kernel, fun a ha => ⟨fun ⟨f, hf, _⟩ => absurd hf List.not_mem_nil, fun hr => ?_⟩⟩
    have hword := State.reasonAt_movedWithOwedEnds hr
    have hrange : 0x5000 ≤ a ∧ a < 0x5008 ∨ 0x2000 ≤ a ∧ a < 0x2010 := ha
    omega

/-- Refutes O19: the MOVE of `State.movedWithOwedEnds` meets the hypotheses of the first clause, but what its retirement sets
going takes port 0 DOWN, which changes the hall's record of port states, where the clause has every register of
`SameRegisters` as it was. -/
theorem not_retirementWritesRecord : ¬ Obligations.RetirementWritesRecord := by
  unfold Obligations.RetirementWritesRecord
  rintro ⟨h, -⟩
  obtain ⟨t, hexec, -, -, -, -, -, hsame⟩ := h 0 0 .movedWithOwedEnds effectedMove { node := 0 }
    State.movedWithOwedEnds_retiresAlone rfl rfl rfl rfl rfl rfl rfl
  obtain ⟨u, hexec', hdown⟩ := exec_instructionRetire_movedWithOwedEnds
  rw [← Host.Outcome.next.inj (hexec.symm.trans hexec'), hsame.hall] at hdown
  exact absurd hdown (by decide +kernel)

end Sys2Proof.Machine
end

section
/-! A MAXIDX whose dependence word lies in the descriptor of its statistics tensor: its dispatch changes the tensor's shape. -/
namespace Sys2Proof.Machine
open Sys2Proof.Claims

/-- The task word of a MAXIDX over no elements of descriptor 0, its records in descriptor 1 (R380). -/
def emptyMaxidx : Nat := 0x05 + put 192 16 1

/-- The descriptor of its source, a tensor of one FP32 element (R321). -/
def oneElement : Nat := put 60 4 11 + put 64 3 1 + put 68 2 1 + put 128 16 0xFFFF + put 224 20 1

/-- The descriptor of its statistics tensor, of one record at 0x8000: bytes 21 to 28 are the dependence word too, and the last
of them holds the extent. -/
def recordOverWord : Nat :=
  put 0 48 0x8000 + put 60 4 1 + put 64 3 1 + put 68 2 1 + put 93 2 3 + put 128 16 0xFFFF
    + put 168 64 (mkDep 0 1 0 0 0xFFF + put 56 8 1)

/-- Slot 0 runs a graph of that MAXIDX alone. -/
def State.wordInDescriptor : State :=
  { State.reset with
    phase := .ready
    hg := { slots := (Vector.replicate 16 {}).set 0 {
      st := .run
      hdr := {
        twCount := 1, twBase := 0x1000, descBase := 0x3000, descCount := 2, allocBase := 0x4000, allocCount := 1
        workBase := 0x3055 } } }
    mem := [(0x1000, emptyMaxidx), (0x3000, oneElement), (0x3040, recordOverWord)].foldl
      (fun m x => Mem.setN m x.1 64 x.2) [] }

/-- The MAXIDX writes its one record, though no record is left in the tensor. -/
theorem exec_maxidx_wordInDescriptor :
    ∃ t, exec (.maxidx 0 0 0) .wordInDescriptor = .next t ∧ (t.flightOf 0 0).map Flight.phase = some .effected ∧
      Mem.get t.mem 0x8000 ≠ Mem.get State.wordInDescriptor.mem 0x8000 :=
  ⟨_, rfl, by decide +kernel, by decide +kernel⟩

theorem State.wordInDescriptor_dispatchable : Dispatchable .wordInDescriptor 0 0 0x05 true := by
  constructor <;> decide +kernel

/-- The engine as the MAXIDX finds it: its word, set anew at dispatch, left the extent 0. -/
def State.wordInDescriptorEntered : State :=
  entered .wordInDescriptor 0 0 0x05 0 true fun s _ => (s.tensor 0 0).toList

theorem State.tensor_wordInDescriptorEntered :
    (State.wordInDescriptorEntered.tensor 0 1).map (fun d => (coordsOf d.exts, d.localCopy, d.smap, d.alloc)) =
      some ([], false, 0xFFFF, 0) := by
  decide +kernel

theorem State.not_reasonAt_wordInDescriptor (a : Nat) : ¬ReasonAt .wordInDescriptor (some (0, 0)) a := by
  have honly : ∀ j, State.wordInDescriptor.shown j = true → j = 0 := by decide +kernel
  rintro ⟨j, m, hj, hm, hne, -⟩
  obtain rfl := honly j hj
  obtain rfl : m = 0 := Nat.lt_one_iff.mp hm
  exact hne rfl

/-- Refutes O23: the MAXIDX of `State.wordInDescriptor` meets the hypotheses of the second clause, whose shape of the
statistics tensor is that after its dispatch, with no records, but it writes the record at 0x8000. -/
theorem not_dataInstructionsFrame : ¬ Obligations.DataInstructionsFrame := by
  unfold Obligations.DataInstructionsFrame
  rintro ⟨-, h, -⟩
  obtain ⟨d, hd, hshape⟩ := Option.map_eq_some_iff.mp State.tensor_wordInDescriptorEntered
  simp only [Prod.mk.injEq] at hshape
  obtain ⟨hnone, hcopy, hsmap, halloc⟩ := hshape
  obtain ⟨t, hexec, hphase, hwritten⟩ := exec_maxidx_wordInDescriptor
  have hplaces : ∀ g ∈ coordsOf d.exts, False := fun g hg => List.not_mem_nil (hnone ▸ hg)
  refine hwritten (h 0 0 0x05 0 1 16 0 .wordInDescriptor (.maxidx 0 0 0) d (.inl (by decide +kernel))
    (by unfold State.MemOk; decide +kernel) State.wordInDescriptor_dispatchable rfl rfl (by decide +kernel) nofun
    hd (fun u hg hh hr hm => ?_) t hexec (Option.map_eq_some_iff.mp hphase) 0x8000 (by decide +kernel)
    (fun ⟨f, hf, _⟩ => absurd hf List.not_mem_nil)
    ⟨State.not_reasonAt_wordInDescriptor _, fun g hg => (hplaces g hg).elim⟩)
  refine State.recPlace_agree hg hh hcopy hsmap (a := 0x4000) (by rw [halloc]; decide +kernel)
    (fun k _ => hr _ fun g hg => (hplaces g hg).elim) fun k hk => hm _
      ⟨State.not_reasonAt_wordInDescriptor _, fun g hg => (hplaces g hg).elim⟩ ?_
      fun ⟨f, hf, _⟩ => absurd hf List.not_mem_nil
  have hloc : hallLoc (0x4000 + k) = 0x4000 + k := Nat.mod_eq_of_lt (by omega)
  have hdep : hallLoc ((State.wordInDescriptor.slot 0).hdr.depAddr 0) = 0x3055 := by decide +kernel
  omega

end Sys2Proof.Machine
end

section
/-! Registers that no instruction of a graph changes. -/
namespace Sys2Proof.Machine
open Sys2Proof.Claims

/-- What `SameRegisters` compares, and the stops and cuts. -/
structure Registers where
  pending : List Instr
  phase : Phase
  loadOpen : Bool
  warm : Bool
  present : BitVec 32
  grade : BitVec 4
  hall : Hall
  tm : TimeUnit
  gov : Governor
  st : SelfTest
  pen : BitVec 6
  key : KeyPort
  mask : BitVec 26
  traceLive : TraceRegs
  tracePend : TraceRegs
  slotEn : BitVec 16
  verBase : BitVec 60
  aen : BitVec 32
  svcLoad : List Int
  cut : Cut

def State.regs (s : State) : Registers :=
  ⟨s.pending, s.phase, s.loadOpen, s.warm, s.present, s.grade, s.hall, s.tm, s.gov, s.st, s.pen, s.key, s.evt.mask,
    s.tr.live, s.tr.pend, s.hg.slotEn, s.hg.verBase, s.hg.aen, s.svc.load, s.cut⟩

theorem State.Notes.regs {s t : State} (h : s.Notes t) : t.regs = s.regs := by
  obtain ⟨m, x, e, l, rfl, hl, hp, hm, -⟩ := h
  simp only [State.regs, hl, hp, hm]

theorem State.Sends.regs {s t : State} (h : s.Sends t) : t.regs = s.regs := by
  obtain ⟨q, o, r, l, rfl⟩ := h
  rfl

theorem State.Readies.regs {s t : State} (h : s.Readies t) : t.regs = s.regs := by
  obtain ⟨u, h, k⟩ := h
  rw [k.regs, h.regs]

section
variable {s : State}

/-- Fields that hold none of these registers may be replaced. -/
@[simp] theorem regs_fields {m sc hg stw tr arrs evt pwr ports rem snap obs svc out free}
    (hs : hg.slotEn = s.hg.slotEn) (hv : hg.verBase = s.hg.verBase) (ha : hg.aen = s.hg.aen)
    (hl : tr.live = s.tr.live) (hp : tr.pend = s.tr.pend) (hm : evt.mask = s.evt.mask) (hc : svc.load = s.svc.load) :
    State.regs ⟨s.pending, m, s.phase, s.loadOpen, s.warm, sc, s.present, s.grade, hg, stw, tr, arrs, evt, s.tm, s.cut,
      s.hall, pwr, s.gov, s.st, s.pen, ports, s.key, rem, snap, obs, svc, out, free⟩ = s.regs := by
  simp only [State.regs, hs, hv, ha, hl, hp, hm, hc]

@[simp] theorem regs_ite {c : Prop} [Decidable c] {a b : State} :
    (if c then a else b).regs = if c then a.regs else b.regs := apply_ite State.regs ..

@[simp] theorem regs_iteFst {α : Type} {c : Prop} [Decidable c] {a b : State × α} :
    (if c then a else b).1.regs = if c then a.1.regs else b.1.regs := apply_ite (fun p : State × α => p.1.regs) ..

@[simp] theorem regs_foldl {α : Type} {f : State → α → State} (hf : ∀ s x, (f s x).regs = s.regs) (l : List α)
    (s : State) : (l.foldl f s).regs = s.regs := by
  induction l generalizing s with
  | nil => rfl
  | cons x l ih => rw [List.foldl_cons, ih, hf]

@[simp] theorem regs_forN {f : State → Nat → State} (hf : ∀ s x, (f s x).regs = s.regs) (n : Nat)
    (s : State) : (forN n s f).regs = s.regs := regs_foldl hf _ s

@[simp] theorem regs_foldlFst {α β : Type} {f : State × β → α → State × β}
    (hf : ∀ p x, (f p x).1.regs = p.1.regs) (l : List α) (p : State × β) : (l.foldl f p).1.regs = p.1.regs := by
  induction l generalizing p with
  | nil => rfl
  | cons x l ih => rw [List.foldl_cons, ih, hf]

@[simp] theorem regs_forNFst {β : Type} {f : State × β → Nat → State × β}
    (hf : ∀ p x, (f p x).1.regs = p.1.regs) (n : Nat) (p : State × β) : (forN n p f).1.regs = p.1.regs :=
  regs_foldlFst hf _ p

@[simp] theorem regs_foldlMid {α β γ : Type} {f : γ × State × β → α → γ × State × β}
    (hf : ∀ p x, (f p x).2.1.regs = p.2.1.regs) (l : List α) (p : γ × State × β) :
    (l.foldl f p).2.1.regs = p.2.1.regs := by
  induction l generalizing p with
  | nil => rfl
  | cons x l ih => rw [List.foldl_cons, ih, hf]

/-- The state of a pair, by the equation that names it. -/
theorem regs_of_eq {α : Type} {p : State × α} {t : State} {x : α} (e : p = (t, x)) (h : p.1.regs = s.regs) :
    t.regs = s.regs := by
  rw [← h, e]

-- Operations of the state.

@[simp] theorem regs_setDep {i n w} : (s.setDep i n w).regs = s.regs := by rfl

@[simp] theorem regs_setWait {i n st wait waux wpeer} : (s.setWait i n st wait waux wpeer).regs = s.regs := by rfl

@[simp] theorem regs_setFlight {f} : (s.setFlight f).regs = s.regs := by rfl

@[simp] theorem regs_addFlight {f} : (s.addFlight f).regs = s.regs := by rfl

@[simp] theorem regs_dropFlight {i n} : (s.dropFlight i n).regs = s.regs := by rfl

@[simp] theorem regs_bump {x1 i n} : (s.bump x1 i n).regs = s.regs := by
  unfold State.bump
  split <;> simp

@[simp] theorem regs_bumpCounts {core c} : (s.bumpCounts core c).regs = s.regs := by
  simp [State.bumpCounts]

@[simp] theorem regs_svcAdd {i n} : (s.svcAdd i n).regs = s.regs := by rfl

@[simp] theorem regs_setSlot {i x} : (s.setSlot i x).regs = s.regs := by rfl

@[simp] theorem regs_setPort {p x} : (s.setPort p x).regs = s.regs := by rfl

@[simp] theorem regs_setArr {n x} : (s.setArr n x).regs = s.regs := by
  unfold State.setArr
  split <;> simp

@[simp] theorem regs_putRec {r} : (s.putRec r).regs = s.regs := (s.putRec_notes _).regs

@[simp] theorem regs_trace {recs} : (s.trace recs).regs = s.regs := (s.trace_notes recs).regs

@[simp] theorem regs_raise {e w w0 w1 w2} : (s.raise e w w0 w1 w2).regs = s.regs := (s.raise_notes ..).regs

@[simp] theorem regs_traceInst {rtype w body} : (s.traceInst rtype w body).regs = s.regs := (s.traceInst_notes ..).regs

-- Links.

@[simp] theorem regs_putSluice {p m} : (s.putSluice p m).regs = s.regs := by
  simp [State.putSluice]

@[simp] theorem regs_sluiceOn {p m} : (s.sluiceOn p m).regs = s.regs := (s.sluiceOn_sends ..).regs

@[simp] theorem regs_sluiceAll {m but} : (s.sluiceAll m but).regs = s.regs := by
  simp [State.sluiceAll]

@[simp] theorem regs_freeQueue {came} : (s.freeQueue came).regs = s.regs := (s.freeQueue_sends _).regs

@[simp] theorem regs_transmit {p f came via wake} : (s.transmit p f came via wake).regs = s.regs :=
  (s.transmit_sends ..).regs

@[simp] theorem regs_sendKept {p k} : (s.sendKept p k).regs = s.regs := by
  unfold State.sendKept
  split <;> simp

@[simp] theorem regs_sendAgain {p l} : (s.sendAgain p l).regs = s.regs := by
  simp [State.sendAgain]

@[simp] theorem regs_release {p} : (s.release p).regs = s.regs := by
  simp [State.release]

@[simp] theorem regs_launch {f wake} : (s.launch f wake).1.regs = s.regs := (s.launch_sends ..).regs

@[simp] theorem regs_nak {f status wake} : (s.nak f status wake).regs = s.regs := by
  simp [State.nak]

@[simp] theorem regs_showHeld {q} : (s.showHeld q).regs = s.regs := by
  simp [State.showHeld]

@[simp] theorem regs_hold {q} : (s.hold q).regs = s.regs := by
  simp [State.hold]

@[simp] theorem regs_showNode {i n} : (s.showNode i n).regs = s.regs := by
  unfold State.showNode
  split <;> simp

@[simp] theorem regs_sendWrite {i n f} : (s.sendWrite i n f).regs = s.regs := by
  simp [State.sendWrite]

@[simp] theorem regs_follow {x1 bytes} : (s.follow x1 bytes).regs = s.regs := (s.follow_sends ..).regs

@[simp] theorem regs_sendRead {i n x3} : (s.sendRead i n x3).regs = s.regs := by
  simp [State.sendRead]

@[simp] theorem regs_holdReq {q} : (s.holdReq q).regs = s.regs := by
  simp [State.holdReq]

@[simp] theorem regs_sendReq {q} : (s.sendReq q).regs = s.regs := by
  simp [State.sendReq]

@[simp] theorem regs_retransmit : s.retransmit.regs = s.regs := by
  simp [State.retransmit]

@[simp] theorem regs_wakesSince {s0} : (s.wakesSince s0).regs = s.regs := by
  simp [State.wakesSince]

@[simp] theorem regs_reroute {held} : (s.reroute held).regs = s.regs := by
  refine regs_foldl (fun s h => ?_) _ _
  split
  · rfl
  · dsimp only
    split <;> simp

-- Operands, conversions and the basin.

@[simp] theorem regs_wrN {x n v} : (s.wrN x n v).regs = s.regs := by rfl

@[simp] theorem regs_wrAny {i n x3 k v} : (s.wrAny i n x3 k v).regs = s.regs := by
  simp [State.wrAny]

@[simp] theorem regs_mergeAt {i n x3 k v m new} : (s.mergeAt i n x3 k v m new).regs = s.regs := by
  simp [State.mergeAt]

@[simp] theorem regs_writePlace {i n p v} : (s.writePlace i n p v).regs = s.regs := by
  simp [State.writePlace]

@[simp] theorem regs_initLayer {l} : (s.initLayer l).regs = s.regs := (s.initLayer_readies _).regs

@[simp] theorem regs_convCode {k y c v sc} : (s.convCode k y c v sc).2.1.regs = s.regs := by
  unfold State.convCode
  dsimp only
  split <;> simp

@[simp] theorem regs_convWrite {k y c v sc} : (s.convWrite k y c v sc).1.regs = s.regs := by
  simp [State.convWrite]

@[simp] theorem regs_takePiece {x p} : (s.takePiece x p).1.regs = s.regs := by
  unfold State.takePiece
  dsimp only
  split <;> simp

@[simp] theorem regs_carriedUpdate {k g step who} : (s.carriedUpdate k g step who).1.regs = s.regs := by
  unfold State.carriedUpdate
  split <;> simp

@[simp] theorem regs_classGroup {f g who core desc ix} : (s.classGroup f g who core desc ix).1.regs = s.regs := by
  simp [State.classGroup]

@[simp] theorem regs_closeSink {k y step who core} : (s.closeSink k y step who core).1.regs = s.regs := by
  unfold State.closeSink
  refine regs_bumpCounts.trans (regs_foldlFst (fun p g => ?_) _ _)
  dsimp only
  split <;> split <;> simp

@[simp] theorem regs_convGroup {k y c v step} : (s.convGroup k y c v step).1.regs = s.regs := by
  simp [State.convGroup]

-- Retirement.

@[simp] theorem regs_dropUse {w} : (s.dropUse w).regs = s.regs := by
  unfold State.dropUse
  split
  · rfl
  · dsimp only
    split <;> simp

@[simp] theorem regs_mergeLive {l x2} : (s.mergeLive l x2).regs = s.regs := by
  simp [State.mergeLive]

@[simp] theorem regs_stewardMerge {l g} : (s.stewardMerge l g).regs = s.regs := by
  simp [State.stewardMerge]

@[simp] theorem regs_countWaits : s.countWaits.regs = s.regs := by
  simp [State.countWaits]

@[simp] theorem regs_setWaits {l} : (s.setWaits l).regs = s.regs := by
  simp [State.setWaits]

@[simp] theorem regs_noteReady {i n} : (s.noteReady i n).regs = s.regs := by
  unfold State.noteReady
  split <;> simp

@[simp] theorem regs_waitAt {i n core} : (s.waitAt i n core).regs = s.regs := by
  simp [State.waitAt]

@[simp] theorem regs_endReady {i n} : (s.endReady i n).regs = s.regs := by
  simp [State.endReady]

@[simp] theorem regs_endWaits {i} : (s.endWaits i).regs = s.regs := by
  simp [State.endWaits]

@[simp] theorem regs_noteAll {i} : (s.noteAll i).regs = s.regs := by
  simp [State.noteAll]

@[simp] theorem regs_clearWait {i n wait} : (s.clearWait i n wait).regs = s.regs := by
  simp [State.clearWait]

@[simp] theorem regs_nowResident {i n} : (s.nowResident i n).regs = s.regs := by
  simp [State.nowResident]

@[simp] theorem regs_lower {i m} : (s.lower i m).regs = s.regs := by
  simp [State.lower]

@[simp] theorem regs_serveSpill : s.serveSpill.regs = s.regs := by
  refine regs_foldl (fun s r => ?_) _ _
  split
  · rfl
  · obtain ⟨o, e, -⟩ := s.bump_shape r.core.val 24 r.clk
    rw [e]
    exact regs_nowResident

@[simp] theorem regs_evict {drop} : (s.evict drop).regs = s.regs := by
  simp [State.evict]

@[simp] theorem regs_endSlot {i} : (s.endSlot i).regs = s.regs := by
  simp [State.endSlot]

@[simp] theorem regs_settle {i} : (s.settle i).regs = s.regs := by
  simp [State.settle]

@[simp] theorem regs_progress {i} : (s.progress i).regs = s.regs := by rfl

@[simp] theorem regs_retireOne {i f r} : (s.retireOne i f r).regs = s.regs := by
  simp [State.retireOne]

@[simp] theorem regs_forget {i n} : (s.forget i n).regs = s.regs := by rfl

@[simp] theorem regs_retire {f} : (s.retire f).regs = s.regs := by
  simp [State.retire]

@[simp] theorem regs_raiseFail {i n w core x} : (s.raiseFail i n w core x).regs = s.regs := by
  simp [State.raiseFail]

-- Dispatch.

@[simp] theorem regs_wakeForCore : s.wakeForCore.regs = s.regs := by
  simp [State.wakeForCore]

@[simp] theorem regs_busy : s.busy.regs = s.regs := by rfl

@[simp] theorem regs_enter {f nodes body} : (s.enter f nodes body).regs = s.regs := by
  simp [State.enter]

@[simp] theorem regs_failNow {i n w core onCore x} : (s.failNow i n w core onCore x).regs = s.regs := by
  simp [State.failNow]

@[simp] theorem regs_askAll {i n us} : (s.askAll i n us).regs = s.regs := by
  simp [State.askAll]

@[simp] theorem regs_askFor {i n us} : (s.askFor i n us).regs = s.regs := by
  simp [State.askFor]

@[simp] theorem regs_ageReads : s.ageReads.regs = s.regs := by rfl

@[simp] theorem regs_effected {f upd} : (s.effected f upd).regs = s.regs := by rfl

@[simp] theorem regs_initFor {i ts} : (s.initFor i ts).regs = s.regs := (s.initFor_readies ..).regs

-- The basin, products and their drains.

@[simp] theorem regs_addPlace {p f v} : (s.addPlace p f v).1.regs = s.regs := by rfl

@[simp] theorem regs_accumulate {i n x3 f c v} : (s.accumulate i n x3 f c v).1.regs = s.regs := by
  unfold State.accumulate
  split <;> simp

@[simp] theorem regs_retireIdle {i f built} : (s.retireIdle i f built).regs = s.regs := by
  refine regs_foldl (fun s x => ?_) _ _
  split <;> simp

@[simp] theorem regs_shed {i n g ok} : (s.shed i n g ok).regs = s.regs := by rfl

@[simp] theorem regs_gangGo {i n opc core g arrays checks skew} :
    (s.gangGo i n opc core g arrays checks skew).regs = s.regs := by
  simp [State.gangGo]

@[simp] theorem regs_spillTile {i j q row tile y} : (s.spillTile i j q row tile y).1.regs = s.regs := by
  unfold State.spillTile
  split <;> simp

@[simp] theorem regs_spillAll {i j p y} : (s.spillAll i j p y).1.regs = s.regs := by
  simp [State.spillAll]

@[simp] theorem regs_drainElem {i step j p k y m n} : (s.drainElem i step j p k y m n).1.regs = s.regs := by
  unfold State.drainElem
  dsimp only
  split
  · simp
  split
  · split <;> simp
  · simp

@[simp] theorem regs_mergeRowRec {i j m vals} : (s.mergeRowRec i j m vals).regs = s.regs := by
  unfold State.mergeRowRec
  split <;> simp

@[simp] theorem regs_lapse {f j p r} : (s.lapse f j p r).1.regs = s.regs := by
  simp [State.lapse]

@[simp] theorem regs_drainRows {f j k p hi r} : (s.drainRows f j k p hi r).1.regs = s.regs := by
  simp [State.drainRows]

@[simp] theorem regs_drainTo {f j p hi r} : (s.drainTo f j p hi r).1.regs = s.regs := by
  unfold State.drainTo
  split <;> simp

@[simp] theorem regs_drainJob {f j p r} : (s.drainJob f j p r).1.regs = s.regs := by
  unfold State.drainJob
  split <;> simp

@[simp] theorem regs_drainSome {f pick} : (s.drainSome f pick).1.regs = s.regs := by
  simp [State.drainSome]

@[simp] theorem regs_setUp {j} : (s.setUp j).regs = s.regs := by
  simp [State.setUp]

@[simp] theorem regs_parityHit {i n hit} : (s.parityHit i n hit).regs = s.regs := by
  unfold State.parityHit
  repeat' split
  all_goals simp

@[simp] theorem regs_chargePart {g q} : (s.chargePart g q).regs = s.regs := by
  simp [State.chargePart]

@[simp] theorem regs_configure {f} : (s.configure f).regs = s.regs := by
  simp [State.configure]

@[simp] theorem regs_drainOthers {f cores} : (s.drainOthers f cores).regs = s.regs := by rfl

@[simp] theorem regs_stream {f} : (s.stream f).regs = s.regs := by
  simp [State.stream]

@[simp] theorem regs_streamStart {f} : (s.streamStart f).regs = s.regs := by
  simp [State.streamStart]

@[simp] theorem regs_drainGang {f} : (s.drainGang f).1.regs = s.regs := by
  simp [State.drainGang]

@[simp] theorem regs_saveGang {base f q} : (s.saveGang base f q).regs = s.regs := by
  simp [State.saveGang]

@[simp] theorem regs_spillStopped {i j p} : (s.spillStopped i j p).1.regs = s.regs := by
  simp [State.spillStopped]

@[simp] theorem regs_stopMember {f q off j p} : (s.stopMember f q off j p).1.regs = s.regs := by
  simp [State.stopMember]

@[simp] theorem regs_stopGang {base e f q off} : (s.stopGang base e f q off).regs = s.regs := by
  simp [State.stopGang]

@[simp] theorem regs_repark {base e p} : (s.repark base e p).regs = s.regs := by
  simp [State.repark]

@[simp] theorem regs_drainFinished {cores} : (s.drainFinished cores).regs = s.regs := by
  simp [State.drainFinished]

@[simp] theorem regs_noteDrains {gangs stops} : (s.noteDrains gangs stops).regs = s.regs := by
  simp [State.noteDrains]

@[simp] theorem regs_saveSlot {c base stops} : (s.saveSlot c base stops).1.regs = s.regs := by
  simp [State.saveSlot]

@[simp] theorem regs_ctxSave {stops f} : (s.ctxSave stops f).regs = s.regs := by
  simp [State.ctxSave]

@[simp] theorem regs_ctxLoad {cores f} : (s.ctxLoad cores f).regs = s.regs := by
  unfold State.ctxLoad
  dsimp only
  refine regs_settle.trans (regs_effected.trans ((regs_foldl (fun s g => ?_) _ _).trans ?_))
  · split <;> simp
  · simp

@[simp] theorem regs_failSkewed {f skew} : (s.failSkewed f skew).1.regs = s.regs := by
  unfold State.failSkewed
  split <;> simp

@[simp] theorem regs_resumeGang {f g r hits} : (s.resumeGang f g r hits).regs = s.regs := by
  unfold State.resumeGang
  extract_lets i x entry cur lead _ s1
  have h1 : s1.regs = s.regs := regs_setSlot
  split
  rename_i t f e
  have ht : t.regs = s.regs := regs_of_eq e (regs_failSkewed.trans h1)
  split
  · simp [ht]
  · dsimp only
    split <;> simp [ht]

@[simp] theorem regs_startGang {f hits} : (s.startGang f hits).regs = s.regs := by
  unfold State.startGang
  dsimp only
  split <;> simp

@[simp] theorem regs_gangFetch {i n g core skew} : (s.gangFetch i n g core skew).regs = s.regs := by
  simp [State.gangFetch]

@[simp] theorem regs_fetch {i n core skew} : (s.fetch i n core skew).regs = s.regs := by
  unfold State.fetch
  split <;> simp

-- Conversions, moves and the row unit.

@[simp] theorem regs_made {f flags g} : (s.made f flags g).regs = s.regs := by rfl

@[simp] theorem regs_qstatEffect {i fl} : (s.qstatEffect i fl).regs = s.regs := by
  unfold State.qstatEffect
  dsimp only
  split <;> simp

@[simp] theorem regs_putScale {i n x3 f gc q step} : (s.putScale i n x3 f gc q step).regs = s.regs := by
  unfold State.putScale
  split
  · rfl
  split
  · simp
  · dsimp only
    split <;> simp

@[simp] theorem regs_qconvEffect {i fl} : (s.qconvEffect i fl).regs = s.regs := by
  unfold State.qconvEffect
  extract_lets
  split
  · extract_lets
    split
    rename_i t gs extra y yv e
    have ht : t.regs = s.regs := by
      refine regs_of_eq e (regs_foldlFst (fun p c => ?_) _ _)
      dsimp only
      split <;> simp
    simp [ht]
  · simp

@[simp] theorem regs_putCodes {i n x3 gc sc z} : (s.putCodes i n x3 gc sc z).regs = s.regs := by
  unfold State.putCodes
  dsimp only
  split <;> split <;> simp

@[simp] theorem regs_rescaleEffect {i fl} : (s.rescaleEffect i fl).regs = s.regs := by
  unfold State.rescaleEffect
  dsimp only
  split <;> simp

@[simp] theorem regs_convUnder {k y c v step through sz} : (s.convUnder k y c v step through sz).1.regs = s.regs := by
  unfold State.convUnder
  split <;> simp

@[simp] theorem regs_convThrough {k y c v step through} : (s.convThrough k y c v step through).1.regs = s.regs := by
  simp [State.convThrough]

@[simp] theorem regs_moveEffect {fl src dst ps} : (s.moveEffect fl src dst ps).regs = s.regs := by
  unfold State.moveEffect
  extract_lets i n core who step s0 sz
  split
  · extract_lets k mixed conv same s1 s2
    have h2 : s2.regs = s.regs := by simp [s2, s1]
    split
    · split <;> simp [h2]
    · simp
  · simp

@[simp] theorem regs_scatterAdd {fl src dst ps} : (s.scatterAdd fl src dst ps).regs = s.regs := by
  unfold State.scatterAdd
  dsimp only
  split
  · refine regs_made.trans (regs_bumpCounts.trans ?_)
    refine regs_foldlFst (fun p x => regs_foldlFst (fun p c => ?_) _ _) _ _
    split <;> simp
  · simp

@[simp] theorem regs_movement {fl} : (s.movement fl).regs = s.regs := by
  unfold State.movement
  dsimp only
  split <;> simp

@[simp] theorem regs_rowWork {core clk} : (s.rowWork core clk).regs = s.regs := by
  simp [State.rowWork]

@[simp] theorem regs_maxidxEffect {fl} : (s.maxidxEffect fl).regs = s.regs := by
  unfold State.maxidxEffect
  dsimp only
  split <;> simp

@[simp] theorem regs_putRow {k y row vs step} : (s.putRow k y row vs step).1.regs = s.regs := by
  simp [State.putRow]

@[simp] theorem regs_addRow {i n t f vs} : (s.addRow i n t f vs).1.regs = s.regs := by
  simp [State.addRow]

@[simp] theorem regs_rowrecEffect {fl} : (s.rowrecEffect fl).regs = s.regs := by
  unfold State.rowrecEffect
  extract_lets i w n s0 named dy ga dx dg db k
  clear_value dg db k
  split
  · extract_lets
    split
    · simp
    split
    rename_i t y cs e
    have ht : t.regs = s.regs := by
      refine regs_of_eq e (regs_foldlFst (fun p q => ?_) _ _)
      dsimp only
      split <;> split <;> split <;> simp
    dsimp only
    split <;> simp [ht]
  · simp

@[simp] theorem regs_derivEffect {fl} : (s.derivEffect fl).regs = s.regs := by
  unfold State.derivEffect
  dsimp only
  split
  · split <;> simp
  · simp

-- The stash, REDUCE and the steward.

@[simp] theorem regs_putWords {i off ws} : (s.putWords i off ws).regs = s.regs := by
  simp [State.putWords]

@[simp] theorem regs_pushEffect {fl} : (s.pushEffect fl).regs = s.regs := by
  unfold State.pushEffect
  extract_lets i n w
  split
  · simp
  extract_lets
  split
  rename_i codes t y e
  have ht : t.regs = s.regs := by
    rw [show t = (codes, t, y).2.1 from rfl, ← e]
    split <;> simp
  dsimp only
  split <;> simp [ht]

@[simp] theorem regs_stashRetire {fl} : (s.stashRetire fl).regs = s.regs := by
  unfold State.stashRetire
  repeat' split
  all_goals simp

@[simp] theorem regs_popEffect {fl} : (s.popEffect fl).regs = s.regs := by
  unfold State.popEffect
  extract_lets
  split
  · extract_lets
    split
    extract_lets hasS hasZ sz under s1 s2
    have h1 : s1.regs = s.regs := by simp [s1]
    have h2 : s2.regs = s.regs := by
      unfold s2
      split <;> simp [h1]
    simp [h2]
  · simp

@[simp] theorem regs_stashMove {i} : (s.stashMove i).regs = s.regs := by
  unfold State.stashMove
  dsimp only
  split
  · rfl
  · split
    · rfl
    · exact (regs_setSlot ..).trans (regs_forN (fun _ _ => regs_sendWrite) _ _)

@[simp] theorem regs_stashReturn {i} : (s.stashReturn i).regs = s.regs := by
  unfold State.stashReturn
  dsimp only
  split <;> simp

@[simp] theorem regs_stashReturnEnd {i} : (s.stashReturnEnd i).regs = s.regs := by
  unfold State.stashReturnEnd
  dsimp only
  split
  · simp
  · rfl

@[simp] theorem regs_linkConvert {i n w f y ix ls} : (s.linkConvert i n w f y ix ls).2.2.2.1.regs = s.regs := by
  unfold State.linkConvert
  extract_lets res moved readRes plain
  clear_value res
  dsimp only
  refine regs_foldlMid (fun p l => ?_) _ _
  cases res <;> simp

@[simp] theorem regs_showWaits : s.showWaits.regs = s.regs := by
  simp [State.showWaits]

@[simp] theorem regs_noteEnds : s.noteEnds.regs = s.regs := by
  simp [State.noteEnds]

@[simp] theorem regs_takeMarkers {f} : (s.takeMarkers f).regs = s.regs := by rfl

@[simp] theorem regs_ladderFormat {l} : (s.ladderFormat l).regs = s.regs := (s.ladderFormat_notes _).regs

@[simp] theorem regs_evaluate {l} : (s.evaluate l).regs = s.regs := by
  simp [State.evaluate]

@[simp] theorem regs_tellNews {v} : (s.tellNews v).regs = s.regs := by
  simp [State.tellNews]

@[simp] theorem regs_evaluateAll : s.evaluateAll.regs = s.regs := by
  simp [State.evaluateAll]

@[simp] theorem regs_stepWait {f phase peer} : (s.stepWait f phase peer).regs = s.regs := by rfl

@[simp] theorem regs_sendMerges : s.sendMerges.regs = s.regs := by
  simp [State.sendMerges]

@[simp] theorem regs_finishStep : s.finishStep.regs = s.regs := by
  unfold State.finishStep
  exact regs_foldl (fun _ _ => regs_tellNews) _ _

-- Snapshots.

@[simp] theorem regs_setBuf {x1 x} : (s.setBuf x1 x).regs = s.regs := by rfl

@[simp] theorem regs_snapWait {f phase peer} : (s.snapWait f phase peer).regs = s.regs := by rfl

@[simp] theorem regs_askLoad {snum} : (s.askLoad snum).regs = s.regs := by
  unfold State.askLoad
  split <;> simp

@[simp] theorem regs_raiseRebuild {what num} : (s.raiseRebuild what num).regs = s.regs := by
  simp [State.raiseRebuild]

@[simp] theorem regs_loadImage {f} : (s.loadImage f).regs = s.regs := by
  simp [State.loadImage]

@[simp] theorem regs_snapFails {f st} : (s.snapFails f st).regs = s.regs := by
  simp [State.snapFails]

@[simp] theorem regs_agreed {f} : (s.agreed f).regs = s.regs := by
  unfold State.agreed
  extract_lets s1
  split <;> rfl

@[simp] theorem regs_readyPump {f} : (s.readyPump f).regs = s.regs := by
  unfold State.readyPump
  split
  · simp
  · dsimp only
    split
    · exact regs_snapFails.trans rfl
    · exact regs_agreed.trans rfl

@[simp] theorem regs_donePump {f} : (s.donePump f).regs = s.regs := by
  unfold State.donePump
  split <;> rfl

@[simp] theorem regs_parityDone {num} : (s.parityDone num).regs = s.regs := by
  simp [State.parityDone]

-- UPDATE and the headgate.

@[simp] theorem regs_updatePrep {f} : (s.updatePrep f).regs = s.regs := by
  unfold State.updatePrep
  dsimp only
  split <;> simp

@[simp] theorem regs_updateCommit {f} : (s.updateCommit f).regs = s.regs := by
  simp [State.updateCommit]

@[simp] theorem regs_putState {k y f vs} : (s.putState k y f vs).1.regs = s.regs := by
  simp [State.putState]

@[simp] theorem regs_updateEffect {fl} : (s.updateEffect fl).regs = s.regs := by
  unfold State.updateEffect
  extract_lets
  split
  · split
    · extract_lets
      split
      extract_lets
      split
      rename_i t y e
      have ht : t.regs = s.regs := regs_of_eq e (by simp)
      split
      rename_i t1 y f1 e
      have h1 : t1.regs = s.regs := regs_of_eq e (regs_closeSink.trans ht)
      split
      rename_i t2 y f2 e
      have h2 : t2.regs = s.regs := by
        refine regs_of_eq e ((regs_foldlFst (fun p x => ?_) _ _).trans h1)
        split <;> simp
      simp [h2]
    · simp
  · simp

@[simp] theorem regs_markSaved {f} : (s.markSaved f).regs = s.regs := by
  simp [State.markSaved]

@[simp] theorem regs_seatWaiting {f} : (s.seatWaiting f).regs = s.regs := by
  simp [State.seatWaiting]

@[simp] theorem regs_showReason {i n} : (s.showReason i n).regs = s.regs := by
  unfold State.showReason
  split <;> simp

@[simp] theorem regs_showReasons : s.showReasons.regs = s.regs := by
  simp [State.showReasons]

end
end Sys2Proof.Machine
end

section
/-! Registers that no instruction of a graph changes, but for what a port that goes DOWN changes. -/
namespace Sys2Proof.Machine
open Sys2Proof.Claims

/-- The registers without what a port that goes DOWN changes (R463, R469, R481), and without the stops and cuts. -/
def Registers.besidesPorts (r : Registers) : Registers :=
  { r with hall := { r.hall with portSts := [] }, tm := { r.tm with parent := 0, hops := 0 }, cut := {} }

theorem sameRegisters_of_regs {s t : State} (h : t.regs = s.regs) : SameRegisters s t := by
  simp only [State.regs, Registers.mk.injEq] at h
  obtain ⟨h1, h2, h3, h4, h5, h6, h7, h8, h9, h10, h11, h12, h13, h14, h15, h16, h17, h18, h19, -⟩ := h
  exact ⟨h1, h2, h3, h4, h5, h6, h7, h8, h9, h10, h11, h12, h13, h14, h15, h16, h17, h18, h19⟩

theorem sameButPorts_of_besidesPorts {s t : State} (h : t.regs.besidesPorts = s.regs.besidesPorts) :
    SameButPorts s t := by
  simp only [Registers.besidesPorts, State.regs, Registers.mk.injEq] at h
  obtain ⟨h1, h2, h3, h4, h5, h6, hall, tm, h9, h10, h11, h12, h13, h14, h15, h16, h17, h18, h19, -⟩ := h
  exact ⟨h1, h2, h3, h4, h5, h6, congrArg (fun x : Hall => { x with portSts := t.hall.portSts }) hall,
    congrArg (fun x : TimeUnit => { x with parent := t.tm.parent, hops := t.tm.hops }) tm, h9, h10, h11, h12, h13, h14,
    h15, h16, h17, h18, h19⟩

section
variable {s : State}

@[simp] theorem besidesPorts_ite {c : Prop} [Decidable c] {a b : Registers} :
    (if c then a else b).besidesPorts = if c then a.besidesPorts else b.besidesPorts :=
  apply_ite Registers.besidesPorts ..

@[simp] theorem besidesPorts_foldl {α : Type} {f : State → α → State}
    (hf : ∀ s x, (f s x).regs.besidesPorts = s.regs.besidesPorts) (l : List α) (s : State) :
    (l.foldl f s).regs.besidesPorts = s.regs.besidesPorts := by
  induction l generalizing s with
  | nil => rfl
  | cons x l ih => rw [List.foldl_cons, ih, hf]

@[simp] theorem besidesPorts_foldlFst {α β : Type} {f : State × β → α → State × β}
    (hf : ∀ p x, (f p x).1.regs.besidesPorts = p.1.regs.besidesPorts) (l : List α) (p : State × β) :
    (l.foldl f p).1.regs.besidesPorts = p.1.regs.besidesPorts := by
  induction l generalizing p with
  | nil => rfl
  | cons x l ih => rw [List.foldl_cons, ih, hf]

theorem besidesPorts_chooseParent : s.chooseParent.regs.besidesPorts = s.regs.besidesPorts := by
  unfold State.chooseParent
  split
  · rfl
  · split <;> rfl

@[simp] theorem besidesPorts_announce {p} : (s.announce p).regs.besidesPorts = s.regs.besidesPorts :=
  (congrArg Registers.besidesPorts (regs_sluiceAll (s := s.noteOwnPort p))).trans rfl

@[simp] theorem besidesPorts_portDown {p st ev} : (s.portDown p st ev).regs.besidesPorts = s.regs.besidesPorts := by
  simp [State.portDown, besidesPorts_chooseParent]

@[simp] theorem besidesPorts_downExhausted {p} : (s.downExhausted p).regs.besidesPorts = s.regs.besidesPorts := by
  simp [State.downExhausted]

@[simp] theorem besidesPorts_sweep : s.sweep.regs.besidesPorts = s.regs.besidesPorts := by
  simp [State.sweep]

@[simp] theorem besidesPorts_sluiceTo {dst m} : (s.sluiceTo dst m).1.regs.besidesPorts = s.regs.besidesPorts := by
  unfold State.sluiceTo
  split <;> simp

@[simp] theorem besidesPorts_sendOwed : s.sendOwed.regs.besidesPorts = s.regs.besidesPorts := by
  simp [State.sendOwed]

@[simp] theorem besidesPorts_sendMarkers : s.sendMarkers.regs.besidesPorts = s.regs.besidesPorts := by
  simp [State.sendMarkers]

@[simp] theorem besidesPorts_toLive {m} : (s.toLive m).regs.besidesPorts = s.regs.besidesPorts := by
  simp [State.toLive]

@[simp] theorem besidesPorts_sendStepDone {layers} :
    (s.sendStepDone layers).regs.besidesPorts = s.regs.besidesPorts := by
  simp [State.sendStepDone]

@[simp] theorem besidesPorts_stepPump : s.stepPump.regs.besidesPorts = s.regs.besidesPorts := by
  unfold State.stepPump
  split
  · rfl
  · split
    · rfl
    · split
      · simp
      · split
        · split
          · simp
          · change ((s.evaluateAll.sendStepDone _).setFlight _).regs.besidesPorts = _
            simp
        · simp

@[simp] theorem besidesPorts_sendReady {f check} :
    (s.sendReady f check).regs.besidesPorts = s.regs.besidesPorts := by
  simp [State.sendReady]

@[simp] theorem besidesPorts_holdSnap {f} : (s.holdSnap f).regs.besidesPorts = s.regs.besidesPorts := by
  simp [State.holdSnap]

@[simp] theorem besidesPorts_readyRestore {f} : (s.readyRestore f).regs.besidesPorts = s.regs.besidesPorts := by
  simp [State.readyRestore]

@[simp] theorem besidesPorts_restoreReady {f} : (s.restoreReady f).regs.besidesPorts = s.regs.besidesPorts := by
  unfold State.restoreReady
  split
  · simp
  · dsimp only
    split
    · exact (congrArg Registers.besidesPorts regs_raise).trans rfl
    · simp

@[simp] theorem besidesPorts_holdRestore {f} : (s.holdRestore f).regs.besidesPorts = s.regs.besidesPorts := by
  unfold State.holdRestore
  dsimp only
  split <;> simp

@[simp] theorem besidesPorts_holdPump {f} : (s.holdPump f).regs.besidesPorts = s.regs.besidesPorts := by
  simp [State.holdPump]

@[simp] theorem besidesPorts_loadPump {f} : (s.loadPump f).regs.besidesPorts = s.regs.besidesPorts := by
  simp [State.loadPump]

@[simp] theorem besidesPorts_snapPhase {p} : (s.snapPhase p).regs.besidesPorts = s.regs.besidesPorts := by
  unfold State.snapPhase
  split <;> simp

@[simp] theorem besidesPorts_snapPump : s.snapPump.regs.besidesPorts = s.regs.besidesPorts := by
  simp [State.snapPump]

@[simp] theorem besidesPorts_historyChanged : s.historyChanged.regs.besidesPorts = s.regs.besidesPorts := by
  simp [State.historyChanged]

@[simp] theorem besidesPorts_snapRetire {f} : (s.snapRetire f).regs.besidesPorts = s.regs.besidesPorts := by
  simp [State.snapRetire]

@[simp] theorem besidesPorts_pumpAll : s.pumpAll.regs.besidesPorts = s.regs.besidesPorts := by
  simp [State.pumpAll]

@[simp] theorem besidesPorts_unitRetire {f} : (s.unitRetire f).regs.besidesPorts = s.regs.besidesPorts := by
  unfold State.unitRetire
  split <;> simp

@[simp] theorem besidesPorts_finish {f} : (s.finish f).regs.besidesPorts = s.regs.besidesPorts := by
  simp [State.finish]

@[simp] theorem besidesPorts_spread {x but} : (s.spread x but).regs.besidesPorts = s.regs.besidesPorts := by
  unfold State.spread
  split
  · rfl
  · exact (congrArg Registers.besidesPorts regs_sluiceAll).trans (besidesPorts_sweep.trans rfl)

@[simp] theorem besidesPorts_scheduleStop {x} : (s.scheduleStop x).regs.besidesPorts = s.regs.besidesPorts := by
  unfold State.scheduleStop
  split
  · exact besidesPorts_spread.trans rfl
  · split
    · exact besidesPorts_spread.trans rfl
    · rfl
  · rfl

@[simp] theorem besidesPorts_reduceEffect {fl} : (s.reduceEffect fl).regs.besidesPorts = s.regs.besidesPorts := by
  unfold State.reduceEffect
  extract_lets i n w
  split
  · split
    · extract_lets mine leaf ls near far groups x
      clear_value x
      split
      rename_i t cs e
      have ht : t.regs = s.regs := by
        refine regs_of_eq e (regs_foldlFst (fun p l => ?_) _ _)
        split <;> simp
      split
      rename_i t1 y e
      have h1 : t1.regs = s.regs := by
        refine regs_of_eq e ((regs_foldlFst (fun p g => ?_) _ _).trans ht)
        split <;> simp
      simp [h1]
    · simp
  · simp
end
end Sys2Proof.Machine
end

section
/-! Registers over the dispatch, the stream, the retirement and the stash moves of a graph's instructions. -/
namespace Sys2Proof.Machine
open Sys2Proof.Claims

section
variable {s : State}

theorem besidesPorts_attempt {i n opc} {go : State → State}
    (hgo : ∀ s, (go s).regs.besidesPorts = s.regs.besidesPorts) :
    (s.attempt i n opc go).regs.besidesPorts = s.regs.besidesPorts := by
  simp [State.attempt, hgo]

@[simp] theorem besidesPorts_onAwake {onCore t} (h : t.regs.besidesPorts = s.regs.besidesPorts) :
    (s.onAwake onCore t).regs.besidesPorts = s.regs.besidesPorts := by
  simp [State.onAwake, h]

theorem besidesPorts_issue {i n opc core onCore names check needs early} {effect : State → Flight → State}
    (heffect : ∀ s f, (effect s f).regs.besidesPorts = s.regs.besidesPorts) :
    (s.issue i n opc core onCore names check needs effect early).regs.besidesPorts = s.regs.besidesPorts := by
  refine besidesPorts_attempt fun s => ?_
  dsimp only
  split
  · simp
  · split
    · simp
    · split
      · simp
      · split <;> simp [heffect]

theorem regs_of_pushHold {i n t} (h : s.pushHold i n = some t) : t.regs = s.regs := by
  unfold State.pushHold at h
  dsimp only at h
  split at h
  · simp [← Option.some.inj h]
  split at h
  · exact nomatch h
  split at h <;> simp [← Option.some.inj h]

theorem regs_of_popHold {i n t} (h : s.popHold i n = some t) : t.regs = s.regs := by
  unfold State.popHold at h
  dsimp only at h
  split at h
  · simp [← Option.some.inj h]
  split at h
  · exact nomatch h
  · simp [← Option.some.inj h]

@[simp] theorem besidesPorts_prodDispatch {i n opc core hits} :
    (s.prodDispatch i n opc core hits).regs.besidesPorts = s.regs.besidesPorts := by
  refine besidesPorts_attempt fun s => ?_
  dsimp only
  split
  · rfl
  · split
    · rfl
    · split
      · simp
      · split
        · simp
        · split
          · simp
          · split <;> simp

@[simp] theorem besidesPorts_startPush {i n} : (s.startPush i n).regs.besidesPorts = s.regs.besidesPorts := by
  refine besidesPorts_attempt fun s => ?_
  split
  case h_1 t h => rw [regs_of_pushHold h]
  case h_2 => exact besidesPorts_issue fun s f => by simp

@[simp] theorem besidesPorts_startPop {i n} : (s.startPop i n).regs.besidesPorts = s.regs.besidesPorts := by
  refine besidesPorts_attempt fun s => ?_
  split
  case h_1 t h => rw [regs_of_popHold h]
  case h_2 => exact besidesPorts_issue fun s f => by simp

@[simp] theorem besidesPorts_snapIssue {i n opc images} :
    (s.snapIssue i n opc images).regs.besidesPorts = s.regs.besidesPorts := by
  refine besidesPorts_attempt fun s => ?_
  split
  · simp
  · exact besidesPorts_issue fun s f => by simp

@[simp] theorem besidesPorts_startUpdate {i n} : (s.startUpdate i n).regs.besidesPorts = s.regs.besidesPorts := by
  refine besidesPorts_attempt fun s => ?_
  have hissue : ∀ names check needs, (s.issue i n 0x41 0 false names check needs fun s f =>
      s.updateEffect f).regs.besidesPorts = s.regs.besidesPorts := fun _ _ _ => besidesPorts_issue fun s f => by simp
  dsimp only
  split
  · simp
  · split <;> simp [hissue]

@[simp] theorem besidesPorts_startStep {i n} : (s.startStep i n).regs.besidesPorts = s.regs.besidesPorts := by
  unfold State.startStep
  split
  · simp
  · exact besidesPorts_issue fun s f => by simp

theorem besidesPorts_tookTurn {t i n} (h : t.regs.besidesPorts = s.regs.besidesPorts) :
    (s.tookTurn t i n).regs.besidesPorts = s.regs.besidesPorts := by
  simp [State.tookTurn, h]

theorem besidesPorts_inTurn {i n opc} {go : State → State}
    (hgo : ∀ s, (go s).regs.besidesPorts = s.regs.besidesPorts) :
    (s.inTurn i n opc go).regs.besidesPorts = s.regs.besidesPorts := by
  simp [State.inTurn, besidesPorts_tookTurn, hgo]

@[simp] theorem besidesPorts_effectOf {f} : (s.effectOf f).regs.besidesPorts = s.regs.besidesPorts := by
  unfold State.effectOf
  split <;> simp

@[simp] theorem besidesPorts_actLate {f} : (s.actLate f).regs.besidesPorts = s.regs.besidesPorts := by
  simp [State.actLate]

theorem besidesPorts_stashChanged {i t r} (h : t.regs.besidesPorts = r) :
    (s.stashChanged i t).regs.besidesPorts = r := by
  simp [State.stashChanged, h]
end

theorem besidesPorts_of_operandFetch {s t : State} {i n core skew}
    (h : exec (.operandFetch i n core skew) s = .next t) :
    t.regs.besidesPorts = s.regs.besidesPorts := by
  obtain rfl := Host.Outcome.next.inj h
  simp

theorem besidesPorts_of_gangStreamStart {s t : State} {i n hits} (h : exec (.gangStreamStart i n hits) s = .next t) :
    t.regs.besidesPorts = s.regs.besidesPorts := by
  obtain rfl := Host.Outcome.next.inj h
  split
  · simp
  · split
    · simp
    · split
      · simp
      · split
        · simp
        · split <;> simp
      · simp

theorem besidesPorts_of_instructionRetire {s t : State} {i n} (h : exec (.instructionRetire i n) s = .next t) :
    t.regs.besidesPorts = s.regs.besidesPorts := by
  obtain rfl := Host.Outcome.next.inj h
  split
  · simp
  · dsimp only
    split <;> simp

/-- The instructions that are dispatched in the order of R430. -/
theorem besidesPorts_of_dispatch {s t : State} {i n opc} {go : State → State}
    (h : Host.Outcome.next (s.inTurn i n opc go) = (.next t : Host.Outcome State Fault Refusal))
    (hgo : ∀ s, (go s).regs.besidesPorts = s.regs.besidesPorts) : t.regs.besidesPorts = s.regs.besidesPorts := by
  rw [← Host.Outcome.next.inj h]
  exact besidesPorts_inTurn hgo

/-- Settles O22: of what `SameRegisters` lists only what shows a port's state is written, where a port goes DOWN. -/
theorem graphCommandsKeepRegisters : Obligations.GraphCommandsKeepRegisters := by
  unfold Obligations.GraphCommandsKeepRegisters
  intro c s t hc h
  refine sameButPorts_of_besidesPorts ?_
  cases c with
  | fprod | gdx | gdw | dist => exact besidesPorts_of_dispatch h fun s => besidesPorts_prodDispatch
  | maxidx | qstat | qconv | rescale | rowrec | deriv | move | gather | scatter | reduce | fence | stopat | nop
  | ctxsave | ctxload =>
    exact besidesPorts_of_dispatch h fun s => besidesPorts_issue fun s f => by simp
  | push => exact besidesPorts_of_dispatch h fun s => besidesPorts_startPush
  | pop => exact besidesPorts_of_dispatch h fun s => besidesPorts_startPop
  | update => exact besidesPorts_of_dispatch h fun s => besidesPorts_startUpdate
  | snap | restore => exact besidesPorts_of_dispatch h fun s => besidesPorts_snapIssue
  | step => exact besidesPorts_of_dispatch h fun s => besidesPorts_startStep
  | operandFetch => exact besidesPorts_of_operandFetch h
  | gangStreamStart => exact besidesPorts_of_gangStreamStart h
  | instructionRetire => exact besidesPorts_of_instructionRetire h
  | stashMove | stashReturn | stashReturnEnd =>
    rw [← Host.Outcome.next.inj h]
    exact besidesPorts_stashChanged (by simp)
  | _ => exact absurd hc Bool.false_ne_true

end Sys2Proof.Machine
end

section
/-! What instructions that name no tensor find at their dispatch, and what their retirement leaves in flight. -/
namespace Sys2Proof.Machine
open Sys2Proof.Claims

/-- An instruction outside the cores that names no tensor is held by its form alone. -/
theorem unhindered_of_nothing {s : State} {i : Fin 16} {n opc : Nat} {check : State → Nat → Option Fail}
    (ht : tagged opc = false) (hr : isRowOp opc = false) (hc : check s (s.taskWord i n) = none) :
    Unhindered s i n opc 0 false nothing check noUnits noUnits where
  first := by simp [State.firstUnits, State.stewardUnits, State.unread, State.missing, unite, nothing, noUnits]
  passes := hc
  records := by simp [State.unread, State.recordReads, nothing, noUnits, readied]
  aligned := by simp [ht]
  here := by simp [State.missing, noUnits]
  free := by simp [State.rowBusy, hr]

namespace State.Retains
variable {s a : State}

theorem clearWait (h : s.Retains a) {i n wait} : s.Retains (a.clearWait i n wait) := .ite h.setDep h

theorem serveSpill (h : s.Retains a) : s.Retains a.serveSpill := by
  refine h.foldl fun {b r} h => .ite h ?_
  obtain ⟨o, e, -⟩ := b.bump_shape r.core.val 24 r.clk
  rw [e]
  exact h.fields.clearWait.setWaits

theorem evict (h : s.Retains a) {drop} : s.Retains (a.evict drop) := serveSpill h.fields

theorem forget (h : s.Retains a) {i n} : s.Retains (a.forget i n) := h.fields

theorem progress (h : s.Retains a) {i} : s.Retains (a.progress i) := h.setSlot

end State.Retains

/-- The end of a slot drops what it had in flight. -/
theorem State.flight_endSlot (s : State) (i : Fin 16) :
    (s.endSlot i).hg.flight = s.hg.flight.filter fun f => f.slot != i := by
  unfold State.endSlot
  extract_lets x s1 s2 _ s3
  have h2 : s.Retains s2 := ((State.Retains.refl s).forN fun h => .ite h h.dropUse).evict.setWaits
  have h3 : s3.hg.flight = s.hg.flight.filter fun f => f.slot != i := congrArg (List.filter _) h2.2
  refine Eq.trans ?_ h3
  exact ((State.Retains.refl s3).fields.fields.setSlot.notes (State.raise_notes ..)).2

theorem State.flight_settle_subset (s : State) (i : Fin 16) : (s.settle i).hg.flight ⊆ s.hg.flight := by
  unfold State.settle
  extract_lets x
  split
  · rw [State.flight_endSlot]
    exact List.filter_subset_self _
  · split
    · rw [State.flight_endSlot]
      exact List.filter_subset_self _
    · exact List.Subset.refl _

/-- A retirement drops its flight, and nothing comes into flight with it. -/
theorem State.flight_retire_subset (s : State) (f : Flight) :
    (s.retire f).hg.flight ⊆ (s.dropFlight f.slot f.node).hg.flight := by
  intro g hg
  have hleft := State.flight_settle_subset _ _ hg
  rwa [(State.Retains.foldl (.refl (s.dropFlight f.slot f.node)) fun h => h.retireOne).evict.forget.progress.2] at hleft

theorem State.flightOf_retire (s : State) (f : Flight) : (s.retire f).flightOf f.slot f.node = none := by
  refine List.find?_eq_none.mpr fun g hg => ?_
  have hkept := (List.mem_filter.mp (s.flight_retire_subset f hg)).2
  simpa [imp_iff_not_or] using hkept

end Sys2Proof.Machine
end

section
/-! STOPAT (R408, R409). -/
namespace Sys2Proof.Machine
open Sys2Proof.Claims

@[simp] theorem State.regs_entered {s : State} {i n opc core onCore ts} :
    (entered s i n opc core onCore ts).regs = s.regs := by
  simp [entered, readied]

/-- The entry of an instruction outside the cores leaves every port. -/
@[simp] theorem State.port_entered {s : State} {i n opc} (p : Fin 6) :
    (entered s i n opc 0 false).port p = s.port p := by
  obtain ⟨t, ⟨_, _, _, _, e, -⟩, h⟩ := s.enter_shape (flightAt s i n opc 0 false) [n] 0
  change (s.enter (flightAt s i n opc 0 false) [n] 0).port p = s.port p
  rw [h, e]
  rfl

@[simp] theorem regs_tookTurn {s t : State} {i n} : (s.tookTurn t i n).regs = t.regs := by
  simp [State.tookTurn]

theorem State.sweep_setCut {s : State} (hc : Counting s) (c : Cut) : { s with cut := c }.sweep = { s with cut := c } :=
  State.sweep_of_counting (s := { s with cut := c }) hc

/-- While no port goes DOWN, a stop tick that is sent on is noted as such, and no other register changes. -/
theorem State.regs_spread {s : State} (hc : Counting s) (x : BitVec 64) (but : List (Fin 6)) :
    ∃ l, (s.spread x but).regs = { s.regs with cut := { s.cut with forwarded := l } } := by
  unfold State.spread
  split
  · exact ⟨s.cut.forwarded, rfl⟩
  · refine ⟨x :: s.cut.forwarded, regs_sluiceAll.trans ?_⟩
    rw [State.sweep_setCut hc]
    rfl

/-- The stop that is scheduled once one at `x` is asked for: the earlier (R408). -/
def Cut.earlier (c : Cut) (x : BitVec 64) : BitVec 64 :=
  if c.st = .scheduled ∧ c.stopT.toNat ≤ x.toNat then c.stopT else x

/-- A stop asked for while dispatch goes on is scheduled, or the one that is earlier stays (R408, R490). -/
theorem State.regs_scheduleStop {s : State} (hc : Counting s) (ho : s.cutOpen = true) (x : BitVec 64) :
    ∃ l, (s.scheduleStop x).regs
      = { s.regs with cut := { s.cut with st := .scheduled, stopT := s.cut.earlier x, forwarded := l } } := by
  unfold State.scheduleStop
  split
  case h_1 hr =>
    have hst : s.cut.st = .run := by
      unfold State.cstate at hr
      split at hr
      · cases hr
      · exact hr
    obtain ⟨l, h⟩ := State.regs_spread (s := { s with cut := { s.cut with st := .scheduled, stopT := x } }) hc x []
    refine ⟨l, h.trans ?_⟩
    simp [State.regs, Cut.earlier, hst]
  case h_2 hr =>
    have hst : s.cut.st = .scheduled := by
      unfold State.cstate at hr
      split at hr
      · cases hr
      · exact hr
    split
    case isTrue hlt =>
      obtain ⟨l, h⟩ := State.regs_spread (s := { s with cut := { s.cut with stopT := x } }) hc x []
      refine ⟨l, h.trans ?_⟩
      simp [State.regs, Cut.earlier, hst, hlt]
    case isFalse hlt =>
      have hstands : s.cut.earlier x = s.cut.stopT := if_pos ⟨hst, Nat.le_of_not_lt hlt⟩
      rw [hstands, ← hst]
      exact ⟨s.cut.forwarded, rfl⟩
  case h_3 hrun hsched =>
    simp only [State.cutOpen, Bool.or_eq_true, beq_iff_eq] at ho
    exact ho.elim (fun h => (hrun h).elim) fun h => (hsched h).elim

/-- A node is dispatched only where no stop is at work (R490). -/
theorem cutOpen_of_dispatchable {s : State} {i : Fin 16} {n opc : Nat} {onCore : Bool}
    (h : Dispatchable s i n opc onCore) : s.cutOpen = true := by
  have hgoes := h.running
  simp only [State.dispatchStopped, Bool.or_eq_false_iff, Bool.not_eq_false'] at hgoes
  obtain ⟨⟨⟨⟨⟨-, hopen⟩, -⟩, -⟩, -⟩, -⟩ := hgoes
  exact hopen

/-- The registers after STOPAT's effect: those before, with the earlier stop scheduled. -/
theorem State.regs_stopatEffect {s : State} {i : Fin 16} {n : Nat} (hd : Dispatchable s i n 0x51 false) (x : BitVec 64) :
    ∃ l, ((entered s i n 0x51 0 false).scheduleStop x).regs
      = { s.regs with cut := { s.cut with st := .scheduled, stopT := s.cut.earlier x, forwarded := l } } := by
  have hregs : (entered s i n 0x51 0 false).regs = s.regs := State.regs_entered
  have hcut : (entered s i n 0x51 0 false).cut = s.cut := congrArg Registers.cut hregs
  have htm : (entered s i n 0x51 0 false).tm = s.tm := congrArg Registers.tm hregs
  have hopen : (entered s i n 0x51 0 false).cutOpen = true := by
    rw [← cutOpen_of_dispatchable hd]
    simp only [State.cutOpen, State.cstate, hcut, htm]
  have hcounting : Counting (entered s i n 0x51 0 false) := fun p => by simpa using hd.counting p
  obtain ⟨l, h⟩ := State.regs_scheduleStop hcounting hopen x
  exact ⟨l, by rw [h, hregs, hcut]⟩

/-- Settles O17: STOPAT's checks pass, so that its attempt is the scheduling and its retirement. -/
theorem stopatSchedulesStop : Obligations.StopatSchedulesStop := by
  unfold Obligations.StopatSchedulesStop
  intro i n s hd hform T hT
  have hlater : ¬(stopTick (s.taskWord i n) s.tm.tick).toNat ≤ s.tm.tick.toNat := Nat.not_le_of_lt hT
  have hu : Unhindered s i n 0x51 0 false nothing (fun s w => firstFail [commonForm w false false,
      failWhen (decide ((stopTick w s.tm.tick).toNat ≤ s.tm.tick.toNat)) failR]) noUnits noUnits :=
    unhindered_of_nothing rfl rfl (by simp [firstFail, hform, failWhen, hlater])
  have hexec := actsAtDispatch_of_issue (c := .stopat i n) (ts := nothing) (free := fun _ => True)
    (effect := fun s f => (s.scheduleStop (stopTick f.word s.tm.tick)).retire f) (fun _ => rfl) s hd trivial hu
  have htm : (entered s i n 0x51 0 false).tm = s.tm := congrArg Registers.tm State.regs_entered
  obtain ⟨l, hregs⟩ := State.regs_stopatEffect hd T
  generalize ht : s.tookTurn _ i n = t at hexec
  have hall : t.regs
      = { s.regs with cut := { s.cut with st := .scheduled, stopT := s.cut.earlier T, forwarded := l } } := by
    rw [← ht, regs_tookTurn, regs_retire, htm]
    exact hregs
  have hcut : t.cut = { s.cut with st := .scheduled, stopT := s.cut.earlier T, forwarded := l } :=
    congrArg Registers.cut hall
  have hsame : SameRegisters s t := by
    exact .trans (.fields rfl) (sameRegisters_of_regs (s := { s with
      cut := { s.cut with st := .scheduled, stopT := s.cut.earlier T, forwarded := l } }) hall)
  refine ⟨t, hexec, hsame, by rw [hcut], fun hrun => ?_, fun hsched => ?_, ?_⟩
  · simp [hcut, Cut.earlier, hrun]
  · simp only [hcut, Cut.earlier, hsched, true_and]
    by_cases hlt : T.toNat < s.cut.stopT.toNat
    · simp [hlt, Nat.not_le_of_lt hlt]
    · simp [hlt, Nat.le_of_not_lt hlt]
  · rw [← ht, State.flightOf_congr (State.tookTurn_retains ..).2]
    exact State.flightOf_retire _ _

end Sys2Proof.Machine
end

section
/-! NOP (R410): what its retirement writes, and what the dependence words of other nodes show after it (R587). -/
namespace Sys2Proof.Machine
open Sys2Proof.Claims

-- The dependence words that show why their nodes wait, where one node's shows nothing.

/-- `t` is `s` after changes of dependence words of nodes other than node `n` of slot `i` that show why they wait. -/
def State.ShowsOthers (s : State) (i : Fin 16) (n : Nat) (t : State) : Prop :=
  s.Writes t ∧ ∀ a, ¬ReasonAt s (some (i, n)) a → Mem.get t.mem a = Mem.get s.mem a

/-- The state in a word of the node's own stands where the byte that holds it is in no other node's word. -/
theorem State.ShowsOthers.depSt {s t : State} {i : Fin 16} {n : Nat} (h : s.ShowsOthers i n t)
    (hbyte : hallNode ((s.slot i).hdr.depAddr n + 1) = s.hall.nid.toNat →
      ¬ReasonAt s (some (i, n)) (hallLoc ((s.slot i).hdr.depAddr n + 1))) :
    Machine.depSt (t.depWord i n) = Machine.depSt (s.depWord i n) := by
  obtain ⟨⟨m, rfl, -⟩, hframe⟩ := h
  simp only [State.depSt_depWord]
  change (State.byteAt { s with mem := m } ((s.slot i).hdr.depAddr n + 1)).toNat / 16 % 8 = _
  unfold State.byteAt
  split
  case isTrue hlocal =>
    simp only [hframe _ (hbyte hlocal)]
  case isFalse => rfl

/-- A node that is neither ready nor in flight shows no reason (R587). -/
theorem State.reasonOf_of_idle {s : State} {i : Fin 16} {n : Nat}
    (hflight : ∀ f ∈ s.hg.flight, ¬(f.slot = i ∧ f.node = n)) (hst : depSt (s.depWord i n) ≠ 1) :
    s.reasonOf i n = none := by
  have hnone : (s.hg.flight.find? fun f => f.slot == i && f.node == n && f.phase == .dispatched) = none := by
    refine List.find?_eq_none.mpr fun f hf hkey => hflight f hf ?_
    simp only [Bool.and_eq_true, beq_iff_eq] at hkey
    exact hkey.1
  unfold State.reasonOf
  simp [hst, hnone]

/-- Where node `n` of slot `i` is idle, and the state in its word stands, the other nodes' words alone change (R587). -/
theorem State.showsOthers_showReasons {s : State} (hm : s.MemOk) {i : Fin 16} {n : Nat}
    (hflight : ∀ f ∈ s.hg.flight, ¬(f.slot = i ∧ f.node = n)) (hst : depSt (s.depWord i n) ≠ 1)
    (hbyte : hallNode ((s.slot i).hdr.depAddr n + 1) = s.hall.nid.toNat →
      ¬ReasonAt s (some (i, n)) (hallLoc ((s.slot i).hdr.depAddr n + 1))) :
    s.ShowsOthers i n s.showReasons := by
  have step : ∀ t, s.ShowsOthers i n t → ∀ j m, s.shown j = true → m < (s.slot j).hdr.twCount →
      s.ShowsOthers i n (t.showReason j m) := by
    intro t ht j m hj hlt
    have ⟨hw, hframe⟩ := ht
    by_cases hown : (i, n) = (j, m)
    · obtain ⟨rfl, rfl⟩ := Prod.mk.inj hown
      have hidle : t.reasonOf i n = none := by
        refine State.reasonOf_of_idle ?_ ?_
        · obtain ⟨_, rfl, -⟩ := hw
          exact hflight
        · rw [ht.depSt hbyte]
          exact hst
      rw [State.showReason, hidle]
      exact ht
    · refine ⟨hw.trans (t.showReason_writes j m), fun a ha => ?_⟩
      rw [State.showReason_frame ?_ j m a ?_, hframe a ha]
      · obtain ⟨_, rfl, hok⟩ := hw
        exact hok hm
      · obtain ⟨_, rfl, -⟩ := hw
        by_contra hin
        simp only [not_or, not_lt, not_le] at hin
        exact ha ⟨j, m, hj, hlt, by simpa using hown, hin⟩
  have hrefl : s.ShowsOthers i n s := ⟨.refl s, fun _ _ => rfl⟩
  refine List.foldlRecOn _ _ hrefl fun t ht j _ => ?_
  have hshown : t.shown j = s.shown j := by obtain ⟨⟨_, rfl, -⟩, -⟩ := ht; rfl
  have hhdr : (t.slot j).hdr = (s.slot j).hdr := by obtain ⟨⟨_, rfl, -⟩, -⟩ := ht; rfl
  rw [hshown, hhdr]
  split
  case isTrue hj => exact List.foldlRecOn _ _ ht fun u hu m hmem => step u hu j m hj (List.mem_range.mp hmem)
  case isFalse => exact ht

end Sys2Proof.Machine
end

section
/-! The retirement of one node that no other waits for, equation by equation (R371, R427, R431). -/
namespace Sys2Proof.Machine
open Sys2Proof.Claims

theorem State.slot_setDep {s : State} {i : Fin 16} {n w : Nat} (j : Fin 16) : (s.setDep i n w).slot j = s.slot j := rfl

theorem State.traceInst_of_untraced {s : State} (h : s.tr.live.en = false) (rtype : Nat) (w : Who) (body : Nat) :
    s.traceInst rtype w body = s := by
  unfold State.traceInst State.trace
  simp [h]

theorem State.serveSpill_of_none {s : State} (h : ∀ r ∈ s.hg.resident, r.waits = false) : s.serveSpill = s := by
  have hnone : s.hg.resident.filter (·.waits) = [] := List.filter_eq_nil_iff.mpr fun r hr => by simp [h r hr]
  rw [State.serveSpill, hnone]
  rfl

theorem State.settle_of_more {s : State} {i : Fin 16} (hrun : (s.slot i).st = .run)
    (hmore : (s.slot i).retired ≠ (s.slot i).hdr.twCount) : s.settle i = s := by
  unfold State.settle
  simp [hrun, hmore]

theorem State.hdr_setSlot {s : State} {i : Fin 16} {x : Slot} (h : x.hdr = (s.slot i).hdr) (j : Fin 16) :
    ((s.setSlot i x).slot j).hdr = (s.slot j).hdr := by
  by_cases hj : j = i
  · rw [hj, State.slot_setSlot_same, h]
  · rw [State.slot_setSlot_other s x hj]

theorem State.st_setSlot {s : State} {i : Fin 16} {x : Slot} (h : x.st = (s.slot i).st) (j : Fin 16) :
    ((s.setSlot i x).slot j).st = (s.slot j).st := by
  by_cases hj : j = i
  · rw [hj, State.slot_setSlot_same, h]
  · rw [State.slot_setSlot_other s x hj]

section
variable {s : State} (i : Fin 16) (j : Fin 16)

theorem State.hdr_progress : ((s.progress i).slot j).hdr = (s.slot j).hdr := by
  unfold State.progress
  refine State.hdr_setSlot ?_ j
  rfl

theorem State.st_progress : ((s.progress i).slot j).st = (s.slot j).st := by
  unfold State.progress
  refine State.st_setSlot ?_ j
  rfl

theorem State.retired_progress : ((s.progress i).slot i).retired = (s.slot i).retired := by
  rw [State.progress, State.slot_setSlot_same]

/-- One more task word of the slot counts as retired. -/
def State.countOne (s : State) (i : Fin 16) : State := s.setSlot i { s.slot i with retired := (s.slot i).retired + 1 }

theorem State.hdr_countOne : ((s.countOne i).slot j).hdr = (s.slot j).hdr := by
  unfold State.countOne
  refine State.hdr_setSlot ?_ j
  rfl

theorem State.st_countOne : ((s.countOne i).slot j).st = (s.slot j).st := by
  unfold State.countOne
  refine State.st_setSlot ?_ j
  rfl

theorem State.retired_countOne : ((s.countOne i).slot i).retired = (s.slot i).retired + 1 := by
  rw [State.countOne, State.slot_setSlot_same]

/-- The operands of a node leave the operand stores. -/
def State.dropResident (s : State) (i : Fin 16) (n : Nat) : State :=
  { s with hg := { s.hg with resident := s.hg.resident.filter fun r => !(r.slot == i && r.node == n) } }

theorem State.slot_dropResident (n : Nat) : (s.dropResident i n).slot j = s.slot j := by rfl

theorem State.slot_forget (n : Nat) : (s.forget i n).slot j = s.slot j := by rfl

theorem State.slot_dropFlight (n : Nat) : (s.dropFlight i n).slot j = s.slot j := by rfl

theorem State.slot_addFlight (f : Flight) : (s.addFlight f).slot j = s.slot j := by rfl

/-- Where no operands wait for a spill plane, those of a node leave alone (R431). -/
theorem State.evict_of_none (h : ∀ r ∈ s.hg.resident, r.waits = false) (n : Nat) :
    (s.evict fun r => r.slot == i && r.node == n) = s.dropResident i n :=
  State.serveSpill_of_none fun r hr => h r (List.mem_of_mem_filter hr)

end

/-- The record and the dependence word of a retirement with STATUS 0x01 (R371, R373, R587). -/
def State.writeRetired (s : State) (i : Fin 16) (n : Nat) (dstamp : BitVec 64) : State :=
  (s.wrN ((s.slot i).hdr.compAddr n) 16 (mkCompletion (dstamp.setWidth 40) s.stamp 1 0 0xFFFF)).setDep i n
    (mkDep 0 3 0 0 0xFFF)

theorem State.slot_writeRetired {s : State} {i : Fin 16} {n : Nat} {d : BitVec 64} (j : Fin 16) :
    (s.writeRetired i n d).slot j = s.slot j := by
  rw [State.writeRetired, State.slot_setDep, State.slot_wrN]

theorem State.retireOne_of_plain {s : State} {i : Fin 16} {f : Flight} {n : Nat} (hcore : f.onCore = false)
    (hpre : f.preempted = false) (hen : s.tr.live.en = false)
    (hhere : hallNode ((s.slot i).hdr.compAddr n) = s.hall.nid.toNat) (hven : twVen (s.taskWord i n) = false)
    (hscnt : twScnt (s.taskWord i n) = 0) :
    s.retireOne i f { node := n } = (s.writeRetired i n f.dstamp).countOne i := by
  unfold State.retireOne
  extract_lets w s1 s2 s3 fl s4 s5 s6 s7 x s8 s9
  have h3 : s3 = s := by simp [s3, s2, s1, hcore, State.stewardMerge]
  have hfl : fl = 0 := by simp [fl, hpre]
  have h4 : s4 = s.wrN ((s.slot i).hdr.compAddr n) 16 (mkCompletion (f.dstamp.setWidth 40) s.stamp 1 0 0xFFFF) := by
    simp only [s4, h3, hfl, State.wrAny, hhere, if_true]
  have h5 : s5 = s4 := by simp [s5, State.dropUse, counted, w, hven]
  have h7 : s7 = s6 := by
    have huntraced : s6.tr.live.en = false := by
      simp only [s6, h5, h4]
      exact hen
    simp only [s7, State.traceInst_of_untraced huntraced, ite_self]
  have h9 : s9 = s8 := by simp [s9, State.successors, w, hscnt]
  have hx : x = s.slot i := by simp only [x, h7, s6, h5, h4, State.slot_setDep, State.slot_wrN]
  rw [if_neg (by simp), h9]
  unfold State.countOne State.writeRetired
  simp only [s8, hx, h7, s6, h5, h4, State.slot_setDep, State.slot_wrN]

/-- What a retirement without successors, uses or statistics leaves: the node's record and word are written, its task word
counts, its operands and what was fetched for it are dropped, and it is in flight no more (R371, R427, R431). -/
def State.afterRetirement (s : State) (i : Fin 16) (n : Nat) (dstamp : BitVec 64) : State :=
  (((((s.dropFlight i n).writeRetired i n dstamp).countOne i).dropResident i n).forget i n).progress i

section
variable {s : State} {i : Fin 16} {n : Nat} {d : BitVec 64} (j : Fin 16)

theorem State.hdr_afterRetirement : ((s.afterRetirement i n d).slot j).hdr = (s.slot j).hdr := by
  rw [State.afterRetirement, State.hdr_progress, State.slot_forget, State.slot_dropResident, State.hdr_countOne,
    State.slot_writeRetired, State.slot_dropFlight]

theorem State.st_afterRetirement : ((s.afterRetirement i n d).slot j).st = (s.slot j).st := by
  rw [State.afterRetirement, State.st_progress, State.slot_forget, State.slot_dropResident, State.st_countOne,
    State.slot_writeRetired, State.slot_dropFlight]

theorem State.retired_afterRetirement : ((s.afterRetirement i n d).slot i).retired = (s.slot i).retired + 1 := by
  rw [State.afterRetirement, State.retired_progress, State.slot_forget, State.slot_dropResident, State.retired_countOne,
    State.slot_writeRetired, State.slot_dropFlight]

end

theorem State.retire_eq_afterRetirement {s : State} {f : Flight} (hresults : f.results = [{ node := f.node }])
    (hcore : f.onCore = false) (hpre : f.preempted = false) (hen : s.tr.live.en = false)
    (hhere : hallNode ((s.slot f.slot).hdr.compAddr f.node) = s.hall.nid.toNat)
    (hven : twVen (s.taskWord f.slot f.node) = false) (hscnt : twScnt (s.taskWord f.slot f.node) = 0)
    (hwaits : ∀ r ∈ s.hg.resident, r.waits = false) (hrun : (s.slot f.slot).st = .run)
    (hmore : (s.slot f.slot).retired + 1 < (s.slot f.slot).hdr.twCount) :
    s.retire f = s.afterRetirement f.slot f.node f.dstamp := by
  have hw := State.taskWord_congr (s := s) (t := s.dropFlight f.slot f.node) (i := f.slot) (n := f.node) rfl rfl rfl rfl
  have hone := State.retireOne_of_plain (s := s.dropFlight f.slot f.node) (i := f.slot) (f := f) (n := f.node) hcore hpre
    hen hhere (by rw [hw, hven]) (by rw [hw, hscnt])
  have hwaits' : ∀ r ∈ (((s.dropFlight f.slot f.node).writeRetired f.slot f.node f.dstamp).countOne f.slot).hg.resident,
      r.waits = false := hwaits
  have hsettled : (s.afterRetirement f.slot f.node f.dstamp).settle f.slot
      = s.afterRetirement f.slot f.node f.dstamp := by
    refine State.settle_of_more ?_ ?_
    · rw [State.st_afterRetirement, hrun]
    · rw [State.retired_afterRetirement, State.hdr_afterRetirement]
      exact Nat.ne_of_lt hmore
  unfold State.retire
  simp only [hresults, List.foldl_cons, List.foldl_nil, hone, State.evict_of_none _ hwaits']
  exact hsettled

/-- With tracing off, a dispatch outside the cores adds its flight and shows its node dispatched (R370, R587). -/
theorem entered_of_untraced {s : State} {i : Fin 16} {n opc : Nat} (hen : s.tr.live.en = false) :
    entered s i n opc 0 false =
      ((s.addFlight (flightAt s i n opc 0 false)).setDep i n (mkDep 0 2 0 0 0xFFF)).progress i := by
  have hready : readied s i n nothing = s := rfl
  unfold entered
  rw [hready]
  unfold State.enter
  extract_lets s1 s2 s3 s4
  have h3 : s3 = (s.addFlight (flightAt s i n opc 0 false)).setDep i n (mkDep 0 2 0 0 0xFFF) := rfl
  have huntraced : s3.tr.live.en = false := hen
  have h4 : s4 = s3 := by
    simp only [s4, List.foldl_cons, List.foldl_nil, State.traceInst_of_untraced huntraced, ite_self]
  rw [h4, h3]
  rfl

end Sys2Proof.Machine
end

section
/-! NOP (R410): its dispatch and its retirement in one, and what they leave of memory. -/
namespace Sys2Proof.Machine
open Sys2Proof.Claims

-- What the turn of a dispatch changes of memory.

theorem reasonAt_congr {s t : State} (hhdr : ∀ j, (t.slot j).hdr = (s.slot j).hdr)
    (hst : ∀ j, (t.slot j).st = (s.slot j).st) (who : Option (Fin 16 × Nat)) (a : Nat) :
    ReasonAt t who a ↔ ReasonAt s who a := by
  simp only [ReasonAt, State.shown, hhdr, hst]

/-- A node of a slot that stays as it was is dispatched where the state in its word alone changed. -/
theorem State.depSt_of_went {s v : State} {i : Fin 16} {n : Nat} (hhdr : (v.slot i).hdr = (s.slot i).hdr)
    (hst : (v.slot i).st = (s.slot i).st) (hwent : s.went v i n = true) :
    depSt (s.depWord i n) = 1 ∧ depSt (v.depWord i n) ≠ 1 := by
  simp only [State.went, State.readyIn, hhdr, hst, Bool.and_eq_true, Bool.not_eq_true', beq_iff_eq] at hwent
  obtain ⟨⟨⟨hrun, hlt⟩, hready⟩, hgone⟩ := hwent
  simp only [hrun, hlt, beq_self_eq_true, Bool.true_and, beq_eq_false_iff_ne] at hgone
  exact ⟨hready, hgone⟩

/-- A turn taken changes words of other nodes that show why they wait, and no other byte (R430, R587). -/
theorem State.get_tookTurn {s v : State} {i : Fin 16} {n : Nat} (hm : v.MemOk)
    (hhdr : (v.slot i).hdr = (s.slot i).hdr) (hst : (v.slot i).st = (s.slot i).st)
    (hidle : ∀ f ∈ v.hg.flight, ¬(f.slot = i ∧ f.node = n))
    (hbyte : depSt (v.depWord i n) ≠ depSt (s.depWord i n) →
      hallNode ((v.slot i).hdr.depAddr n + 1) = v.hall.nid.toNat →
      ¬ReasonAt v (some (i, n)) (hallLoc ((v.slot i).hdr.depAddr n + 1)))
    {a : Nat} (ha : ¬ReasonAt v (some (i, n)) a) : Mem.get (s.tookTurn v i n).mem a = Mem.get v.mem a := by
  unfold State.tookTurn
  split
  case isTrue hwent =>
    obtain ⟨hready, hgone⟩ := State.depSt_of_went hhdr hst hwent
    have hstays := State.showsOthers_showReasons (s := { v with hg := { v.hg with turn := s.nextTurn s.hg.turn i } })
      hm hidle hgone (hbyte fun e => hgone (e.trans hready))
    exact hstays.2 a ha
  case isFalse => rfl

/-- The turn that is noted moves no slot, event or array. -/
theorem State.tookTurn_keeps (s v : State) (i : Fin 16) (n : Nat) :
    (∀ j, (s.tookTurn v i n).slot j = v.slot j) ∧ (s.tookTurn v i n).evt = v.evt ∧
      (s.tookTurn v i n).arrs = v.arrs := by
  obtain ⟨l, m, hshape, -⟩ := s.tookTurn_shape v i n
  rw [hshape]
  exact ⟨fun _ => rfl, rfl, rfl⟩

theorem Mem.getN_congr {m m' : Memory} {a n : Nat} (h : ∀ b, a ≤ b → b < a + n → Mem.get m' b = Mem.get m b) :
    Mem.getN m' a n = Mem.getN m a n := by
  induction n generalizing a with
  | zero => rfl
  | succ n ih =>
    rw [Mem.getN, Mem.getN, h a (Nat.le_refl a) (by omega), ih fun b hab hb => h b (by omega) (by omega)]

/-- Only the bytes that are read matter, and what was fetched of other nodes. -/
theorem State.rdN_of_agree {s t : State} (hhall : t.hall = s.hall) (hrem : t.rem = s.rem) {a n : Nat}
    (h : ∀ k, k < n → hallNode (a + k) = s.hall.nid.toNat →
      Mem.get t.mem (hallLoc (a + k)) = Mem.get s.mem (hallLoc (a + k))) : t.rdN a n = s.rdN a n := by
  induction n generalizing a with
  | zero => rfl
  | succ n ih =>
    have hbyte : t.byteAt a = s.byteAt a := by
      unfold State.byteAt
      rw [hhall, hrem]
      split
      case isTrue hlocal => exact h 0 (Nat.succ_pos n) hlocal
      case isFalse => rfl
    rw [State.rdN, State.rdN, hbyte, ih fun k hk hlocal => ?_]
    rw [Nat.add_assoc, Nat.add_comm 1 k] at hlocal ⊢
    exact h (k + 1) (Nat.succ_lt_succ hk) hlocal

-- The memory after the entry and the retirement of one node.

/-- The record fits its 16 bytes (R371). -/
theorem mkCompletion_lt (ds rs : BitVec 40) (status flags detail : Nat) :
    mkCompletion ds rs status flags detail < 256 ^ 16 := by
  have hfirst : put 0 40 ds.toNat < 2 ^ 40 := by
    rw [put, Nat.shiftLeft_zero]
    exact Nat.mod_lt _ (Nat.two_pow_pos 40)
  refine Nat.lt_of_lt_of_le (m := 2 ^ 112) ?_ (by decide)
  have hflags : put 0 40 ds.toNat + put 40 40 rs.toNat + put 80 8 status + put 88 7 flags < 2 ^ 95 :=
    add_put_lt (add_put_lt (add_put_lt hfirst rfl rs.toNat) rfl status) rfl flags
  exact add_put_lt (hflags.trans (by decide)) rfl detail

theorem State.mem_afterRetirement {s : State} {i : Fin 16} {n : Nat} {d : BitVec 64} :
    (s.afterRetirement i n d).mem = Mem.setN (Mem.setN s.mem (hallLoc ((s.slot i).hdr.compAddr n)) 16
      (mkCompletion (d.setWidth 40) s.stamp 1 0 0xFFFF)) (hallLoc ((s.slot i).hdr.depAddr n)) 8 (mkDep 0 3 0 0 0xFFF) := by
  simp [State.afterRetirement, State.progress, State.forget, State.dropResident, State.countOne, State.writeRetired,
    State.setDep, State.slot_dropFlight, State.stamp]

section
variable {s : State} {i : Fin 16} {n : Nat} {d : BitVec 64}

theorem State.afterRetirement_keeps : (s.afterRetirement i n d).hall = s.hall ∧
    (s.afterRetirement i n d).evt = s.evt ∧ (s.afterRetirement i n d).arrs = s.arrs := by
  refine ⟨?hall, ?evt, ?arrs⟩
  all_goals simp [State.afterRetirement, State.progress, State.forget, State.dropResident, State.countOne,
    State.writeRetired, State.setDep]

theorem State.flight_afterRetirement : (s.afterRetirement i n d).hg.flight = (s.dropFlight i n).hg.flight := by
  simp [State.afterRetirement, State.progress, State.forget, State.dropResident, State.countOne, State.writeRetired,
    State.setDep]

end

/-- NOP from its entry to the end of its retirement (R410). -/
def State.afterNop (s : State) (i : Fin 16) (n : Nat) : State :=
  (((s.addFlight (flightAt s i n 0x5F 0 false)).setDep i n (mkDep 0 2 0 0 0xFFF)).progress i).afterRetirement i n s.tm.tick

section
variable {s : State} {i : Fin 16} {n : Nat} (j : Fin 16)

theorem State.hdr_afterNop : ((s.afterNop i n).slot j).hdr = (s.slot j).hdr := by
  rw [State.afterNop, State.hdr_afterRetirement, State.hdr_progress, State.slot_setDep, State.slot_addFlight]

theorem State.st_afterNop : ((s.afterNop i n).slot j).st = (s.slot j).st := by
  rw [State.afterNop, State.st_afterRetirement, State.st_progress, State.slot_setDep, State.slot_addFlight]

theorem State.retired_afterNop : ((s.afterNop i n).slot i).retired = (s.slot i).retired + 1 := by
  rw [State.afterNop, State.retired_afterRetirement, State.retired_progress, State.slot_setDep, State.slot_addFlight]

theorem State.mem_afterNop : (s.afterNop i n).mem =
    Mem.setN (Mem.setN (Mem.setN s.mem (hallLoc ((s.slot i).hdr.depAddr n)) 8 (mkDep 0 2 0 0 0xFFF))
      (hallLoc ((s.slot i).hdr.compAddr n)) 16 (mkCompletion s.stamp s.stamp 1 0 0xFFFF))
      (hallLoc ((s.slot i).hdr.depAddr n)) 8 (mkDep 0 3 0 0 0xFFF) := by
  rw [State.afterNop, State.mem_afterRetirement, State.hdr_progress, State.slot_setDep, State.slot_addFlight]
  simp [State.progress, State.setDep, State.stamp, State.slot_addFlight]

theorem State.flight_afterNop (hidle : ∀ f ∈ s.hg.flight, ¬(f.slot = i ∧ f.node = n)) :
    (s.afterNop i n).hg.flight = s.hg.flight := by
  have hkept : ∀ f ∈ s.hg.flight, (!(f.slot == i && f.node == n)) = true := fun f hf => by
    simpa [imp_iff_not_or] using hidle f hf
  rw [State.afterNop, State.flight_afterRetirement]
  simp only [State.dropFlight, State.progress, State.setSlot_hg_flight, State.setDep, State.wrN_hg, State.addFlight,
    List.filter_append, List.filter_eq_self.mpr hkept]
  simp [flightAt]

theorem State.afterNop_keeps :
    (s.afterNop i n).hall = s.hall ∧ (s.afterNop i n).evt = s.evt ∧ (s.afterNop i n).arrs = s.arrs := by
  refine ⟨?hall, ?evt, ?arrs⟩
  all_goals simp [State.afterNop, State.afterRetirement_keeps, State.progress, State.setDep]

end

section
variable {s : State} {i : Fin 16} {n : Nat} (hm : s.MemOk)
include hm

theorem State.memOk_afterNop : (s.afterNop i n).MemOk := by
  unfold State.MemOk
  rw [State.mem_afterNop]
  exact Memory.wf_setN (Memory.wf_setN (Memory.wf_setN hm ..) ..) ..

/-- Outside its record and its dependence word, NOP leaves every byte. -/
theorem State.get_afterNop {a : Nat}
    (hdep : a < hallLoc ((s.slot i).hdr.depAddr n) ∨ hallLoc ((s.slot i).hdr.depAddr n) + 8 ≤ a)
    (hrec : a < hallLoc ((s.slot i).hdr.compAddr n) ∨ hallLoc ((s.slot i).hdr.compAddr n) + 16 ≤ a) :
    Mem.get (s.afterNop i n).mem a = Mem.get s.mem a := by
  have h1 := Memory.wf_setN (n := 8) hm (hallLoc ((s.slot i).hdr.depAddr n)) (mkDep 0 2 0 0 0xFFF)
  rw [State.mem_afterNop, Mem.get_setN_other (Memory.wf_setN h1 ..) _ hdep, Mem.get_setN_other h1 _ hrec,
    Mem.get_setN_other hm _ hdep]

theorem State.getN_dep_afterNop :
    Mem.getN (s.afterNop i n).mem (hallLoc ((s.slot i).hdr.depAddr n)) 8 = mkDep 0 3 0 0 0xFFF := by
  rw [State.mem_afterNop, Mem.getN_setN (Memory.wf_setN (Memory.wf_setN hm ..) ..)]
  rfl

theorem State.getN_record_afterNop
    (hapart : hallLoc ((s.slot i).hdr.depAddr n) + 8 ≤ hallLoc ((s.slot i).hdr.compAddr n) ∨
      hallLoc ((s.slot i).hdr.compAddr n) + 16 ≤ hallLoc ((s.slot i).hdr.depAddr n)) :
    Mem.getN (s.afterNop i n).mem (hallLoc ((s.slot i).hdr.compAddr n)) 16
      = mkCompletion s.stamp s.stamp 1 0 0xFFFF := by
  have h1 := Memory.wf_setN (n := 8) hm (hallLoc ((s.slot i).hdr.depAddr n)) (mkDep 0 2 0 0 0xFFF)
  rw [State.mem_afterNop, Mem.getN_congr fun b hlo hhi => Mem.get_setN_other (Memory.wf_setN h1 ..) _ (by omega),
    Mem.getN_setN h1, Nat.mod_eq_of_lt (mkCompletion_lt ..)]

end

/-- What NOP's dispatch and retirement make of the state, where its records lie apart from its task word (R370, R371). -/
theorem retire_entered_nop {s : State} {i : Fin 16} {n : Nat} (hm : s.MemOk) (hd : Dispatchable s i n 0x5F false)
    (hen : s.tr.live.en = false) (hven : twVen (s.taskWord i n) = false) (hscnt : twScnt (s.taskWord i n) = 0)
    (hhere : hallNode ((s.slot i).hdr.compAddr n) = s.hall.nid.toNat)
    (hmore : (s.slot i).retired + 1 < (s.slot i).hdr.twCount) (hwaits : ∀ r ∈ s.hg.resident, r.waits = false)
    (hword : ∀ k, k < 64 → hallNode ((s.slot i).hdr.twAddr n + k) = s.hall.nid.toNat →
      hallLoc ((s.slot i).hdr.twAddr n + k) < hallLoc ((s.slot i).hdr.depAddr n) ∨
        hallLoc ((s.slot i).hdr.depAddr n) + 8 ≤ hallLoc ((s.slot i).hdr.twAddr n + k)) :
    (entered s i n 0x5F 0 false).retire (flightAt s i n 0x5F 0 false) = s.afterNop i n := by
  have hready := hd.ready
  simp only [State.readyNode, Bool.and_eq_true, beq_iff_eq] at hready
  obtain ⟨⟨⟨⟨hrun, -⟩, -⟩, -⟩, -⟩ := hready
  rw [entered_of_untraced hen]
  generalize he : ((s.addFlight (flightAt s i n 0x5F 0 false)).setDep i n (mkDep 0 2 0 0 0xFFF)).progress i = e
  have hslot : (e.slot i).hdr = (s.slot i).hdr ∧ (e.slot i).st = (s.slot i).st
      ∧ (e.slot i).retired = (s.slot i).retired := by
    rw [← he, State.hdr_progress, State.st_progress, State.retired_progress]
    exact ⟨rfl, rfl, rfl⟩
  obtain ⟨hhdr, hst, hretired⟩ := hslot
  have hmem : e.mem = Mem.setN s.mem (hallLoc ((s.slot i).hdr.depAddr n)) 8 (mkDep 0 2 0 0 0xFFF) := by
    rw [← he]
    simp [State.progress, State.setDep, State.slot_addFlight]
  have hhall : e.hall = s.hall := by
    rw [← he]
    rfl
  have hw : e.taskWord i n = s.taskWord i n := by
    unfold State.taskWord
    rw [hhdr]
    refine State.rdN_of_agree hhall (by rw [← he]; rfl) fun k hk hlocal => ?_
    rw [hmem, Mem.get_setN_other hm _ (hword k hk hlocal)]
  have hwaits' : ∀ r ∈ e.hg.resident, r.waits = false := by
    rw [← he]
    exact hwaits
  rw [State.retire_eq_afterRetirement (f := flightAt s i n 0x5F 0 false) rfl rfl rfl (by rw [← he]; exact hen)
    (by rw [← hhall, ← hhdr] at hhere; exact hhere) (by rw [← hw] at hven; exact hven)
    (by rw [← hw] at hscnt; exact hscnt) hwaits' (hst.trans hrun)
    (by rw [← hretired, ← hhdr] at hmore; exact hmore), ← he]
  rfl

/-- The turn that NOP's dispatch takes leaves its own record and word (R430, R587). -/
theorem State.get_tookTurn_afterNop {s : State} {i : Fin 16} {n : Nat} (hm : s.MemOk)
    (hidle : ∀ f ∈ s.hg.flight, ¬(f.slot = i ∧ f.node = n))
    (hreason : ∀ a, hallLoc ((s.slot i).hdr.depAddr n) ≤ a ∧ a < hallLoc ((s.slot i).hdr.depAddr n) + 8 ∨
      hallLoc ((s.slot i).hdr.compAddr n) ≤ a ∧ a < hallLoc ((s.slot i).hdr.compAddr n) + 16 →
      ¬ReasonAt s (some (i, n)) a)
    {a : Nat} (ha : ¬ReasonAt s (some (i, n)) a) :
    Mem.get (s.tookTurn (s.afterNop i n) i n).mem a = Mem.get (s.afterNop i n).mem a := by
  have hsame := reasonAt_congr (State.hdr_afterNop (s := s) (i := i) (n := n)) State.st_afterNop (some (i, n))
  have ⟨hhall, _, _⟩ := State.afterNop_keeps (s := s) (i := i) (n := n)
  refine State.get_tookTurn (State.memOk_afterNop hm) (State.hdr_afterNop i) (State.st_afterNop i)
    ?idle ?byte ((hsame a).not.mpr ha)
  case idle =>
    rw [State.flight_afterNop hidle]
    exact hidle
  case byte =>
    -- a byte that another node's word holds too is outside what NOP wrote, so the state in its own word would stand
    intro hchanged hlocal hin
    rw [hsame] at hin
    rw [State.hdr_afterNop] at hin hlocal
    rw [hhall] at hlocal
    refine hchanged ?_
    rw [State.depSt_depWord, State.depSt_depWord, State.hdr_afterNop]
    have hout := mt (hreason _) (not_not_intro hin)
    simp only [not_or, not_and_or, not_le, not_lt] at hout
    obtain ⟨hdep, hrec⟩ := hout
    unfold State.byteAt
    rw [hhall, if_pos hlocal, if_pos hlocal, State.get_afterNop hm hdep hrec]

/-- Settles O16: NOP's checks pass, its retirement writes the record and the word, and its turn shows the reasons. -/
theorem nopOnlyRetires : Obligations.NopOnlyRetires := by
  unfold Obligations.NopOnlyRetires
  intro i n s hm hd hen h w dep rec_ hacc hven hscnt hhere hmore hidle hwaits hword hapart hreason
  have hu : Unhindered s i n 0x5F 0 false nothing (fun _ w => commonForm w false false) noUnits noUnits :=
    unhindered_of_nothing rfl rfl (by simp [commonForm, failWhen, show twVen (s.taskWord i n) = false from hven])
  have hexec := actsAtDispatch_of_issue (c := .nop i n) (ts := nothing) (free := fun _ => True)
    (effect := State.retire) (fun _ => rfl) s hd trivial hu
  have hdone := retire_entered_nop hm hd hen hven hscnt hhere hmore hwaits hword
  have hregs : (s.afterNop i n).regs = s.regs := by rw [← hdone, regs_retire, State.regs_entered]
  rw [hdone] at hexec
  have hmem := fun {a} => State.get_tookTurn_afterNop (a := a) hm hidle hreason
  have hready := hd.ready
  simp only [State.readyNode, Bool.and_eq_true, beq_iff_eq] at hready
  obtain ⟨⟨⟨⟨hrun, -⟩, -⟩, -⟩, -⟩ := hready
  obtain ⟨-, hevt, harrs⟩ := State.afterNop_keeps (s := s) (i := i) (n := n)
  have hturn : (s.tookTurn (s.afterNop i n) i n).regs = s.regs := regs_tookTurn.trans hregs
  obtain ⟨hslot, hevt', harrs'⟩ := s.tookTurn_keeps (s.afterNop i n) i n
  have hflight := (s.tookTurn_retains (s.afterNop i n) i n).2.trans (State.flight_afterNop hidle)
  generalize s.tookTurn (s.afterNop i n) i n = t at hexec hmem hturn hslot hevt' harrs' hflight
  refine ⟨t, hexec, ?record, ?word, ?frame, ?retired, ?run, hflight, sameRegisters_of_regs hturn,
    congrArg Registers.cut hturn, hevt'.trans hevt, harrs'.trans harrs⟩
  case record =>
    rw [Mem.getN_congr fun b hlo hhi => hmem (hreason b (.inr ⟨hlo, hhi⟩))]
    exact State.getN_record_afterNop hm hapart
  case word =>
    rw [Mem.getN_congr fun b hlo hhi => hmem (hreason b (.inl ⟨hlo, hhi⟩))]
    exact State.getN_dep_afterNop hm
  case frame => exact fun a hdep hrec ha => (hmem ha).trans (State.get_afterNop hm hdep hrec)
  case retired => rw [hslot, State.retired_afterNop]
  case run => rw [hslot, State.st_afterNop, hrun]

end Sys2Proof.Machine
end

section
/-! What goes on beside the slots: operations that begin, end and answer for no slot and lose no event, over the links, the
dependence words, the waits of gangs, and the units that wait for others (R257, R463, R478, R519, R587). -/
namespace Sys2Proof.Machine
open Sys2Proof.Claims

/-- `t` is `s` after something that begins, ends and answers for no slot: the slots, the load under way, which slots have
instructions in flight and the responses of SUBMIT are as they were, and no pending event is lost. -/
structure State.Spares (s t : State) : Prop where
  slots : t.hg.slots = s.hg.slots
  loading : t.hg.loading = s.hg.loading
  flight : t.hg.flight.map Flight.slot = s.hg.flight.map Flight.slot
  resp : t.out.resp = s.out.resp
  pend : ∀ k, s.evt.pend.getLsbD k = true → t.evt.pend.getLsbD k = true

namespace State.Spares
variable {s a b : State}

theorem refl (s : State) : s.Spares s := ⟨rfl, rfl, rfl, rfl, fun _ hk => hk⟩

theorem trans (h : s.Spares a) (k : a.Spares b) : s.Spares b where
  slots := k.slots.trans h.slots
  loading := k.loading.trans h.loading
  flight := k.flight.trans h.flight
  resp := k.resp.trans h.resp
  pend e he := k.pend e (h.pend e he)

theorem slot (h : s.Spares a) (j : Fin 16) : a.slot j = s.slot j := congrArg (·[j]) h.slots

/-- A slot has an instruction in flight afterwards where it had one before. -/
theorem busy (h : s.Spares a) (j : Fin 16) : a.slotBusy j = s.slotBusy j := by
  have key : ∀ t : State, t.slotBusy j = (t.hg.flight.map Flight.slot).any (· == j) := fun t => by
    rw [List.any_map]
    rfl
  rw [key, key, h.flight]

/-- Fields that are none of these may be replaced. -/
theorem fields (h : s.Spares a) {pending mem phase loadOpen warm scanAsked present grade resident slotEn stepNo verBase
    aen held turn fetchTurn rowLast resWait resFrom stw tr arrs tm cut hall pwr gov st pen ports key rem snap obs svc
    links mgmt fused free} : s.Spares ⟨pending, mem, phase, loadOpen, warm, scanAsked, present, grade, ⟨a.hg.slots,
    a.hg.loading, a.hg.flight, resident, slotEn, stepNo, verBase, aen, held, turn, fetchTurn, rowLast, resWait,
    resFrom⟩, stw, tr, arrs, a.evt, tm, cut, hall, pwr, gov, st, pen, ports, key, rem, snap, obs, svc, ⟨a.out.resp,
    links, mgmt, fused⟩, free⟩ :=
  h.trans ⟨rfl, rfl, rfl, rfl, fun _ hk => hk⟩

/-- The operands in the stores, and which gangs wait for theirs, may be replaced. -/
theorem waiting (h : s.Spares a) {resident resWait resFrom} : s.Spares { a with
    hg := { a.hg with resident := resident, resWait := resWait, resFrom := resFrom } } :=
  h.trans ⟨rfl, rfl, rfl, rfl, fun _ hk => hk⟩

theorem ite {c : Prop} [Decidable c] (h : s.Spares a) (k : s.Spares b) : s.Spares (if c then a else b) := by
  split <;> assumption

theorem iteFst {α : Type} {c : Prop} [Decidable c] {p q : State × α} (h : s.Spares p.1) (k : s.Spares q.1) :
    s.Spares (if c then p else q).1 := by
  split <;> assumption

theorem pair {α : Type} {p : State × α} {k : State → α → State} (h : s.Spares p.1)
    (hk : ∀ {t x}, s.Spares t → s.Spares (k t x)) : s.Spares (Prod.casesOn p k) := hk h

theorem pairFst {α β : Type} {p : State × α} {k : State → α → State × β} (h : s.Spares p.1)
    (hk : ∀ {t x}, s.Spares t → s.Spares (k t x).1) : s.Spares (Prod.casesOn p k : State × β).1 := hk h

theorem foldl {α : Type} {f : State → α → State} {l : List α} (h : s.Spares a)
    (hf : ∀ {b x}, s.Spares b → s.Spares (f b x)) : s.Spares (l.foldl f a) := by
  induction l generalizing a with
  | nil => exact h
  | cons x l ih => exact ih (hf h)

theorem foldlFst {α β : Type} {f : State × β → α → State × β} {l : List α} {p : State × β} (h : s.Spares p.1)
    (hf : ∀ {b x}, s.Spares b.1 → s.Spares (f b x).1) : s.Spares (l.foldl f p).1 := by
  induction l generalizing p with
  | nil => exact h
  | cons x l ih => exact ih (hf h)

theorem forN {f : State → Nat → State} {n : Nat} (h : s.Spares a) (hf : ∀ {b k}, s.Spares b → s.Spares (f b k)) :
    s.Spares (forN n a f) := h.foldl hf

theorem notes (h : s.Spares a) (n : a.Notes b) : s.Spares b := by
  obtain ⟨_, _, _, _, rfl, -, -, -, hk, -⟩ := n
  exact h.trans ⟨rfl, rfl, rfl, rfl, hk⟩

theorem writes (h : s.Spares a) (n : a.Writes b) : s.Spares b := h.notes n.notes

theorem sends (h : s.Spares a) (n : a.Sends b) : s.Spares b := by
  obtain ⟨_, _, _, _, rfl⟩ := n
  exact h.fields

theorem readies (h : s.Spares a) (n : a.Readies b) : s.Spares b := by
  obtain ⟨_, hn, hs⟩ := n
  exact (h.notes hn).sends hs

-- Memory, counters and ports.

theorem wrN (h : s.Spares a) {x n v} : s.Spares (a.wrN x n v) := h.fields

theorem setDep (h : s.Spares a) {i n w} : s.Spares (a.setDep i n w) := h.wrN

theorem setWait (h : s.Spares a) {i n st wait waux wpeer} : s.Spares (a.setWait i n st wait waux wpeer) := h.setDep

theorem clearWait (h : s.Spares a) {i n wait} : s.Spares (a.clearWait i n wait) := .ite h.setWait h

theorem bump (h : s.Spares a) {x i n} : s.Spares (a.bump x i n) := by
  obtain ⟨_, e, -⟩ := a.bump_shape x i n
  rw [e]
  exact h.fields

theorem setPort (h : s.Spares a) {p q} : s.Spares (a.setPort p q) := h.fields

theorem setBuf (h : s.Spares a) {x y} : s.Spares (a.setBuf x y) := h.fields

theorem raise (h : s.Spares a) {e w x y z} : s.Spares (a.raise e w x y z) := h.notes (a.raise_notes e w x y z)

/-- A flight that is replaced stays its slot's. -/
theorem setFlight (h : s.Spares a) {f} : s.Spares (a.setFlight f) := by
  refine h.trans ⟨rfl, rfl, ?_, rfl, fun _ hk => hk⟩
  have same : Flight.slot ∘ (fun g : Flight => if g.slot == f.slot && g.node == f.node then f else g) = Flight.slot := by
    funext g
    exact (keepsNode_replace f g).1
  rw [State.setFlight, List.map_map, same]

-- The links, and ports that go DOWN (R463).

theorem sluiceOn (h : s.Spares a) {p m} : s.Spares (a.sluiceOn p m) := h.sends (a.sluiceOn_sends p m)

theorem sluiceAll (h : s.Spares a) {m but} : s.Spares (a.sluiceAll m but) := h.foldl fun h => .ite h h.sluiceOn

theorem freeQueue (h : s.Spares a) {came} : s.Spares (a.freeQueue came) := h.sends (a.freeQueue_sends came)

theorem transmit (h : s.Spares a) {p f came via wake} : s.Spares (a.transmit p f came via wake) :=
  h.sends (a.transmit_sends p f came via wake)

theorem launch (h : s.Spares a) {f wake} : s.Spares (a.launch f wake).1 := h.sends (a.launch_sends f wake)

theorem showHeld (h : s.Spares a) {q} : s.Spares (a.showHeld q) :=
  .ite h (h.foldl fun h => .ite h.setWait (.ite h.setWait h))

theorem hold (h : s.Spares a) {q} : s.Spares (a.hold q) := h.fields.showHeld

theorem sendReq (h : s.Spares a) {q} : s.Spares (a.sendReq q) := .pair h.fields.launch fun h => .ite h h.hold

theorem sendWrite (h : s.Spares a) {i n f} : s.Spares (a.sendWrite i n f) :=
  .ite h.hold (.pair h.fields.fields.launch fun h => .ite h h.hold)

theorem wrAny (h : s.Spares a) {i n x k v} : s.Spares (a.wrAny i n x k v) :=
  .ite h.wrN (h.sends (a.follow_sends _ _)).sendWrite

theorem retransmit (h : s.Spares a) : s.Spares a.retransmit := h.fields.foldl fun h => .ite h h.sendReq

theorem chooseParent (h : s.Spares a) : s.Spares a.chooseParent := by
  unfold State.chooseParent
  refine .ite h.fields ?_
  split
  · exact h.fields
  · exact h.fields

theorem announce (h : s.Spares a) {p} : s.Spares (a.announce p) := sluiceAll h.fields

theorem wakesSince (h : s.Spares a) {s0} : s.Spares (a.wakesSince s0) := h.foldl fun h => .ite h.sluiceOn h

theorem reroute (h : s.Spares a) {held} : s.Spares (a.reroute held) := by
  refine h.foldl fun h => .ite h ?_
  extract_lets
  split
  · exact h.transmit
  · exact h.freeQueue.launch

theorem portDown (h : s.Spares a) {p st ev} : s.Spares (a.portDown p st ev) :=
  .retransmit (.wakesSince (.announce (.chooseParent (.reroute (.ite (h.setPort.foldl fun h => h.setPort).raise
    (h.setPort.foldl fun h => h.setPort))))))

theorem downExhausted (h : s.Spares a) {p} : s.Spares (a.downExhausted p) := .ite h.portDown h

theorem sweep (h : s.Spares a) : s.Spares a.sweep := h.foldl fun h => h.downExhausted

theorem sluiceTo (h : s.Spares a) {dst m} : s.Spares (a.sluiceTo dst m).1 := by
  unfold State.sluiceTo
  split
  · exact .iteFst h.downExhausted.sluiceOn h.downExhausted
  · exact h

-- REDUCEs and their end markers (R478).

theorem showWaits (h : s.Spares a) : s.Spares a.showWaits :=
  h.foldl fun h => .ite h.setWait (h.foldl fun h => .ite h h.clearWait)

theorem noteEnds (h : s.Spares a) : s.Spares a.noteEnds := (h.foldl fun h => .ite h h.setFlight).showWaits

theorem sendOwed (h : s.Spares a) : s.Spares a.sendOwed :=
  h.fields.foldl fun h => .pair h.sluiceTo fun h => .ite h h.fields

theorem sendMarkers (h : s.Spares a) : s.Spares a.sendMarkers := by
  refine noteEnds (h.sendOwed.foldl fun {t f} h => ?_)
  extract_lets due
  have sent : s.Spares (due.foldl (fun (x : State × List (BitVec 12)) p =>
      let (s, ok) := x.1.sluiceTo p (.endMarker (t.markerOf f) p)
      if ok then (s, p :: x.2) else x) (t, f.marked)).1 :=
    foldlFst h fun h => .pairFst h.sluiceTo fun k => .iteFst (p := (_, _)) k h
  exact .pair sent fun h => .ite h h.setFlight

-- A STEP (R257, R264).

theorem evaluate (h : s.Spares a) {l} : s.Spares (a.evaluate l) := by
  unfold State.evaluate
  extract_lets s1
  have formatted : s.Spares s1 := h.notes (a.ladderFormat_notes l)
  split
  extract_lets _ _ _ s2
  have written : s.Spares s2 := formatted.wrN.wrN.wrN
  clear_value s2
  exact .ite written.fields written

theorem evaluateAll (h : s.Spares a) : s.Spares a.evaluateAll := (h.foldl fun h => h.evaluate).fields

theorem sendStepDone (h : s.Spares a) {layers} : s.Spares (a.sendStepDone layers) := h.foldl fun h => h.sluiceTo

theorem sendMerges (h : s.Spares a) : s.Spares a.sendMerges := h.fields.foldl fun h => .ite h h.sendWrite.wrN

theorem stepPump (h : s.Spares a) : s.Spares a.stepPump := by
  unfold State.stepPump
  split
  · exact h
  refine .ite h (.ite h.evaluateAll.setFlight (.ite ?manager (.ite h ?other)))
  case manager =>
    split
    · exact h.setFlight.setWait
    · exact fields (h.evaluateAll.sendStepDone).setFlight
  case other =>
    extract_lets s1
    have merged : s.Spares s1 := .ite h h.sendMerges.setFlight
    exact .ite merged.setWait (.pair merged.sluiceTo fun h => .ite h.setFlight.setWait merged.setWait)

-- A SNAP or RESTORE (R519, R534).

theorem sendReady (h : s.Spares a) {f check} : s.Spares (a.sendReady f check) :=
  setFlight (h.fields.foldl fun h => h.sluiceTo)

theorem askLoad (h : s.Spares a) {snum} : s.Spares (a.askLoad snum) := by
  unfold State.askLoad
  split
  · exact h
  · exact h.setBuf.raise

theorem loadImage (h : s.Spares a) {f} : s.Spares (a.loadImage f) := .ite h.fields.setFlight.askLoad h

theorem readyRestore (h : s.Spares a) {f} : s.Spares (a.readyRestore f) := .sendReady (.ite h h.raise)

theorem restoreReady (h : s.Spares a) {f} : s.Spares (a.restoreReady f) :=
  .ite h.readyRestore (.ite h.setFlight.setBuf.fields.raise h.setFlight.setWait)

theorem holdRestore (h : s.Spares a) {f} : s.Spares (a.holdRestore f) := by
  unfold State.holdRestore
  dsimp only
  split
  · exact .ite h.fields.restoreReady h.fields.raise.loadImage
  · exact h.loadImage

theorem holdPump (h : s.Spares a) {f} : s.Spares (a.holdPump f) :=
  .ite (.ite (.ite h.sendReady h) h.holdRestore) h.setWait

theorem loadPump (h : s.Spares a) {f} : s.Spares (a.loadPump f) := .ite h h.restoreReady

theorem readyPump (h : s.Spares a) {f} : s.Spares (a.readyPump f) := by
  unfold State.readyPump
  split
  · exact h.setWait
  · dsimp only
    split
    · exact h.fields.raise.setFlight
    · exact .ite h.fields.setFlight.setBuf.fields h.fields.setFlight

theorem donePump (h : s.Spares a) {f} : s.Spares (a.donePump f) := by
  unfold State.donePump
  split
  · exact h.setWait
  · exact h.setFlight.fields

theorem snapPhase (h : s.Spares a) {p} : s.Spares (a.snapPhase p) := by
  unfold State.snapPhase
  split
  · exact h
  · exact .ite h (.ite h.holdPump (.ite h.loadPump (.ite h.readyPump h.donePump)))

theorem snapPump (h : s.Spares a) : s.Spares a.snapPump := h.snapPhase.snapPhase.snapPhase.snapPhase

theorem pumpAll (h : s.Spares a) : s.Spares a.pumpAll := h.sendMarkers.stepPump.snapPump

theorem showReasons (h : s.Spares a) : s.Spares a.showReasons := h.writes a.showReasons_writes

-- Version counts, the waits of gangs and the operand stores (R308, R431, R571).

theorem dropUse (h : s.Spares a) {w} : s.Spares (a.dropUse w) := by
  unfold State.dropUse
  refine .ite h ?_
  dsimp only
  split
  · exact h.wrN
  · exact h

theorem countWaits (h : s.Spares a) : s.Spares a.countWaits := .ite h (h.forN fun h => .ite h.bump h).waiting

theorem setWaits (h : s.Spares a) {l} : s.Spares (a.setWaits l) := .ite h h.countWaits.waiting

theorem endWaits (h : s.Spares a) {i} : s.Spares (a.endWaits i) := h.setWaits

theorem noteReady (h : s.Spares a) {i n} : s.Spares (a.noteReady i n) := by
  unfold State.noteReady
  split
  · exact h
  · exact .ite h.setWaits h

theorem noteAll (h : s.Spares a) {i} : s.Spares (a.noteAll i) := h.foldl fun h => h.noteReady

theorem nowResident (h : s.Spares a) {i n} : s.Spares (a.nowResident i n) := h.clearWait.setWaits

theorem serveSpill (h : s.Spares a) : s.Spares a.serveSpill := by
  refine h.foldl fun {b r} h => .ite h ?_
  obtain ⟨_, e, -⟩ := b.bump_shape r.core.val 24 r.clk
  rw [e]
  exact h.fields.nowResident

theorem evict (h : s.Spares a) {drop} : s.Spares (a.evict drop) := h.waiting.serveSpill

end State.Spares

end Sys2Proof.Machine
end

section
/-! The beginning and the end of a load (R414, R417 to R422, R427), and a commit (R439, R440, R596 to R598). -/
namespace Sys2Proof.Machine
open Sys2Proof.Claims

-- SUBMIT that loads.

/-- A SUBMIT that nothing refuses closes the load window, and its slot is in LOAD (R417, R557). -/
theorem execSubmit_of_loaded {req : BitVec 128} {s : State} (h : s.submitRefusal req.toNat (reqSlot req) = none) :
    execSubmit req s = .next { s with
      loadOpen := false
      hg := { s.hg with
        slots := s.hg.slots.set (reqSlot req) { st := .load, tag := BitVec.ofNat 16 (fld req.toNat 16 16) }
        loading := some ⟨reqSlot req, BitVec.ofNat 16 (fld req.toNat 16 16), fld req.toNat 64 60⟩ } } := by
  have h' : State.submitRefusal { s with loadOpen := false } req.toNat (reqSlot req) = none := h
  simp only [execSubmit, h']
  rfl

theorem exec_submit (req : BitVec 128) (s : State) : exec (.submit req) s = execSubmit req s := rfl

/-- Settles O7: no branch of the refusal holds, so that the slot is set and the rest stays. -/
theorem submitBeginsLoading : Obligations.SubmitBeginsLoading := by
  unfold Obligations.SubmitBeginsLoading
  intro req s hv hl hp hk hw hc hg hs
  have hnone : s.submitRefusal req.toNat (reqSlot req) = none := by
    simpa [State.submitRefusal, hv, hl, hp, hk, hw, hc, hs] using hg
  let x : Slot := { st := .load, tag := BitVec.ofNat 16 (fld req.toNat 16 16) }
  refine ⟨_, (exec_submit req s).trans (execSubmit_of_loaded hnone), ?_, rfl, fun i hi => ?_, rfl⟩
  · exact s.slot_setSlot_same (reqSlot req) x
  · exact s.slot_setSlot_other x hi

-- The end of a load.

/-- A use that is taken is written to its version record, and nothing else changes (R308). -/
theorem State.addUse_writes {s t : State} {w : Nat} (h : s.addUse w = some t) : s.Writes t := by
  unfold State.addUse at h
  dsimp only at h
  split at h
  · exact Option.some.inj h ▸ s.wrN_writes _ _ _
  · split at h
    · exact Option.some.inj h ▸ s.wrN_writes _ _ _
    · exact nomatch h

/-- The counts of a graph are written to version records alone (R308). -/
theorem State.addCounts_writes {s t : State} {i : Fin 16} (h : s.addCounts i = some t) : s.Writes t := by
  refine List.foldlRecOn (motive := fun o : Option State => ∀ t, o = some t → s.Writes t) _ _
    (fun t ht => Option.some.inj ht ▸ .refl s) (fun o ho n _ t ht => ?_) t h
  obtain ⟨u, rfl, hu⟩ := Option.bind_eq_some_iff.mp ht
  dsimp only at hu
  split at hu
  · exact (ho u rfl).trans (State.addUse_writes hu)
  · exact Option.some.inj hu ▸ ho u rfl

theorem State.initDeps_writes (s : State) (i : Fin 16) : s.Writes (s.initDeps i) :=
  State.Writes.foldl (fun s _ => s.setDep_writes _ _ _) _ s

/-- The engine as the checks of a load find it: the slot holds the header that the load read, and no load is under way. -/
def State.checking (s : State) (l : Loading) : State :=
  { s with hg := { s.hg with loading := none } }.setSlot l.slot
    { st := .load, tag := l.tag, hdr := mkHdr (s.rdN l.hdrAddr 128) }

/-- The engine as an accepted load leaves it, but for the slot's state and the response: version counts, dependence words
and waiting gangs (R308, R414, R427). -/
def State.loaded (s : State) (l : Loading) : State :=
  (((s.addCounts l.slot).getD s).initDeps l.slot).noteAll l.slot

theorem State.loaded_writes (s : State) (l : Loading) : ∃ u, s.Writes u ∧ s.loaded l = u.noteAll l.slot := by
  refine ⟨_, ?_, rfl⟩
  cases h : s.addCounts l.slot with
  | none => exact s.initDeps_writes l.slot
  | some t => exact (State.addCounts_writes h).trans (t.initDeps_writes l.slot)

theorem State.loaded_spares (s : State) (l : Loading) : s.Spares (s.loaded l) := by
  obtain ⟨u, hu, e⟩ := s.loaded_writes l
  rw [e]
  exact ((State.Spares.refl s).writes hu).noteAll

theorem State.regs_loaded (s : State) (l : Loading) : (s.loaded l).regs = s.regs := by
  obtain ⟨u, hu, e⟩ := s.loaded_writes l
  rw [e, regs_noteAll, hu.notes.regs]

theorem State.slot_respond {s : State} {code slot tag : Nat} {ix : Option Nat} (j : Fin 16) :
    (s.respond code slot tag ix).slot j = s.slot j := rfl

/-- An accepted load: the slot runs the graph, and SUBMIT is answered with 0x00 (R419). -/
theorem State.accept_eq (s : State) (l : Loading) :
    s.accept l = ((s.loaded l).setSlot l.slot { (s.loaded l).slot l.slot with
      st := .run, lastProg := (s.loaded l).tm.tick }).respond 0 l.slot.val l.tag.toNat none := rfl

theorem State.slot_accept_same (s : State) (l : Loading) :
    (s.accept l).slot l.slot = { s.slot l.slot with st := .run, lastProg := (s.loaded l).tm.tick } := by
  rw [State.accept_eq, State.slot_respond, State.slot_setSlot_same, (s.loaded_spares l).slot]

theorem State.slot_accept_other (s : State) {l : Loading} {j : Fin 16} (hj : j ≠ l.slot) :
    (s.accept l).slot j = s.slot j := by
  rw [State.accept_eq, State.slot_respond, State.slot_setSlot_other _ _ hj, (s.loaded_spares l).slot]

theorem State.accept_keeps (s : State) (l : Loading) : (s.accept l).hg.loading = s.hg.loading ∧
    (s.accept l).out.resp = s.out.resp ++ [mkResponse 0 l.slot.val l.tag.toNat none] ∧
    (s.accept l).regs = s.regs := by
  have hspares := s.loaded_spares l
  have hregs := s.regs_loaded l
  rw [State.accept_eq]
  generalize s.loaded l = u at hspares hregs
  exact ⟨hspares.loading, congrArg (· ++ _) hspares.resp, hregs⟩

section
variable {s : State} {l : Loading}

/-- What the load reads of its header does not hang on its being under way. -/
theorem State.endLoad_header :
    mkHdr (State.rdN { s with hg := { s.hg with loading := none } } l.hdrAddr 128) = mkHdr (s.rdN l.hdrAddr 128) :=
  congrArg mkHdr (State.rdN_congr (s := s) (t := { s with hg := { s.hg with loading := none } }) rfl rfl rfl _ _)

/-- The slot of a load whose checks pass runs (R421, R427). -/
theorem State.endLoad_of_passed (h : (s.checking l).loadFail l.slot l.hdrAddr = none) :
    s.endLoad l = (s.checking l).accept l := by
  unfold State.checking at h ⊢
  simp only [State.endLoad, State.endLoad_header, h]

/-- A load is refused with its first failure (R421). -/
theorem State.endLoad_of_failed {e : Err} {ix : Option Nat}
    (h : (s.checking l).loadFail l.slot l.hdrAddr = some (e, ix)) :
    s.endLoad l = ({ s with hg := { s.hg with loading := none } } : State).refuse l e.code ix := by
  unfold State.checking at h
  simp only [State.endLoad, State.endLoad_header, h]

/-- A refusal frees the slot and answers with the code (R418, R419). -/
theorem State.refuse_eq {code : Nat} {ix : Option Nat} : s.refuse l code ix = { s with
    hg := { s.hg with slots := s.hg.slots.set l.slot {} }
    out := { s.out with resp := s.out.resp ++ [mkResponse code l.slot.val l.tag.toNat ix] } } := rfl

/-- Words show their reasons once the slot runs (R587). -/
theorem exec_graphLoadComplete (h : s.hg.loading = some l) :
    exec .graphLoadComplete s
      = .next (if ((s.endLoad l).slot l.slot).st = .run then (s.endLoad l).showReasons else s.endLoad l) := by
  change execGraphLoadComplete s = _
  rw [execGraphLoadComplete, h]

end

/-- Settles O8: a load that passes changes words, counts and waits beside its slot; one that fails is refused. -/
theorem loadEndsWithResponse : Obligations.LoadEndsWithResponse := by
  unfold Obligations.LoadEndsWithResponse
  intro s l hl h a
  refine ⟨fun hpass => ?passes, fun e ix hfail => ?fails⟩
  case passes =>
    have hslot := (s.checking l).slot_accept_same l
    have hothers := fun {j : Fin 16} => (s.checking l).slot_accept_other (l := l) (j := j)
    obtain ⟨hloading, hresp, hregs⟩ := (s.checking l).accept_keeps l
    have hshow := (State.Spares.refl ((s.checking l).accept l)).showReasons
    have hexec := exec_graphLoadComplete hl
    rw [State.endLoad_of_passed hpass, if_pos (by rw [hslot])] at hexec
    have hchecking : (s.checking l).slot l.slot = { st := .load, tag := l.tag, hdr := h } :=
      State.slot_setSlot_same _ _ _
    rw [hchecking] at hslot
    refine ⟨_, hexec, hshow.resp.trans hresp, ?_, ?_, ?_, hshow.loading.trans hloading, fun i hi => ?others,
      sameRegisters_of_regs (regs_showReasons.trans hregs)⟩
    case others =>
      rw [hshow.slot, hothers hi]
      exact State.slot_setSlot_other _ _ hi
    all_goals rw [hshow.slot, hslot]
  case fails =>
    have hexec := exec_graphLoadComplete hl
    have hend := State.endLoad_of_failed hfail
    have hfree : (s.endLoad l).slot l.slot = {} := by
      rw [hend]
      exact State.slot_setSlot_same { s with hg := { s.hg with loading := none } } l.slot {}
    rw [if_neg (by rw [hfree]; decide)] at hexec
    refine ⟨_, hexec, ?_, hfree, fun i hi => ?_, ?_⟩
    · rw [hend, State.refuse_eq]
    · rw [hend]
      exact State.slot_setSlot_other { s with hg := { s.hg with loading := none } } {} hi
    · rw [hend, State.refuse_eq]

-- Writes to the window that act at once, and GO.

theorem State.asleep_of_awake {s : State} (h : Awake s) : s.asleep = false := by
  obtain ⟨hdeep, hwaking⟩ := h
  simpa [State.asleep, hdeep] using hwaking

/-- An engine that is awake takes a write at once (R592). -/
theorem State.write_of_awake {s : State} (h : Awake s) (off : Nat) (half : Option Bool) (v : BitVec 64) :
    s.write off half v = answered (s.writeNow off (writeOf half v)) := by
  rw [State.write, State.regWrite, State.asleep_of_awake h]
  rfl

/-- The cases of R596. -/
theorem State.commitBad_iff {s : State} : s.commitBad = true ↔ s.stw.pend.base.toNat % 4096 ≠ 0
    ∨ s.mine s.stw.pend.base.toNat (16 * 2 ^ 20) = false ∨ s.tr.pend.en = true ∧ s.tr.pend.size = 0
    ∨ stackBytes < s.tr.pend.base.toNat + 4096 * s.tr.pend.size.toNat := by
  simp [State.commitBad, or_assoc]

theorem exec_go_of_awake {s : State} (h : Awake s) : exec .go s = .next (answered s.commit) := by
  rw [exec_go, State.write64, State.write_of_awake h]
  rfl

/-- Settles O24: the branch of a commit is the cases of R596, and within it whether the ring moves. -/
theorem commitTakesAllOrNothing : Obligations.CommitTakesAllOrNothing := by
  unfold Obligations.CommitTakesAllOrNothing
  intro s ha
  refine ⟨fun hbase hmine hsize hroom => ?_, fun hbad => ?_⟩
  · have hgood : ¬s.commitBad = true := by
      rw [State.commitBad_iff]
      rintro (hb | hm | hz | hr)
      exacts [hb hbase, Bool.false_ne_true (hm.symm.trans hmine), hsize hz, Nat.not_le.mpr hr hroom]
    rw [exec_go_of_awake ha, State.commit, if_neg hgood]
    by_cases hring : s.tr.pend.base = s.tr.live.base ∧ s.tr.pend.size = s.tr.live.size
    · simp [hring]
    · rw [if_neg hring]
      have hmoved : (s.tr.pend.base != s.tr.live.base || s.tr.pend.size != s.tr.live.size) = true := by
        rw [Bool.or_eq_true, bne_iff_ne, bne_iff_ne]
        exact not_and_or.mp hring
      simp only [hmoved, if_true]
  · rw [exec_go_of_awake ha, State.commit, if_pos (State.commitBad_iff.mpr hbad)]

end Sys2Proof.Machine
end

section
/-! ABORT (R425, R600): the end of a slot (R424, R426), and what a slot's state makes of its abandonment. -/
namespace Sys2Proof.Machine
open Sys2Proof.Claims

/-- A pass over the slots in which one slot alone has something to do. -/
theorem foldl_allSlots_of_one {α : Type} {f : α → Fin 16 → α} {i : Fin 16} {a : α}
    (before : ∀ j, j ≠ i → f a j = a) (after : ∀ j, j ≠ i → f (f a i) j = f a i) : allSlots.foldl f a = f a i := by
  have idle : ∀ {b : α} {l : List (Fin 16)}, (∀ j, j ≠ i → f b j = b) → i ∉ l → l.foldl f b = b := by
    intro b l hb
    induction l with
    | nil => exact fun _ => rfl
    | cons j l ih =>
      intro hi
      rw [List.mem_cons, not_or] at hi
      rw [List.foldl_cons, hb j (Ne.symm hi.1), ih hi.2]
  have hmem : i ∈ allSlots := (by decide : ∀ i : Fin 16, i ∈ allSlots) i
  obtain ⟨l, r, hsplit⟩ := List.append_of_mem hmem
  have hnodup : (l ++ i :: r).Nodup := hsplit ▸ (by decide : allSlots.Nodup)
  have hl : i ∉ l := fun h => (List.nodup_append.mp hnodup).2.2 i h i List.mem_cons_self rfl
  have hr : i ∉ r := (List.nodup_cons.mp (List.nodup_append.mp hnodup).2.1).1
  rw [hsplit, List.foldl_append, idle before hl, List.foldl_cons, idle after hr]

-- The end of a slot.

/-- The end of a slot: what it does beside the slots, then the slot is FREE and SLOTEND is raised (R424, R426). -/
theorem State.endSlot_shape (s : State) (i : Fin 16) : ∃ (u : State) (x y : Nat),
    (∀ j, u.slot j = s.slot j) ∧ (∀ k, s.evt.pend.getLsbD k = true → u.evt.pend.getLsbD k = true) ∧
    s.endSlot i = (u.setSlot i {}).raise .slotend { unit := 8, slot := i.val } x y 0 := by
  unfold State.endSlot
  extract_lets _ _ s2
  have hspares : s.Spares s2 := ((State.Spares.refl s).forN fun h => .ite h h.dropUse).evict.endWaits
  clear_value s2
  refine ⟨_, _, _, ?_, ?_, rfl⟩
  exacts [hspares.slot, hspares.pend]

section
variable {s : State} {i : Fin 16}

theorem State.slot_raise (e : Ev) (w : Who) (x y z : Nat) (j : Fin 16) : (s.raise e w x y z).slot j = s.slot j :=
  (State.Spares.refl s).raise.slot j

theorem State.slot_endSlot_same : (s.endSlot i).slot i = {} := by
  obtain ⟨u, x, y, -, -, e⟩ := s.endSlot_shape i
  rw [e, State.slot_raise, State.slot_setSlot_same]

theorem State.slot_endSlot_other {j : Fin 16} (hj : j ≠ i) : (s.endSlot i).slot j = s.slot j := by
  obtain ⟨u, x, y, hslot, -, e⟩ := s.endSlot_shape i
  rw [e, State.slot_raise, State.slot_setSlot_other _ _ hj, hslot]

/-- SLOTEND is pending after the end of a slot (R424, R603). -/
theorem State.slotend_endSlot : (s.endSlot i).evt.pend.getLsbD 17 = true := by
  obtain ⟨u, x, y, -, -, e⟩ := s.endSlot_shape i
  rw [e]
  exact State.raise_pend _ .slotend _ _ _ _

theorem State.settle_of_halted (hst : (s.slot i).st = .halt) (hidle : s.slotBusy i = false) :
    s.settle i = s.endSlot i := by
  simp [State.settle, hst, hidle]

-- Abandonment, by the slot's state.

theorem State.abandon_of_idle (h : (s.slot i).st = .free ∨ (s.slot i).st = .halt) : s.abandon i = s := by
  unfold State.abandon
  obtain h | h := h <;> rw [h]

/-- A load that is abandoned is answered with 0x25, and its slot is FREE (R425). -/
theorem State.abandon_of_loading {l : Loading} (hst : (s.slot i).st = .load) (hl : s.hg.loading = some l) :
    (∀ j, (s.abandon i).slot j = (s.setSlot l.slot {}).slot j) ∧ (s.abandon i).hg.loading = none ∧
    (s.abandon i).out.resp = s.out.resp ++ [mkResponse 0x25 l.slot.val l.tag.toNat none] := by
  unfold State.abandon
  rw [hst]
  simp only [hl]
  exact ⟨fun _ => rfl, trivial, rfl⟩

/-- A slot in RUN with nothing in flight ends at once (R425). -/
theorem State.abandon_of_running (hst : (s.slot i).st = .run) (hidle : s.slotBusy i = false) :
    ∃ u : State, (∀ j, j ≠ i → u.slot j = s.slot j) ∧ s.abandon i = u.endSlot i := by
  unfold State.abandon
  rw [hst]
  extract_lets x s1
  have hspares : s.Spares (s1.endWaits i) := ((State.Spares.refl s).forN fun h => .ite h.dropUse h).endWaits
  generalize s1.endWaits i = t at hspares
  refine ⟨_, fun j hj => ?_, State.settle_of_halted (congrArg Slot.st (State.slot_setSlot_same ..)) ?_⟩
  · rw [State.slot_setSlot_other _ _ hj, hspares.slot]
  · exact (hspares.busy i).trans hidle

theorem regs_abandon : (s.abandon i).regs = s.regs := by
  unfold State.abandon
  split
  · rfl
  · rfl
  · split <;> rfl
  · simp
  · simp

end

-- The command.

theorem regs_answered {s : State} : (answered s).regs = s.regs := rfl

theorem State.Spares.answered {s a : State} (h : s.Spares a) : s.Spares (answered a) :=
  h.trans ⟨rfl, rfl, rfl, rfl, fun _ hk => hk⟩

theorem besidesPorts_abortSlots {s : State} {mask : BitVec 16} :
    (s.abortSlots mask).regs.besidesPorts = s.regs.besidesPorts := by
  simp [State.abortSlots, regs_abandon]

theorem exec_abort_of_awake {s : State} (h : Awake s) (mask : BitVec 16) :
    exec (.abort mask) s = .next (answered (s.abortSlots mask)) := by
  have hmask : ((writeOf none (BitVec.ofNat 64 mask.toNat)).v
      &&& (writeOf none (BitVec.ofNat 64 mask.toNat)).reach).setWidth 16 = mask := by
    rw [writeOf_none_v]
    change (BitVec.ofNat 64 mask.toNat &&& BitVec.allOnes 64).setWidth 16 = mask
    rw [BitVec.and_allOnes]
    refine BitVec.eq_of_toNat_eq ?_
    simp
  change Host.Outcome.next (s.write64 0x108 mask.toNat) = _
  rw [State.write64, State.write_of_awake h]
  conv_rhs => rw [← hmask]
  rfl

/-- ABORT of one slot abandons it, and the units that wait for others go on (R425, R519). -/
theorem State.abortSlots_of_one {s : State} {i : Fin 16} {mask : BitVec 16}
    (h : ∀ j : Fin 16, mask.getLsbD j.val = decide (j = i)) :
    s.abortSlots mask = (s.sweep.abandon i).pumpAll.showReasons := by
  have one := foldl_allSlots_of_one (f := fun (t : State) j => if mask.getLsbD j.val then t.abandon j else t) (i := i)
    (a := s.sweep) (fun j hj => if_neg (by rwa [h j, decide_eq_true_iff]))
    fun j hj => if_neg (by rwa [h j, decide_eq_true_iff])
  rw [State.abortSlots, one, if_pos (by rw [h i, decide_eq_true_iff])]

/-- Settles O21: the sweep before the abandonment and the units after it spare the slots. -/
theorem abortEndsSlot : Obligations.AbortEndsSlot := by
  unfold Obligations.AbortEndsSlot
  intro i mask s ha hmask
  have hexec := exec_abort_of_awake ha mask
  have hregs : SameButPorts s (answered (s.abortSlots mask)) :=
    sameButPorts_of_besidesPorts (by rw [regs_answered, besidesPorts_abortSlots])
  rw [State.abortSlots_of_one hmask] at hexec hregs
  have hsweep := (State.Spares.refl s).sweep
  have hafter : (s.sweep.abandon i).Spares (answered (s.sweep.abandon i).pumpAll.showReasons) :=
    (State.Spares.refl _).pumpAll.showReasons.answered
  refine ⟨fun hrun hidle => ?running, fun l hload hl hli => ?loading, fun hst => ?idle⟩
  case running =>
    obtain ⟨u, hu, e⟩ := State.abandon_of_running ((congrArg Slot.st (hsweep.slot i)).trans hrun)
      ((hsweep.busy i).trans hidle)
    refine ⟨_, hexec, ?_, hafter.pend 17 ?_, fun j hj => ?_, hregs⟩
    · rw [hafter.slot, e, State.slot_endSlot_same]
    · rw [e]
      exact State.slotend_endSlot
    · rw [hafter.slot, e, State.slot_endSlot_other hj, hu j hj, hsweep.slot]
  case loading =>
    subst hli
    obtain ⟨hslots, hloading, hresp⟩ :=
      State.abandon_of_loading ((congrArg Slot.st (hsweep.slot l.slot)).trans hload) (hsweep.loading.trans hl)
    refine ⟨_, hexec, ?_, hafter.loading.trans hloading, ?_, fun j hj => ?_, hregs⟩
    · rw [hafter.slot, hslots, State.slot_setSlot_same]
    · rw [hafter.resp, hresp, hsweep.resp]
    · rw [hafter.slot, hslots, State.slot_setSlot_other _ _ hj, hsweep.slot]
  case idle =>
    have e : s.sweep.abandon i = s.sweep := State.abandon_of_idle (by rwa [hsweep.slot i])
    rw [hexec, e]

end Sys2Proof.Machine
end

section
/-! Nodes that wait (R430, R437, R587, R600), and one that fails its checks (R373, R375, R428). -/
namespace Sys2Proof.Machine
open Sys2Proof.Claims

-- Attempts that are held.

section
variable {s : State} {i : Fin 16} {n opc : Nat} {go : State → State}

/-- A ready node whose slot yields is not dispatched (R430). -/
theorem State.inTurn_of_yielding (hc : Counting s) (hready : s.readyNode i n opc = true)
    (hen : s.hg.slotEn.getLsbD i.val = true) (hyields : s.yields i = true) :
    s.inTurn i n opc go = s.setWait i n 1 0x01 0 0xFFF := by
  simp [State.inTurn, State.sweep_of_counting hc, hready, hen, hyields]

/-- A disabled slot has nothing to yield to. -/
theorem State.inTurn_of_disabled (hc : Counting s) (hoff : s.hg.slotEn.getLsbD i.val = false) :
    s.inTurn i n opc go = s.tookTurn (go s) i n := by
  unfold State.inTurn
  rw [State.sweep_of_counting hc]
  exact if_neg (by rw [hoff]; exact Bool.false_ne_true)

/-- A ready node of a disabled slot is not dispatched (R600). -/
theorem State.attempt_of_disabled (hready : s.readyNode i n opc = true) (hoff : s.hg.slotEn.getLsbD i.val = false) :
    s.attempt i n opc go = s.setWait i n 1 0x08 0 0xFFF := by
  rw [State.attempt, hready, hoff]
  rfl

/-- A STEP in flight holds every other dispatch (R257). -/
theorem State.attempt_of_stepping (hready : s.readyNode i n opc = true) (hen : s.hg.slotEn.getLsbD i.val = true)
    (hstep : s.flying 0x52 = true) : s.attempt i n opc go = s.setWait i n 1 0x09 0 0xFFF := by
  rw [State.attempt, hready, hen, hstep]
  rfl

end

-- A dispatch that fails.

/-- An instruction that can be dispatched and fails its checks retires at once (R373). -/
theorem State.issue_of_failing {s : State} {i : Fin 16} {n opc : Nat} {core : Fin 8} {onCore : Bool}
    {names : State → Nat → List Tensor} {check : State → Nat → Option Fail} {needs early : State → Nat → List Nat}
    {effect : State → Flight → State} {x : Fail} (h : Dispatchable s i n opc onCore)
    (hfirst : s.firstUnits i n (names s (s.taskWord i n)) (early s (s.taskWord i n)) = [])
    (hfails : check (readied s i n names) (s.taskWord i n) = some x) :
    s.issue i n opc core onCore names check needs effect early
      = (readied s i n names).failNow i n (s.taskWord i n) core onCore x := by
  unfold State.issue
  rw [State.attempt_of_dispatchable h]
  dsimp only
  rw [if_neg (not_not.mpr hfirst)]
  change (match check (readied s i n names) (s.taskWord i n) with
    | some x => s.onAwake onCore ((readied s i n names).failNow i n (s.taskWord i n) core onCore x)
    | none => _) = _
  rw [hfails]
  exact State.onAwake_of_dispatchable h _

/-- What a retirement does beside the slots' own states. -/
theorem State.Spares.stewardMerge {s a : State} (h : s.Spares a) {l g} : s.Spares (a.stewardMerge l g) :=
  .ite (.fields (.wrN (.ite (h.readies (a.initLayer_readies _)) (.ite h h.wrN)))) h

theorem State.Spares.lower {s a : State} (h : s.Spares a) {i m} : s.Spares (a.lower i m) := by
  unfold State.lower
  exact .ite h.setDep.noteReady h.setDep

section
variable {s : State} {k : Nat}

/-- An event that is pending stays so when a task word retires. -/
theorem State.pend_retireOne (h : s.evt.pend.getLsbD k = true) (i : Fin 16) (f : Flight) (r : Result) :
    (s.retireOne i f r).evt.pend.getLsbD k = true := by
  unfold State.retireOne
  extract_lets _ s1 s2 s3 _ s4 s5 s6 s7 _ s8 s9
  have counts : s.Spares s2 :=
    .ite (.bump ((State.Spares.refl s).foldl fun h => h.bump)) ((State.Spares.refl s).foldl fun h => h.bump)
  have word : s.Spares s6 := counts.stewardMerge.wrAny.dropUse.setDep
  have trace : s.Spares s7 := .ite (word.notes (s6.traceInst_notes ..)) word
  have lowered : s8.Spares s9 := (State.Spares.refl s8).foldl fun h => h.lower
  have hpend : s9.evt.pend.getLsbD k = true := lowered.pend k (trace.pend k h)
  split
  · exact ((State.Spares.refl s9).endWaits (i := i)).pend k hpend
  · exact hpend

theorem State.pend_settle (h : s.evt.pend.getLsbD k = true) (i : Fin 16) : (s.settle i).evt.pend.getLsbD k = true := by
  have hend : (s.endSlot i).evt.pend.getLsbD k = true := by
    obtain ⟨u, x, y, -, hpend, e⟩ := s.endSlot_shape i
    rw [e]
    exact (State.Spares.refl (u.setSlot i {})).raise.pend k (hpend k h)
  unfold State.settle
  dsimp only
  split
  · exact hend
  · split
    · exact hend
    · exact h

theorem State.pend_retire (h : s.evt.pend.getLsbD k = true) (f : Flight) : (s.retire f).evt.pend.getLsbD k = true := by
  unfold State.retire
  extract_lets i s1 s2 s3
  have hwords : s2.evt.pend.getLsbD k = true :=
    List.foldlRecOn (motive := fun t : State => t.evt.pend.getLsbD k = true) f.results _ h
      fun t ht r _ => State.pend_retireOne ht i f r
  have hout : s2.Spares s3 := (State.Spares.refl s2).evict
  have hforget : ((s3.forget i f.node).progress i).evt.pend.getLsbD k = true := hout.pend k hwords
  exact State.pend_settle hforget i

/-- The event of a failure at dispatch is pending (R428). -/
theorem State.pend_failNow (s : State) (i : Fin 16) (n w : Nat) (core : Fin 8) (onCore : Bool) (x : Fail) :
    (s.failNow i n w core onCore x).evt.pend.getLsbD x.err.event.code = true :=
  State.pend_retire (State.raise_pend ..) _

theorem State.flightOf_failNow (s : State) (i : Fin 16) (n w : Nat) (core : Fin 8) (onCore : Bool) (x : Fail) :
    (s.failNow i n w core onCore x).flightOf i n = none := State.flightOf_retire _ _

end

/-- NOP with `VEN` is a FORMAT failure (R379). -/
theorem exec_nop_of_ven {s : State} {i : Fin 16} {n : Nat} (h : Dispatchable s i n 0x5F false)
    (hven : twVen (s.taskWord i n) = true) : exec (.nop i n) s = .next (s.tookTurn
      (s.failNow i n (s.taskWord i n) 0 false { err := .format }) i n) := by
  have hissue : s.startNop i n = s.failNow i n (s.taskWord i n) 0 false { err := .format } :=
    State.issue_of_failing (names := nothing) h
      (by simp [State.firstUnits, State.stewardUnits, State.unread, State.missing, unite, nothing])
      (by simp [commonForm, failWhen, failF, hven])
  rw [← hissue]
  exact congrArg Host.Outcome.next (State.inTurn_of_turn h.turn h.counting)

-- Dependence words of a slot on this node.

/-- The dependence words of a slot lie on this node. -/
structure State.WordsHere (s : State) (i : Fin 16) : Prop where
  node : hallNode ((s.slot i).hdr.depAddr 0) = s.hall.nid.toNat
  fits : hallLoc ((s.slot i).hdr.depAddr 0) + 8 * (s.slot i).hdr.twCount ≤ 2 ^ 48

/-- Bytes within a node's 48 bits of place follow one another. -/
theorem hallLoc_add_of_fits {a k : Nat} (h : hallLoc a + k < 2 ^ 48) : hallLoc (a + k) = hallLoc a + k := by
  simp only [hallLoc, fld, Nat.shiftRight_zero] at *
  omega

theorem hallNode_add_of_fits {a k : Nat} (h : hallLoc a + k < 2 ^ 48) : hallNode (a + k) = hallNode a := by
  simp only [hallLoc, hallNode, fld, Nat.shiftRight_eq_div_pow] at *
  omega

theorem State.rdN_of_fits {s : State} {a n : Nat} (hnode : hallNode a = s.hall.nid.toNat)
    (hfits : hallLoc a + n ≤ 2 ^ 48) : s.rdN a n = Mem.getN s.mem (hallLoc a) n := by
  induction n generalizing a with
  | zero => rfl
  | succ n ih =>
    rw [State.rdN, Mem.getN, State.byteAt, if_pos hnode]
    cases n with
    | zero => rfl
    | succ n =>
      have hlt : hallLoc a + 1 < 2 ^ 48 := by omega
      rw [ih ((hallNode_add_of_fits hlt).trans hnode) (by rw [hallLoc_add_of_fits hlt]; omega), hallLoc_add_of_fits hlt]

theorem depSt_mkDep {rem st wait waux wpeer : Nat} (h : st < 8) : depSt (mkDep rem st wait waux wpeer % 256 ^ 8) = st := by
  simp only [depSt, mkDep, put, fld, Nat.shiftLeft_eq, Nat.shiftRight_eq_div_pow]
  omega

theorem depWait_mkDep {rem st wait waux wpeer : Nat} (h : wait < 32) :
    depWait (mkDep rem st wait waux wpeer % 256 ^ 8) = wait := by
  simp only [depWait, mkDep, put, fld, Nat.shiftLeft_eq, Nat.shiftRight_eq_div_pow]
  omega

namespace State.WordsHere
variable {s : State} {i : Fin 16} {m n : Nat}

theorem writes {t : State} (h : s.WordsHere i) (w : s.Writes t) : t.WordsHere i := by
  obtain ⟨_, rfl, -⟩ := w
  exact ⟨h.node, h.fits⟩

theorem hallLoc_depAddr (h : s.WordsHere i) (hn : n < (s.slot i).hdr.twCount) :
    hallLoc ((s.slot i).hdr.depAddr n) = hallLoc ((s.slot i).hdr.depAddr 0) + 8 * n :=
  hallLoc_add_of_fits (a := (s.slot i).hdr.depAddr 0) (by have := h.fits; omega)

theorem depWord_eq (h : s.WordsHere i) (hn : n < (s.slot i).hdr.twCount) :
    s.depWord i n = Mem.getN s.mem (hallLoc ((s.slot i).hdr.depAddr n)) 8 := by
  have hnode : hallNode ((s.slot i).hdr.depAddr n) = hallNode ((s.slot i).hdr.depAddr 0) :=
    hallNode_add_of_fits (a := (s.slot i).hdr.depAddr 0) (by have := h.fits; omega)
  exact State.rdN_of_fits (hnode.trans h.node) (by rw [h.hallLoc_depAddr hn]; have := h.fits; omega)

theorem depWord_setWait (h : s.WordsHere i) (hm : s.MemOk) (hn : n < (s.slot i).hdr.twCount) (st wait waux wpeer : Nat) :
    (s.setWait i n st wait waux wpeer).depWord i n
      = mkDep (depRem (s.depWord i n)) st wait waux wpeer % 256 ^ 8 := by
  rw [(h.writes (s.setWait_writes ..)).depWord_eq hn]
  exact Mem.getN_setN hm _ _ _

/-- A word that shows its reason leaves the words of other nodes. -/
theorem depWord_showReason_other (h : s.WordsHere i) (hok : s.MemOk) (hm : m < (s.slot i).hdr.twCount)
    (hn : n < (s.slot i).hdr.twCount) (hne : m ≠ n) : (s.showReason i m).depWord i n = s.depWord i n := by
  have hslot : (s.showReason i m).slot i = s.slot i := by
    obtain ⟨_, e, -⟩ := s.showReason_writes i m
    rw [e]
    rfl
  rw [(h.writes (s.showReason_writes i m)).depWord_eq (by rwa [hslot]), h.depWord_eq hn, hslot]
  refine Mem.getN_congr fun b hlo hhi => State.showReason_frame hok i m b ?_
  rw [h.hallLoc_depAddr hn] at hlo hhi
  rw [h.hallLoc_depAddr hm]
  omega

/-- A node that has a reason shows it, and its state stays. -/
theorem depWord_showReason_same (h : s.WordsHere i) (hok : s.MemOk) (hn : n < (s.slot i).hdr.twCount) {wait aux : Nat}
    (hwait : wait < 32) (hreason : s.reasonOf i n = some (wait, aux)) :
    depSt ((s.showReason i n).depWord i n) = depSt (s.depWord i n) ∧
      depWait ((s.showReason i n).depWord i n) = wait := by
  unfold State.showReason
  simp only [hreason]
  split
  · rename_i hshows
    exact ⟨rfl, hshows.1⟩
  · rw [h.depWord_setWait hok hn]
    exact ⟨depSt_mkDep (fld_lt _ 12 3), depWait_mkDep hwait⟩

end State.WordsHere

/-- A pass keeps what each of its steps keeps, and what one of them establishes. -/
theorem foldl_establishes {α β : Type} {f : α → β → α} {P Q : α → Prop} {l : List β} {n : β} {a : α} (hn : n ∈ l)
    (keep : ∀ b, ∀ x ∈ l, P b → P (f b x)) (stay : ∀ b, ∀ x ∈ l, P b → Q b → Q (f b x)) (est : ∀ b, P b → Q (f b n))
    (ha : P a) : Q (l.foldl f a) := by
  obtain ⟨l, r, rfl⟩ := List.append_of_mem hn
  rw [List.foldl_append, List.foldl_cons]
  have before : P (l.foldl f a) := List.foldlRecOn l f ha fun b hb x hx => keep b x (by simp [hx]) hb
  have after : P (r.foldl f (f (l.foldl f a) n)) ∧ Q (r.foldl f (f (l.foldl f a) n)) :=
    List.foldlRecOn (motive := fun b => P b ∧ Q b) r f ⟨keep _ n (by simp) before, est _ before⟩
      fun b ⟨hp, hq⟩ x hx => ⟨keep b x (by simp [hx]) hp, stay b x (by simp [hx]) hp hq⟩
  exact after.2

section
variable {s : State} {i : Fin 16} {n : Nat}

/-- A pass over a slot's nodes shows the reason of a ready one, where it is the same throughout the pass. -/
theorem State.depWait_showSlot (h : s.WordsHere i) (hok : s.MemOk) (hn : n < (s.slot i).hdr.twCount)
    (hst : depSt (s.depWord i n) = 1) {wait aux : Nat} (hwait : wait < 32)
    (hreason : ∀ t, s.Writes t → depSt (t.depWord i n) = 1 → t.reasonOf i n = some (wait, aux)) :
    depWait ((forN (s.slot i).hdr.twCount s fun s n => s.showReason i n).depWord i n) = wait := by
  have count : ∀ t, s.Writes t → (t.slot i).hdr.twCount = (s.slot i).hdr.twCount ∧ t.MemOk := by
    rintro _ ⟨_, rfl, k⟩
    exact ⟨rfl, k hok⟩
  have same : ∀ t, s.Writes t → depSt (t.depWord i n) = 1 →
      depSt ((t.showReason i n).depWord i n) = depSt (t.depWord i n) ∧
        depWait ((t.showReason i n).depWord i n) = wait := fun t hw hone =>
    have ⟨hcount, hmem⟩ := count t hw
    (h.writes hw).depWord_showReason_same hmem (hcount ▸ hn) hwait (hreason t hw hone)
  have other : ∀ t, ∀ m ∈ List.range (s.slot i).hdr.twCount, s.Writes t → m ≠ n →
      (t.showReason i m).depWord i n = t.depWord i n := fun t m hm hw hne =>
    have ⟨hcount, hmem⟩ := count t hw
    (h.writes hw).depWord_showReason_other hmem (hcount ▸ List.mem_range.mp hm) (hcount ▸ hn) hne
  refine foldl_establishes (P := fun t => s.Writes t ∧ depSt (t.depWord i n) = 1)
    (Q := fun t => depWait (t.depWord i n) = wait) (List.mem_range.mpr hn) ?keep ?stay ?est ⟨.refl s, hst⟩
  case keep =>
    rintro t m hm ⟨hw, hone⟩
    refine ⟨hw.trans (t.showReason_writes i m), ?_⟩
    obtain rfl | hne := eq_or_ne m n
    · exact (same t hw hone).1.trans hone
    · rw [other t m hm hw hne, hone]
  case stay =>
    rintro t m hm ⟨hw, hone⟩ hshows
    obtain rfl | hne := eq_or_ne m n
    · exact (same t hw hone).2
    · rw [other t m hm hw hne, hshows]
  case est =>
    rintro t ⟨hw, hone⟩
    exact (same t hw hone).2

/-- Where one slot alone is in RUN or SAVED, its words alone show reasons. -/
theorem State.showReasons_of_one (hi : s.shown i = true) (hj : ∀ j, j ≠ i → s.shown j = false) :
    s.showReasons = forN (s.slot i).hdr.twCount s fun s n => s.showReason i n := by
  have hw : s.Writes (forN (s.slot i).hdr.twCount s fun s n => s.showReason i n) :=
    State.Writes.foldl (fun s n => s.showReason_writes i n) _ _
  have one := foldl_allSlots_of_one (f := fun (s : State) j =>
      if s.shown j then forN (s.slot j).hdr.twCount s fun s n => s.showReason j n else s) (i := i) (a := s)
    (fun j hne => by simp [hj j hne]) fun j hne => by
      rw [if_pos hi]
      refine if_neg ?_
      obtain ⟨_, e, -⟩ := hw
      rw [e]
      change ¬ s.shown j = true
      simp [hj j hne]
  rw [State.showReasons, one, if_pos hi]

/-- A ready node of the one slot in RUN or SAVED shows its reason, where that is the same whatever other words show. -/
theorem State.depWait_showReasons (h : s.WordsHere i) (hok : s.MemOk) (hi : s.shown i = true)
    (hj : ∀ j, j ≠ i → s.shown j = false) (hn : n < (s.slot i).hdr.twCount) (hst : depSt (s.depWord i n) = 1)
    {wait aux : Nat} (hwait : wait < 32)
    (hreason : ∀ t, s.Writes t → depSt (t.depWord i n) = 1 → t.reasonOf i n = some (wait, aux)) :
    depWait (s.showReasons.depWord i n) = wait := by
  rw [State.showReasons_of_one hi hj]
  exact State.depWait_showSlot h hok hn hst hwait hreason

theorem State.reasonOf_of_disabled (hst : depSt (s.depWord i n) = 1) (hoff : s.hg.slotEn.getLsbD i.val = false) :
    s.reasonOf i n = some (0x08, 0) := by
  rw [State.reasonOf, hst, hoff]
  rfl

/-- Nothing of a SAVED slot is dispatched (R437). -/
theorem State.reasonOf_of_saved (hst : depSt (s.depWord i n) = 1) (hon : s.hg.slotEn.getLsbD i.val = true)
    (hsaved : (s.slot i).st = .saved) : s.reasonOf i n = some (0x09, 0) := by
  simp [State.reasonOf, State.kept, hst, hon, hsaved]

end

/-- FGE_SLOT_EN as a write leaves it, before words follow it (R600). -/
def State.slotsEnabled (s : State) (en : BitVec 16) : State := { s with hg := { s.hg with slotEn := en } }

theorem exec_slotEnWrite_of_awake {s : State} (h : Awake s) (v : BitVec 64) :
    exec (.registerWrite 0x110 none v) s = .next (answered (s.slotsEnabled (v.setWidth 16)).showReasons) := by
  have hv : BitVec.ofNat 16 ((writeOf none v).get 0 16 s.hg.slotEn.toNat) = v.setWidth 16 := by
    rw [Wr.get_writeOf_none]
    refine BitVec.eq_of_toNat_eq ?_
    simp [fld]
  rw [← hv]
  change execRegisterWrite 0x110 none v s = _
  rw [execRegisterWrite_of_aligned (by decide), State.write_of_awake h]
  rfl

theorem State.depWord_answered (s : State) (i : Fin 16) (n : Nat) : (answered s).depWord i n = s.depWord i n :=
  State.depWord_congr rfl rfl rfl rfl n

/-- Settles O18: each hold is a branch of the attempt, the failure one of the dispatch; the words follow FGE_SLOT_EN by a
pass over the slot's nodes, each of which leaves the words of the others. -/
theorem nodesThatWaitOrFail : Obligations.NodesThatWaitOrFail := by
  unfold Obligations.NodesThatWaitOrFail
  intro i n s
  refine ⟨fun hc hready hen hyields => ?turn, fun hc hm hready hoff => ?disabled,
    fun hc hm hready hyields hen hstep => ?step, fun hd hven => ?fails,
    fun v ha hm hi hj hn hst hnode hfits => ?slotEn⟩
  case turn => exact congrArg Host.Outcome.next (State.inTurn_of_yielding hc hready hen hyields)
  case disabled =>
    refine congrArg Host.Outcome.next ((State.inTurn_of_disabled hc hoff).trans ?_)
    have hissue : s.startMove i n = s.setWait i n 1 0x08 0 0xFFF := by
      unfold State.startMove State.issue
      exact State.attempt_of_disabled hready hoff
    rw [hissue, State.tookTurn_setWait hm]
  case step =>
    refine congrArg Host.Outcome.next ((State.inTurn_of_turn hyields hc).trans ?_)
    have hissue : s.startMove i n = s.setWait i n 1 0x09 0 0xFFF := by
      unfold State.startMove State.issue
      exact State.attempt_of_stepping hready hen hstep
    rw [hissue, State.tookTurn_setWait hm]
  case fails =>
    refine ⟨_, exec_nop_of_ven hd hven, ?_, ?_, sameRegisters_of_regs (by simp)⟩
    · rw [(State.tookTurn_keeps ..).2.1]
      exact State.pend_failNow s i n _ 0 false { err := .format }
    · rw [State.flightOf_congr (State.tookTurn_retains ..).2]
      exact State.flightOf_failNow ..
  case slotEn =>
    have hbit : (s.slotsEnabled (v.setWidth 16)).hg.slotEn.getLsbD i.val = v.getLsbD i.val := by
      simp [State.slotsEnabled]
    have hexec := exec_slotEnWrite_of_awake ha v
    have hhere : (s.slotsEnabled (v.setWidth 16)).WordsHere i := ⟨hnode, hfits⟩
    have hen : (s.slotsEnabled (v.setWidth 16)).hg.slotEn = v.setWidth 16 := rfl
    have hshow := fun wait => State.depWait_showReasons (wait := wait) (aux := 0) hhere hm hi hj hn hst
    have hsaved : (s.slot i).st = .saved → ((s.slotsEnabled (v.setWidth 16)).slot i).st = .saved := id
    generalize s.slotsEnabled (v.setWidth 16) = z at *
    refine ⟨_, hexec, ?_, fun hoff => ?_, fun hon hst => ?_⟩
    · obtain ⟨_, e, -⟩ := z.showReasons_writes
      rw [e, ← hen]
      rfl
    · rw [State.depWord_answered]
      refine hshow 0x08 (by decide) ?_
      rintro _ ⟨_, rfl, -⟩ hone
      exact State.reasonOf_of_disabled hone (hbit.trans hoff)
    · rw [State.depWord_answered]
      refine hshow 0x09 (by decide) ?_
      rintro _ ⟨_, rfl, -⟩ hone
      exact State.reasonOf_of_saved hone (hbit.trans hon) (hsaved hst)

end Sys2Proof.Machine
end

section
/-! The key port (R464, R465, R592, R608, R609): writes of its registers, and the staging of a key. -/
namespace Sys2Proof.Machine
open Sys2Proof.Claims

-- Writes of the key port's registers.

/-- A 64-bit write reaches every bit. -/
@[simp] theorem Wr.one_writeOf_none (v : BitVec 64) (k : Nat) : (writeOf none v).one k = v.getLsbD k := by
  have hr : (writeOf none v).reach = BitVec.allOnes 64 := rfl
  rw [Wr.one, writeOf_none_v, hr, BitVec.and_allOnes]

theorem reach_writeOf_none (v : BitVec 64) : (writeOf none v).reach.getLsbD 0 = true :=
  (by decide : (reachOf none).getLsbD 0 = true)

/-- A write of the whole of `FGE_KEY_SEL`. -/
theorem State.writeNow_keySel (s : State) (v : BitVec 64) : s.writeNow 0x700 (writeOf none v) =
    s.keySelWrite (BitVec.ofNat 3 (fld v.toNat 0 3)) (v.getLsbD 3) (v.getLsbD 4) (v.getLsbD 5) := by
  have hwrite : ∀ w : Wr, s.writeNow 0x700 w = if w.reach.getLsbD 0 then
      s.keySelWrite (BitVec.ofNat 3 (w.get 0 3 0)) (w.one 3) (w.one 4) (w.one 5) else s := fun _ => rfl
  rw [hwrite, if_pos (reach_writeOf_none v), Wr.get_writeOf_none, Wr.one_writeOf_none, Wr.one_writeOf_none, Wr.one_writeOf_none]

/-- A selection, as it is written to `FGE_KEY_SEL`. -/
def selectWord (kport : BitVec 3) (kdir : Bool) : BitVec 64 := BitVec.ofNat 64 (kport.toNat + 8 * b2n kdir)

theorem selectWord_fields (kport : BitVec 3) (kdir : Bool) :
    BitVec.ofNat 3 (fld (selectWord kport kdir).toNat 0 3) = kport ∧ (selectWord kport kdir).getLsbD 3 = kdir ∧
      (selectWord kport kdir).getLsbD 4 = false ∧ (selectWord kport kdir).getLsbD 5 = false := by
  revert kport kdir
  decide

/-- A selection sets nothing off, so DEEP does not hold it (R592). -/
theorem State.regWrite_select (s : State) (kport : BitVec 3) (kdir : Bool) :
    s.regWrite 0x700 none (selectWord kport kdir) = s.writeNow 0x700 (writeOf none (selectWord kport kdir)) := by
  obtain ⟨-, -, hstage, -⟩ := selectWord_fields kport kdir
  have hacts : (writeOf none (selectWord kport kdir)).acts 0x700 = false := by
    rw [← hstage, ← Wr.one_writeOf_none]
    rfl
  refine if_neg ?_
  change ¬(s.asleep && heldInDeep 0x700 && (writeOf none (selectWord kport kdir)).acts 0x700 && _) = true
  rw [hacts, Bool.and_false, Bool.false_and]
  decide

/-- A selection clears what was written since the last staging (R609). -/
theorem exec_keySel (kport : BitVec 3) (kdir : Bool) (s : State) : exec (.keySel kport kdir) s
    = .next (answered { s with key := { s.key with kport := kport, kdir := kdir, words := [], salt := 0 } }) := by
  obtain ⟨hport, hdir, hstage, hclear⟩ := selectWord_fields kport kdir
  have hexec : exec (.keySel kport kdir) s = .next (answered (s.regWrite 0x700 none (selectWord kport kdir))) := rfl
  rw [hexec, s.regWrite_select, s.writeNow_keySel, hport, hdir, hstage, hclear]
  rfl

theorem exec_kword (w : BitVec 64) (s : State) : exec (.kword w) s = .next (answered (s.keyWord w)) := by
  have hexec : exec (.kword w) s = .next (s.write 0x708 none w) := rfl
  have hwrite : s.writeNow 0x708 (writeOf none w) = s.keyWord (writeOf none w).v := rfl
  rw [hexec, s.write_none_of_not_held rfl, hwrite, writeOf_none_v]
  rfl

theorem exec_salt (w : BitVec 32) (s : State) :
    exec (.salt w) s = .next (answered { s with key := { s.key with salt := w } }) := by
  have hexec : exec (.salt w) s = .next (s.write 0x710 none (BitVec.ofNat 64 w.toNat)) := rfl
  have hwrite : ∀ v, s.writeNow 0x710 (writeOf none v)
      = { s with key := { s.key with salt := BitVec.ofNat 32 ((writeOf none v).get 0 32 s.key.salt.toNat) } } :=
    fun _ => rfl
  have hsalt : BitVec.ofNat 32 (fld (BitVec.ofNat 64 w.toNat).toNat 0 32) = w := by
    refine BitVec.eq_of_toNat_eq ?_
    have := w.isLt
    simp [fld]
    omega
  rw [hexec, s.write_none_of_not_held rfl, hwrite, Wr.get_writeOf_none, hsalt]
  rfl

theorem exec_stage_of_awake {s : State} (h : Awake s) : exec .stage s = .next (answered s.stageKey) := by
  have hexec : exec .stage s = .next (s.write 0x700 none 16) := rfl
  rw [hexec, State.write_of_awake h, s.writeNow_keySel]
  rfl

/-- In DEEP, and while it ends, the staging is held for the wake, in place of an earlier one (R592; log 26). -/
theorem exec_stage_of_asleep {s : State} (h : ¬Awake s) : exec .stage s = .next (answered { s with hg := { s.hg with
    held := s.hg.held.filter (fun h => h.1.toNat != 0x700) ++ [(0x700, 16)] } }) := by
  have hexec : exec .stage s = .next (s.write 0x700 none 16) := rfl
  rw [hexec, State.write, State.regWrite, State.asleep_of_not_awake h]
  rfl

-- What a staging can do.

/-- The selected key cannot be staged: words are missing, or no port or key is selected (R609). -/
def State.stageBad (s : State) : Bool :=
  decide (s.key.words.length < 4) || s.key.kport.toNat == 6
    || (decide (s.key.kport.toNat < 6) && s.hall.dim (s.key.kport.toNat / 2) == 1)

theorem State.stageKey_of_bad {s : State} (h : s.stageBad = true) :
    s.stageKey = { s with key := { s.key with keyErr := true } } := if_pos h

theorem State.stageBad_of_incomplete {s : State} (h : s.key.words.length < 4 ∨ s.key.kport = 6
    ∨ ∃ p : Fin 6, s.key.kport.toNat = p.val ∧ s.hall.dim (p.val / 2) = 1) : s.stageBad = true := by
  obtain h | h | ⟨p, hp, hd⟩ := h
  · simp [State.stageBad, h]
  · simp [State.stageBad, h]
  · simp [State.stageBad, hp, hd]

theorem toNat_append_eq_add {n m : Nat} (x : BitVec n) (y : BitVec m) :
    (x ++ y).toNat = x.toNat * 2 ^ m + y.toNat := by
  rw [BitVec.toNat_append, ← Nat.shiftLeft_add_eq_or_of_lt y.isLt, Nat.shiftLeft_eq]

/-- Four words, the first the lowest, with the salt make a key (R609). -/
theorem KeyPort.key_of_four {k : KeyPort} {a b c d : BitVec 64} (h : k.words = [a, b, c, d]) :
    k.key = ⟨d ++ (c ++ (b ++ a)), k.salt⟩ := by
  have hwords : BitVec.ofNat 256 (0 + put (64 * 0) 64 a.toNat + put (64 * 1) 64 b.toNat + put (64 * 2) 64 c.toNat
      + put (64 * 3) 64 d.toNat) = d ++ (c ++ (b ++ a)) := by
    refine BitVec.eq_of_toNat_eq ?_
    have ha := a.isLt
    have hb := b.isLt
    have hc := c.isLt
    have hd := d.isLt
    rw [toNat_append_eq_add, toNat_append_eq_add, toNat_append_eq_add, BitVec.toNat_ofNat]
    simp only [put, Nat.shiftLeft_eq]
    omega
  rw [KeyPort.key, h]
  exact congrArg (fun x => (⟨x, k.salt⟩ : Key)) hwords

/-- The key port after a staging. -/
def KeyPort.empty (k : KeyPort) : KeyPort := { k with words := [], salt := 0 }

/-- The snapshot key is staged (R516, R609). -/
theorem State.stageKey_snapshot {s : State} {a b c d : BitVec 64} (hw : s.key.words = [a, b, c, d])
    (hp : s.key.kport = 7) : s.stageKey = { s with
      key := { s.key.empty with snapKey := some ⟨d ++ (c ++ (b ++ a)), s.key.salt⟩ } } := by
  have hbad : ¬s.stageBad = true := by simp [State.stageBad, hw, hp]
  rw [← KeyPort.key_of_four hw]
  refine (if_neg hbad).trans (dif_neg ?_)
  rw [hp]
  decide

/-- A port's key is staged: its transmitter switches, or its receiver says that it is ready, where they can (R465). -/
theorem State.stageKey_port {s : State} {a b c d : BitVec 64} {p : Fin 6} (hw : s.key.words = [a, b, c, d])
    (hp : s.key.kport.toNat = p.val) (hd : s.hall.dim (p.val / 2) ≠ 1) :
    let k : Key := ⟨d ++ (c ++ (b ++ a)), s.key.salt⟩
    let u : State := { s with key := s.key.empty }
    s.stageKey = if s.key.kdir then (u.setPort p { s.port p with stRx := some k }).sayReady p
      else (u.setPort p { s.port p with stTx := some k }).switchTx p := by
  have hp6 : p.val ≠ 6 := by omega
  have hbad : ¬s.stageBad = true := by simp [State.stageBad, hw, hp, hd, hp6]
  have hlt : s.key.kport.toNat < 6 := hp ▸ p.isLt
  have hport : (⟨s.key.kport.toNat, hlt⟩ : Fin 6) = p := Fin.ext hp
  intro k u
  have hstage : s.stageKey = if s.key.kdir
      then (u.setPort ⟨s.key.kport.toNat, hlt⟩ { s.port ⟨s.key.kport.toNat, hlt⟩ with
        stRx := some s.key.key }).sayReady ⟨s.key.kport.toNat, hlt⟩
      else (u.setPort ⟨s.key.kport.toNat, hlt⟩ { s.port ⟨s.key.kport.toNat, hlt⟩ with
        stTx := some s.key.key }).switchTx ⟨s.key.kport.toNat, hlt⟩ := (if_neg hbad).trans (dif_pos hlt)
  rw [hstage, hport, KeyPort.key_of_four hw]

-- Handshakes (R465).

theorem State.handshake_of_linked {s : State} {p : Fin 6} (hl : (s.port p).linked = true)
    (hx : (s.port p).exhausted = false) (m : Sluice) : s.handshake p m = s.putSluice p m := by
  simp [State.handshake, hl, hx]

theorem State.handshake_of_not_linked {s : State} {p : Fin 6} (hl : (s.port p).linked = false) (m : Sluice) :
    s.handshake p m = s := by
  simp [State.handshake, hl]

/-- A receiver with a staged key. -/
theorem State.sayReady_of_staged {s : State} {p : Fin 6} {k : Key} (h : (s.port p).stRx = some k) :
    s.sayReady p = s.handshake p .keyReady := by
  simp [State.sayReady, h]

/-- A transmitter that did not see key-ready, or has no session and trains for none, stays with its key. -/
theorem State.switchTx_of_not_ready {s : State} {p : Fin 6}
    (h : (s.port p).farReady = false ∨ (s.port p).linked = false) : s.switchTx p = s := by
  unfold State.switchTx
  dsimp only
  split
  · refine if_neg ?_
    rintro ⟨hready, hlinked⟩
    rcases h with h | h
    · exact absurd (h.symm.trans hready) (by decide)
    · exact absurd (h.symm.trans hlinked) (by decide)
  · rfl

/-- A port whose transmitter moves to key `k`. -/
def Port.switched (q : Port) (k : Key) : Port :=
  { q with keyTx := some k, stTx := none, txCount := 0, farReady := false, txOut := true, txOld := q.replay.length }

/-- A transmitter that saw key-ready says key-switch and moves to its staged key. -/
theorem State.switchTx_of_ready {s : State} {p : Fin 6} {k : Key} (hk : (s.port p).stTx = some k)
    (hr : (s.port p).farReady = true) (hl : (s.port p).linked = true) (hx : (s.port p).exhausted = false) :
    ∃ o, s.switchTx p = { s with
      ports := s.ports.set p (((s.port p).took (.inr .keySwitch) s.stamp).switched k)
      obs := o
      out := { s.out with links := s.out.links ++ [.sluice p .keySwitch s.stamp] } } := by
  obtain ⟨o, ho⟩ := s.putSluice_shape p .keySwitch
  have hport : (s.putSluice p .keySwitch).port p = (s.port p).took (.inr .keySwitch) s.stamp := by
    rw [ho]
    exact s.port_setPort_same p _
  have hlinked : ((s.putSluice p .keySwitch).port p).linked = true := by
    rw [hport]
    exact hl
  have hswitch : s.switchTx p = (s.putSluice p .keySwitch).setPort p
      (((s.putSluice p .keySwitch).port p).switched k) := by
    simp [State.switchTx, hk, hr, hl, State.handshake_of_linked hl hx, hlinked, Port.switched]
  refine ⟨o, ?_⟩
  rw [hswitch, hport, ho]
  simp [State.setPort]

/-- Settles O30: each write by what it leaves of the key port, a staging by whether the key is complete, whose it is, and
whether its port can say so. -/
theorem keyPortStagesKeys : Obligations.KeyPortStagesKeys := by
  unfold Obligations.KeyPortStagesKeys
  intro s
  refine ⟨fun kport kdir => exec_keySel kport kdir s, fun w h => ?_, fun w h => ?_, fun w => exec_salt w s,
    fun h => exec_stage_of_asleep h, fun ha h => ?_, fun a b c d ha hw hp => ?_, fun a b c d p ha hw hp hd => ?_⟩
  · rw [exec_kword, State.keyWord, if_neg (Nat.not_le.mpr h)]
  · rw [exec_kword, State.keyWord, if_pos h]
  · rw [exec_stage_of_awake ha, State.stageKey_of_bad (State.stageBad_of_incomplete h)]
  · rw [exec_stage_of_awake ha, State.stageKey_snapshot hw hp]
    rfl
  · intro k empty tx rx ready switch
    obtain ⟨u, hu⟩ : ∃ u : State, u = { s with key := empty } := ⟨_, rfl⟩
    have hstage : s.stageKey = if s.key.kdir then (u.setPort p rx).sayReady p else (u.setPort p tx).switchTx p := by
      rw [hu]
      exact State.stageKey_port hw hp hd
    have hport : ∀ q, (u.setPort p q).port p = q := u.port_setPort_same p
    have hstamp : ∀ q, (u.setPort p q).stamp = s.stamp := fun q => by rw [hu]; rfl
    refine ⟨fun hdir h => ?_, fun hdir h => ?_, fun hdir hready hl hx => ?_, fun hdir hl hx => ?_⟩
    all_goals
      rw [exec_stage_of_awake ha, hstage, hdir]
    · have hstay : ((u.setPort p tx).port p).farReady = false ∨ ((u.setPort p tx).port p).linked = false := by
        rw [hport]
        exact h
      rw [if_neg Bool.false_ne_true, State.switchTx_of_not_ready hstay, hu]
      rfl
    · have hnot : ((u.setPort p rx).port p).linked = false := by
        rw [hport]
        exact h
      rw [if_pos rfl, State.sayReady_of_staged (k := k) (by rw [hport]), State.handshake_of_not_linked hnot, hu]
      rfl
    · obtain ⟨o, ho⟩ := State.switchTx_of_ready (s := u.setPort p tx) (p := p) (k := k) (by rw [hport])
        (by rw [hport]; exact hready) (by rw [hport]; exact hl) (by rw [hport]; exact hx)
      rw [hport, hstamp] at ho
      rw [if_neg Bool.false_ne_true, ho, hu]
      refine ⟨_, rfl, ?_, fun q hq => ?_, ?_⟩
      · exact State.port_setPort_same _ p _
      · exact (State.port_setPort_other _ _ hq).trans (State.port_setPort_other _ _ hq)
      · rfl
    · obtain ⟨o, ho⟩ := (u.setPort p rx).putSluice_shape p .keyReady
      rw [hport, hstamp] at ho
      rw [if_pos rfl, State.sayReady_of_staged (k := k) (by rw [hport]),
        State.handshake_of_linked (by rw [hport]; exact hl) (by rw [hport]; exact hx), ho, hu]
      refine ⟨_, rfl, ?_, fun q hq => ?_, ?_⟩
      · exact State.port_setPort_same _ p _
      · exact (State.port_setPort_other _ _ hq).trans (State.port_setPort_other _ _ hq)
      · rfl

end Sys2Proof.Machine
end

section
/-! The node ID and the torus (R441, R444, R606). -/
namespace Sys2Proof.Machine
open Sys2Proof.Claims

theorem exec_nodeIdWrite (v : BitVec 64) (s : State) :
    exec (.nodeIdWrite v) s = .next (answered (s.setNodeId (fld v.toNat 0 12))) := by
  have hexec : exec (.nodeIdWrite v) s = .next (s.write 0x600 none v) := rfl
  have hwrite : ∀ w : Wr, s.writeNow 0x600 w = if w.reach.getLsbD 0 then s.setNodeId (w.get 0 12 0) else s :=
    fun _ => rfl
  rw [hexec, s.write_none_of_not_held rfl, hwrite, if_pos (reach_writeOf_none v), Wr.get_writeOf_none]
  rfl

theorem exec_hallTopoWrite (v : BitVec 64) (s : State) : exec (.hallTopoWrite v) s = .next (answered
    (s.setTopo (fld v.toNat 0 5) (fld v.toNat 5 5) (fld v.toNat 10 5) (v.getLsbD 15))) := by
  have hexec : exec (.hallTopoWrite v) s = .next (s.write 0x608 none v) := rfl
  have hwrite : ∀ w : Wr, s.writeNow 0x608 w = if w.reach.getLsbD 0 then
      s.setTopo (w.get 0 5 0) (w.get 5 5 0) (w.get 10 5 0) (w.one 15) else s := fun _ => rfl
  rw [hexec, s.write_none_of_not_held rfl, hwrite, if_pos (reach_writeOf_none v), Wr.get_writeOf_none,
    Wr.get_writeOf_none, Wr.get_writeOf_none, Wr.one_writeOf_none]
  rfl

-- The place and the shape that are taken (R443, R485, R499).

/-- The hall but for who manages it and whom it holds. -/
def Hall.frame (h : Hall) : Hall :=
  { h with live := [], evald := [], offer := [], acks := [], cont := false, actMgr := 0 }

theorem Hall.dim_of_frame {h k : Hall} (e : h.frame = k.frame) (d : Nat) : k.dim d = h.dim d :=
  (congrArg (Hall.dim · d) e).symm

/-- A port of a dimension of size 1 is UNUSED, another is DOWN (R443). -/
def State.placePort (s : State) (p : Fin 6) : State :=
  s.setPort p { s.port p with st := if s.portUnused p then .unused else .down }

theorem State.foldl_placePort (l : List (Fin 6)) (s : State) : ∃ q, l.foldl State.placePort s = { s with ports := q } ∧
    ∀ p, ((l.foldl State.placePort s).port p).st
      = if p ∈ l then (if s.hall.dim (p.val / 2) = 1 then .unused else .down) else (s.port p).st := by
  induction l generalizing s with
  | nil => exact ⟨s.ports, rfl, fun p => by simp⟩
  | cons o l ih =>
    obtain ⟨q, hq, hst⟩ := ih (s.placePort o)
    refine ⟨q, hq, fun p => (hst p).trans ?_⟩
    have hhall : (s.placePort o).hall = s.hall := rfl
    by_cases hp : p = o
    · have hport : ((s.placePort o).port o).st = if s.hall.dim (o.val / 2) = 1 then .unused else .down := by
        simp [State.placePort, State.portUnused, portDim]
      rw [hhall, hp, hport]
      simp
    · have hport : (s.placePort o).port p = s.port p := State.port_setPort_other _ _ hp
      rw [hhall, hport]
      simp [hp]

/-- Placing sets the states of the ports and begins the hall anew. -/
theorem State.placed_spec (s : State) : s.placed.hall.frame = s.hall.frame ∧
    (∀ p, (s.placed.port p).st = if s.hall.dim (p.val / 2) = 1 then .unused else .down) ∧
    s.placed.mem = s.mem ∧ s.placed.hg = s.hg ∧ s.placed.key = s.key := by
  obtain ⟨q, hq, hst⟩ := State.foldl_placePort allPorts s
  have hports : ∀ p : Fin 6, (q[p] : Port).st = if s.hall.dim (p.val / 2) = 1 then .unused else .down := fun p => by
    have := hst p
    rwa [hq, if_pos ((by decide : ∀ p : Fin 6, p ∈ allPorts) p)] at this
  have hplaced : s.placed = let u := allPorts.foldl State.placePort s
      if u.phase = .power ∨ u.phase = .fuse ∨ u.phase = .scan then u
      else if u.hall.single then u.soleHall else u.strangerHall := rfl
  rw [hplaced, hq]
  dsimp only
  split_ifs <;> exact ⟨rfl, hports, rfl, rfl, rfl⟩

theorem State.setNodeId_of_bad {s : State} {n : Nat}
    (h : s.portsDown = false ∨ fitsTorus n s.hall.xdim.toNat s.hall.ydim.toNat s.hall.zdim.toNat = false) :
    s.setNodeId n = { s with hall := { s.hall with topoErr := true } } := by
  refine if_pos ?_
  rcases h with h | h <;> simp [h]

theorem State.setNodeId_of_fits {s : State} {n : Nat} (hd : s.portsDown = true)
    (hf : fitsTorus n s.hall.xdim.toNat s.hall.ydim.toNat s.hall.zdim.toNat = true) :
    s.setNodeId n = State.placed { s with hall := { s.hall with nid := BitVec.ofNat 12 n } } := by
  refine if_neg ?_
  simp [hd, hf]

/-- The shape that a write of `FGE_HALL_TOPO` asks for can be one of a hall with this node (R444, R606). -/
structure FitsHall (s : State) (x y z : Nat) : Prop where
  down : s.portsDown = true
  xdim : 1 ≤ x ∧ x ≤ 16
  ydim : 1 ≤ y ∧ y ≤ 16
  zdim : 1 ≤ z ∧ z ≤ 16
  size : x * y * z ≤ 4096
  inside : fitsTorus s.hall.nid.toNat x y z = true

theorem State.setTopo_of_bad {s : State} {x y z : Nat} (h : ¬FitsHall s x y z) (clear : Bool) :
    s.setTopo x y z clear = { s with hall := { s.hall with topoErr := true } } := by
  refine if_pos ?_
  by_contra hgood
  simp at hgood
  obtain ⟨⟨⟨⟨⟨hd, hx⟩, hy⟩, hz⟩, hsize⟩, hin⟩ := hgood
  exact h ⟨hd, by omega, by omega, by omega, hsize, hin⟩

theorem State.setTopo_of_fits {s : State} {x y z : Nat} (h : FitsHall s x y z) (clear : Bool) :
    s.setTopo x y z clear = State.placed { s with hall := { s.hall with
      xdim := BitVec.ofNat 5 x, ydim := BitVec.ofNat 5 y, zdim := BitVec.ofNat 5 z
      topoErr := s.hall.topoErr && !clear } } := by
  obtain ⟨hd, hx, hy, hz, hsize, hin⟩ := h
  refine if_neg ?_
  simp [hd, hx, hy, hz, hsize, hin]

/-- Settles O31: a write is ignored, or taken as `State.placed` leaves the hall and the ports. -/
theorem hallPlacementWrites : Obligations.HallPlacementWrites := by
  unfold Obligations.HallPlacementWrites
  intro v s n x y z bad
  refine ⟨fun h => ?_, fun hd hf => ?_, fun h => ?_, fun hd hx hx' hy hy' hz hz' hsize hin => ?_⟩
  · rw [exec_nodeIdWrite, State.setNodeId_of_bad h]
  · refine ⟨_, exec_nodeIdWrite v s, ?_⟩
    rw [State.setNodeId_of_fits hd hf]
    obtain ⟨hframe, -, hmem, hhg, hkey⟩ :=
      State.placed_spec { s with hall := { s.hall with nid := BitVec.ofNat 12 (fld v.toNat 0 12) } }
    exact ⟨(congrArg Hall.nid hframe :), (congrArg Hall.xdim hframe :), (congrArg Hall.ydim hframe :),
      (congrArg Hall.zdim hframe :), (congrArg Hall.topoErr hframe :), hmem, hhg, hkey⟩
  · have hnot : ¬FitsHall s x y z := by
      rintro ⟨hd, hx, hy, hz, hsize, hin⟩
      rw [hd, hin] at h
      simp only [reduceCtorEq, false_or, or_false] at h
      omega
    rw [exec_hallTopoWrite, State.setTopo_of_bad hnot]
  · refine ⟨_, exec_hallTopoWrite v s, ?_⟩
    rw [State.setTopo_of_fits ⟨hd, ⟨hx, hx'⟩, ⟨hy, hy'⟩, ⟨hz, hz'⟩, hsize, hin⟩]
    obtain ⟨hframe, hst, hmem, hhg, hkey⟩ := State.placed_spec { s with hall := { s.hall with
      xdim := BitVec.ofNat 5 x, ydim := BitVec.ofNat 5 y, zdim := BitVec.ofNat 5 z
      topoErr := s.hall.topoErr && !v.getLsbD 15 } }
    have hfield : ∀ k, k ≤ 16 → (BitVec.ofNat 5 k).toNat = k := fun k hk =>
      (BitVec.toNat_ofNat ..).trans (Nat.mod_eq_of_lt (by omega))
    have hxdim := congrArg (fun h : Hall => h.xdim.toNat) hframe
    have hydim := congrArg (fun h : Hall => h.ydim.toNat) hframe
    have hzdim := congrArg (fun h : Hall => h.zdim.toNat) hframe
    exact ⟨hxdim.trans (hfield x hx'), hydim.trans (hfield y hy'), hzdim.trans (hfield z hz'),
      (congrArg Hall.nid hframe :), (congrArg Hall.topoErr hframe :),
      fun p => (hst p).trans (by rw [Hall.dim_of_frame hframe]; rfl), hmem, hhg, hkey⟩

end Sys2Proof.Machine
end

section
/-! An end marker that a REDUCE which retired still owes (R478): it goes out when a write is acknowledged, or takes a port
that a key switch brought to the end of its counter DOWN (R463). -/
namespace Sys2Proof.Machine
open Sys2Proof.Claims

/-- Node 0 of a hall of two. Its port 0 went DOWN as an end marker for node 1 was to take it: the marker is owed, and port
1 is the way that is left. -/
def State.owingEnd (q : Port) : State :=
  { (State.reset.setPort 0 {}).setPort 1 q with
    phase := .ready
    hall := { xdim := 2, live := [0, 1], portSts := [((0, 0), .down), ((0, 1), q.st)] }
    rem := { owedEnds := [(⟨0, 0, 0, 0, 0⟩, 1)] } }

-- An acknowledgement.

/-- A store of node 0 of slot 2 to node 1, not acknowledged. -/
def openStore : Req := ⟨heldStore, 2, 0⟩

/-- Node 1's acknowledgement of that store (R471). -/
def openAck : Flit := { typ := 6, src := 1, addr := heldStore.addr }

/-- The engine of `State.owingEnd` with the store open and port 1 UP. -/
def State.owingEndWithStore : State :=
  { State.owingEnd { st := .up } with rem := { (State.owingEnd {}).rem with unacked := [openStore] } }

theorem State.owingEndWithStore_taken : Taken .owingEndWithStore 1 openAck := by
  unfold Taken Counting
  decide +kernel

/-- With the acknowledgement the end marker goes out. -/
theorem exec_endToEndAck_owingEndWithStore :
    ∃ t, exec (.endToEndAck 1 openAck true) .owingEndWithStore = .next t ∧ t.rem.owedEnds = [] :=
  ⟨_, rfl, by decide +kernel⟩

/-- Refutes O55: the acknowledgement of the store of `State.owingEndWithStore` meets the hypotheses of its clause, and the
end marker that a REDUCE owes goes out with it (R478), where the clause has nothing but the store leave the requests. -/
theorem not_answersEndRequests : ¬ Obligations.AnswersEndRequests := by
  unfold Obligations.AnswersEndRequests
  intro h
  obtain ⟨-, -, hacked, -⟩ := h 1 openAck .owingEndWithStore State.owingEndWithStore_taken (by decide +kernel)
  have hexec := hacked openStore (by decide +kernel) (by decide +kernel) rfl (by decide +kernel)
    (by unfold ShowsNoHold; decide +kernel) (by decide +kernel) (by decide +kernel)
  obtain ⟨t, hexec', hsent⟩ := exec_endToEndAck_owingEndWithStore
  rw [← Host.Outcome.next.inj (hexec.symm.trans hexec')] at hsent
  exact absurd hsent (by decide +kernel)

-- A key switch.

/-- A session key (R463). -/
def sessionKey : Key := ⟨1, 0⟩

/-- The engine of `State.owingEnd` with port 1 TRAINED and one counter value left. Its first flit under the new key has
passed, and its receiver has a staged key (R465). -/
def State.owingEndAtSwitch : State :=
  .owingEnd { st := .trained, txCount := 0xFFFFFFFFFFFFFFFE, txNew := true, stRx := some sessionKey }

/-- The link acknowledgement takes the last counter value, so port 1 goes DOWN where the end marker is to go out on it
(R463). -/
theorem exec_keySwitch_owingEndAtSwitch :
    ∃ t, exec (.keySwitch 1 true) .owingEndAtSwitch = .next t ∧ (t.port 1).st = .down :=
  ⟨_, rfl, by decide +kernel⟩

/-- Refutes O51: the key switch of `State.owingEndAtSwitch` meets the hypotheses of its clause, but the port goes DOWN
at the end of its counter, where the clause has it UP. -/
theorem not_lanesAndKeys : ¬ Obligations.LanesAndKeys := by
  unfold Obligations.LanesAndKeys
  intro h
  obtain ⟨-, -, -, -, -, -, -, -, -, hswitch, -⟩ := h 1 .owingEndAtSwitch (by unfold Counting; decide +kernel)
  obtain ⟨t, hexec, hup, -⟩ := hswitch sessionKey rfl rfl rfl rfl
  obtain ⟨u, hexec', hdown⟩ := exec_keySwitch_owingEndAtSwitch
  rw [← Host.Outcome.next.inj (hexec.symm.trans hexec'), hup] at hdown
  exact absurd hdown (by decide)

end Sys2Proof.Machine
end

section
/-! What sending leaves of the ports: the headgate is as it was, and of a port only its counter, its queues with their
credits, and whether it holds its data flits differ (R447, R449, R459). -/
namespace Sys2Proof.Machine
open Sys2Proof.Claims

/-- A port but for what sending changes. -/
def Port.still (q : Port) : Port :=
  { q with txCount := 0, replay := [], hold := [], credits := Vector.replicate 4 0, owed := [], stalled := false }

/-- `t` is `s` after sending: the headgate is as it was, and every port but for what sending changes. -/
def State.Stays (s t : State) : Prop := t.hg = s.hg ∧ ∀ p, (t.port p).still = (s.port p).still

namespace State.Stays
variable {s a b : State}

theorem refl (s : State) : s.Stays s := ⟨rfl, fun _ => rfl⟩

theorem trans (h : s.Stays a) (k : a.Stays b) : s.Stays b := by
  obtain ⟨h1, h2⟩ := h
  obtain ⟨k1, k2⟩ := k
  exact ⟨k1.trans h1, fun p => (k2 p).trans (h2 p)⟩

theorem hg (h : s.Stays a) : a.hg = s.hg := h.1

/-- What a port holds besides is as it was. -/
theorem field (h : s.Stays a) {α : Type} (f : Port → α) (p : Fin 6) (hf : ∀ q : Port, f q.still = f q := by
    intro; rfl) : f (a.port p) = f (s.port p) := by
  rw [← hf, h.2 p, hf]

/-- Fields that are neither may be replaced. -/
theorem fields (h : s.Stays a) {pending mem phase loadOpen warm scanAsked present grade stw tr arrs evt tm cut hall pwr
    gov st pen key rem snap obs svc out free} : s.Stays ⟨pending, mem, phase, loadOpen, warm, scanAsked, present, grade,
    a.hg, stw, tr, arrs, evt, tm, cut, hall, pwr, gov, st, pen, a.ports, key, rem, snap, obs, svc, out, free⟩ := h

theorem ite {c : Prop} [Decidable c] (h : s.Stays a) (k : s.Stays b) : s.Stays (if c then a else b) := by
  split <;> assumption

theorem pair {α : Type} {p : State × α} {k : State → α → State} (h : s.Stays p.1)
    (hk : ∀ {t x}, s.Stays t → s.Stays (k t x)) : s.Stays (Prod.casesOn p k) := hk h

theorem foldl {α : Type} {f : State → α → State} {l : List α} (h : s.Stays a)
    (hf : ∀ {b x}, s.Stays b → s.Stays (f b x)) : s.Stays (l.foldl f a) := by
  induction l generalizing a with
  | nil => exact h
  | cons x l ih => exact ih (hf h)

theorem notes (h : s.Stays a) (n : a.Notes b) : s.Stays b := by
  obtain ⟨_, _, _, _, rfl, -⟩ := n
  exact h.fields

/-- A port's counter, queues and credits may be replaced. -/
theorem setPort (h : s.Stays a) {p : Fin 6} {q : Port} (hq : q.still = (a.port p).still := by rfl) :
    s.Stays (a.setPort p q) := by
  refine h.trans ⟨rfl, fun o => ?_⟩
  by_cases ho : o = p
  · rw [ho, State.port_setPort_same, hq]
  · rw [State.port_setPort_other _ _ ho]

theorem bump (h : s.Stays a) {x i n} : s.Stays (a.bump x i n) := by
  obtain ⟨_, e, -⟩ := a.bump_shape x i n
  rw [e]
  exact h.fields

theorem putSluice (h : s.Stays a) {p m} : s.Stays (a.putSluice p m) := h.setPort.bump.fields

theorem sluiceOn (h : s.Stays a) {p m} : s.Stays (a.sluiceOn p m) := .ite h.putSluice h

theorem sluiceAll (h : s.Stays a) {m but} : s.Stays (a.sluiceAll m but) := h.foldl fun h => .ite h h.sluiceOn

theorem freeQueue (h : s.Stays a) {came} : s.Stays (a.freeQueue came) := by
  unfold State.freeQueue
  split
  · exact h.sluiceOn
  · exact h

theorem transmit (h : s.Stays a) {p f came via wake} : s.Stays (a.transmit p f came via wake) := by
  unfold State.transmit
  dsimp only
  split
  · exact (fields h.setPort.bump).freeQueue
  · exact .ite h.setPort.sluiceOn h.setPort

theorem launch (h : s.Stays a) {f wake} : s.Stays (a.launch f wake).1 := by
  unfold State.launch
  split
  · exact h.transmit
  · exact h

theorem nak (h : s.Stays a) {f status wake} : s.Stays (a.nak f status wake) := h.launch

theorem sendKept (h : s.Stays a) {p k} : s.Stays (a.sendKept p k) := by
  unfold State.sendKept
  split
  · exact h.bump.fields
  · exact h.fields
  · exact h.bump.fields

theorem sendAgain (h : s.Stays a) {p l} : s.Stays (a.sendAgain p l) := h.setPort.foldl fun h => h.sendKept

theorem release (h : s.Stays a) {p} : s.Stays (a.release p) := h.sendAgain.setPort.foldl fun h => h.transmit

theorem restall (h : s.Stays a) {p} : s.Stays (a.restall p) := .ite h (.ite h.setPort h.setPort.release)

theorem announce (h : s.Stays a) {p} : s.Stays (a.announce p) := sluiceAll h.fields

-- A port that goes DOWN (R469, R472, R481).

theorem reroute (h : s.Stays a) {held} : s.Stays (a.reroute held) := by
  refine h.foldl fun h => .ite h ?_
  extract_lets
  split
  · exact h.transmit
  · exact h.freeQueue.nak

theorem chooseParent (h : s.Stays a) : s.Stays a.chooseParent := by
  unfold State.chooseParent
  refine .ite h.fields ?_
  split
  · exact h.fields
  · exact h.fields

theorem wakesSince (h : s.Stays a) {s0} : s.Stays (a.wakesSince s0) := h.foldl fun h => .ite h.sluiceOn h

theorem setWait (h : s.Stays a) {i n st wait waux wpeer} : s.Stays (a.setWait i n st wait waux wpeer) := h.fields

theorem showHeld (h : s.Stays a) {q} : s.Stays (a.showHeld q) :=
  .ite h (h.foldl fun h => .ite h.setWait (.ite h.setWait h))

theorem hold (h : s.Stays a) {q} : s.Stays (a.hold q) := h.fields.showHeld

theorem sendReq (h : s.Stays a) {q} : s.Stays (a.sendReq q) := .pair h.fields.launch fun h => .ite h h.hold

theorem retransmit (h : s.Stays a) : s.Stays a.retransmit := h.fields.foldl fun h => .ite h h.sendReq

end State.Stays

/-- A port as it leaves its state for `st`. -/
def Port.leaving (q : Port) (st : PortSt) : Port := { q.rest st with hold := [] }

/-- What follows a port's leaving its state is sending. -/
theorem State.portDown_stays (s : State) (p : Fin 6) (st : PortSt) (ev : Bool) :
    (s.setPort p ((s.port p).leaving st)).Stays (s.portDown p st ev) := by
  unfold State.portDown
  extract_lets q _ s1 s2 s3
  have h2 : s1.Stays s2 := (State.Stays.refl s1).foldl fun h => h.setPort
  have h3 : s1.Stays s3 := .ite (h2.notes (s2.raise_notes ..)) h2
  exact h3.reroute.chooseParent.announce.wakesSince.retransmit

theorem State.hg_portDown (s : State) (p : Fin 6) (st : PortSt) (ev : Bool) : (s.portDown p st ev).hg = s.hg :=
  (s.portDown_stays p st ev).hg

/-- A port that leaves its state is at rest in the one it is given. -/
theorem State.field_portDown (s : State) (p : Fin 6) (st : PortSt) (ev : Bool) {α : Type} (f : Port → α)
    (hf : ∀ q : Port, f q.still = f q := by intro; rfl) :
    f ((s.portDown p st ev).port p) = f ((s.port p).leaving st) := by
  rw [(s.portDown_stays p st ev).field f p hf, State.port_setPort_same]

theorem State.field_portDown_other (s : State) {p o : Fin 6} (h : o ≠ p) (st : PortSt) (ev : Bool) {α : Type}
    (f : Port → α) (hf : ∀ q : Port, f q.still = f q := by intro; rfl) :
    f ((s.portDown p st ev).port o) = f (s.port o) := by
  rw [(s.portDown_stays p st ev).field f o hf, State.port_setPort_other _ _ h]

/-- A sluice flit leaves a port alone that carries none (R447). -/
theorem State.port_sluiceOn_of_not_usable {s : State} {p : Fin 6} (h : (s.port p).st.usable = false) (o : Fin 6)
    (m : Sluice) : (s.sluiceOn o m).port p = s.port p := by
  by_cases ho : p = o
  · subst ho
    rw [State.sluiceOn, if_neg (by simp [h])]
  · unfold State.sluiceOn
    dsimp only
    split
    · obtain ⟨c, e⟩ := s.putSluice_shape o m
      rw [e]
      exact State.port_setPort_other _ _ ho
    · rfl

theorem State.port_sluiceAll_of_not_usable {s : State} {p : Fin 6} (h : (s.port p).st.usable = false) (m : Sluice) :
    (s.sluiceAll m).port p = s.port p := by
  unfold State.sluiceAll
  generalize allPorts = l
  induction l generalizing s with
  | nil => rfl
  | cons o l ih =>
    have hkeep := State.port_sluiceOn_of_not_usable h o m
    rw [List.foldl_cons, if_neg List.not_mem_nil, ih (by rw [hkeep]; exact h), hkeep]

/-- A notice of a port that carries no flits goes out on others, and leaves it as it is (R469). -/
theorem State.port_announce_of_not_usable {s : State} {p : Fin 6} (h : (s.port p).st.usable = false) :
    (s.announce p).port p = s.port p := State.port_sluiceAll_of_not_usable (s := s.noteOwnPort p) h _

end Sys2Proof.Machine
end

section
/-! The training of ports (R443, R453 to R457, R547, R607): writes of `FGE_LINK_CTRL`, retries, and the ends of steps 1 and
6. -/
namespace Sys2Proof.Machine
open Sys2Proof.Claims

-- The start of training (R453, R547).

/-- A port in step 1 of its training. -/
def Port.training (q : Port) : Port := { q.rest .train with tstep := 1, fenced := 0, invert := 0 }

/-- A port of this node may train: its dimension has more nodes than one, and start-up has come to INIT (R443, R547). -/
def MayTrain (s : State) (p : Fin 6) : Prop :=
  s.portUnused p = false ∧ (s.phase = .init ∨ s.phase = .selftest ∨ s.phase = .ready)

/-- An enabled port that may train does, and the hall hears of it. -/
theorem State.startTraining_eq {s : State} {p : Fin 6} (hpen : s.pen.getLsbD p.val = true) (h : MayTrain s p) :
    s.startTraining p = (s.setPort p (s.port p).training).announce p := by
  obtain ⟨hused, hphase⟩ := h
  have htrain : s.train p = s.setPort p (s.port p).training := if_neg (by simp [hused])
  rw [← htrain]
  refine if_neg ?_
  rcases hphase with h | h | h <;> simp [hused, hpen, h]

/-- What the start of a port's training leaves. -/
structure Starts (s : State) (p : Fin 6) (t : State) : Prop where
  port : t.port p = (s.port p).training
  other : ∀ q, q ≠ p → (t.port q).st = (s.port q).st
  mem : t.mem = s.mem
  hg : t.hg = s.hg
  tm : t.tm = s.tm
  pen : t.pen = s.pen
  evt : t.evt = s.evt

theorem State.startTraining_spec {s : State} {p : Fin 6} (hpen : s.pen.getLsbD p.val = true) (h : MayTrain s p) :
    Starts s p (s.startTraining p) := by
  have hrelays : (s.setPort p (s.port p).training).Relays (s.startTraining p) := by
    rw [State.startTraining_eq hpen h]
    exact (State.Relays.refl _).announce
  have hother : ∀ q, q ≠ p → ((s.startTraining p).port q).st = (s.port q).st := fun q hq => by
    rw [hrelays.st q, State.port_setPort_other _ _ hq]
  have hport : (s.startTraining p).port p = (s.port p).training := by
    rw [State.startTraining_eq hpen h, State.port_announce_of_not_usable, State.port_setPort_same]
    rw [State.port_setPort_same]
    rfl
  obtain ⟨_, _, _, _, _, _, e⟩ := (s.onlyLinks_setPort p (s.port p).training).trans hrelays.onlyLinks
  rw [e] at hport hother ⊢
  exact ⟨hport, hother, rfl, rfl, rfl, rfl, rfl⟩

@[simp] theorem besidesPorts_startTraining {s : State} {p : Fin 6} :
    (s.startTraining p).regs.besidesPorts = s.regs.besidesPorts := by
  have htrain : (s.train p).regs = s.regs := by
    unfold State.train
    split <;> rfl
  unfold State.startTraining
  split
  · rfl
  · rw [besidesPorts_announce, htrain]

-- One port under a write of `FGE_LINK_CTRL` (R607).

theorem pen_of_regs {s t : State} (hregs : t.regs.besidesPorts = s.regs.besidesPorts) : t.pen = s.pen :=
  (congrArg Registers.pen hregs :)

/-- The enable bit of a port. -/
def penBit (p : Fin 6) : BitVec 6 := BitVec.ofNat 6 (2 ^ p.val)

theorem getLsbD_penBit (p q : Fin 6) : (penBit p).getLsbD q.val = decide (q = p) := by
  revert p q
  decide

theorem getLsbD_or_penBit (x : BitVec 6) (p q : Fin 6) :
    (x ||| penBit p).getLsbD q.val = (decide (q = p) || x.getLsbD q.val) := by
  rw [BitVec.getLsbD_or, getLsbD_penBit, Bool.or_comm]

theorem getLsbD_and_not_penBit (x : BitVec 6) (p q : Fin 6) :
    (x &&& ~~~penBit p).getLsbD q.val = (!decide (q = p) && x.getLsbD q.val) := by
  rw [BitVec.getLsbD_and, BitVec.getLsbD_not, getLsbD_penBit, decide_eq_true q.isLt, Bool.true_and, Bool.and_comm]

/-- Writes of enable bits are compared port by port. -/
theorem penBits_ext {x y : BitVec 6} (h : ∀ q : Fin 6, x.getLsbD q.val = y.getLsbD q.val) : x = y :=
  BitVec.eq_of_getLsbD_eq fun k hk => h ⟨k, hk⟩

theorem or_penBit_of_set {x : BitVec 6} {p : Fin 6} (h : x.getLsbD p.val = true) : x ||| penBit p = x := by
  refine penBits_ext fun q => ?_
  rw [getLsbD_or_penBit]
  by_cases hq : q = p
  · rw [hq, h, Bool.or_true]
  · rw [decide_eq_false hq, Bool.false_or]

theorem and_not_penBit_of_clear {x : BitVec 6} {p : Fin 6} (h : x.getLsbD p.val = false) :
    x &&& ~~~penBit p = x := by
  refine penBits_ext fun q => ?_
  rw [getLsbD_and_not_penBit]
  by_cases hq : q = p
  · rw [hq, h, Bool.and_false]
  · rw [decide_eq_false hq, Bool.not_false, Bool.true_and]

section
variable {s : State} {p : Fin 6} {pen : BitVec 6} {r : Nat}

/-- A port whose bit stays, and that is not told to retrain, stays. -/
theorem State.linkCtrl_of_same (h : s.pen.getLsbD p.val = pen.getLsbD p.val) (hr : bit r p.val = false) :
    s.linkCtrl pen r p = s := by
  have hpen : (if pen.getLsbD p.val then s.pen ||| penBit p else s.pen &&& ~~~penBit p) = s.pen := by
    split
    · exact or_penBit_of_set (h.trans ‹_›)
    · exact and_not_penBit_of_clear (h.trans (Bool.eq_false_of_not_eq_true ‹_›))
  unfold State.linkCtrl
  dsimp only
  rw [← penBit, hpen, h, hr]
  simp

theorem State.linkCtrl_of_enabled (hwas : s.pen.getLsbD p.val = false) (hnow : pen.getLsbD p.val = true)
    (hst : (s.port p).st ≠ .unused) :
    s.linkCtrl pen r p = State.startTraining { s with pen := s.pen ||| penBit p } p := by
  unfold State.linkCtrl
  dsimp only
  rw [hwas, hnow]
  exact (if_neg hst).trans (if_pos rfl)

theorem State.linkCtrl_of_disabled (hwas : s.pen.getLsbD p.val = true) (hnow : pen.getLsbD p.val = false)
    (hst : (s.port p).st ≠ .unused) :
    s.linkCtrl pen r p = if (s.port p).st = .down then { s with pen := s.pen &&& ~~~penBit p }
      else State.portDown { s with pen := s.pen &&& ~~~penBit p } p .down true := by
  unfold State.linkCtrl
  dsimp only
  rw [hwas, hnow]
  exact (if_neg hst).trans ((if_neg (by decide)).trans (if_pos rfl))

theorem State.linkCtrl_of_retrained (hwas : s.pen.getLsbD p.val = true) (hnow : pen.getLsbD p.val = true)
    (hst : (s.port p).st ≠ .unused) (hr : bit r p.val = true) :
    s.linkCtrl pen r p = (s.portDown p .down true).startTraining p := by
  unfold State.linkCtrl
  dsimp only
  rw [hwas, hnow, hr, ← penBit, or_penBit_of_set hwas]
  exact (if_neg hst).trans ((if_neg (by decide)).trans ((if_neg (by decide)).trans (if_pos rfl)))

/-- Whatever a port does, its own enable bit alone is written. -/
theorem State.pen_linkCtrl : (s.linkCtrl pen r p).pen
    = if pen.getLsbD p.val then s.pen ||| penBit p else s.pen &&& ~~~penBit p := by
  have hregs : (s.linkCtrl pen r p).regs.besidesPorts = (State.regs { s with
      pen := if pen.getLsbD p.val then s.pen ||| penBit p else s.pen &&& ~~~penBit p }).besidesPorts := by
    unfold State.linkCtrl
    dsimp only
    rw [← penBit]
    split_ifs <;> simp
  exact pen_of_regs hregs

/-- The enable bits are those of the write where it is about one port. -/
theorem State.pen_linkCtrl_of_one (h : ∀ q, q ≠ p → s.pen.getLsbD q.val = pen.getLsbD q.val) :
    (s.linkCtrl pen r p).pen = pen := by
  rw [State.pen_linkCtrl]
  refine penBits_ext fun q => ?_
  by_cases hq : q = p
  · subst hq
    cases hbit : pen.getLsbD q.val
    · rw [if_neg Bool.false_ne_true, getLsbD_and_not_penBit, decide_eq_true rfl, Bool.not_true, Bool.false_and]
    · rw [if_pos rfl, getLsbD_or_penBit, decide_eq_true rfl, Bool.true_or]
  · rw [← h q hq]
    split
    · rw [getLsbD_or_penBit, decide_eq_false hq, Bool.false_or]
    · rw [getLsbD_and_not_penBit, decide_eq_false hq, Bool.not_false, Bool.true_and]

-- The six ports under one write.

/-- Ports whose bits stay, and that are not told to retrain, stay. -/
theorem State.foldl_linkCtrl_of_same {l : List (Fin 6)} (h : ∀ q ∈ l, s.pen.getLsbD q.val = pen.getLsbD q.val)
    (hr : ∀ q ∈ l, bit r q.val = false) : l.foldl (fun s q => s.linkCtrl pen r q) s = s := by
  induction l with
  | nil => rfl
  | cons o l ih =>
    rw [List.foldl_cons, State.linkCtrl_of_same (h o List.mem_cons_self) (hr o List.mem_cons_self),
      ih (fun q hq => h q (List.mem_cons_of_mem _ hq)) fun q hq => hr q (List.mem_cons_of_mem _ hq)]

/-- A write that is about one port acts on that port. -/
theorem State.foldl_linkCtrl_of_one {l : List (Fin 6)} (hl : l.Nodup) (hp : p ∈ l)
    (h : ∀ q, q ≠ p → s.pen.getLsbD q.val = pen.getLsbD q.val) (hr : ∀ q : Fin 6, q ≠ p → bit r q.val = false) :
    l.foldl (fun s q => s.linkCtrl pen r q) s = s.linkCtrl pen r p := by
  induction l with
  | nil => cases hp
  | cons o l ih =>
    obtain ⟨ho, hl⟩ := List.nodup_cons.mp hl
    rw [List.foldl_cons]
    by_cases hop : o = p
    · subst hop
      exact State.foldl_linkCtrl_of_same (fun q _ => by rw [State.pen_linkCtrl_of_one h])
        fun q hq => hr q fun e => ho (e ▸ hq)
    · rw [State.linkCtrl_of_same (h o hop) (hr o hop), ih hl ((List.mem_cons.mp hp).resolve_left fun e => hop e.symm)]

/-- A write of the whole of `FGE_LINK_CTRL`, on an engine none of whose ports has used up its counter. -/
theorem State.writeNow_linkCtrl (hc : Counting s) (v : BitVec 64) : s.writeNow 0x610 (writeOf none v)
    = allPorts.foldl (fun s q => s.linkCtrl (BitVec.ofNat 6 (fld v.toNat 0 6)) (v.toNat >>> 6) q) s := by
  have hwrite : ∀ w : Wr, s.writeNow 0x610 w = allPorts.foldl (fun t q =>
      t.linkCtrl (BitVec.ofNat 6 (w.get 0 6 s.pen.toNat)) ((w.v &&& w.reach).toNat >>> 6) q) s.sweep := fun _ => rfl
  have hreach : (writeOf none v).reach = BitVec.allOnes 64 := rfl
  rw [hwrite, Wr.get_writeOf_none, writeOf_none_v, hreach, BitVec.and_allOnes, State.sweep_of_counting hc]

/-- What is written to `FGE_LINK_CTRL`, from its enable bits and its RETRAIN bits. -/
def linkWord (pen : BitVec 6) (r : Nat) : BitVec 64 := BitVec.ofNat 64 (pen.toNat + 64 * r)

theorem linkWord_fields (hr : r < 64) :
    BitVec.ofNat 6 (fld (linkWord pen r).toNat 0 6) = pen ∧ (linkWord pen r).toNat >>> 6 = r := by
  have hlt := pen.isLt
  have hv : (linkWord pen r).toNat = pen.toNat + 64 * r := by
    rw [linkWord, BitVec.toNat_ofNat]
    omega
  rw [hv]
  constructor
  · refine BitVec.eq_of_toNat_eq ?_
    rw [BitVec.toNat_ofNat, fld, Nat.shiftRight_zero]
    omega
  · rw [Nat.shiftRight_eq_div_pow]
    omega

/-- A write of `FGE_LINK_CTRL` that is about one port. -/
theorem State.write_linkCtrl (ha : Awake s) (hc : Counting s) (hr : r < 64)
    (hone : ∀ q, q ≠ p → s.pen.getLsbD q.val = pen.getLsbD q.val ∧ bit r q.val = false) :
    s.write 0x610 none (linkWord pen r) = answered (s.linkCtrl pen r p) := by
  obtain ⟨hlow, hhigh⟩ := linkWord_fields (pen := pen) hr
  have hall : allPorts.foldl (fun s q => s.linkCtrl pen r q) s = s.linkCtrl pen r p :=
    State.foldl_linkCtrl_of_one (by decide) ((by decide : ∀ p : Fin 6, p ∈ allPorts) p) (fun q hq => (hone q hq).1)
      fun q hq => (hone q hq).2
  have hnow : s.writeNow 0x610 (writeOf none (linkWord pen r)) = s.linkCtrl pen r p := by
    rw [State.writeNow_linkCtrl hc, hlow, hhigh, hall]
  rw [State.write_of_awake ha, hnow]

end

-- The commands of R607.

/-- What a port that is taken DOWN leaves, with LINKDOWN raised (R465, R607). -/
structure Leaves (s : State) (p : Fin 6) (t : State) : Prop where
  st : (t.port p).st = .down
  keyTx : (t.port p).keyTx = none
  keyRx : (t.port p).keyRx = none
  other : ∀ q, q ≠ p → (t.port q).st = (s.port q).st
  linkdown : t.evt.pend.getLsbD 14 = true
  hg : t.hg = s.hg
  regs : t.regs.besidesPorts = s.regs.besidesPorts

theorem State.portDown_spec (s : State) (p : Fin 6) : Leaves s p (s.portDown p .down true) where
  st := s.field_portDown p .down true Port.st
  keyTx := s.field_portDown p .down true Port.keyTx
  keyRx := s.field_portDown p .down true Port.keyRx
  other _ hq := s.field_portDown_other hq .down true Port.st
  linkdown := (s.portDown_talks p).2
  hg := s.hg_portDown p .down true
  regs := besidesPorts_portDown

/-- Whether a port may train hangs on the torus and the phase alone. -/
theorem mayTrain_of_regs {s t : State} (hregs : t.regs.besidesPorts = s.regs.besidesPorts) {p : Fin 6}
    (h : MayTrain s p) : MayTrain t p := by
  have hphase : t.phase = s.phase := (congrArg Registers.phase hregs :)
  have hx : t.hall.xdim = s.hall.xdim := (congrArg (fun r : Registers => r.hall.xdim) hregs :)
  have hy : t.hall.ydim = s.hall.ydim := (congrArg (fun r : Registers => r.hall.ydim) hregs :)
  have hz : t.hall.zdim = s.hall.zdim := (congrArg (fun r : Registers => r.hall.zdim) hregs :)
  have hused : t.portUnused p = s.portUnused p := by
    rw [State.portUnused, State.portUnused, Hall.dim, Hall.dim, hx, hy, hz]
  rw [MayTrain, hphase, hused]
  exact h

theorem exec_portEnable {s : State} {p : Fin 6} (ha : Awake s) (hc : Counting s) (hpen : s.pen.getLsbD p.val = false)
    (hst : (s.port p).st ≠ .unused) :
    exec (.portEnable p) s = .next (answered (State.startTraining { s with pen := s.pen ||| penBit p } p)) := by
  have hbit : (s.pen ||| penBit p).getLsbD p.val = true := by rw [getLsbD_or_penBit, decide_eq_true rfl, Bool.true_or]
  have hexec : exec (.portEnable p) s = .next (s.write 0x610 none (linkWord (s.pen ||| penBit p) 0)) := rfl
  rw [hexec, State.write_linkCtrl (p := p) ha hc (by decide) fun q hq => ⟨?_, by simp [bit, fld]⟩,
    State.linkCtrl_of_enabled hpen hbit hst]
  rw [getLsbD_or_penBit, decide_eq_false hq, Bool.false_or]

theorem exec_portDisable {s : State} {p : Fin 6} (ha : Awake s) (hc : Counting s) (hpen : s.pen.getLsbD p.val = true)
    (hst : (s.port p).st ≠ .unused) : exec (.portDisable p) s = .next (answered
      (if (s.port p).st = .down then { s with pen := s.pen &&& ~~~penBit p }
        else State.portDown { s with pen := s.pen &&& ~~~penBit p } p .down true)) := by
  have hbit : (s.pen &&& ~~~penBit p).getLsbD p.val = false := by
    rw [getLsbD_and_not_penBit, decide_eq_true rfl, Bool.not_true, Bool.false_and]
  have hexec : exec (.portDisable p) s = .next (s.write 0x610 none (linkWord (s.pen &&& ~~~penBit p) 0)) := rfl
  rw [hexec, State.write_linkCtrl (p := p) ha hc (by decide) fun q hq => ⟨?_, by simp [bit, fld]⟩,
    State.linkCtrl_of_disabled hpen hbit hst]
  rw [getLsbD_and_not_penBit, decide_eq_false hq, Bool.not_false, Bool.true_and]

theorem bit_two_pow (p q : Fin 6) : bit (2 ^ p.val) q.val = decide (q = p) := by
  revert p q
  decide

theorem exec_retrain {s : State} {p : Fin 6} (ha : Awake s) (hc : Counting s) (hpen : s.pen.getLsbD p.val = true)
    (hst : (s.port p).st ≠ .unused) :
    exec (.retrain p) s = .next (answered ((s.portDown p .down true).startTraining p)) := by
  have hword : s.pen.toNat + 2 ^ (6 + p.val) = s.pen.toNat + 64 * 2 ^ p.val := by rw [Nat.pow_add]
  have hexec : exec (.retrain p) s = .next (s.write 0x610 none (BitVec.ofNat 64 (s.pen.toNat + 2 ^ (6 + p.val)))) := rfl
  rw [hexec, hword, ← linkWord, State.write_linkCtrl (p := p) ha hc ((by decide : ∀ p : Fin 6, 2 ^ p.val < 64) p)
    fun q hq => ⟨rfl, by rw [bit_two_pow, decide_eq_false hq]⟩,
    State.linkCtrl_of_retrained hpen hpen hst (by rw [bit_two_pow, decide_eq_true rfl])]

theorem exec_trainingRetry {s : State} (hc : Counting s) (p : Fin 6) : exec (.trainingRetry p) s
    = .next (if (s.port p).st = .down then s.startTraining p else s) := by
  have hexec : exec (.trainingRetry p) s
      = .next (if (s.sweep.port p).st = .down then s.sweep.startTraining p else s.sweep) := rfl
  rw [hexec, State.sweep_of_counting hc]

end Sys2Proof.Machine
end

section
/-! The steps of a port's training with their effect on its lanes (R454, R456), and the claim about training. -/
namespace Sys2Proof.Machine
open Sys2Proof.Claims

-- Step 1 (R454).

/-- A lane whose wires fail the test of step 1. -/
theorem isSome_wiringFault (o : LaneObs) : (wiringFault o).isSome = true ↔ o.pmv < 50 ∨ o.nmv < 50 ∨ 350 < o.pmv
    ∨ 350 < o.nmv ∨ (50 < o.pmv ∧ 50 < o.nmv ∧ o.pmv ≤ o.nmv + 20 ∧ o.nmv ≤ o.pmv + 20) := by
  unfold wiringFault
  split_ifs <;> simp only [Option.isSome_some, Option.isSome_none, true_iff, Bool.false_eq_true, false_iff] <;> omega

theorem Port.mem_inTest {q : Port} {lanes : List LaneObs} {l : Nat} {o : LaneObs} :
    (l, o) ∈ q.inTest lanes ↔ l < 9 ∧ lanes[l]? = some o ∧ q.isFenced l = false := by
  simp only [Port.inTest, List.mem_filterMap, Prod.exists, List.mem_zipIdx_iff_getElem?, List.getElem?_take]
  constructor
  · rintro ⟨o', l', hget, hfree⟩
    split at hfree
    · cases hfree
    · cases hfree
      split at hget
      · exact ⟨‹_›, hget, Bool.eq_false_of_not_eq_true ‹_›⟩
      · cases hget
  · rintro ⟨hl, hget, hfree⟩
    exact ⟨o, l, by rw [if_pos hl, hget], by rw [hfree]; rfl⟩

theorem Port.isFenced_fence (q : Port) (x c : Nat) {l : Nat} (hl : l < 9) :
    (q.fence x c).isFenced l = true ↔ q.isFenced l = true ∨ l = x := by
  have hbit : (BitVec.ofNat 9 (2 ^ x)).getLsbD l = decide (x = l) := by
    rw [BitVec.getLsbD_ofNat, decide_eq_true hl, Bool.true_and, Nat.testBit_two_pow]
  rw [Port.isFenced, Port.fence, BitVec.getLsbD_or, hbit, Bool.or_eq_true, decide_eq_true_iff, eq_comm (a := x)]
  rfl

/-- Lanes fenced one after the other. -/
theorem Port.isFenced_fenceAll (q : Port) (bad : List (Nat × Nat)) {l : Nat} (hl : l < 9) :
    (q.fenceAll bad).isFenced l = true ↔ q.isFenced l = true ∨ ∃ c, (l, c) ∈ bad := by
  unfold Port.fenceAll
  induction bad generalizing q with
  | nil => simp
  | cons x bad ih =>
    rw [List.foldl_cons, ih, Port.isFenced_fence q _ _ hl, or_assoc]
    refine or_congr_right ?_
    constructor
    · rintro (rfl | ⟨c, hc⟩)
      · exact ⟨x.2, List.mem_cons_self⟩
      · exact ⟨c, List.mem_cons_of_mem _ hc⟩
    · rintro ⟨c, hc⟩
      rcases List.mem_cons.mp hc with rfl | hc
      · exact .inl rfl
      · exact .inr ⟨c, hc⟩

/-- Fencing is a matter of the marks and the faults to raise. -/
theorem Port.fenceAll_shape (q : Port) (bad : List (Nat × Nat)) :
    ∃ f l, q.fenceAll bad = { q with fenced := f, faults := l } := by
  unfold Port.fenceAll
  induction bad generalizing q with
  | nil => exact ⟨_, _, rfl⟩
  | cons x bad ih =>
    obtain ⟨f, l, e⟩ := ih (q.fence x.1 x.2)
    exact ⟨f, l, e⟩

/-- The lanes that fail the test of step 1, with their codes. -/
def Port.badWires (q : Port) (lanes : List LaneObs) : List (Nat × Nat) :=
  (q.inTest lanes).filterMap fun x => (wiringFault x.2).map fun c => (x.1, c)

theorem Port.isFenced_badWires (q : Port) {lanes : List LaneObs} {l : Nat} {o : LaneObs} (hl : l < 9)
    (ho : lanes[l]? = some o) : (q.fenceAll (q.badWires lanes)).isFenced l = true ↔
      q.isFenced l = true ∨ (wiringFault o).isSome = true := by
  rw [Port.isFenced_fenceAll q _ hl]
  have hbad : (∃ c, (l, c) ∈ q.badWires lanes) ↔ q.isFenced l = false ∧ (wiringFault o).isSome = true := by
    simp only [Port.badWires, List.mem_filterMap, Prod.exists, Port.mem_inTest, Option.map_eq_some_iff,
      Prod.mk.injEq, Option.isSome_iff_exists]
    constructor
    · rintro ⟨c, l', o', ⟨-, hget, hfree⟩, c', hc, rfl, rfl⟩
      cases ho.symm.trans hget
      exact ⟨hfree, c', hc⟩
    · rintro ⟨hfree, c, hc⟩
      exact ⟨c, l, o, ⟨hl, ho, hfree⟩, c, hc, rfl, rfl⟩
  rw [hbad]
  cases q.isFenced l <;> simp

theorem exec_trainStepEnd (p : Fin 6) (lanes : List LaneObs) (s : State) :
    exec (.trainStepEnd p lanes) s = execTrainStepEnd p lanes s := rfl

theorem exec_trainStepEnd_of_not_training {s : State} {p : Fin 6} (hc : Counting s) (h : (s.port p).st ≠ .train)
    (lanes : List LaneObs) : exec (.trainStepEnd p lanes) s = .next s := by
  rw [exec_trainStepEnd, execTrainStepEnd, State.sweep_of_counting hc]
  exact congrArg _ (if_pos h)

theorem exec_trainStepEnd_one {s : State} {p : Fin 6} (hc : Counting s) (h : (s.port p).st = .train)
    (hstep : (s.port p).tstep = 1) (lanes : List LaneObs) : exec (.trainStepEnd p lanes) s = .next
      (s.setPort p { (s.port p).fenceAll ((s.port p).badWires lanes) with tstep := 2 }) := by
  obtain ⟨_, _, e⟩ := (s.port p).fenceAll_shape ((s.port p).badWires lanes)
  have hnext : ((s.port p).fenceAll ((s.port p).badWires lanes)).tstep + 1 = 2 := by
    rw [e]
    exact congrArg (· + 1) hstep
  rw [exec_trainStepEnd, execTrainStepEnd, State.sweep_of_counting hc, ← hnext]
  refine congrArg _ ((if_neg (not_not.mpr h)).trans ?_)
  rw [hstep]
  rfl

-- Step 6 (R456).

theorem length_insertLane (x : Nat) (l : List Nat) : (insertLane x l).length = l.length + 1 := by
  induction l with
  | nil => rfl
  | cons y l ih =>
    rw [insertLane]
    split
    · rfl
    · rw [List.length_cons, List.length_cons, ih]

theorem mem_insertLane {x y : Nat} {l : List Nat} : y ∈ insertLane x l ↔ y = x ∨ y ∈ l := by
  induction l with
  | nil => simp [insertLane]
  | cons z l ih =>
    rw [insertLane]
    split
    · simp
    · rw [List.mem_cons, ih, List.mem_cons]
      exact or_left_comm

/-- Good lanes in rising order. -/
def sortLanes (good : List Nat) : List Nat := good.foldr insertLane []

theorem length_sortLanes (good : List Nat) : (sortLanes good).length = good.length := by
  induction good with
  | nil => rfl
  | cons x good ih => rw [sortLanes, List.foldr_cons, length_insertLane, List.length_cons, ← sortLanes, ih]

theorem mem_sortLanes {y : Nat} {good : List Nat} : y ∈ sortLanes good ↔ y ∈ good := by
  induction good with
  | nil => simp [sortLanes]
  | cons x good ih => rw [sortLanes, List.foldr_cons, mem_insertLane, ← sortLanes, ih, List.mem_cons]

/-- As many logical lanes are chosen as are good, up to eight (R456). -/
theorem length_chooseLanes (good : List Nat) : (chooseLanes good).lanes.length = min 8 good.length := by
  rw [← length_sortLanes good]
  exact List.length_take

theorem mem_of_mem_chooseLanes {y : Nat} {good : List Nat} (h : y ∈ (chooseLanes good).lanes) : y ∈ good :=
  mem_sortLanes.mp (List.mem_of_mem_take h)

/-- The transmitter's lanes that come in on lanes not fenced. -/
def Port.goodLanes (q : Port) : List Nat :=
  q.laneOf.filterMap fun m => if q.isFenced m.2 then none else some m.1

/-- Receive lanes in the order of the transmitter's lanes that they take. -/
def Port.takeLanes (q : Port) (d : Dir) : Dir where
  lanes := d.lanes.filterMap fun t => (q.laneOf.find? fun m => m.1 == t).map (·.2)
  spare := d.spare.bind fun t => (q.laneOf.find? fun m => m.1 == t).map (·.2)

/-- The transmit lanes that the far receiver locked on. -/
def lockedLanes (far : List LaneObs) : List Nat :=
  (far.take 9).zipIdx.filterMap fun x => if x.1.locked then some x.2 else none

theorem Port.length_goodLanes (q : Port) :
    q.goodLanes.length = (q.laneOf.filter fun m => !q.isFenced m.2).length := by
  unfold Port.goodLanes
  induction q.laneOf with
  | nil => rfl
  | cons m l ih => cases h : q.isFenced m.2 <;> simp [h, ih]

theorem length_lockedLanes (far : List LaneObs) :
    (lockedLanes far).length = ((far.take 9).filter fun o => o.locked).length := by
  unfold lockedLanes
  generalize far.take 9 = l
  generalize 0 = k
  induction l generalizing k with
  | nil => rfl
  | cons o l ih => cases h : o.locked <;> simp [h, ih]

/-- Every lane that is chosen comes in on some receive lane. -/
theorem Port.length_takeLanes (q : Port) :
    (q.takeLanes (chooseLanes q.goodLanes)).lanes.length = min 8 q.goodLanes.length := by
  rw [← length_chooseLanes]
  refine List.filterMap_length_eq_length.mpr fun t ht => ?_
  obtain ⟨m, hm, hgood⟩ := List.mem_filterMap.mp (mem_of_mem_chooseLanes ht)
  rw [Option.isSome_map, List.find?_isSome]
  refine ⟨m, hm, ?_⟩
  split at hgood
  · cases hgood
  · exact beq_iff_eq.mpr (Option.some.inj hgood)

/-- A port whose lanes are chosen. -/
def Port.chosen (q : Port) (far : List LaneObs) : Port :=
  { q with
    st := .trained, tstep := 7
    rx := q.takeLanes (chooseLanes q.goodLanes), tx := chooseLanes (lockedLanes far) }

theorem State.chooseStep_eq (s : State) (p : Fin 6) (far : List LaneObs) : s.chooseStep p far =
    if ((s.port p).chosen far).rx.lanes.length < 7 ∨ ((s.port p).chosen far).tx.lanes.length < 7
    then s.portDown p .down (s.port p).synced
    else (((s.setPort p ((s.port p).chosen far)).announce p).sayReady p).switchTx p := rfl

/-- A port that is trained announces itself and says that its receiver is ready, where it has a staged key. -/
theorem State.trained_stays {s : State} {p : Fin 6} {q : Port} (hst : q.st = .trained) (hx : q.exhausted = false)
    (hr : q.farReady = false) :
    (s.setPort p q).Stays ((((s.setPort p q).announce p).sayReady p).switchTx p) := by
  have hport : ((s.setPort p q).announce p).port p = q := by
    rw [State.port_announce_of_not_usable, State.port_setPort_same]
    rw [State.port_setPort_same, hst]
    rfl
  have hready : (s.setPort p q).Stays (((s.setPort p q).announce p).sayReady p) := by
    refine .ite ?_ (State.Stays.refl _).announce
    rw [State.handshake_of_linked (by rw [hport]; simp [Port.linked, hst]) (by rw [hport]; exact hx)]
    exact (State.Stays.refl _).announce.putSluice
  rw [State.switchTx_of_not_ready (.inl ?_)]
  · exact hready
  · rw [hready.field Port.farReady p, State.port_setPort_same]
    exact hr

theorem exec_trainStepEnd_six {s : State} {p : Fin 6} (hc : Counting s) (h : (s.port p).st = .train)
    (hstep : (s.port p).tstep = 6) (lanes : List LaneObs) :
    exec (.trainStepEnd p lanes) s = .next (s.chooseStep p lanes) := by
  rw [exec_trainStepEnd, execTrainStepEnd, State.sweep_of_counting hc]
  refine congrArg _ ((if_neg (not_not.mpr h)).trans ?_)
  rw [hstep]
  rfl

/-- Settles O50: writes of `FGE_LINK_CTRL` and retries by what a port that leaves its state or trains is left with, the steps
by their effect on the lanes. -/
theorem portsTrain : Obligations.PortsTrain := by
  unfold Obligations.PortsTrain
  intro p s hc
  refine ⟨fun ha hpen hst hused hphase => ?enable, fun ha hpen hst hst' => ?disable, fun ha hpen hst => ?disableDown,
    fun ha hpen hst hused hphase => ?retrain, fun hst hpen hused hphase => ?retry, fun hst => ?noRetry,
    fun lanes hst => exec_trainStepEnd_of_not_training hc hst lanes, fun lanes hst hstep => ?one,
    fun lanes hst hstep hr hx => ?six⟩
  case enable =>
    have hbit : (s.pen ||| penBit p).getLsbD p.val = true := by
      rw [getLsbD_or_penBit, decide_eq_true rfl, Bool.true_or]
    have hstart := State.startTraining_spec (s := { s with pen := s.pen ||| penBit p }) hbit ⟨hused, hphase⟩
    refine ⟨_, exec_portEnable ha hc hpen (by rw [hst]; decide), hstart.pen, ?_, ?_, ?_, ?_, hstart.other, hstart.mem,
      hstart.hg, hstart.tm⟩
    all_goals
      refine (congrArg _ hstart.port).trans ?_
      rfl
  case disable =>
    have hdown := State.portDown_spec { s with pen := s.pen &&& ~~~penBit p } p
    refine ⟨_, exec_portDisable ha hc hpen hst', ?_⟩
    rw [if_neg hst]
    generalize State.portDown _ p .down true = t at hdown ⊢
    exact ⟨pen_of_regs hdown.regs, hdown.st, hdown.keyTx, hdown.keyRx, hdown.linkdown, hdown.other, hdown.hg⟩
  case disableDown =>
    refine ⟨_, exec_portDisable ha hc hpen (by rw [hst]; decide), ?_⟩
    rw [if_pos hst]
    rfl
  case retrain =>
    have hdown := s.portDown_spec p
    have hstart := State.startTraining_spec (s := s.portDown p .down true)
      (by rw [pen_of_regs hdown.regs]; exact hpen) (mayTrain_of_regs hdown.regs ⟨hused, hphase⟩)
    have hused : (s.port p).st ≠ .unused := fun h => by
      rw [h] at hst
      cases hst
    exact ⟨_, exec_retrain ha hc hpen hused, hstart.pen.trans (pen_of_regs hdown.regs),
      congrArg Port.st hstart.port, congrArg Port.tstep hstart.port, congrArg Port.keyTx hstart.port,
      (congrArg (fun e : Events => e.pend.getLsbD 14) hstart.evt).trans hdown.linkdown,
      fun q hq => (hstart.other q hq).trans (hdown.other q hq), hstart.hg.trans hdown.hg⟩
  case retry =>
    have hstart := State.startTraining_spec hpen ⟨hused, .inr (.inr hphase)⟩
    refine ⟨_, exec_trainingRetry hc p, ?_⟩
    rw [if_pos hst]
    exact ⟨congrArg Port.st hstart.port, congrArg Port.tstep hstart.port, hstart.pen, hstart.mem, hstart.hg⟩
  case noRetry => rw [exec_trainingRetry hc, if_neg hst]
  case one =>
    obtain ⟨_, _, e⟩ := (s.port p).fenceAll_shape ((s.port p).badWires lanes)
    refine ⟨_, exec_trainStepEnd_one hc hst hstep lanes, ?_⟩
    rw [State.port_setPort_same]
    refine ⟨rfl, ?_, fun l o hl ho => ?_, fun q hq => State.port_setPort_other _ _ hq, rfl, rfl⟩
    · rw [e]
      exact hst
    · rw [← isSome_wiringFault o]
      exact (s.port p).isFenced_badWires hl ho
  case six =>
    intro got far
    have hrx : ((s.port p).chosen lanes).rx.lanes.length = min 8 got :=
      (Port.length_takeLanes _).trans (congrArg (min 8) (Port.length_goodLanes _))
    have htx : ((s.port p).chosen lanes).tx.lanes.length = min 8 far :=
      (length_chooseLanes _).trans (congrArg (min 8) (length_lockedLanes _))
    refine ⟨_, exec_trainStepEnd_six hc hst hstep lanes, ?_⟩
    rw [State.chooseStep_eq, hrx, htx]
    by_cases henough : 7 ≤ got ∧ 7 ≤ far
    · have hstays := State.trained_stays (s := s) (p := p) (q := (s.port p).chosen lanes) rfl hx hr
      rw [if_neg (by omega), if_pos henough]
      refine ⟨(hstays.field Port.st p).trans ?_, fun _ _ => ⟨?_, ?_⟩, hstays.hg⟩
      · rw [State.port_setPort_same]
        rfl
      · rw [hstays.field Port.rx p, State.port_setPort_same, hrx]
      · rw [hstays.field Port.tx p, State.port_setPort_same, htx]
    · rw [if_pos (by omega), if_neg henough]
      exact ⟨State.field_portDown _ p .down _ Port.st, fun h h' => absurd ⟨h, h'⟩ henough, State.hg_portDown ..⟩

end Sys2Proof.Machine
end

section
/-! What a flit that is discarded can do (R450, R452, R458): link traffic, with what it takes of the ports' counters. -/
namespace Sys2Proof.Machine
open Sys2Proof.Claims

-- Link traffic and the counter values that it takes.

/-- `t` is `s` after link traffic, lanes taken out of service among it: as `State.Passes`, but that the service record
counts a spare that came in (R458). -/
def State.Flows (s t : State) : Prop :=
  ∃ (q : Vector Port 6) (o : Observe) (v : Service) (l : List Sent),
    t = { s with ports := q, obs := o, svc := v, out := { s.out with links := l } }

/-- `t` is `s` after link traffic that took at most `k` counter values of every port (R463). -/
structure State.Spends (s : State) (k : Nat) (t : State) : Prop where
  flows : s.Flows t
  count : ∀ o, (t.port o).txCount.toNat ≤ (s.port o).txCount.toNat + k

theorem State.Passes.flows {s t : State} (h : s.Passes t) : s.Flows t := by
  obtain ⟨_, _, _, rfl⟩ := h
  exact ⟨_, _, _, _, rfl⟩

theorem State.Flows.sameBesides {s t : State} (h : s.Flows t) : t.mem = s.mem ∧ t.rem = s.rem ∧ SameBesides s t := by
  obtain ⟨_, _, _, _, rfl⟩ := h
  exact ⟨rfl, rfl, rfl, rfl, rfl, rfl, rfl, rfl, rfl⟩

/-- A flit that goes out again changes a counter and what went out (R450). -/
theorem State.sendKept_shape (s : State) (p : Fin 6) (k : Kept) :
    ∃ o l, s.sendKept p k = { s with obs := o, out := { s.out with links := l } } := by
  obtain ⟨_, hdata, -⟩ := s.bump_shape (9 + p.val) 3 1
  obtain ⟨_, hsluice, -⟩ := s.bump_shape (9 + p.val) 5 1
  unfold State.sendKept
  split
  · rw [hdata]
    exact ⟨_, _, rfl⟩
  · exact ⟨s.obs, _, rfl⟩
  · rw [hsluice]
    exact ⟨_, _, rfl⟩

/-- A replay leaves what is held at its port (R450, R459). -/
theorem State.hold_sendAgain (s : State) (p : Fin 6) (l : List Kept) :
    ((s.sendAgain p l).port p).hold = (s.port p).hold := by
  have hports (ks : List Kept) (t : State) : (ks.foldl (fun t k => t.sendKept p k) t).ports = t.ports := by
    induction ks generalizing t with
    | nil => rfl
    | cons k ks ih =>
      obtain ⟨_, _, e⟩ := t.sendKept_shape p k
      rw [List.foldl_cons, ih, e]
  unfold State.sendAgain
  rw [State.port, hports]
  exact (congrArg Port.hold (State.port_setPort_same s p _)).trans rfl

/-- A counter rises by one at most; at its end it starts again. -/
theorem toNat_succ_le (c : BitVec 64) : (c + 1).toNat ≤ c.toNat + 1 := by
  rw [BitVec.toNat_add]
  exact Nat.mod_le _ _

namespace State.Spends
variable {s a b : State} {k m : Nat}

theorem refl (s : State) : s.Spends 0 s := ⟨⟨_, _, _, _, rfl⟩, fun _ => Nat.le_refl _⟩

theorem trans (h : s.Spends k a) (n : a.Spends m b) : s.Spends (k + m) b := by
  obtain ⟨_, _, _, _, rfl⟩ := h.flows
  obtain ⟨_, _, _, _, rfl⟩ := n.flows
  exact ⟨⟨_, _, _, _, rfl⟩, fun o => by have := h.count o; have := n.count o; omega⟩

theorem mono (h : s.Spends k a) (hk : k ≤ m) : s.Spends m a := ⟨h.flows, fun o => by have := h.count o; omega⟩

theorem ite {c : Prop} [Decidable c] (h : s.Spends k a) (n : s.Spends k b) : s.Spends k (if c then a else b) := by
  split <;> assumption

/-- The counters and what went out may be replaced. -/
theorem fields (h : s.Spends k a) {o v l} :
    s.Spends k { a with obs := o, svc := v, out := { a.out with links := l } } := by
  obtain ⟨_, _, _, _, rfl⟩ := h.flows
  exact ⟨⟨_, _, _, _, rfl⟩, h.count⟩

/-- A port may be replaced by one that took at most `m` counter values more. -/
theorem setPort (h : s.Spends k a) {p : Fin 6} {q : Port} (hq : q.txCount.toNat ≤ (a.port p).txCount.toNat + m) :
    s.Spends (k + m) (a.setPort p q) := by
  refine h.trans ⟨⟨_, a.obs, a.svc, a.out.links, rfl⟩, fun o => ?_⟩
  by_cases ho : o = p
  · rwa [ho, State.port_setPort_same]
  · rw [State.port_setPort_other _ _ ho]
    exact Nat.le_add_right _ _

/-- A port may be replaced by one with the same count. -/
theorem setPort_same (h : s.Spends k a) {p : Fin 6} {q : Port} (hq : q.txCount = (a.port p).txCount := by rfl) :
    s.Spends k (a.setPort p q) := h.setPort (m := 0) (by rw [hq]; exact Nat.le_refl _)

theorem bump (h : s.Spends k a) {x i n} : s.Spends k (a.bump x i n) := by
  obtain ⟨_, e, -⟩ := a.bump_shape x i n
  rw [e]
  exact h.fields

theorem svcAdd (h : s.Spends k a) {i n} : s.Spends k (a.svcAdd i n) := by
  obtain ⟨_, e, -⟩ := a.svcAdd_shape i n
  rw [e]
  exact h.fields

theorem putSluice (h : s.Spends k a) {p m} : s.Spends (k + 1) (a.putSluice p m) :=
  (h.setPort (toNat_succ_le _)).bump.fields

theorem sluiceOn (h : s.Spends k a) {p m} : s.Spends (k + 1) (a.sluiceOn p m) :=
  .ite h.putSluice (h.mono (Nat.le_succ k))

theorem freeQueue (h : s.Spends k a) {came} : s.Spends (k + 1) (a.freeQueue came) := by
  unfold State.freeQueue
  split
  · exact h.sluiceOn
  · exact h.mono (Nat.le_succ k)

theorem transmit (h : s.Spends k a) {p f came via wake} : s.Spends (k + 2) (a.transmit p f came via wake) := by
  unfold State.transmit
  dsimp only
  split
  · exact (fields (h.setPort (toNat_succ_le _)).bump).freeQueue
  · exact .ite (h.setPort_same.sluiceOn.mono (Nat.le_succ _)) (h.setPort_same.mono (Nat.le_add_right _ _))

theorem sendKept (h : s.Spends k a) {p w} : s.Spends k (a.sendKept p w) := by
  obtain ⟨_, _, e⟩ := a.sendKept_shape p w
  rw [e]
  exact h.fields

theorem foldl {α : Type} {f : State → α → State} {l : List α} (h : s.Spends k a)
    (hf : ∀ {n b x}, s.Spends n b → s.Spends (n + m) (f b x)) : s.Spends (k + m * l.length) (l.foldl f a) := by
  induction l generalizing a k with
  | nil => exact h
  | cons x l ih => exact (ih (hf h)).mono (by rw [List.length_cons, Nat.mul_succ]; omega)

theorem sendAgain (h : s.Spends k a) {p l} : s.Spends k (a.sendAgain p l) :=
  (h.setPort_same.foldl (m := 0) fun h => h.sendKept).mono (by omega)

theorem release (h : s.Spends k a) {p n} (hn : (a.port p).hold.length = n) : s.Spends (k + 2 * n) (a.release p) := by
  unfold State.release
  dsimp only
  rw [State.hold_sendAgain, ← hn]
  exact h.sendAgain.setPort_same.foldl fun h => h.transmit

theorem restall (h : s.Spends k a) {p n} (hn : (a.port p).hold.length = n) : s.Spends (k + 2 * n) (a.restall p) :=
  .ite (h.mono (Nat.le_add_right _ _)) (.ite (h.setPort_same.mono (Nat.le_add_right _ _))
    (h.setPort_same.release ((congrArg (fun q : Port => q.hold.length) (State.port_setPort_same a p _)).trans hn)))

end State.Spends


/-- A sluice flit leaves what is held at its port (R447). -/
theorem State.hold_sluiceOn (s : State) (p : Fin 6) (m : Sluice) : ((s.sluiceOn p m).port p).hold = (s.port p).hold := by
  unfold State.sluiceOn
  dsimp only
  split
  · obtain ⟨o, e⟩ := s.putSluice_shape p m
    rw [e]
    exact (congrArg Port.hold (State.port_setPort_same s p _)).trans rfl
  · rfl

-- A lane that fails (R458).

/-- An engine whose port has a receive lane out of service: the spare takes its number and is counted (R458). -/
def State.withoutLane (s : State) (p : Fin 6) (lane : Nat) : State :=
  let q := s.port p
  let t := s.setPort p { q with rx := (q.rx.remove lane).1, fails := q.fails.filter fun x => x.1 != lane }
  if (q.rx.remove lane).2 then t.svcAdd (198 + p.val) 1 else t

theorem State.port_withoutLane (s : State) (p : Fin 6) (lane : Nat) :
    (s.withoutLane p lane).port p = { s.port p with
      rx := ((s.port p).rx.remove lane).1, fails := (s.port p).fails.filter fun x => x.1 != lane } := by
  unfold State.withoutLane
  dsimp only
  split
  · exact State.port_setPort_same ..
  · exact State.port_setPort_same ..

/-- An UP port that loses a logical lane tells its far end, and what it holds goes if lanes enough are left (R458, R459). -/
theorem State.laneLost_of_up {s : State} {p : Fin 6} {lane : Nat} (hup : (s.port p).st = .up)
    (hl : lane ∈ (s.port p).rx.lanes) : ∃ m, s.laneLost p lane = ((s.withoutLane p lane).sluiceOn p m).restall p := by
  unfold State.laneLost
  extract_lets q alive
  have halive : alive = false := by simp [alive, q, hup]
  have hstays : ¬((!q.st.usable) = true ∨ (!(q.rx.lanes.contains lane || q.rx.spare == some lane)) = true) := by
    simp [q, hup, hl, PortSt.usable]
  rw [halive]
  simp only [Bool.false_eq_true, if_false, false_and]
  rw [if_neg hstays]
  exact ⟨_, rfl⟩

/-- That takes counter values for the notice and what the port held. -/
theorem State.Spends.laneLost {s a : State} {k n : Nat} {p : Fin 6} {lane : Nat} (h : s.Spends k a)
    (hup : (a.port p).st = .up) (hl : lane ∈ (a.port p).rx.lanes) (hn : (a.port p).hold.length = n) :
    s.Spends (k + 1 + 2 * n) (a.laneLost p lane) := by
  obtain ⟨m, e⟩ := State.laneLost_of_up hup hl
  have hwithout : s.Spends k (a.withoutLane p lane) := .ite h.setPort_same.svcAdd h.setPort_same
  rw [e]
  refine hwithout.sluiceOn.restall ?_
  rw [State.hold_sluiceOn, State.port_withoutLane]
  exact hn

/-- The lane that a flit was dealt to (R446, R449). -/
def Port.laneDealt (q : Port) (f : Flit) : Nat := nth q.rx.lanes (q.countOf f.pseq % q.rx.lanes.length) 0

/-- A port that noted the failed tag of a flit at its lane, with those near it in the lane's slots (R458). -/
def Port.noted (q : Port) (f : Flit) : Port :=
  let slot := q.countOf f.pseq / q.rx.lanes.length
  { q with fails := (q.laneDealt f, slot) :: q.fails.filter fun x => decide (slot < x.2 + 2 ^ 20) }

theorem Port.laneDealt_mem {q : Port} (h : q.rx.lanes.length ≠ 0) (f : Flit) : q.laneDealt f ∈ q.rx.lanes := by
  rw [Port.laneDealt, nth, List.getD_eq_getElem _ _ (Nat.mod_lt _ (Nat.pos_of_ne_zero h))]
  exact List.getElem_mem _

theorem State.laneFailed_of_idle {s : State} {p : Fin 6} (h : (s.port p).rx.lanes.length = 0 ∨ (s.port p).st ≠ .up)
    (f : Flit) : s.laneFailed p f = s := if_pos h

theorem State.laneFailed_of_up {s : State} {p : Fin 6} (h : ¬((s.port p).rx.lanes.length = 0 ∨ (s.port p).st ≠ .up))
    (f : Flit) : s.laneFailed p f =
      let q := (s.port p).noted f
      let lane := (s.port p).laneDealt f
      if 16 ≤ (q.fails.filter fun x => x.1 == lane).length then (s.setPort p q).laneLost p lane else s.setPort p q :=
  if_neg h

/-- A failed tag takes counter values where it takes a lane out of service (R458). -/
theorem State.Spends.laneFailed {s a : State} {k n : Nat} {p : Fin 6} (h : s.Spends k a) (f : Flit)
    (hn : (a.port p).hold.length = n) : s.Spends (k + 1 + 2 * n) (a.laneFailed p f) := by
  have hmore {t : State} (h : s.Spends k t) : s.Spends (k + 1 + 2 * n) t := h.mono (by omega)
  by_cases hidle : (a.port p).rx.lanes.length = 0 ∨ (a.port p).st ≠ .up
  · rw [State.laneFailed_of_idle hidle]
    exact hmore h
  · have hport := State.port_setPort_same a p ((a.port p).noted f)
    rw [State.laneFailed_of_up hidle]
    push Not at hidle
    obtain ⟨hlanes, hup⟩ := hidle
    refine .ite (h.setPort_same.laneLost ?_ ?_ ?_) (hmore h.setPort_same)
    · rw [hport]
      exact hup
    · rw [hport]
      exact Port.laneDealt_mem hlanes f
    · rw [hport]
      exact hn

/-- What a failed tag takes of its port: sending, the failures it noted, and a receive lane (R458). -/
theorem State.field_laneFailed (s : State) (p : Fin 6) (f : Flit) {α : Type} (g : Port → α)
    (hstill : ∀ q : Port, g q.still = g q) (hrx : ∀ (q : Port) rx fails, g { q with rx := rx, fails := fails } = g q) :
    g ((s.laneFailed p f).port p) = g (s.port p) := by
  have hport := State.port_setPort_same s p ((s.port p).noted f)
  have hnoted : g ((s.port p).noted f) = g (s.port p) := hrx _ _ _
  by_cases hidle : (s.port p).rx.lanes.length = 0 ∨ (s.port p).st ≠ .up
  · rw [State.laneFailed_of_idle hidle]
  · rw [State.laneFailed_of_up hidle]
    push Not at hidle
    obtain ⟨hlanes, hup⟩ := hidle
    dsimp only
    split
    · obtain ⟨m, e⟩ := State.laneLost_of_up (s := s.setPort p ((s.port p).noted f)) (by rw [hport]; exact hup)
        (by rw [hport]; exact Port.laneDealt_mem hlanes f)
      rw [e, ((State.Stays.refl _).sluiceOn.restall).field g p hstill, State.port_withoutLane, hrx, hport, hnoted]
    · rw [hport, hnoted]

-- A flit that is discarded (R450, R452).

/-- The engine once a flit that is discarded was counted, at its lane too where its tag failed. -/
def State.discarded (s : State) (p : Fin 6) (f : Flit) (tagOk : Bool) : State :=
  let s := s.bump (9 + p.val) 0 1
  if tagOk then s else s.laneFailed p f

theorem State.port_bump (s : State) (b i n : Nat) (p : Fin 6) : (s.bump b i n).port p = s.port p := by
  obtain ⟨_, e, -⟩ := s.bump_shape b i n
  rw [e]
  rfl

theorem State.field_discarded (s : State) (p : Fin 6) (f : Flit) (ok : Bool) {α : Type} (g : Port → α)
    (hstill : ∀ q : Port, g q.still = g q) (hrx : ∀ (q : Port) rx fails, g { q with rx := rx, fails := fails } = g q) :
    g ((s.discarded p f ok).port p) = g (s.port p) := by
  have hbump := s.port_bump (9 + p.val) 0 1 p
  cases ok with
  | true => exact congrArg g hbump
  | false => exact (State.field_laneFailed _ p f g hstill hrx).trans (congrArg g hbump)

/-- The port has counter values left for the discarding of a flit: for what it holds, where its tag fails (R463). -/
def MayDiscard (s : State) (p : Fin 6) (ok : Bool) : Prop :=
  ok = true ∧ (s.port p).exhausted = false ∨ Roomy s (2 * (s.port p).hold.length + 2)

theorem Port.exhausted_of_lt {q : Port} (h : q.txCount.toNat < 2 ^ 64 - 1) : q.exhausted = false := by
  rw [Port.exhausted, beq_eq_false_iff_ne]
  omega

theorem State.discarded_spec {s : State} {p : Fin 6} {ok : Bool} (h : MayDiscard s p ok) (f : Flit) :
    s.Flows (s.discarded p f ok) ∧ ((s.discarded p f ok).port p).exhausted = false := by
  have hbump := s.port_bump (9 + p.val) 0 1 p
  have hspends : s.Spends (0 + 1 + 2 * (s.port p).hold.length) (s.discarded p f ok) :=
    .ite ((State.Spends.refl s).bump.mono (by omega)) ((State.Spends.refl s).bump.laneFailed f (by rw [hbump]))
  refine ⟨hspends.flows, ?_⟩
  rcases h with ⟨rfl, hx⟩ | hroom
  · exact (congrArg Port.exhausted hbump).trans hx
  · have hcount := hspends.count p
    have hleft := hroom p
    exact Port.exhausted_of_lt (by omega)

/-- A port asks for a replay (R450). -/
def State.askFrom (s : State) (p : Fin 6) (n : BitVec 16) : State := (s.bump (9 + p.val) 2 1).putSluice p (.replayReq n)

theorem State.askFrom_flows {s t : State} (h : s.Flows t) (p : Fin 6) (n : BitVec 16) : s.Flows (t.askFrom p n) := by
  obtain ⟨_, _, _, _, rfl⟩ := h
  obtain ⟨_, _, _, _, e⟩ := ((State.Spends.refl _).bump.putSluice).flows
  exact ⟨_, _, _, _, e⟩

theorem State.handshake_eq_askFrom {s : State} {p : Fin 6} (hl : (s.port p).linked = true)
    (hx : (s.port p).exhausted = false) (n : BitVec 16) :
    (s.bump (9 + p.val) 2 1).handshake p (.replayReq n) = s.askFrom p n :=
  State.handshake_of_linked (by rw [State.port_bump]; exact hl) (by rw [State.port_bump]; exact hx) _

/-- The first flit that is discarded is awaited from then on, and asked for (R450). -/
theorem State.tagFailure_of_none {s : State} {p : Fin 6} {ok : Bool} (h : MayDiscard s p ok)
    (hl : (s.port p).linked = true) (hw : (s.port p).awaiting = none) (f : Flit) :
    s.tagFailure p f ok = ((s.discarded p f ok).setPort p
      { (s.discarded p f ok).port p with awaiting := some f.pseq }).askFrom p f.pseq := by
  have hlinked := (s.field_discarded p f ok Port.linked (fun _ => rfl) (fun _ _ _ => rfl)).trans hl
  have hwaits := (s.field_discarded p f ok Port.awaiting (fun _ => rfl) (fun _ _ _ => rfl)).trans hw
  obtain ⟨-, hx⟩ := State.discarded_spec h f
  have hask := State.handshake_eq_askFrom (s := (s.discarded p f ok).setPort p
    { (s.discarded p f ok).port p with awaiting := some f.pseq }) (p := p) (by rw [State.port_setPort_same]; exact hlinked)
    (by rw [State.port_setPort_same]; exact hx) f.pseq
  rw [← hask]
  unfold State.tagFailure
  change (match ((s.discarded p f ok).port p).awaiting with | some k => _ | none => _) = _
  rw [hwaits]
  rfl

/-- Discarding a flit is link traffic (R450, R452). -/
theorem State.tagFailure_flows {s : State} {p : Fin 6} {ok : Bool} (h : MayDiscard s p ok)
    (hl : (s.port p).linked = true) (f : Flit) : s.Flows (s.tagFailure p f ok) := by
  have hlinked := (s.field_discarded p f ok Port.linked (fun _ => rfl) (fun _ _ _ => rfl)).trans hl
  obtain ⟨hflows, hx⟩ := State.discarded_spec h f
  cases hw : (s.port p).awaiting with
  | none =>
    rw [State.tagFailure_of_none h hl hw]
    obtain ⟨_, _, _, _, e⟩ := hflows
    refine State.askFrom_flows ?_ p _
    rw [e]
    exact ⟨_, _, _, _, rfl⟩
  | some k =>
    have hwaits := (s.field_discarded p f ok Port.awaiting (fun _ => rfl) (fun _ _ _ => rfl)).trans hw
    have e : s.tagFailure p f ok
        = if k = f.pseq then (s.discarded p f ok).askFrom p f.pseq else s.discarded p f ok := by
      rw [← State.handshake_eq_askFrom hlinked hx]
      unfold State.tagFailure
      change (match ((s.discarded p f ok).port p).awaiting with | some k => _ | none => _) = _
      rw [hwaits]
      rfl
    rw [e]
    split
    · exact State.askFrom_flows hflows p _
    · exact hflows

end Sys2Proof.Machine
end

section
/-! The reception of a flit, case by case (R449, R450, R452, R467), and that a write is applied at most once (R471). -/
namespace Sys2Proof.Machine
open Sys2Proof.Claims

-- Reception.

/-- The way of a data flit that a port took: to its service here, on by a port, or back to its source (R467, R469). -/
def State.deliver (a : State) (p : Fin 6) (f : Flit) (serve : State → Flit → State) : State :=
  match a.route f with
  | .here => serve (a.freeQueue (some (p, queueOf f))) f
  | .out o g => a.transmit o { g with vc := a.channel (some p) o g } (some (p, queueOf f)) (some (p, f.vc))
  | .unreachable => (a.freeQueue (some (p, queueOf f))).nak f 1

/-- A flit that passed its check is the one awaited, and is acknowledged on the link (R449, R450). -/
def State.acked (s : State) (p : Fin 6) (f : Flit) : State :=
  (s.setPort p { s.port p with
    awaiting := none, rxCount := BitVec.ofNat 64 ((s.port p).countOf f.pseq + 1) }).linkAck p f.pseq

/-- The reception of a flit, where no port is at the end of its counter. -/
theorem State.receive_eq {s : State} (hc : Counting s) (p : Fin 6) (f : Flit) (ok : Bool)
    (serve : State → Flit → State) : s.receive p f ok serve =
      let q := s.port p
      if !q.linked ∨ (isData f ∧ q.st ≠ .up) then s
      else if !ok ∨ 11 ≤ f.typ.toNat then s.tagFailure p f ok
      else if q.awaiting.isSome ∧ q.awaiting ≠ some f.pseq then s
      else if !isData f then s.acked p f
      else (admitted s p f).deliver p f serve := by
  unfold State.receive
  rw [State.sweep_of_counting hc]
  rfl

/-- A reception is link traffic, but for what serves the flit at its destination. -/
theorem State.receive_cases {s : State} {p : Fin 6} {ok : Bool} (hc : Counting s)
    (hroom : ok = true ∨ Roomy s (2 * (s.port p).hold.length + 2)) (f : Flit) (serve : State → Flit → State) :
    s.Flows (s.receive p f ok serve) ∨ ∃ a, s.Passes a ∧ s.receive p f ok serve = serve a f := by
  have hadmitted : s.Passes (admitted s p f) := (State.Passes.refl s).setPort.linkAck.bump
  rw [State.receive_eq hc]
  extract_lets q
  split_ifs with hnot hfail hawait hdata
  · exact .inl (State.Passes.refl s).flows
  · have hl : q.linked = true := by
      push Not at hnot
      simpa using hnot.1
    exact .inl (State.tagFailure_flows (hroom.imp (fun h => ⟨h, hc p hl⟩) id) hl f)
  · exact .inl (State.Passes.refl s).flows
  · exact .inl (State.Passes.refl s).setPort.linkAck.flows
  · unfold State.deliver
    split
    · exact .inr ⟨_, hadmitted.freeQueue, rfl⟩
    · exact .inl hadmitted.transmit.flows
    · exact .inl hadmitted.freeQueue.launch.flows

-- Writes.

/-- A write at its destination is answered, by link traffic alone, or it takes effect and is marked, which it does only
where it was not marked before (R471, R474). -/
theorem State.applyOnce_cases (s : State) (f : Flit) (fits : Bool) (effect : State → State) :
    s.Passes (s.applyOnce f fits effect) ∨
      (s.rem.appliedOf f.src).seen f.eseq.toNat = false ∧ s.applyOnce f fits effect = (effect s).markApplied f := by
  unfold State.applyOnce
  dsimp only
  split_ifs with hseen
  · exact .inl (State.Passes.refl s).endAck
  · exact .inl (State.Passes.refl s).launch
  · exact .inl (State.Passes.refl s).launch
  · exact .inr ⟨Bool.eq_false_iff.mpr hseen, rfl⟩

/-- A command that delivers a write applies it at most once. -/
theorem exec_of_writeOf {c : Instr} {p : Fin 6} {f : Flit} {ok : Bool} (h : Claims.writeOf c = some (p, f, ok)) :
    ∃ (fits : Flit → Bool) (effect : Flit → State → State), ∀ s, exec c s
      = .next (s.receive p f ok fun s f => s.applyOnce f (fits f) (effect f)) := by
  cases c <;> cases h
  · exact ⟨_, _, fun s => exec_store p f ok s⟩
  · exact ⟨_, _, fun s => exec_accumulateWrite p f ok s⟩
  · exact ⟨_, _, fun s => exec_accumulateWriteCompressed p f ok s⟩

/-- Settles O53: a reception is link traffic or the write's application, and that is link traffic or marks a write that
was not marked. -/
theorem remoteWritesApplyAtMostOnce : Obligations.RemoteWritesApplyAtMostOnce := by
  unfold Obligations.RemoteWritesApplyAtMostOnce
  intro c p f ok s t hwrite hc hroom ht
  obtain ⟨fits, effect, hexec⟩ := exec_of_writeOf hwrite
  have hflows (h : s.Flows t) : (t.mem ≠ s.mem → (t.rem.appliedOf f.src).seen f.eseq.toNat = true) ∧
      ((s.rem.appliedOf f.src).seen f.eseq.toNat = true → t.mem = s.mem ∧ t.rem.applied = s.rem.applied) := by
    obtain ⟨hmem, hrem, -⟩ := h.sameBesides
    exact ⟨fun hne => absurd hmem hne, fun _ => ⟨hmem, congrArg _ hrem⟩⟩
  rw [hexec] at ht
  injection ht with ht
  rcases State.receive_cases hc hroom f fun s f => s.applyOnce f (fits f) (effect f) with h | ⟨a, hpass, hserve⟩
  · exact hflows (ht ▸ h)
  · rw [hserve] at ht
    obtain ⟨_, _, _, rfl⟩ := hpass
    rcases State.applyOnce_cases _ f (fits f) (effect f) with h | ⟨hunseen, e⟩
    · obtain ⟨_, _, _, e⟩ := h
      exact hflows (ht ▸ e ▸ ⟨_, _, _, _, rfl⟩)
    · rw [← ht, e]
      exact ⟨fun _ => State.seen_markApplied _ f, fun hseen => absurd (hseen.symm.trans hunseen) (by decide)⟩

end Sys2Proof.Machine
end

section
/-! The word of a FENCE whose tick has come (R407, R587): it still shows the wait, and follows with the next command that
shows waits, a NEGATIVE_RESPONSE among them. -/
namespace Sys2Proof.Machine
open Sys2Proof.Claims

/-- The task word of a FENCE in mode 1, which waits for tick 1 (R407). -/
def untilTickOne : Nat := 0x50 + put 160 2 1 + put 192 40 1

/-- Node 0 of a hall of two at tick 0, with port 1 UP. The FENCE of slot 0 is in flight, and waits for its tick alone. -/
def State.fencing : State :=
  { State.reset.setPort 1 { st := .up } with
    phase := .ready
    hall := { xdim := 2, live := [0, 1], portSts := [((0, 1), .up)] }
    hg := {
      slots := (Vector.replicate 16 {}).set 0 { st := .run, hdr := { twCount := 1, twBase := 0x1000, workBase := 0x5000 } }
      flight := [{ slot := 0, node := 0, opc := 0x50, word := untilTickOne, phase := .effected }] } }

/-- That engine a tick later, with the words as they were shown. -/
def State.fencingAtTick : State := State.fencing.showWaits.advance

theorem exec_negativeResponse_fencingAtTick :
    ∃ t, exec (.negativeResponse 1 { typ := 7 } false) .fencingAtTick = .next t ∧ t.mem ≠ State.fencingAtTick.mem :=
  ⟨_, rfl, by decide +kernel⟩

/-- Refutes O54: a negative response that fails its tag is discarded, but with it the FENCE of `State.fencingAtTick` waits no
more in its word (R587), where the clause of failed tags has every byte of memory stay. -/
theorem not_flitsOnTheirWay : ¬ Obligations.FlitsOnTheirWay := by
  unfold Obligations.FlitsOnTheirWay
  intro h
  obtain ⟨hdiscarded, -⟩ := h 1 { typ := 7 } .fencingAtTick
  obtain ⟨t, hexec, -, hmem, -⟩ := hdiscarded (.negativeResponse 1 { typ := 7 } false) rfl (by decide +kernel)
    (fun _ => by decide +kernel) (by decide +kernel) (by unfold Roomy; decide +kernel)
  obtain ⟨u, hexec', hchanged⟩ := exec_negativeResponse_fencingAtTick
  cases hexec.symm.trans hexec'
  exact hchanged hmem

end Sys2Proof.Machine
end

section
/-! The tick count of an idle engine (R479, R483): a tick that slews is followed by 4,095 that do not. -/
namespace Sys2Proof.Machine
open Sys2Proof.Claims

/-- A tick corrects an offset: the last correction is 4,095 ticks past, and more than 1/16 tk is left (R483). -/
def TimeUnit.Slews (x : TimeUnit) : Prop := 4095 ≤ x.sinceSlew ∧ (1 < x.slew ∨ x.slew < -1)

/-- Without a correction the count advances by one (R479). -/
theorem State.advance_of_not_slews {s : State} (h : ¬s.tm.Slews) :
    s.advance = { s with tm := { s.tm with tick := s.tm.tick + 1, sinceSlew := min 4095 (s.tm.sinceSlew + 1) } } := by
  unfold TimeUnit.Slews at h
  unfold State.advance
  dsimp only
  rw [if_neg (by rw [decide_eq_true_iff]; tauto), if_neg (by rw [decide_eq_true_iff]; tauto)]

/-- A child that is ahead stands still for one tick (R483). -/
theorem State.advance_of_ahead {s : State} (hdue : 4095 ≤ s.tm.sinceSlew) (h : 1 < s.tm.slew) :
    s.advance = { s with tm := { s.tm with slew := s.tm.slew - 16, sinceSlew := 0 } } :=
  if_pos ⟨decide_eq_true hdue, h⟩

/-- A child that is behind advances by two in one tick (R483). -/
theorem State.advance_of_behind {s : State} (hdue : 4095 ≤ s.tm.sinceSlew) (h : s.tm.slew < -1) :
    s.advance = { s with tm := { s.tm with tick := s.tm.tick + 2, slew := s.tm.slew + 16, sinceSlew := 0 } } :=
  (if_neg fun hc => by have := hc.2; omega).trans (if_pos ⟨decide_eq_true hdue, h⟩)

/-- What one tick does to the count. -/
theorem State.advance_cases (s : State) : ∃ x : TimeUnit, s.advance = { s with tm := x } ∧
    (x.tick = s.tm.tick + 1 ∨ x.sinceSlew = 0 ∧ (x.tick = s.tm.tick ∨ x.tick = s.tm.tick + 2)) := by
  by_cases h : s.tm.Slews
  · obtain ⟨hdue, ha | hb⟩ := h
    · exact ⟨_, State.advance_of_ahead hdue ha, .inr ⟨rfl, .inl rfl⟩⟩
    · exact ⟨_, State.advance_of_behind hdue hb, .inr ⟨rfl, .inr rfl⟩⟩
  · exact ⟨_, State.advance_of_not_slews h, .inl rfl⟩

theorem tick_add_succ (c : BitVec 64) (k : Nat) : c + 1 + BitVec.ofNat 64 k = c + BitVec.ofNat 64 (k + 1) := by
  rw [BitVec.ofNat_add]
  ac_rfl

/-- Until 4,095 ticks have passed since a correction, each tick adds one to the count. -/
theorem ticks_of_recent (k : Nat) : ∀ {s : State}, s.tm.sinceSlew + k ≤ 4095 →
    ∃ x : TimeUnit, ticks k s = { s with tm := x } ∧ x.tick = s.tm.tick + BitVec.ofNat 64 k := by
  induction k with
  | zero => exact fun _ => ⟨_, rfl, (BitVec.add_zero _).symm⟩
  | succ k ih =>
    intro s h
    have hsteady := State.advance_of_not_slews (s := s) fun hs => by have := hs.1; omega
    obtain ⟨x, e, hx⟩ := ih (s := s.advance) (by rw [hsteady]; dsimp only; omega)
    rw [hsteady] at hx
    exact ⟨x, by rw [ticks, e, hsteady], hx.trans (tick_add_succ _ k)⟩

/-- In 4,096 ticks one correction at most is made (R483). -/
theorem ticks_cases (k : Nat) : ∀ {s : State}, k ≤ 4096 → ∃ x : TimeUnit, ticks k s = { s with tm := x } ∧
    (x.tick = s.tm.tick + BitVec.ofNat 64 k ∨ x.tick = s.tm.tick + BitVec.ofNat 64 k + 1
      ∨ x.tick + 1 = s.tm.tick + BitVec.ofNat 64 k) := by
  induction k with
  | zero => exact fun _ => ⟨_, rfl, .inl (BitVec.add_zero _).symm⟩
  | succ k ih =>
    intro s hk
    obtain ⟨y, e, hy⟩ := s.advance_cases
    rcases hy with hone | ⟨hsince, hslew⟩
    · obtain ⟨x, ex, hx⟩ := ih (s := s.advance) (by omega)
      rw [e, hone, tick_add_succ] at hx
      exact ⟨x, by rw [ticks, ex, e], hx⟩
    · obtain ⟨x, ex, hx⟩ := ticks_of_recent k (s := s.advance) (by rw [e]; dsimp only; omega)
      refine ⟨x, by rw [ticks, ex, e], .inr ?_⟩
      rw [hx, e, ← tick_add_succ]
      dsimp only
      rcases hslew with h | h
      · exact .inr (by rw [h]; ac_rfl)
      · refine .inl ?_
        rw [h, show (2 : BitVec 64) = 1 + 1 from rfl]
        ac_rfl

theorem step_of_idle {s : State} (h : s.pending = []) : step s = .next s.advance := by
  unfold step
  rw [h]
  rfl

/-- Settles O47: a tick slews or adds one, and after one that slews the next 4,095 add one. -/
theorem idleTicksSlewAtMostOnce : Obligations.IdleTicksSlewAtMostOnce := by
  unfold Obligations.IdleTicksSlewAtMostOnce
  intro s k hk
  refine ⟨step_of_idle, ticks_cases k hk, ?_, fun ⟨hlow, hhigh⟩ => ?_, fun hdue => ⟨fun ha => ?_, fun hb => ?_⟩⟩
  · obtain ⟨x, e, hx⟩ := s.advance_cases
    rw [e]
    rcases hx with h | ⟨-, h | h⟩
    exacts [.inr (.inl h), .inl h, .inr (.inr h)]
  · rw [State.advance_of_not_slews fun hs => by have := hs.2; omega]
  · rw [State.advance_of_ahead hdue ha]
  · rw [State.advance_of_behind hdue hb]

end Sys2Proof.Machine
end

section
/-! What a cut that commits or is abandoned changes (R492, R495), the parent and the root of time (R481, R485), and the live
set that takes effect (R498). -/
namespace Sys2Proof.Machine
open Sys2Proof.Claims

-- Cuts.

/-- `t` is `s` with its cut changed, and that noted: trace records and events may differ, and no pending event is lost. -/
def State.Cuts (s t : State) : Prop := ∃ c, { s with cut := c }.Notes t

theorem State.Notes.setCut {s t : State} (h : s.Notes t) (c : Cut) : { s with cut := c }.Notes { t with cut := c } := by
  obtain ⟨_, _, _, _, rfl, h⟩ := h
  exact ⟨_, _, _, _, rfl, h⟩

theorem State.cut_raise (s : State) (e : Ev) (w : Who) (x y z : Nat) : (s.raise e w x y z).cut = s.cut :=
  congrArg Registers.cut regs_raise

theorem State.cut_abandonCut (s : State) : s.abandonCut.cut = { s.cut with st := .abandoned } := State.cut_raise ..

/-- CUTDONE is raised with an abandonment too (R495). -/
theorem State.pend_abandonCut (s : State) : s.abandonCut.evt.pend.getLsbD 19 = true :=
  State.raise_pend _ .cutdone ..

namespace State.Cuts
variable {s a b : State}

theorem refl (s : State) : s.Cuts s := ⟨s.cut, .refl s⟩

theorem trans (h : s.Cuts a) (k : a.Cuts b) : s.Cuts b := by
  obtain ⟨_, h⟩ := h
  obtain ⟨c, k⟩ := k
  exact ⟨c, (h.setCut c).trans k⟩

theorem notes (h : s.Cuts a) (k : a.Notes b) : s.Cuts b := h.trans ⟨a.cut, k⟩

theorem ite {c : Prop} [Decidable c] (h : s.Cuts a) (k : s.Cuts b) : s.Cuts (if c then a else b) := by
  split <;> assumption

/-- The cut may be replaced. -/
theorem cut (h : s.Cuts a) {c} : s.Cuts { a with cut := c } := h.trans ⟨c, .refl _⟩

theorem raise (h : s.Cuts a) {e w x y z} : s.Cuts (a.raise e w x y z) := h.notes (a.raise_notes ..)

theorem abandonCut (h : s.Cuts a) : s.Cuts a.abandonCut := h.cut.raise

theorem breakCut (h : s.Cuts a) : s.Cuts a.breakCut := by
  unfold State.breakCut
  split
  · exact h.abandonCut
  · exact h.cut
  · exact h.cut
  · exact h

theorem loseNodes (h : s.Cuts a) {lost} : s.Cuts (a.loseNodes lost) := .ite h.breakCut h

theorem tryCommit (h : s.Cuts a) : s.Cuts a.tryCommit := .ite h.cut.raise h

/-- No pending event is lost. -/
theorem pend (h : s.Cuts a) {k : Nat} (hk : s.evt.pend.getLsbD k = true) : a.evt.pend.getLsbD k = true := by
  obtain ⟨_, _, _, _, _, rfl, -, -, -, hpend, -⟩ := h
  exact hpend k hk

/-- All but the cut, memory, the trace, the events and what the steward reported is as it was. -/
theorem same (h : s.Cuts a) : a.hg = s.hg ∧ a.tm = s.tm ∧ a.hall = s.hall ∧ a.ports = s.ports ∧ a.rem = s.rem ∧
    a.snap = s.snap ∧ a.obs = s.obs ∧ a.out = s.out := by
  obtain ⟨_, _, _, _, _, rfl, -⟩ := h
  exact ⟨rfl, rfl, rfl, rfl, rfl, rfl, rfl, rfl⟩

theorem hg (h : s.Cuts a) : a.hg = s.hg := by
  obtain ⟨e, -⟩ := h.same
  exact e

theorem tm (h : s.Cuts a) : a.tm = s.tm := by
  obtain ⟨-, e, -⟩ := h.same
  exact e

theorem hall (h : s.Cuts a) : a.hall = s.hall := by
  obtain ⟨-, -, e, -⟩ := h.same
  exact e

end State.Cuts

/-- A cut that is not scheduled has the state that it shows (R490). -/
theorem State.cstate_of_ne {s : State} (h : s.cut.st ≠ .scheduled) : s.cstate = s.cut.st := if_neg fun hc => h hc.1

theorem State.breakCut_of_done {s : State} (h : s.cut.st = .localDone) : s.breakCut = s.abandonCut := by
  have hst : s.cstate = .localDone := (State.cstate_of_ne (by simp [h])).trans h
  simp [State.breakCut, hst]

theorem State.breakCut_of_run {s : State} (h : s.cut.st = .run) : s.breakCut = s := by
  have hst : s.cstate = .run := (State.cstate_of_ne (by simp [h])).trans h
  simp [State.breakCut, hst]

/-- A node that is done abandons its cut where a live node of its part is lost (R495). -/
theorem State.loseNodes_of_done {s : State} {lost : BitVec 12 → Bool} (h : s.cut.st = .localDone)
    (hl : ∃ n ∈ s.hall.ofPart, n ≠ s.hall.nid ∧ lost n = true) : s.loseNodes lost = s.abandonCut := by
  refine (if_pos ?_).trans (State.breakCut_of_done h)
  simpa using hl

theorem State.loseNodes_of_run {s : State} (h : s.cut.st = .run) (lost : BitVec 12 → Bool) : s.loseNodes lost = s := by
  unfold State.loseNodes
  rw [State.breakCut_of_run h, ite_self]

/-- A cut commits on no node that is not done (R492). -/
theorem State.tryCommit_of_not_done {s : State} (h : s.cut.st ≠ .localDone) : s.tryCommit = s := if_neg fun hc => h hc.1

-- The parent and the root.

theorem State.chooseParent_of_root {s : State} (h : s.tm.root = true) :
    s.chooseParent = { s with tm := { s.tm with parent := 7, hops := 0 } } := if_pos h

theorem State.chooseParent_of_best {s : State} {p : Fin 6} (h : s.tm.root = false) (hp : s.bestParent = some p) :
    s.chooseParent = { s with tm := { s.tm with parent := BitVec.ofNat 3 p.val, hops := s.tm.nbHops[p] + 1 } } := by
  simp [State.chooseParent, h, hp]

/-- The choice of a parent changes the parent and the hop count alone (R481). -/
theorem State.chooseParent_shape (s : State) :
    ∃ p n, s.chooseParent = { s with tm := { s.tm with parent := p, hops := n } } := by
  unfold State.chooseParent
  split
  · exact ⟨_, _, rfl⟩
  · split
    · exact ⟨_, _, rfl⟩
    · exact ⟨_, _, rfl⟩

/-- The acting manager of a part that continues is the root, with LOCK (R481, R485). -/
theorem State.setRoot_of_manager {s : State} (h : s.hall.actMgr = s.hall.nid) (part : List (BitVec 12)) :
    s.setRoot part true = { s with tm := { s.tm with
      root := true, lock := true, parent := 7, hops := 0, joining := false, slew := 0 } } := by
  simp [State.setRoot, h]

/-- A node that was no root stays none where another is manager. -/
theorem State.setRoot_of_child {s : State} (h : s.hall.actMgr ≠ s.hall.nid) (hr : s.tm.root = false)
    (part : List (BitVec 12)) : s.setRoot part true = s := by
  simp [State.setRoot, h, hr]

/-- A root that is no longer manager clears LOCK, and chooses a parent (R485). -/
theorem State.setRoot_of_former {s : State} (h : s.hall.actMgr ≠ s.hall.nid) (hr : s.tm.root = true)
    (part : List (BitVec 12)) : s.setRoot part true
      = ({ s with tm := { s.tm with root := false, lock := false, good := 0, bad := 0 } }).chooseParent := by
  simp [State.setRoot, h, hr]

/-- The choice of the root changes the time unit, and not the count; a node that has loaded its count has it loaded. -/
theorem State.setRoot_shape (s : State) (part : List (BitVec 12)) (continues : Bool) :
    ∃ x : TimeUnit, s.setRoot part continues = { s with tm := x } ∧ x.tick = s.tm.tick ∧ x.stepped = s.tm.stepped ∧
      (s.tm.joining = false → x.joining = false) := by
  unfold State.setRoot
  extract_lets root t
  split
  · exact ⟨_, rfl, rfl, rfl, fun _ => rfl⟩
  · split
    · obtain ⟨_, _, e⟩ := State.chooseParent_shape
        { s with tm := { t with root := false, lock := false, good := 0, bad := 0 } }
      exact ⟨_, e, rfl, rfl, id⟩
    · exact ⟨_, rfl, rfl, rfl, id⟩

-- The offered live set.

/-- Every node of the offered live set is known to have acknowledged it (R498). -/
def Hall.Acknowledged (h : Hall) : Prop := ∀ n ∈ h.offer, n = h.nid ∨ n ∈ h.acks

/-- An offered live set can take effect (R498, R503, R505): every node of it acknowledged it, and this node is neither frozen
nor still to load its count. -/
structure State.OfferStands (s : State) : Prop where
  offered : s.hall.offer ≠ []
  runs : s.cut.st ≠ .partFrozen
  loaded : s.tm.joining = false ∨ s.hall.under.actMgr = s.hall.nid
  acknowledged : s.hall.Acknowledged

/-- The engine as an offered set takes effect, but for a cut that commits with it. -/
def State.underOffer (s : State) : State :=
  ({ s.loseNodes (fun n => !s.hall.offer.contains n) with
    hall := s.hall.under, tm := { s.tm with joining := false } }).setRoot s.hall.under.part true

theorem State.takeOffer_of_stands {s : State} (h : s.OfferStands) : s.takeOffer = s.underOffer.tryCommit := by
  obtain ⟨hoffer, hruns, hloaded, hacks⟩ := h
  have hall : ¬(s.hall.offer.any fun n => n != s.hall.nid && !s.hall.acks.contains n) = true := by
    simpa [Hall.Acknowledged, or_iff_not_imp_left] using hacks
  have htm : (s.loseNodes fun n => !s.hall.offer.contains n).tm = s.tm := (State.Cuts.refl s).loseNodes.tm
  have hnid : s.hall.under.nid = s.hall.nid := rfl
  unfold State.takeOffer State.underOffer
  dsimp only
  rw [if_neg (by rw [hnid]; simp only [hall]; rcases hloaded with h | h <;> simp [hoffer, hruns, h]), htm]

theorem State.takeOffer_of_not_stands {s : State} (h : ¬s.OfferStands) : s.takeOffer = s := by
  refine if_pos ?_
  by_contra hc
  simp only [not_or, not_and_or, not_not, Bool.not_eq_true, List.any_eq_false] at hc
  obtain ⟨hoffer, hruns, hloaded, hacks⟩ := hc
  refine h ⟨hoffer, hruns, hloaded, fun n hn => ?_⟩
  have := hacks n hn
  simpa [or_iff_not_imp_left] using this

/-- What an offered set that takes effect leaves: the hall is under it, and but for the cut only the time unit differs. -/
theorem State.takeOffer_spec {s : State} (h : s.OfferStands) : ∃ x : TimeUnit,
    { s with hall := s.hall.under, tm := x }.Cuts s.takeOffer ∧ x.tick = s.tm.tick ∧ x.stepped = s.tm.stepped ∧
      x.joining = false := by
  have hcuts := (State.Cuts.refl s).loseNodes (lost := fun n => !s.hall.offer.contains n)
  obtain ⟨x, e, htick, hstepped, hjoining⟩ := State.setRoot_shape { s.loseNodes (fun n => !s.hall.offer.contains n) with
    hall := s.hall.under, tm := { s.tm with joining := false } } s.hall.under.part true
  refine ⟨x, ?_, htick, hstepped, hjoining rfl⟩
  rw [State.takeOffer_of_stands h, State.underOffer, e]
  refine State.Cuts.tryCommit ?_
  obtain ⟨c, m, y, z, l, hl, hkeep⟩ := hcuts
  rw [hl]
  exact ⟨c, m, y, z, l, rfl, hkeep⟩

end Sys2Proof.Machine
end

section
/-! Time flits (R481 to R485, R585): what one takes of its port with the telemetry that goes with it, and what one that comes
in does to the count. -/
namespace Sys2Proof.Machine
open Sys2Proof.Claims

-- A port that has counter values left (R463).

theorem Port.not_exhausted_of_lt {q : Port} {k : Nat} (h : q.txCount.toNat + k < 2 ^ 64 - 1) : q.exhausted = false := by
  have : q.txCount.toNat ≠ 2 ^ 64 - 1 := by omega
  simpa [Port.exhausted] using this

theorem Port.count_took {q : Port} (h : q.exhausted = false) (w : Flit ⊕ Sluice) (stamp : BitVec 40) :
    (q.took w stamp).txCount.toNat = q.txCount.toNat + 1 := by
  have hc : q.txCount.toNat ≠ 2 ^ 64 - 1 := by simpa [Port.exhausted] using h
  have := q.txCount.isLt
  rw [Port.took, BitVec.toNat_add]
  exact Nat.mod_eq_of_lt (by simp; omega)

theorem State.sluiceOn_of_open {s : State} {p : Fin 6} (hu : (s.port p).st.usable = true)
    (hx : (s.port p).exhausted = false) (m : Sluice) : s.sluiceOn p m = s.putSluice p m :=
  if_pos ⟨hu, by simp [hx]⟩

theorem State.port_putSluice_same (s : State) (p : Fin 6) (m : Sluice) :
    (s.putSluice p m).port p = (s.port p).took (.inr m) s.stamp := by
  obtain ⟨_, e⟩ := s.putSluice_shape p m
  rw [e]
  exact State.port_setPort_same ..

theorem State.port_putSluice_other (s : State) {p q : Fin 6} (h : q ≠ p) (m : Sluice) :
    (s.putSluice p m).port q = s.port q := by
  obtain ⟨_, e⟩ := s.putSluice_shape p m
  rw [e]
  exact State.port_setPort_other _ _ h

theorem State.links_putSluice (s : State) (p : Fin 6) (m : Sluice) :
    (s.putSluice p m).out.links = s.out.links ++ [.sluice p m s.stamp] := by
  obtain ⟨_, e⟩ := s.putSluice_shape p m
  rw [e]

theorem State.downExhausted_of_not_exhausted {s : State} {p : Fin 6} (h : (s.port p).exhausted = false) :
    s.downExhausted p = s :=
  State.downExhausted_of_not_spent fun hs => absurd (hs.2.symm.trans h) (by decide)

theorem State.Passes.foldl {α : Type} {s a : State} {f : State → α → State} {l : List α} (h : s.Passes a)
    (hf : ∀ {b x}, s.Passes b → s.Passes (f b x)) : s.Passes (l.foldl f a) := by
  induction l generalizing a with
  | nil => exact h
  | cons x l ih => exact ih (hf h)

theorem State.Passes.putSluice {s a : State} (h : s.Passes a) {p : Fin 6} {m : Sluice} : s.Passes (a.putSluice p m) :=
  h.setPort.bump.fields

theorem State.Passes.drainTelem {s a : State} (h : s.Passes a) {p : Fin 6} : s.Passes (a.drainTelem p) := by
  unfold State.drainTelem
  refine .ite h ?_
  dsimp only
  exact h.setPort.foldl fun h => h.sluiceOn

/-- Telemetry that goes out takes as many counter values as a frame takes flits (R463, R585). -/
theorem State.Spends.drainTelem {s a : State} {k : Nat} (h : s.Spends k a) {p : Fin 6} :
    s.Spends (k + 10) (a.drainTelem p) := by
  unfold State.drainTelem
  refine .ite (h.mono (Nat.le_add_right _ _)) ?_
  dsimp only
  refine State.Spends.mono (h.setPort_same.foldl (m := 1) fun h => h.sluiceOn) ?_
  have := telemWindow_cap (a.port p) a.tm.tick.toNat
  rw [List.length_take]
  omega

/-- Without telemetry that waits, the frame is noted alone (R585). -/
theorem State.drainTelem_of_empty {s : State} {p : Fin 6} (hu : (s.port p).st.usable = true)
    (hx : (s.port p).exhausted = false) (he : (s.port p).telem = []) :
    let w := ((s.port p).telemWindow s.tm.tick.toNat).1
    s.drainTelem p = s.setPort p { s.port p with
      telAt := w, telSent := if (s.port p).telAt = w then (s.port p).telSent else 0 } := by
  simp [State.drainTelem, hu, hx, he]

-- TIME_FLIT_SEND.

/-- The time flit that a port sends at a sixteenth of the tick (R482). -/
def State.timeFlitAt (s : State) (p : Fin 6) (k : Fin 16) : Sluice :=
  .time (16 * s.tm.tick.toNat + k.val) s.tm.lastRecv[p] s.tm.lastSend[p] s.tm.hops

theorem execTimeFlitSend_eq (p : Fin 6) (k : Fin 16) (s : State) : execTimeFlitSend p s k
    = .next (((s.sluiceOn p (s.timeFlitAt p k)).drainTelem p).downExhausted p) := rfl

/-- On a port with room for a frame's telemetry, the time flit goes out, and the telemetry after it (R482, R585). -/
theorem execTimeFlitSend_of_room {s : State} {p : Fin 6} (k : Fin 16) (hu : (s.port p).st.usable = true)
    (hx : (s.port p).txCount.toNat + 11 < 2 ^ 64 - 1) :
    execTimeFlitSend p s k = .next ((s.putSluice p (s.timeFlitAt p k)).drainTelem p) := by
  have hopen := Port.not_exhausted_of_lt hx
  have hleft : (((s.putSluice p (s.timeFlitAt p k)).drainTelem p).port p).exhausted = false := by
    have hcount := ((State.Spends.refl s).putSluice (p := p) (m := s.timeFlitAt p k)).drainTelem (p := p) |>.count p
    exact Port.not_exhausted_of_lt (k := 0) (by omega)
  rw [execTimeFlitSend_eq, State.sluiceOn_of_open hu hopen, State.downExhausted_of_not_exhausted hleft]

/-- A port without a counter value sends nothing and goes DOWN (R463). -/
theorem execTimeFlitSend_of_exhausted {s : State} {p : Fin 6} (k : Fin 16) (hu : (s.port p).st.usable = true)
    (hx : (s.port p).exhausted = true) : execTimeFlitSend p s k = .next (s.portDown p .down true) := by
  have hsend : s.sluiceOn p (s.timeFlitAt p k) = s := if_neg (by simp [hx])
  have hdrain : s.drainTelem p = s := if_pos (by simp [hx])
  rw [execTimeFlitSend_eq, hsend, hdrain, State.downExhausted_of_spent ⟨by simp [Port.linked, hu], hx⟩]

-- TIME_FLIT.

/-- A time flit as a port keeps it (R482). -/
def State.heard (s : State) (p : Fin 6) (send recv : Nat) (hops : BitVec 5) : State :=
  { s with tm := { s.tm with
    lastRecv := s.tm.lastRecv.set p (16 * s.tm.tick.toNat + recv % 16), lastSend := s.tm.lastSend.set p send
    nbHops := s.tm.nbHops.set p hops } }

/-- The offset that an exchange gives (R482). -/
def State.offsetOf (s : State) (send recv far echo : Nat) : Int :=
  (((16 * s.tm.tick.toNat + recv % 16 : Nat) : Int) - send - ((far : Int) - echo)) / 2

theorem execTimeFlit_of_shut {s : State} {p : Fin 6} (send recv far echo : Nat) (hops : BitVec 5)
    (h : (s.port p).st.usable = false ∨ (s.port p).awaiting ≠ none) :
    execTimeFlit p send recv far echo hops s = .next s := by
  refine congrArg Host.Outcome.next (if_pos ?_)
  rcases h with h | h
  · simp [h]
  · simp [Option.isSome_iff_ne_none.mpr h]

/-- What an engine that chose its parent does with a time flit that measured `o` (R481, R483). -/
def State.heed (s : State) (p : Fin 6) (echo : Nat) (o : Int) : State :=
  if s.tm.root = true ∨ s.tm.parent.toNat ≠ p.val ∨ echo = 0 then s else (s.measured o).takeOffer

theorem execTimeFlit_of_open {s : State} {p : Fin 6} (send recv far echo : Nat) (hops : BitVec 5)
    (hu : (s.port p).st.usable = true) (ha : (s.port p).awaiting = none) :
    execTimeFlit p send recv far echo hops s
      = .next ((s.heard p send recv hops).chooseParent.heed p echo (s.offsetOf send recv far echo)) :=
  congrArg Host.Outcome.next (if_neg (by simp [hu, ha]))

/-- The root keeps what came in, and measures nothing (R481, R485). -/
theorem State.heed_of_root {s : State} (h : s.tm.root = true) (p : Fin 6) (echo : Nat) (o : Int) : s.heed p echo o = s :=
  if_pos (.inl h)

/-- A node as it takes its parent's time flit: the port is its parent's, with the hops of it (R481). -/
def State.heardParent (s : State) (p : Fin 6) (send recv : Nat) (hops : BitVec 5) : State :=
  { s.heard p send recv hops with
    tm := { (s.heard p send recv hops).tm with parent := BitVec.ofNat 3 p.val, hops := hops + 1 } }

theorem State.toNat_parent_heardParent (s : State) (p : Fin 6) (send recv : Nat) (hops : BitVec 5) :
    (s.heardParent p send recv hops).tm.parent.toNat = p.val := by
  refine (BitVec.toNat_ofNat ..).trans (Nat.mod_eq_of_lt ?_)
  omega

theorem State.chooseParent_heard {s : State} {p : Fin 6} (send recv : Nat) {hops : BitVec 5} (hr : s.tm.root = false)
    (hp : ({ s with tm := { s.tm with nbHops := s.tm.nbHops.set p hops } }).bestParent = some p) :
    (s.heard p send recv hops).chooseParent = s.heardParent p send recv hops := by
  rw [State.chooseParent_of_best (s := s.heard p send recv hops) hr hp]
  simp [State.heardParent, State.heard]

/-- A time flit of the parent that answers one of this node's measures an offset (R482, R483). -/
theorem State.heed_heardParent {s : State} (p : Fin 6) (send recv : Nat) {echo : Nat} (hops : BitVec 5)
    (hr : s.tm.root = false) (he : echo ≠ 0) (o : Int) :
    (s.heardParent p send recv hops).heed p echo o = ((s.heardParent p send recv hops).measured o).takeOffer := by
  refine if_neg ?_
  rw [State.toNat_parent_heardParent]
  simp [he, show (s.heardParent p send recv hops).tm.root = false from hr]

-- Offsets.

/-- The first offset of a node that joins loads the count (R485). -/
theorem State.measured_of_joining {s : State} (h : s.tm.joining = true) (o : Int) : s.measured o = { s with
    tm := { s.tm with
      tick := BitVec.ofInt 64 ((s.tm.tick.toNat : Int) - o / 16)
      slew := o % 16, joining := false, stepped := true, good := 0, bad := 0, offset := offsetField o } } := if_pos h

theorem State.measured_of_member {s : State} (h : s.tm.joining = false) (o : Int) : s.measured o
    = ({ s with tm := { s.tm with offset := offsetField o, slew := if o.natAbs ≤ 1 then 0 else o } }).judge o :=
  if_neg (by simp [h])

/-- An offset within 1 ns counts for LOCK (R485). -/
theorem State.judge_of_good {s : State} {o : Int} (h : o.natAbs ≤ 64) : s.judge o = { s with tm := { s.tm with
    good := min 8 (s.tm.good + 1), bad := 0, lock := s.tm.lock || min 8 (s.tm.good + 1) == 8 } } := if_pos h

/-- One beyond 1 ns that is not the eighth is counted (R485). -/
theorem State.judge_of_bad {s : State} {o : Int} (h : 64 < o.natAbs) (hb : s.tm.bad < 7) :
    s.judge o = { s with tm := { s.tm with good := 0, bad := s.tm.bad + 1 } } :=
  (if_neg (by omega)).trans (if_pos (by omega))

/-- The eighth clears LOCK and raises TIMESLIP (R485). -/
theorem State.judge_of_slip {s : State} {o : Int} (h : 64 < o.natAbs) (hb : 7 ≤ s.tm.bad) :
    s.judge o = ({ s with tm := { s.tm with good := 0, bad := 0, lock := false } }).raise .timeslip { unit := 13 }
      (unsgn 32 o) 0 0 := (if_neg (by omega)).trans (if_neg (by omega))

/-- A judgement changes the time unit's counts and LOCK, and may raise TIMESLIP. -/
theorem State.judge_shape (s : State) (o : Int) : ∃ good bad lock,
    { s with tm := { s.tm with good := good, bad := bad, lock := lock } }.Notes (s.judge o) := by
  rcases Nat.lt_or_ge 64 o.natAbs with h | h
  · rcases Nat.lt_or_ge s.tm.bad 7 with hb | hb
    · rw [State.judge_of_bad h hb]
      exact ⟨_, _, _, .refl _⟩
    · rw [State.judge_of_slip h hb]
      exact ⟨_, _, _, State.raise_notes ..⟩
  · rw [State.judge_of_good h]
    exact ⟨_, _, _, .refl _⟩

theorem State.measured_shape (s : State) (o : Int) : ∃ x : TimeUnit, { s with tm := x }.Notes (s.measured o) ∧
    x.parent = s.tm.parent ∧ x.hops = s.tm.hops := by
  cases h : s.tm.joining
  · rw [State.measured_of_member h]
    obtain ⟨_, _, _, hnotes⟩ := State.judge_shape
      { s with tm := { s.tm with offset := offsetField o, slew := if o.natAbs ≤ 1 then 0 else o } } o
    exact ⟨_, hnotes, rfl, rfl⟩
  · rw [State.measured_of_joining h]
    exact ⟨_, .refl _, rfl, rfl⟩

/-- An offset that fits its 16 bits is shown as it is. -/
theorem offsetField_of_small {o : Int} (h : o.natAbs ≤ 64) : offsetField o = BitVec.ofInt 16 o := by
  rw [offsetField, max_eq_right (by omega), min_eq_right (by omega)]

theorem eighth_iff (g : Nat) : (min 8 (g + 1) == 8) = decide (7 ≤ g) := by
  rw [Bool.eq_iff_iff]
  simp

theorem State.takeOffer_of_none {s : State} (h : s.hall.offer = []) : s.takeOffer = s :=
  State.takeOffer_of_not_stands fun hs => hs.offered h

/-- A judgement leaves the count (R483). -/
theorem State.count_measured_of_member {s : State} (h : s.tm.joining = false) (o : Int) :
    (s.measured o).tm.tick = s.tm.tick ∧ (s.measured o).tm.stepped = s.tm.stepped := by
  rw [State.measured_of_member h]
  obtain ⟨_, _, _, _, _, _, _, e, -⟩ := State.judge_shape
    { s with tm := { s.tm with offset := offsetField o, slew := if o.natAbs ≤ 1 then 0 else o } } o
  rw [e]
  exact ⟨rfl, rfl⟩

/-- An offset within 1 ns is slewed, and counts for LOCK (R483, R485). -/
theorem State.measured_within {s : State} {o : Int} (h : s.tm.joining = false) (hsmall : o.natAbs ≤ 64) :
    let t := s.measured o
    t.tm.offset = BitVec.ofInt 16 o ∧ t.tm.slew = (if o.natAbs ≤ 1 then 0 else o) ∧ t.mem = s.mem ∧ t.tm.bad = 0 ∧
      t.tm.lock = (s.tm.lock || decide (7 ≤ s.tm.good)) := by
  dsimp only
  rw [State.measured_of_member h, State.judge_of_good hsmall]
  exact ⟨offsetField_of_small hsmall, rfl, rfl, rfl, congrArg (s.tm.lock || ·) (eighth_iff _)⟩

/-- An offset beyond 1 ns counts against LOCK, and the eighth raises TIMESLIP (R485). -/
theorem State.judge_beyond {s : State} {o : Int} (h : 64 < o.natAbs) :
    let t := s.judge o
    t.tm.good = 0 ∧ (s.tm.bad < 7 → t.tm.lock = s.tm.lock ∧ t.tm.bad = s.tm.bad + 1) ∧
      (7 ≤ s.tm.bad → t.tm.lock = false ∧ t.evt.pend.getLsbD 18 = true) := by
  dsimp only
  rcases Nat.lt_or_ge s.tm.bad 7 with hb | hb
  · rw [State.judge_of_bad h hb]
    exact ⟨rfl, fun _ => ⟨rfl, rfl⟩, fun h => absurd hb (Nat.not_lt_of_ge h)⟩
  · have htm : (s.judge o).tm = { s.tm with good := 0, bad := 0, lock := false } := by
      rw [State.judge_of_slip h hb]
      exact congrArg Registers.tm regs_raise
    rw [htm, State.judge_of_slip h hb]
    exact ⟨rfl, fun h => absurd h (Nat.not_lt_of_ge hb), fun _ => ⟨rfl, State.raise_pend _ .timeslip ..⟩⟩

/-- A node that loads its count takes the set that it is offered, once all of it acknowledged (R498, R505). -/
theorem State.loaded_takes_offer {s : State} {p : Fin 6} {send recv : Nat} {hops : BitVec 5} {o : Int}
    (hload : s.tm.joining = true) (hoffer : s.hall.offer ≠ []) (hruns : s.cut.st ≠ .partFrozen)
    (hacks : s.hall.Acknowledged) :
    let t := ((s.heardParent p send recv hops).measured o).takeOffer
    t.hall = s.hall.under ∧ t.tm.joining = false ∧ t.tm.stepped = true ∧
      t.tm.tick = BitVec.ofInt 64 ((s.tm.tick.toNat : Int) - o / 16) := by
  dsimp only
  have hmeasured := State.measured_of_joining (s := s.heardParent p send recv hops) hload o
  generalize (s.heardParent p send recv hops).measured o = u at hmeasured
  have hstands : u.OfferStands := by
    rw [hmeasured]
    exact ⟨hoffer, hruns, .inl rfl, hacks⟩
  obtain ⟨x, hcuts, htick, hstepped, hjoining⟩ := State.takeOffer_spec hstands
  rw [hcuts.hall, hcuts.tm]
  dsimp only
  rw [htick, hstepped, hjoining, hmeasured]
  exact ⟨rfl, rfl, rfl, rfl⟩

/-- What a port with room for a frame's telemetry sends with a time flit, and what that leaves (R482, R585, log 105). -/
theorem State.timeFlit_and_telemetry {s : State} {p : Fin 6} (k : Fin 16) (hu : (s.port p).st.usable = true)
    (hx : (s.port p).txCount.toNat + 11 < 2 ^ 64 - 1) :
    let q := s.port p
    let m := s.timeFlitAt p k
    let w := (q.telemWindow s.tm.tick.toNat).1
    let n := (q.telemWindow s.tm.tick.toNat).2 - (if q.telAt = w then q.telSent else 0)
    let t := (s.putSluice p m).drainTelem p
    t.out.links = s.out.links ++ [.sluice p m s.stamp]
        ++ (q.telem.take n).map (fun b => .sluice p (.telemetry s.hall.actMgr b) s.stamp) ∧
      (t.port p).telem = q.telem.drop n ∧
      (q.telem = [] → t.port p = { q.took (.inr m) s.stamp with
        telAt := w, telSent := if q.telAt = w then q.telSent else 0 }) ∧
      (∀ o, o ≠ p → t.port o = s.port o) ∧ t.tm = s.tm ∧ t.mem = s.mem ∧ t.hg = s.hg ∧ t.evt = s.evt := by
  intro q m w n t
  have hopen : q.exhausted = false := Port.not_exhausted_of_lt hx
  have hport : (s.putSluice p m).port p = q.took (.inr m) s.stamp := State.port_putSluice_same ..
  have hroom : ((s.putSluice p m).port p).txCount.toNat + 10 < 2 ^ 64 - 1 := by
    rw [hport, Port.count_took hopen]
    omega
  have hu' : ((s.putSluice p m).port p).st.usable = true := by rwa [hport]
  obtain ⟨_, e⟩ := s.putSluice_shape p m
  obtain ⟨hlinks, htelem, hothers, -, -⟩ := State.drainTelem_spec hu' hroom
  have htick : (s.putSluice p m).tm = s.tm := by rw [e]
  rw [hport] at htelem hlinks
  rw [htick] at htelem hlinks
  have hpasses : s.Passes t := (State.Passes.refl s).putSluice.drainTelem
  refine ⟨hlinks.trans ?_, htelem, fun he => ?_, fun o ho => (hothers o ho).trans (s.port_putSluice_other ho m), ?_⟩
  · rw [State.links_putSluice]
    simp only [e]
    rfl
  · have hempty := State.drainTelem_of_empty hu' (Port.not_exhausted_of_lt hroom) (by rw [hport]; exact he)
    dsimp only at hempty
    rw [show t = (s.putSluice p m).drainTelem p from rfl, hempty, State.port_setPort_same, hport, htick]
    rfl
  · obtain ⟨_, _, _, esame⟩ := hpasses
    rw [esame]
    exact ⟨rfl, rfl, rfl, rfl⟩

/-- Settles O46: both commands by their equations, an offset by the counts that it meets. -/
theorem timeFlitsDisciplineTheTick : Obligations.TimeFlitsDisciplineTheTick := by
  unfold Obligations.TimeFlitsDisciplineTheTick
  intro p s
  refine ⟨fun k hu hx => ?sends, fun k hu hx => ?spent, fun send recv far echo hops h => execTimeFlit_of_shut _ _ _ _ _ h,
    fun send recv far echo hops hu ha hr => ?root,
    fun send recv far echo hops hu ha hr hp he => ?parent⟩
  case sends =>
    exact ⟨_, execTimeFlitSend_of_room k hu hx, State.timeFlit_and_telemetry k hu hx⟩
  case spent =>
    obtain ⟨hst, hkey, hpend⟩ := s.portDown_fell p
    exact ⟨_, execTimeFlitSend_of_exhausted k hu hx, hst, hkey, hpend, s.hg_portDown ..⟩
  case root =>
    refine ⟨_, (execTimeFlit_of_open send recv far echo hops hu ha).trans ?_, rfl⟩
    rw [State.chooseParent_of_root (s := s.heard p send recv hops) hr, State.heed_of_root (s := { s.heard p send recv hops with
      tm := { (s.heard p send recv hops).tm with parent := 7, hops := 0 } }) hr]
    rfl
  case parent =>
    have hexec := execTimeFlit_of_open send recv far echo hops hu ha
    rw [State.chooseParent_heard send recv hr hp, State.heed_heardParent p send recv hops hr he] at hexec
    refine ⟨fun hload hoffer hruns hacks => ⟨_, hexec, State.loaded_takes_offer hload hoffer hruns hacks⟩, fun hoffer => ?_⟩
    obtain ⟨x, hnotes, hpar, hhops⟩ := State.measured_shape (s.heardParent p send recv hops) (s.offsetOf send recv far echo)
    have hsame := hnotes
    obtain ⟨_, _, _, _, e, -⟩ := hsame
    rw [State.takeOffer_of_none (by rw [e]; exact hoffer)] at hexec
    refine ⟨_, hexec, ?_, ?_, by rw [e]; rfl, by rw [e]; rfl, by rw [e]; rfl, fun hload => ?_, fun hmember => ?_,
      fun hmember hsmall => ?_, fun hmember hlarge => ?_⟩
    · rw [e]
      exact (congrArg BitVec.toNat hpar).trans (s.toNat_parent_heardParent ..)
    · rw [e]
      exact hhops
    · rw [State.measured_of_joining (s := s.heardParent p send recv hops) hload]
      exact ⟨rfl, rfl, rfl, rfl⟩
    · exact State.count_measured_of_member (s := s.heardParent p send recv hops) hmember _
    · exact State.measured_within (s := s.heardParent p send recv hops) hmember hsmall
    · rw [State.measured_of_member (s := s.heardParent p send recv hops) hmember]
      exact State.judge_beyond hlarge

end Sys2Proof.Machine
end

section
/-! Sluice flits toward other nodes from ports with room (R447, R463): what their sending leaves as it was, and that each
goes out. -/
namespace Sys2Proof.Machine
open Sys2Proof.Claims

/-- An engine whose ports have room has used up no counter (R463). -/
theorem counting_of_roomy {s : State} {k : Nat} (h : Roomy s k) : Counting s :=
  fun p _ => Port.not_exhausted_of_lt (h p)

/-- The route of a flit depends on the hall and on the states of the ports (R467). -/
theorem State.route_congr {s t : State} (hh : t.hall = s.hall) (hst : ∀ p, (t.port p).st = (s.port p).st) (f : Flit) :
    t.route f = s.route f := by
  have hdim (f : Flit) (d : Nat) : t.routeDim f d = s.routeDim f d := by
    unfold State.routeDim
    simp only [hh, hst]
  unfold State.route
  simp only [hdim]

/-- `t` is `s` after sluice flits: link traffic that took at most `k` counter values of every port and left its state, and
what had gone out stands. -/
structure State.Tells (s : State) (k : Nat) (t : State) : Prop where
  passes : s.Passes t
  count : ∀ p, (t.port p).txCount.toNat ≤ (s.port p).txCount.toNat + k
  st : ∀ p, (t.port p).st = (s.port p).st
  sent : ∀ x ∈ s.out.links, x ∈ t.out.links

namespace State.Tells
variable {s a b : State} {k m : Nat}

theorem refl (s : State) : s.Tells 0 s := ⟨.refl s, fun _ => Nat.le_refl _, fun _ => rfl, fun _ h => h⟩

theorem trans (h : s.Tells k a) (n : a.Tells m b) : s.Tells (k + m) b where
  passes := by
    obtain ⟨_, _, _, rfl⟩ := h.passes
    obtain ⟨_, _, _, rfl⟩ := n.passes
    exact ⟨_, _, _, rfl⟩
  count p := by have := h.count p; have := n.count p; omega
  st p := (n.st p).trans (h.st p)
  sent x hx := n.sent x (h.sent x hx)

theorem mono (h : s.Tells k a) (hk : k ≤ m) : s.Tells m a :=
  ⟨h.passes, fun p => by have := h.count p; omega, h.st, h.sent⟩

theorem roomy (h : s.Tells k a) (hr : Roomy s (k + m)) : Roomy a m := fun p => by
  have := h.count p
  have := hr p
  omega

theorem hall (h : s.Tells k a) : a.hall = s.hall := by
  obtain ⟨_, _, _, e⟩ := h.passes
  rw [e]

theorem route (h : s.Tells k a) (f : Flit) : a.route f = s.route f := State.route_congr h.hall h.st f

theorem stamp (h : s.Tells k a) : a.stamp = s.stamp := by
  obtain ⟨_, _, _, e⟩ := h.passes
  rw [e]
  rfl

end State.Tells

theorem State.putSluice_tells (s : State) (p : Fin 6) (m : Sluice) : s.Tells 1 (s.putSluice p m) where
  passes := (State.Passes.refl s).putSluice
  count := ((State.Spends.refl s).putSluice (p := p) (m := m)).count
  st o := by
    by_cases ho : o = p
    · rw [ho, State.port_putSluice_same]
      rfl
    · rw [State.port_putSluice_other s ho]
  sent x hx := by
    rw [State.links_putSluice]
    exact List.mem_append_left _ hx

/-- A flit toward a node goes out by the port of its route, where that has a counter value left. -/
theorem State.sluiceTo_of_out {s : State} {n : BitVec 12} {p : Fin 6} {g : Flit} (hr : s.route { dst := n } = .out p g)
    (hx : (s.port p).exhausted = false) (m : Sluice) : (s.sluiceTo n m).1 = s.putSluice p m := by
  have hu := State.usable_of_route hr
  unfold State.sluiceTo
  rw [hr]
  dsimp only
  rw [State.downExhausted_of_not_exhausted hx, if_pos hu, State.sluiceOn_of_open hu hx]

theorem State.sluiceTo_of_no_route {s : State} {n : BitVec 12} (hr : ∀ p g, s.route { dst := n } ≠ .out p g)
    (m : Sluice) : s.sluiceTo n m = (s, false) := by
  unfold State.sluiceTo
  split
  · next hout => exact absurd hout (hr _ _)
  · rfl

theorem State.sluiceTo_tells {s : State} (hc : Counting s) (n : BitVec 12) (m : Sluice) : s.Tells 1 (s.sluiceTo n m).1 := by
  by_cases hr : ∃ p g, s.route { dst := n } = .out p g
  · obtain ⟨p, g, hr⟩ := hr
    rw [State.sluiceTo_of_out hr (hc p (by simp [Port.linked, State.usable_of_route hr]))]
    exact s.putSluice_tells p m
  · rw [State.sluiceTo_of_no_route fun p g h => hr ⟨p, g, h⟩]
    exact (State.Tells.refl s).mono (Nat.zero_le _)

/-- Flits toward the nodes of a list, from ports with a counter value for each. -/
theorem State.foldl_sluiceTo_tells {l : List (BitVec 12)} {s : State} (h : Roomy s l.length)
    (m : State → BitVec 12 → Sluice) : s.Tells l.length (l.foldl (fun s n => (s.sluiceTo n (m s n)).1) s) := by
  induction l generalizing s with
  | nil => exact .refl s
  | cons n l ih =>
    have hone := State.sluiceTo_tells (counting_of_roomy h) n (m s n)
    rw [List.length_cons, Nat.add_comm] at h ⊢
    exact hone.trans (ih (hone.roomy h))

/-- Each of them that has a route goes out, with the tick's stamp (R451). -/
theorem State.foldl_sluiceTo_sent {l : List (BitVec 12)} {s : State} (h : Roomy s l.length) (m : Sluice) {n : BitVec 12}
    (hn : n ∈ l) {o : Fin 6} {g : Flit} (hr : s.route { dst := n } = .out o g) :
    .sluice o m s.stamp ∈ (l.foldl (fun s n => (s.sluiceTo n m).1) s).out.links := by
  induction l generalizing s with
  | nil => exact absurd hn List.not_mem_nil
  | cons a l ih =>
    have hone := State.sluiceTo_tells (counting_of_roomy h) a m
    have hleft : Roomy (s.sluiceTo a m).1 l.length := hone.roomy (by rwa [List.length_cons, Nat.add_comm] at h)
    rw [List.foldl_cons]
    rcases List.mem_cons.mp hn with rfl | hn
    · refine (State.foldl_sluiceTo_tells hleft fun _ _ => m).sent _ ?_
      rw [State.sluiceTo_of_out hr (Port.not_exhausted_of_lt (h o)), State.links_putSluice]
      exact List.mem_append_right _ (List.mem_singleton.mpr rfl)
    · rw [← hone.stamp]
      exact ih hleft hn ((hone.route _).trans hr)

theorem State.toLive_tells {s : State} (h : Roomy s s.others.length) (m : Sluice) : s.Tells s.others.length (s.toLive m) :=
  State.foldl_sluiceTo_tells h fun _ _ => m

end Sys2Proof.Machine
end

section
/-! A resume notice (R494, R587): the requests that were held for its node go again, and of memory only dependence words of
instructions in flight change. -/
namespace Sys2Proof.Machine
open Sys2Proof.Claims

/-- `t` is `s` after requests of its instructions went out or were held: the headgate, the cut and the nodes known as frozen
are as they were, and so is every byte but those of dependence words of instructions in flight. -/
structure State.Resends (s t : State) : Prop where
  hg : t.hg = s.hg
  cut : t.cut = s.cut
  frozen : t.rem.frozen = s.rem.frozen
  memOk : s.MemOk → t.MemOk
  mem : s.MemOk → ∀ a, ¬ShownAt s a → Mem.get t.mem a = Mem.get s.mem a

/-- The dependence word of node `n` of slot `i` is that of an instruction in flight. -/
def State.Shows (s : State) (i : Fin 16) (n : Nat) : Prop :=
  ∃ f ∈ s.hg.flight, f.slot = i ∧ (n = f.node ∨ ∃ r ∈ f.results, r.node = n)

theorem shownAt_congr {s t : State} (h : t.hg = s.hg) (a : Nat) : ShownAt t a ↔ ShownAt s a := by
  simp only [ShownAt, State.slot, h]

namespace State.Resends
variable {s a b : State}

theorem refl (s : State) : s.Resends s := ⟨rfl, rfl, rfl, id, fun _ _ _ => rfl⟩

theorem trans (h : s.Resends a) (k : a.Resends b) : s.Resends b where
  hg := k.hg.trans h.hg
  cut := k.cut.trans h.cut
  frozen := k.frozen.trans h.frozen
  memOk hm := k.memOk (h.memOk hm)
  mem hm x hx := (k.mem (h.memOk hm) x (mt (shownAt_congr h.hg x).mp hx)).trans (h.mem hm x hx)

theorem passes (h : s.Resends a) (k : a.Passes b) : s.Resends b := by
  obtain ⟨_, _, _, rfl⟩ := k
  exact h.trans ⟨rfl, rfl, rfl, id, fun _ _ _ => rfl⟩

/-- The requests may be replaced. -/
theorem requests (h : s.Resends a) {r : Remote} (hr : r.frozen = a.rem.frozen := by rfl) :
    s.Resends { a with rem := r } := h.trans ⟨rfl, rfl, hr, id, fun _ _ _ => rfl⟩

theorem ite {c : Prop} [Decidable c] (h : s.Resends a) (k : s.Resends b) : s.Resends (if c then a else b) := by
  split <;> assumption

theorem pair {α : Type} {p : State × α} {k : State → α → State} (h : s.Resends p.1)
    (hk : ∀ {t x}, s.Resends t → s.Resends (k t x)) : s.Resends (Prod.casesOn p k) := hk h

theorem foldl {α : Type} {f : State → α → State} {l : List α} (h : s.Resends a)
    (hf : ∀ {b}, ∀ x ∈ l, s.Resends b → s.Resends (f b x)) : s.Resends (l.foldl f a) :=
  List.foldlRecOn l f h fun _ hb x hx => hf x hx hb

theorem setWait (h : s.Resends a) {i n st wait waux wpeer} (hs : s.Shows i n) :
    s.Resends (a.setWait i n st wait waux wpeer) := by
  refine h.trans ⟨rfl, rfl, rfl, fun hm => Memory.wf_setN hm _ _ _, fun hm x hx => Mem.get_setN_other hm _ ?_⟩
  obtain ⟨f, hf, rfl, hn⟩ := hs
  by_contra hc
  refine hx ⟨f, h.hg ▸ hf, n, ?_, by omega, by omega⟩
  exact hn

theorem clearWait (h : s.Resends a) {i n wait} (hs : s.Shows i n) : s.Resends (a.clearWait i n wait) :=
  .ite (h.setWait hs) h

theorem showHeld (h : s.Resends a) {q} : s.Resends (a.showHeld q) := by
  refine .ite h (h.foldl fun f hf h' => ?_)
  obtain ⟨hflight, hslot⟩ := List.mem_filter.mp hf
  rw [h.hg] at hflight
  obtain ⟨hslot, -⟩ := (Bool.and_eq_true _ _).mp hslot
  have hslot : f.slot = q.slot := by simpa using hslot
  refine iteInduction (fun hany => h'.setWait ⟨f, hflight, hslot, .inr ?_⟩)
    fun _ => .ite (h'.setWait ⟨f, hflight, hslot, .inl rfl⟩) h'
  simpa using hany

theorem hold (h : s.Resends a) {q} : s.Resends (a.hold q) := h.requests.showHeld

theorem launch (h : s.Resends a) {f wake} : s.Resends (a.launch f wake).1 := h.passes (State.Passes.refl a).launch

theorem sendReq (h : s.Resends a) {q} : s.Resends (a.sendReq q) := .pair h.requests.launch fun h => .ite h h.hold

theorem sendWrite (h : s.Resends a) {i n f} : s.Resends (a.sendWrite i n f) :=
  .ite h.hold (.pair h.requests.requests.launch fun h => .ite h h.hold)

theorem resend (h : s.Resends a) {pick} : s.Resends (a.resend pick) :=
  h.requests.foldl fun _ _ h => .ite h.sendReq h.sendWrite

theorem showWaits (h : s.Resends a) : s.Resends a.showWaits := by
  refine h.foldl fun f hf h' => ?_
  rw [h.hg] at hf
  refine .ite (h'.setWait ⟨f, hf, rfl, .inl rfl⟩) (h'.foldl fun r hr h => .ite h (h.clearWait ?_))
  exact ⟨f, hf, rfl, .inr ⟨r, hr, rfl⟩⟩

end State.Resends

/-- The notice of a node that resumed: it is not known as frozen any more (R494). -/
theorem execResumeNotice_spec {s : State} (hc : Counting s) (n : BitVec 12) :
    ∃ t, execResumeNotice n s = .next t ∧ t.rem.frozen = s.rem.frozen.filter (· != n) ∧ t.hg = s.hg ∧ t.cut = s.cut ∧
      (s.MemOk → ∀ a, ¬ShownAt s a → Mem.get t.mem a = Mem.get s.mem a) := by
  have h := (State.Resends.refl { s with rem := { s.rem with frozen := s.rem.frozen.filter (· != n) } }).resend
    (pick := fun q => q.f.dst == n) |>.showWaits
  refine ⟨_, ?_, h.frozen, h.hg, h.cut, h.mem⟩
  rw [execResumeNotice, State.sweep_of_counting hc]

end Sys2Proof.Machine
end

section
/-! Stops and cuts (R488 to R495): what schedules a stop, when it begins, and how a cut commits, is abandoned and ends. -/
namespace Sys2Proof.Machine
open Sys2Proof.Claims

-- What schedules a stop.

/-- A stop that is sent on notes its tick, and sends (R488). -/
theorem State.spread_shape {s : State} (hc : Counting s) (x : BitVec 64) (but : List (Fin 6)) :
    ∃ l, { s with cut := { s.cut with forwarded := l } }.Passes (s.spread x but) := by
  unfold State.spread
  split
  · exact ⟨s.cut.forwarded, .refl s⟩
  · refine ⟨x :: s.cut.forwarded, ?_⟩
    rw [State.sweep_setCut hc]
    exact (State.Passes.refl _).foldl fun h => .ite h h.sluiceOn

/-- What a stop that is scheduled, or stops a node late, leaves: its cut is `c` but for the ticks sent on, and memory, the
headgate, the time unit and the hall are as they were. -/
def State.StopsAs (s t : State) (c : Cut) : Prop :=
  ∃ l, t.cut = { c with forwarded := l } ∧ t.mem = s.mem ∧ t.hg = s.hg ∧ t.tm = s.tm ∧ t.hall = s.hall

theorem State.stopsAs_spread {s : State} (hc : Counting s) (c : Cut) (x : BitVec 64) (but : List (Fin 6)) :
    s.StopsAs (State.spread { s with cut := c } x but) c := by
  obtain ⟨l, _, _, _, e⟩ := State.spread_shape (s := { s with cut := c }) hc x but
  rw [e]
  exact ⟨l, rfl, rfl, rfl, rfl, rfl⟩

theorem State.cstate_of_ahead {s : State} (h : s.tm.tick.toNat ≤ s.cut.stopT.toNat) : s.cstate = s.cut.st :=
  if_neg fun hc => by have := hc.2; omega

theorem State.cstate_of_passed {s : State} (hst : s.cut.st = .scheduled) (h : s.cut.stopT.toNat < s.tm.tick.toNat) :
    s.cstate = .stopping := if_pos ⟨hst, h⟩

/-- A stop that was scheduled and not reached, or none: a write of a later tick schedules the earlier (R409, R493). -/
theorem State.stopsAs_stopWrite {s : State} {x : BitVec 64} (hc : Counting s) (hx : s.tm.tick.toNat < x.toNat)
    (h : s.cut.st = .run ∨ s.cut.st = .scheduled ∧ s.tm.tick.toNat ≤ s.cut.stopT.toNat) :
    s.StopsAs (s.stopWrite x) { s.cut with
      st := .scheduled, stopT := if s.cut.st = .run ∨ x.toNat < s.cut.stopT.toNat then x else s.cut.stopT } := by
  have hgoes (st : CutSt) (hst : s.cstate = st) (hopen : st = .run ∨ st = .scheduled) :
      s.stopWrite x = s.scheduleStop x := by
    refine if_neg ?_
    rcases hopen with rfl | rfl
    · simp [State.cutOpen, hst, hx]
    · simp [State.cutOpen, hst, hx]
  rcases h with hrun | ⟨hsched, hahead⟩
  · have hst : s.cstate = .run := (State.cstate_of_ne (by simp [hrun])).trans hrun
    rw [hgoes _ hst (.inl rfl)]
    simp only [State.scheduleStop, hst, hrun, true_or, if_true]
    exact State.stopsAs_spread hc ..
  · have hst : s.cstate = .scheduled := (State.cstate_of_ahead hahead).trans hsched
    rw [hgoes _ hst (.inr rfl)]
    simp only [State.scheduleStop, hst]
    by_cases hlt : x.toNat < s.cut.stopT.toNat
    · simp only [hlt, or_true, if_true]
      rw [← hsched]
      exact State.stopsAs_spread hc ..
    · simp only [hsched, hlt, or_false, reduceCtorEq, if_false]
      rw [← hsched]
      exact ⟨_, rfl, rfl, rfl, rfl, rfl⟩

/-- A write that is not later than the tick, or comes while a stop is at work, is refused (R493). -/
theorem execStopAtWrite_of_refused {s : State} {x : BitVec 64} (h : x.toNat ≤ s.tm.tick.toNat ∨ s.cutOpen = false) :
    execStopAtWrite x s = .next (answered { s with cut := { s.cut with stopErr := true } }) := by
  have hrefused : s.stopWrite x = { s with cut := { s.cut with stopErr := true } } := if_pos (by simpa using h)
  rw [execStopAtWrite, hrefused]
  rfl

/-- A port that hears sluice flits: it has a session, or trains for one, and waits for no replay (R450, R453). -/
def State.Hears (s : State) (p : Fin 6) : Prop := (s.port p).linked = true ∧ (s.port p).awaiting = none

theorem State.sluiceIn_of_heard {s : State} {p : Fin 6} (hc : Counting s) (h : s.Hears p) (act : State → State) :
    s.sluiceIn p act = act s := by
  unfold State.sluiceIn
  rw [State.sweep_of_counting hc]
  exact if_pos (by simp [h.1, h.2])

theorem State.sluiceIn_of_unheard {s : State} {p : Fin 6} (hc : Counting s) (h : ¬s.Hears p) (act : State → State) :
    s.sluiceIn p act = s := by
  unfold State.sluiceIn
  rw [State.sweep_of_counting hc]
  exact if_neg fun hh => h (by simpa [State.Hears] using hh)

/-- A stop command that is not heard, or meets a cut that committed or was abandoned, or a frozen part, is dropped (R493, R502,
log 50). -/
theorem execStopCommand_of_dropped {s : State} {p : Fin 6} (hc : Counting s) (x : BitVec 64)
    (h : ¬s.Hears p ∨ s.cut.st = .committed ∨ s.cut.st = .abandoned ∨ s.cut.st = .partFrozen) :
    execStopCommand p x s = .next s := by
  refine congrArg Host.Outcome.next ?_
  by_cases hh : s.Hears p
  · rw [State.sluiceIn_of_heard hc hh]
    rcases h.resolve_left (not_not.mpr hh) with h | h | h
    all_goals simp only [State.cstate_of_ne (s := s) (by simp [h]), h]
  · exact State.sluiceIn_of_unheard hc hh _

/-- On a node that runs, a stop command schedules its stop, or stops the node late (R488, R489). -/
theorem stopsAs_execStopCommand {s : State} {p : Fin 6} (hc : Counting s) (x : BitVec 64) (hh : s.Hears p)
    (h : s.cut.st = .run) : ∃ t, execStopCommand p x s = .next t ∧ ∃ mine, s.StopsAs t { s.cut with
      st := if x.toNat < s.tm.tick.toNat then .stopping else .scheduled, stopT := x, myLate := mine
      late := s.cut.late || decide (x.toNat < s.tm.tick.toNat) } := by
  refine ⟨_, rfl, ?_⟩
  rw [State.sluiceIn_of_heard hc hh]
  have hst : s.cstate = .run := (State.cstate_of_ne (by simp [h])).trans h
  simp only [hst]
  by_cases hlate : x.toNat < s.tm.tick.toNat
  · have hstop : s.lateStop x
        = { s with cut := { s.cut with st := .stopping, stopT := x, myLate := true, late := true } } := by
      simp [State.lateStop, hst]
    simp only [hlate, if_true, decide_true, Bool.or_true, hstop]
    exact ⟨true, State.stopsAs_spread hc ..⟩
  · simp only [hlate, if_false, decide_false, Bool.or_false]
    exact ⟨s.cut.myLate, State.stopsAs_spread hc ..⟩

-- The stop begins.

theorem execStopTick_of_passed {s : State} (hst : s.cut.st = .scheduled) (h : s.cut.stopT.toNat < s.tm.tick.toNat) :
    execStopTick s = .next { s with cut := { s.cut with st := .stopping } } := by
  rw [execStopTick, State.cstate_of_passed hst h]

theorem execStopTick_of_ahead {s : State} (h : s.cut.st ≠ .scheduled ∨ s.tm.tick.toNat ≤ s.cut.stopT.toNat) :
    execStopTick s = .next s := by
  rw [execStopTick, show s.cstate = s.cut.st from h.elim State.cstate_of_ne State.cstate_of_ahead]

-- A cut commits.

theorem mem_insertNew {α : Type} [DecidableEq α] {a x : α} {l : List α} : a ∈ insertNew x l ↔ a = x ∨ a ∈ l := by
  unfold insertNew
  split
  · next h => exact ⟨.inr, fun hc => hc.elim (fun e => e ▸ h) id⟩
  · exact List.mem_cons

/-- With a notice of every live node of the part the cut commits, as late as any node said (R489, R492). -/
theorem State.tryCommit_of_all {s : State} (h : s.cut.st = .localDone)
    (hall : ∀ n, n = s.hall.nid ∨ n ∈ s.hall.ofPart → n ∈ s.cut.done) :
    let t := s.tryCommit
    t.cut.st = .committed ∧ t.cut.lastCut = s.cut.stopT.setWidth 40 ∧ t.cut.late = (s.cut.late || s.cut.anyLate) ∧
      t.evt.pend.getLsbD 19 = true := by
  intro t
  have hcommit : s.cut.st = .localDone ∧ ((s.hall.nid :: s.hall.ofPart).all fun n => s.cut.done.contains n) = true := by
    refine ⟨h, List.all_eq_true.mpr fun n hn => ?_⟩
    simpa using hall n (List.mem_cons.mp hn)
  have ht : t = _ := if_pos hcommit
  rw [ht]
  refine ⟨?_, ?_, ?_, State.raise_pend _ .cutdone ..⟩ <;> rw [State.cut_raise]

theorem State.tryCommit_of_missing {s : State} {n : BitVec 12} (hn : n ∈ s.hall.ofPart) (h : n ∉ s.cut.done) :
    s.tryCommit = s := by
  refine if_neg fun hc => h ?_
  have := List.all_eq_true.mp hc.2 n (List.mem_cons_of_mem _ hn)
  simpa using this

/-- A node can be done with a cut: it stops and no saved gang of it waits, or it is in DEEP (R437, R492, R561). -/
def State.EndsCut (s : State) : Prop :=
  s.cstate = .stopping ∧ (s.pwr.st = .deep ∨ ∀ f ∈ s.hg.flight, f.parked = false)
    ∨ s.cstate = .scheduled ∧ s.pwr.st = .deep

/-- What CUT_LOCAL_DONE does, by whether the node is done and whether a live node was lost. -/
theorem execCutLocalDone_eq {s : State} (hc : Counting s) : execCutLocalDone s = .next (
    if !(s.cstate = .stopping ∧ (s.pwr.st = .deep ∨ s.hg.flight.all fun f => !f.parked)
      ∨ s.cstate = .scheduled ∧ s.pwr.st = .deep) ∨ !s.cutDone then s
    else if s.cut.broken then s.abandonCut else s.sayDone.tryCommit) := by
  unfold execCutLocalDone
  rw [State.sweep_of_counting hc]

theorem execCutLocalDone_of_busy {s : State} (hc : Counting s) (h : ¬s.EndsCut ∨ s.cutDone = false) :
    execCutLocalDone s = .next s := by
  rw [execCutLocalDone_eq hc, if_pos]
  simpa only [State.EndsCut, Bool.not_eq_true', decide_eq_false_iff_not, List.all_eq_true] using h

theorem execCutLocalDone_of_done {s : State} (hc : Counting s) (hr : s.EndsCut) (hd : s.cutDone = true) :
    execCutLocalDone s = .next (if s.cut.broken then s.abandonCut else s.sayDone.tryCommit) := by
  rw [execCutLocalDone_eq hc, if_neg]
  simpa only [State.EndsCut, Bool.not_eq_true', decide_eq_false_iff_not, List.all_eq_true, hd, Bool.true_eq_false, or_false,
    not_not] using hr

/-- The cut of a node that says that it is done (R492). -/
def State.saidDone (s : State) : Cut := { s.cut with
  st := .localDone, done := insertNew s.hall.nid s.cut.done, anyLate := s.cut.anyLate || s.cut.myLate }

/-- A node that says that it is done sends its notices, from ports with room for them (R463, R492). -/
theorem State.sayDone_passes {s : State} (h : Roomy s s.others.length) :
    { s with cut := s.saidDone }.Passes s.sayDone :=
  (State.toLive_tells (s := { s with cut := s.saidDone }) h _).passes

theorem Hall.live_of_ofPart {h : Hall} {n : BitVec 12} (hn : n ∈ h.ofPart) : n ∈ h.live := by
  unfold Hall.ofPart at hn
  split at hn
  · exact hn
  · exact List.mem_of_mem_filter hn

theorem State.eq_nid_of_alone {s : State} (h : s.others = []) {n : BitVec 12} (hn : n ∈ s.hall.ofPart) :
    n = s.hall.nid := by
  have := List.filter_eq_nil_iff.mp h n (Hall.live_of_ofPart hn)
  simpa using this

/-- A node that is done, of a part that lost none: alone it commits, and otherwise it waits for the others' notices (R492). -/
theorem State.sayDone_tryCommit {s : State} (h : Roomy s s.others.length) :
    let t := s.sayDone.tryCommit
    t.hg = s.hg ∧ t.hall = s.hall ∧ t.tm = s.tm ∧
      (s.others = [] → t.cut.st = .committed ∧ t.cut.lastCut = s.cut.stopT.setWidth 40 ∧
        t.cut.late = (s.cut.late || (s.cut.anyLate || s.cut.myLate)) ∧ t.evt.pend.getLsbD 19 = true) ∧
      ((∃ n ∈ s.hall.ofPart, n ≠ s.hall.nid ∧ n ∉ s.cut.done) →
        t.cut.st = .localDone ∧ s.hall.nid ∈ t.cut.done ∧ t.mem = s.mem) := by
  obtain ⟨_, _, _, e⟩ := State.sayDone_passes h
  have hcut : s.sayDone.cut = s.saidDone := by rw [e]
  have hhall : s.sayDone.hall = s.hall := by rw [e]
  have hself : s.hall.nid ∈ s.saidDone.done := mem_insertNew.mpr (.inl rfl)
  have hcuts := (State.Cuts.refl s.sayDone).tryCommit
  refine ⟨hcuts.hg.trans (by rw [e]), hcuts.hall.trans hhall, hcuts.tm.trans (by rw [e]), fun halone => ?_,
    fun ⟨n, hn, hne, hmissing⟩ => ?_⟩
  · obtain ⟨hst, hlast, hlate, hpend⟩ := State.tryCommit_of_all (s := s.sayDone) (by rw [hcut]; rfl) fun n hn => by
      rw [hhall] at hn
      rw [hcut]
      have : n = s.hall.nid := hn.elim id (State.eq_nid_of_alone halone)
      rwa [this]
    refine ⟨hst, ?_, ?_, hpend⟩
    · rw [hlast, hcut]
      rfl
    · rw [hlate, hcut]
      rfl
  · have hstays : s.sayDone.tryCommit = s.sayDone := by
      refine State.tryCommit_of_missing (n := n) (by rwa [hhall]) ?_
      rw [hcut]
      exact fun hc => (mem_insertNew.mp hc).elim hne hmissing
    rw [hstays, hcut]
    exact ⟨rfl, hself, by rw [e]⟩

/-- The notice of a live node, with which every live node of the part said that it is done, commits the cut (R492). -/
theorem execCutDoneNotice_of_last {s : State} {n : BitVec 12} (late : Bool) (h : s.cut.st = .localDone)
    (hn : n ∈ s.others) (hself : s.hall.nid ∈ s.cut.done)
    (hall : ∀ m ∈ s.hall.ofPart, m = s.hall.nid ∨ m = n ∨ m ∈ s.cut.done) :
    ∃ t, execCutDoneNotice n late s = .next t ∧ t.cut.st = .committed ∧ t.cut.lastCut = s.cut.stopT.setWidth 40 ∧
      t.cut.late = (s.cut.late || (s.cut.anyLate || late)) ∧ t.evt.pend.getLsbD 19 = true ∧ t.hg = s.hg := by
  have hheard : ¬((!s.others.contains n) = true ∨ s.cut.st = .committed ∨ s.cut.st = .abandoned ∨
      s.cut.st = .partFrozen) := by
    simp [hn, h]
  have hcuts := (State.Cuts.refl s).cut (c := { s.cut with
    done := insertNew n s.cut.done, anyLate := s.cut.anyLate || late }) |>.tryCommit
  obtain ⟨hst, hlast, hlate, hpend⟩ := State.tryCommit_of_all (s := { s with cut := { s.cut with
    done := insertNew n s.cut.done, anyLate := s.cut.anyLate || late } }) h fun m hm => mem_insertNew.mpr (by
      rcases hm with rfl | hm
      · exact .inr hself
      · rcases hall m hm with rfl | rfl | hm
        exacts [.inr hself, .inl rfl, .inr hm])
  exact ⟨_, congrArg Host.Outcome.next (if_neg hheard), hst, hlast, hlate, hpend, hcuts.hg⟩

theorem execCutDoneNotice_of_stranger {s : State} {n : BitVec 12} (late : Bool) (h : n ∉ s.others) :
    execCutDoneNotice n late s = .next s := congrArg Host.Outcome.next (if_pos (.inl (by simp [h])))

-- A resume.

/-- A resume ends a cut that committed or was abandoned, and its notices go out by ports with room (R494). -/
theorem execResume_of_over {s : State} (h : s.cut.st = .committed ∨ s.cut.st = .abandoned)
    (hroom : Roomy s s.others.length) :
    ∃ t, execResume s = .next (answered t) ∧ { s with cut := s.cut.clear .run }.Passes t := by
  refine ⟨s.resume, ?_, ?_⟩
  · rw [execResume, State.sweep_of_counting (counting_of_roomy hroom)]
    rfl
  · rw [State.resume, if_pos h]
    exact (State.toLive_tells (s := { s with cut := s.cut.clear .run }) hroom _).passes

theorem execResume_of_none {s : State} (hc : Counting s) (h1 : s.cut.st ≠ .committed) (h2 : s.cut.st ≠ .abandoned) :
    execResume s = .next (answered s) := by
  have hnone : s.resume = s := if_neg (not_or.mpr ⟨h1, h2⟩)
  rw [execResume, State.sweep_of_counting hc, hnone]
  rfl

/-- Settles O48: each command by its equation where it acts, and where it does not. -/
theorem stopsAndCuts : Obligations.StopsAndCuts := by
  unfold Obligations.StopsAndCuts
  intro s hears ready
  refine ⟨fun x => execStopAtWrite_of_refused, fun x hc hx hrun => ?_, fun x hc hx hsched hahead => ?_,
    fun p x hc h => execStopCommand_of_dropped hc x h, fun p x hc hh hrun => ?_, execStopTick_of_passed,
    execStopTick_of_ahead, fun hready hdone hwhole hroom => ?_, fun hready hc hdone hbroken => ?_,
    fun hc => execCutLocalDone_of_busy hc, fun n late h hn hself hall => execCutDoneNotice_of_last late h hn hself hall,
    fun n late => execCutDoneNotice_of_stranger late, fun h hroom => ?_, fun hc => execResume_of_none hc,
    fun n hc => execResumeNotice_spec hc n⟩
  · obtain ⟨l, hcut, hmem, hhg, htm, hhall⟩ := State.stopsAs_stopWrite hc hx (.inl hrun)
    refine ⟨_, rfl, ?_, ?_, hmem, hhg, htm, hhall⟩ <;> simp [hcut, hrun]
  · obtain ⟨l, hcut, hmem, hhg, htm, hhall⟩ := State.stopsAs_stopWrite hc hx (.inr ⟨hsched, hahead⟩)
    refine ⟨_, rfl, ?_, ?_, hmem, hhg, htm, hhall⟩ <;> simp [hcut, hsched]
  · obtain ⟨t, hexec, mine, l, hcut, hmem, hhg, htm, hhall⟩ := stopsAs_execStopCommand hc x hh hrun
    exact ⟨t, hexec, by rw [hcut], by rw [hcut], by rw [hcut], hmem, hhg, htm, hhall⟩
  · refine ⟨_, (execCutLocalDone_of_done (counting_of_roomy hroom) hready hdone).trans ?_, State.sayDone_tryCommit hroom⟩
    rw [if_neg (by simp [hwhole])]
  · refine ⟨_, (execCutLocalDone_of_done hc hready hdone).trans ?_, s.cut_abandonCut, s.pend_abandonCut,
      (State.Cuts.refl s).abandonCut.hg⟩
    rw [if_pos hbroken]
  · obtain ⟨t, hexec, _, _, _, e⟩ := execResume_of_over h hroom
    refine ⟨_, hexec, ?_⟩
    rw [e]
    exact ⟨rfl, rfl, rfl, rfl, rfl, rfl, rfl, rfl, rfl⟩

end Sys2Proof.Machine
end

section
/-! Flits toward other nodes from ports that may come to the end of their counters (R463, R469, R472): what their sending
leaves as it was, a port that goes DOWN with it included. -/
namespace Sys2Proof.Machine
open Sys2Proof.Claims

/-- `t` is `s` after flits went out, and ports went DOWN: the headgate, the cut, the snapshots and all of the hall but its
record of port states are as they were, and no pending event is lost. -/
structure State.Sounds (s t : State) : Prop where
  hg : t.hg = s.hg
  cut : t.cut = s.cut
  snap : t.snap = s.snap
  hall : { t.hall with portSts := [] } = { s.hall with portSts := [] }
  pend : ∀ k, s.evt.pend.getLsbD k = true → t.evt.pend.getLsbD k = true

namespace State.Sounds
variable {s a b : State}

theorem refl (s : State) : s.Sounds s := ⟨rfl, rfl, rfl, rfl, fun _ h => h⟩

theorem trans (h : s.Sounds a) (k : a.Sounds b) : s.Sounds b where
  hg := k.hg.trans h.hg
  cut := k.cut.trans h.cut
  snap := k.snap.trans h.snap
  hall := k.hall.trans h.hall
  pend x hx := k.pend x (h.pend x hx)

/-- What a hall holds besides its record of port states is as it was. -/
theorem field (h : s.Sounds a) {α : Type} (f : Hall → α) (hf : ∀ x : Hall, f { x with portSts := [] } = f x := by
    intro; rfl) : f a.hall = f s.hall := by
  rw [← hf, h.hall, hf]

/-- Fields that are none of these may be replaced. -/
theorem fields (h : s.Sounds a) {pending mem phase loadOpen warm scanAsked present grade stw tr arrs tm pwr gov st
    pen ports key rem obs svc out free} : s.Sounds ⟨pending, mem, phase, loadOpen, warm, scanAsked, present, grade, a.hg,
    stw, tr, arrs, a.evt, tm, a.cut, a.hall, pwr, gov, st, pen, ports, key, rem, a.snap, obs, svc, out, free⟩ :=
  ⟨h.hg, h.cut, h.snap, h.hall, h.pend⟩

theorem noteOwnPort (h : s.Sounds a) {p} : s.Sounds (a.noteOwnPort p) := h.trans ⟨rfl, rfl, rfl, rfl, fun _ h => h⟩

theorem setPort (h : s.Sounds a) {p q} : s.Sounds (a.setPort p q) := h.fields

theorem ite {c : Prop} [Decidable c] (h : s.Sounds a) (k : s.Sounds b) : s.Sounds (if c then a else b) := by
  split <;> assumption

theorem iteFst {α : Type} {c : Prop} [Decidable c] {p q : State × α} (h : s.Sounds p.1) (k : s.Sounds q.1) :
    s.Sounds (if c then p else q).1 := by
  split <;> assumption

theorem pair {α : Type} {p : State × α} {k : State → α → State} (h : s.Sounds p.1)
    (hk : ∀ {t x}, s.Sounds t → s.Sounds (k t x)) : s.Sounds (Prod.casesOn p k) := hk h

theorem foldl {α : Type} {f : State → α → State} {l : List α} (h : s.Sounds a)
    (hf : ∀ {b x}, s.Sounds b → s.Sounds (f b x)) : s.Sounds (l.foldl f a) :=
  List.foldlRecOn l f h fun _ hb _ _ => hf hb

theorem sends (h : s.Sounds a) (k : a.Sends b) : s.Sounds b := by
  obtain ⟨_, _, _, _, rfl⟩ := k
  exact h.fields

theorem notes (h : s.Sounds a) (k : a.Notes b) : s.Sounds b := by
  obtain ⟨_, _, _, _, rfl, -, -, -, hpend, -⟩ := k
  exact h.trans ⟨rfl, rfl, rfl, rfl, hpend⟩

theorem sluiceOn (h : s.Sounds a) {p m} : s.Sounds (a.sluiceOn p m) := h.sends (a.sluiceOn_sends p m)

theorem setWait (h : s.Sounds a) {i n st wait waux wpeer} : s.Sounds (a.setWait i n st wait waux wpeer) :=
  h.notes (a.setWait_writes i n st wait waux wpeer).notes

theorem hold (h : s.Sounds a) {q} : s.Sounds (a.hold q) :=
  .ite h.fields (foldl h.fields fun h => .ite h.setWait (.ite h.setWait h))

theorem retransmit (h : s.Sounds a) : s.Sounds a.retransmit := by
  refine foldl h.fields fun {b q} h => .ite h (.pair (p := State.launch _ _) ?_ fun h => .ite h h.hold)
  exact sends h.fields (State.launch_sends ..)

theorem reroute (h : s.Sounds a) {held} : s.Sounds (a.reroute held) := by
  refine h.foldl fun h => .ite h ?_
  extract_lets
  split
  · exact h.sends (State.transmit_sends ..)
  · exact (h.sends (State.freeQueue_sends ..)).sends (State.launch_sends ..)

theorem chooseParent (h : s.Sounds a) : s.Sounds a.chooseParent := by
  obtain ⟨_, _, e⟩ := a.chooseParent_shape
  rw [e]
  exact h.fields

theorem announce (h : s.Sounds a) {p} : s.Sounds (a.announce p) := foldl h.noteOwnPort fun h => .ite h h.sluiceOn

theorem wakesSince (h : s.Sounds a) {s0} : s.Sounds (a.wakesSince s0) := h.foldl fun h => .ite h.sluiceOn h

theorem raise (h : s.Sounds a) {e w x y z} : s.Sounds (a.raise e w x y z) := h.notes (a.raise_notes ..)

theorem portDown (h : s.Sounds a) {p st ev} : s.Sounds (a.portDown p st ev) :=
  .retransmit (.wakesSince (.announce (.chooseParent (.reroute (.ite (h.setPort.foldl fun h => h.setPort).raise
    (h.setPort.foldl fun h => h.setPort))))))

theorem downExhausted (h : s.Sounds a) {p} : s.Sounds (a.downExhausted p) := .ite h.portDown h

theorem sluiceTo (h : s.Sounds a) {dst m} : s.Sounds (a.sluiceTo dst m).1 := by
  unfold State.sluiceTo
  split
  · exact .iteFst h.downExhausted.sluiceOn h.downExhausted
  · exact h

theorem tell (h : s.Sounds a) {l m} : s.Sounds (a.tell l m) := h.foldl fun h => h.sluiceTo

theorem toLive (h : s.Sounds a) {m} : s.Sounds (a.toLive m) := h.foldl fun h => h.sluiceTo

end State.Sounds

end Sys2Proof.Machine
end

section
/-! The evaluation of a part (R498 to R503): its manager and root, the set that its manager offers, and whether it goes on or
freezes. -/
namespace Sys2Proof.Machine
open Sys2Proof.Claims

-- Flits to a list of nodes.

theorem Roomy.mono {s : State} {j k : Nat} (h : Roomy s k) (hj : j ≤ k) : Roomy s j := fun p => by
  have := h p
  omega

theorem State.tell_tells {s : State} {l : List (BitVec 12)} (h : Roomy s l.length) (m : Sluice) :
    s.Tells l.length (s.tell l m) := by
  have hle := List.length_filter_le (· != s.hall.nid) l
  exact (State.foldl_sluiceTo_tells (Roomy.mono h hle) fun _ _ => m).mono hle

theorem State.tell_sent {s : State} {l : List (BitVec 12)} (h : Roomy s l.length) (m : Sluice) {n : BitVec 12}
    (hn : n ∈ l) (hne : n ≠ s.hall.nid) {o : Fin 6} {g : Flit} (hr : s.route { dst := n } = .out o g) :
    .sluice o m s.stamp ∈ (s.tell l m).out.links :=
  State.foldl_sluiceTo_sent (Roomy.mono h (List.length_filter_le ..)) m (List.mem_filter.mpr ⟨hn, by simpa using hne⟩) hr

-- The part is known.

/-- The hall of a node that runs once it knows its part (R499). -/
def Hall.knowing (h : Hall) (part : List (BitVec 12)) : Hall := { h with evald := part, actMgr := h.manager part true }

/-- A node that knows its part is root as its manager, with LOCK, and no root otherwise (R481, R485). -/
theorem State.knowPart_spec (s : State) (part : List (BitVec 12)) : ∃ x : TimeUnit,
    s.knowPart part = { s with hall := s.hall.knowing part, tm := x } ∧ x.tick = s.tm.tick ∧
      (s.hall.manager part true = s.hall.nid → x.root = true ∧ x.lock = true) ∧
      (s.hall.manager part true ≠ s.hall.nid →
        x.root = false ∧ (s.tm.root = false → x = s.tm) ∧ (s.tm.root = true → x.lock = false)) := by
  change ∃ x : TimeUnit, State.setRoot { s with hall := s.hall.knowing part } part true = _ ∧ _
  by_cases hm : s.hall.manager part true = s.hall.nid
  · rw [State.setRoot_of_manager (s := { s with hall := s.hall.knowing part }) hm]
    exact ⟨_, rfl, rfl, fun _ => ⟨rfl, rfl⟩, fun h => absurd hm h⟩
  · cases hr : s.tm.root
    · rw [State.setRoot_of_child (s := { s with hall := s.hall.knowing part }) hm hr]
      exact ⟨s.tm, rfl, rfl, fun h => absurd h hm, fun _ => ⟨hr, fun _ => rfl, nofun⟩⟩
    · rw [State.setRoot_of_former (s := { s with hall := s.hall.knowing part }) hm hr]
      obtain ⟨_, _, e⟩ := State.chooseParent_shape { s with
        hall := s.hall.knowing part, tm := { s.tm with root := false, lock := false, good := 0, bad := 0 } }
      exact ⟨_, e, rfl, fun h => absurd h hm, fun _ => ⟨rfl, nofun, fun _ => rfl⟩⟩

-- The set that the manager offers.

theorem State.offerSet_of_none {s : State} {part : List (BitVec 12)}
    (h : s.hall.admissible part = [] ∨ s.hall.cont = false ∨ s.hall.actMgr ≠ s.hall.nid) : s.offerSet part = s :=
  if_pos (by simpa using h)

theorem State.offerSet_of_new {s : State} {part : List (BitVec 12)} (h : s.hall.admissible part ≠ [])
    (hcont : s.hall.cont = true) (hm : s.hall.actMgr = s.hall.nid) : s.offerSet part
      = s.tell (part ++ s.hall.admissible part) (.liveSet (s.hall.live ++ s.hall.admissible part)) :=
  if_neg (by simp [h, hcont, hm])

/-- An offer is sluice flits, at most one for each node that it goes to. -/
theorem State.offerSet_tells {s : State} {part : List (BitVec 12)}
    (h : Roomy s (part ++ s.hall.admissible part).length) :
    s.Tells (part ++ s.hall.admissible part).length (s.offerSet part) := by
  by_cases hnone : s.hall.admissible part = [] ∨ s.hall.cont = false ∨ s.hall.actMgr ≠ s.hall.nid
  · rw [State.offerSet_of_none hnone]
    exact (State.Tells.refl s).mono (Nat.zero_le _)
  · simp only [not_or, Bool.not_eq_false, not_not] at hnone
    obtain ⟨hnew, hcont, hm⟩ := hnone
    rw [State.offerSet_of_new hnew hcont hm]
    exact State.tell_tells h _

-- What an evaluation comes to.

/-- A node that was never admitted, or a frozen one that has met a part that continues, evaluates nothing (R503). -/
theorem execPartitionEvaluation_of_idle {s : State} {near : Bool} (hc : Counting s)
    (h : s.hall.nid ∉ s.hall.live ∨ s.cut.st = .partFrozen ∧ near = true) :
    execPartitionEvaluation s near = .next s := by
  unfold execPartitionEvaluation
  rw [State.sweep_of_counting hc]
  refine congrArg Host.Outcome.next ?_
  rcases h with h | h
  · exact (ite_eq_left_iff.mpr fun _ => if_pos (by simp [h]))
  · exact if_pos h

/-- A node that runs with a part of the whole live set knows it, and may offer a larger set (R498, R499). -/
theorem execPartitionEvaluation_of_whole {s : State} (near : Bool) (hc : Counting s) (hlive : s.hall.nid ∈ s.hall.live)
    (hruns : s.cut.st ≠ .partFrozen) (hwhole : s.hall.live.length ≤ s.hall.part.length) :
    execPartitionEvaluation s near = .next ((s.knowPart s.hall.part).offerSet s.hall.part) := by
  unfold execPartitionEvaluation
  rw [State.sweep_of_counting hc]
  simp [hruns, hlive, Nat.not_lt_of_ge hwhole]

/-- The engine with PARTITION raised where its part is smaller than the live set (R501). -/
def State.toldPart (s : State) : State :=
  if s.hall.part.length < s.hall.live.length then
    s.raise .partition { unit := 13 } s.hall.part.length s.hall.live.length (b2n (s.hall.continues s.hall.part))
  else s

/-- A node that is cut off, or frozen already, goes on or freezes (R500, R502). -/
theorem execPartitionEvaluation_of_cut_off {s : State} {near : Bool} (hc : Counting s)
    (h : s.cut.st = .partFrozen ∧ near = false ∨
      s.cut.st ≠ .partFrozen ∧ s.hall.part.length < s.hall.live.length) (hlive : s.hall.nid ∈ s.hall.live) :
    execPartitionEvaluation s near = .next (if s.hall.continues s.hall.part then
      (if s.cut.st = .partFrozen then s.toldPart.thaw else s.toldPart).goOn s.hall.part
      else s.toldPart.freeze s.hall.part) := by
  have hgoes : ¬(s.cut.st = .partFrozen ∧ near = true) := by
    rcases h with ⟨-, h⟩ | ⟨h, -⟩ <;> simp [h]
  have hacts : ¬((!decide (s.hall.part.length < s.hall.live.length) && !s.cut.st == .partFrozen) = true) := by
    rcases h with ⟨h, -⟩ | ⟨-, h⟩ <;> simp [h]
  unfold execPartitionEvaluation State.toldPart
  rw [State.sweep_of_counting hc]
  dsimp only
  rw [if_neg hgoes, if_neg (by simp [hlive]), if_neg hacts]
  simp only [decide_eq_true_eq, beq_iff_eq]

theorem State.toldPart_notes (s : State) : s.Notes s.toldPart := by
  unfold State.toldPart
  split
  · exact s.raise_notes ..
  · exact .refl s

/-- A part that continues: breaks its cut, knows its part, and its manager tells the others (R501). -/
theorem State.goOn_sounds (s : State) (part : List (BitVec 12)) : (s.breakCut.knowPart part).Sounds (s.goOn part) :=
  .ite (.refl _) (State.Sounds.refl _).tell.tell

/-- The part goes on: what the evaluation leaves. -/
theorem State.goOn_spec (s : State) (part : List (BitVec 12)) :
    let t := s.goOn part
    t.hg = s.hg ∧ (∀ k, s.evt.pend.getLsbD k = true → t.evt.pend.getLsbD k = true) ∧ t.hall.live = s.hall.live ∧
      t.hall.nid = s.hall.nid ∧ t.hall.evald = part ∧ t.hall.actMgr = s.hall.manager part true ∧
      t.hall.cont = s.hall.cont ∧ t.snap = s.snap ∧ (s.cut.st = .run → t.cut.st = .run) := by
  have hcuts := (State.Cuts.refl s).breakCut
  have hsounds := s.goOn_sounds part
  obtain ⟨x, e, -⟩ := s.breakCut.knowPart_spec part
  rw [e, hcuts.hall] at hsounds
  obtain ⟨-, -, -, -, -, hsnap, -⟩ := hcuts.same
  refine ⟨hsounds.hg.trans hcuts.hg, fun k hk => hsounds.pend k (hcuts.pend hk), hsounds.field Hall.live,
    hsounds.field Hall.nid, hsounds.field Hall.evald, hsounds.field Hall.actMgr, hsounds.field Hall.cont,
    hsounds.snap.trans hsnap, fun hrun => ?_⟩
  rw [hsounds.cut]
  dsimp only
  rw [State.breakCut_of_run hrun]
  exact hrun

/-- A frozen part that goes on again runs, and continues (R500, log 101). -/
theorem State.thaw_sounds (s : State) :
    { s with cut := s.cut.clear .run, hall := { s.hall with cont := true } }.Sounds s.thaw :=
  (State.Sounds.refl _).toLive

/-- The part goes on, a frozen one after it runs again. -/
theorem State.resumePart_spec (s : State) (part : List (BitVec 12)) :
    let t := (if s.cut.st = .partFrozen then s.thaw else s).goOn part
    t.hg = s.hg ∧ (∀ k, s.evt.pend.getLsbD k = true → t.evt.pend.getLsbD k = true) ∧ t.hall.live = s.hall.live ∧
      t.hall.nid = s.hall.nid ∧ t.hall.evald = part ∧ t.hall.actMgr = s.hall.manager part true ∧ t.snap = s.snap ∧
      (s.cut.st = .partFrozen → t.cut.st = .run ∧ t.hall.cont = true) ∧
      (s.cut.st ≠ .partFrozen → t.hall.cont = s.hall.cont) := by
  by_cases hfrozen : s.cut.st = .partFrozen
  · rw [if_pos hfrozen]
    have hthaw := s.thaw_sounds
    obtain ⟨hhg, hpend, hlive, hnid, hevald, hmgr, hcont, hsnap, hrun⟩ := s.thaw.goOn_spec part
    refine ⟨hhg.trans hthaw.hg, fun k hk => hpend k (hthaw.pend k hk), hlive.trans (hthaw.field Hall.live),
      hnid.trans (hthaw.field Hall.nid), hevald, hmgr.trans (hthaw.field fun h => h.manager part true),
      hsnap.trans hthaw.snap, fun _ => ⟨hrun ?_, hcont.trans (hthaw.field Hall.cont)⟩, fun h => absurd hfrozen h⟩
    rw [hthaw.cut]
    rfl
  · rw [if_neg hfrozen]
    obtain ⟨hhg, hpend, hlive, hnid, hevald, hmgr, hcont, hsnap, -⟩ := s.goOn_spec part
    exact ⟨hhg, hpend, hlive, hnid, hevald, hmgr, hsnap, fun h => absurd h hfrozen, fun _ => hcont⟩

-- A part that freezes.

/-- A node that is done abandons its cut (R495). -/
def State.abandonIfDone (s : State) : State := if s.cstate = .localDone then s.abandonCut else s

/-- The engine with the hall and the cut of a frozen part (R502). -/
def State.inFrozen (s : State) (part : List (BitVec 12)) : State := { s with
  hall := { s.hall with cont := false, evald := part, offer := [], acks := [], actMgr := s.hall.manager part false }
  cut := s.cut.clear .partFrozen }

/-- A rebuild stops in a part that freezes (R533). -/
def State.stopRebuild (s : State) : State :=
  if s.rebuilding then { s with snap := { s.snap with rb := .idle, loads := [] } } else s

theorem State.freeze_eq (s : State) (part : List (BitVec 12)) :
    s.freeze part = ((s.abandonIfDone.inFrozen part).stopRebuild).setRoot part false := rfl

theorem State.abandonIfDone_cuts (s : State) : s.Cuts s.abandonIfDone := .ite (State.Cuts.refl s).abandonCut (.refl s)

theorem State.pend_abandonIfDone {s : State} (h : s.cut.st = .localDone) :
    s.abandonIfDone.evt.pend.getLsbD 19 = true := by
  rw [State.abandonIfDone, if_pos ((State.cstate_of_ne (by simp [h])).trans h)]
  exact s.pend_abandonCut

theorem State.stopRebuild_shape (s : State) :
    ∃ y : Snap, s.stopRebuild = { s with snap := y } ∧ y.rb ≠ .running ∧ y.rb ≠ .fallback := by
  by_cases h : s.rebuilding = true
  · rw [State.stopRebuild, if_pos h]
    exact ⟨_, rfl, nofun, nofun⟩
  · rw [State.stopRebuild, if_neg h]
    have hidle : s.snap.rb ≠ .running ∧ s.snap.rb ≠ .fallback := by simpa [State.rebuilding] using h
    exact ⟨s.snap, rfl, hidle⟩

/-- The part freezes: what the evaluation leaves (R495, R502, R533). -/
theorem State.freeze_spec (s : State) (part : List (BitVec 12)) :
    let t := s.freeze part
    t.hg = s.hg ∧ (∀ k, s.evt.pend.getLsbD k = true → t.evt.pend.getLsbD k = true) ∧ t.hall.live = s.hall.live ∧
      t.hall.nid = s.hall.nid ∧ t.hall.evald = part ∧ t.hall.actMgr = s.hall.manager part false ∧
      t.hall.cont = false ∧ t.cut.st = .partFrozen ∧ t.snap.rb ≠ .running ∧ t.snap.rb ≠ .fallback ∧
      (s.cut.st = .localDone → t.evt.pend.getLsbD 19 = true) := by
  have hcuts := s.abandonIfDone_cuts
  obtain ⟨y, hstop, hrunning, hfallback⟩ := (s.abandonIfDone.inFrozen part).stopRebuild_shape
  obtain ⟨x, hroot, -⟩ := (s.abandonIfDone.inFrozen part).stopRebuild.setRoot_shape part false
  have hlive : s.abandonIfDone.hall.live = s.hall.live := congrArg Hall.live hcuts.hall
  have hnid : s.abandonIfDone.hall.nid = s.hall.nid := congrArg Hall.nid hcuts.hall
  have hmgr : s.abandonIfDone.hall.manager part false = s.hall.manager part false :=
    congrArg (fun h : Hall => h.manager part false) hcuts.hall
  rw [State.freeze_eq, hroot, hstop]
  exact ⟨hcuts.hg, fun _ hk => hcuts.pend hk, hlive, hnid, rfl, hmgr, rfl, rfl, hrunning, hfallback,
    State.pend_abandonIfDone⟩

/-- What the evaluation of a node that is cut off, or frozen already, leaves (R500 to R502). -/
theorem execPartitionEvaluation_cut_off_spec {s : State} {near : Bool} (hc : Counting s)
    (h : s.cut.st = .partFrozen ∧ near = false ∨
      s.cut.st ≠ .partFrozen ∧ s.hall.part.length < s.hall.live.length) (hlive : s.hall.nid ∈ s.hall.live) :
    let part := s.hall.part
    ∃ t, execPartitionEvaluation s near = .next t ∧ t.hg = s.hg ∧
      (part.length < s.hall.live.length → t.evt.pend.getLsbD 15 = true) ∧
      t.hall.live = s.hall.live ∧ t.hall.nid = s.hall.nid ∧ t.hall.evald = part ∧
      t.hall.actMgr = s.hall.manager part (s.hall.continues part) ∧
      (s.hall.continues part = false → t.cut.st = .partFrozen ∧ t.hall.cont = false ∧
        t.snap.rb ≠ .running ∧ t.snap.rb ≠ .fallback ∧ (s.cut.st = .localDone → t.evt.pend.getLsbD 19 = true)) ∧
      (s.hall.continues part = true → t.snap = s.snap ∧
        (s.cut.st = .partFrozen → t.cut.st = .run ∧ t.hall.cont = true) ∧
        (s.cut.st ≠ .partFrozen → t.hall.cont = s.hall.cont)) := by
  intro part
  refine ⟨_, execPartitionEvaluation_of_cut_off hc h hlive, ?_⟩
  have hraised : part.length < s.hall.live.length → s.toldPart.evt.pend.getLsbD 15 = true := fun hsmall => by
    rw [State.toldPart, if_pos hsmall]
    exact State.raise_pend _ .partition ..
  obtain ⟨_, _, _, _, e, -⟩ := s.toldPart_notes
  have hsame : s.toldPart.hg = s.hg ∧ s.toldPart.hall = s.hall ∧ s.toldPart.cut = s.cut ∧ s.toldPart.snap = s.snap := by
    rw [e]
    exact ⟨rfl, rfl, rfl, rfl⟩
  obtain ⟨hhg, hhall, hcut, hsnap⟩ := hsame
  generalize s.toldPart = u at *
  cases hgo : s.hall.continues part
  · obtain ⟨h1, h2, h3, h4, h5, h6, h7, h8, h9, h10, h11⟩ := u.freeze_spec part
    rw [if_neg Bool.false_ne_true]
    rw [hhg] at h1
    rw [hhall] at h3 h4 h6
    rw [hcut] at h11
    exact ⟨h1, fun hsmall => h2 15 (hraised hsmall), h3, h4, h5, h6, fun _ => ⟨h8, h7, h9, h10, h11⟩, nofun⟩
  · obtain ⟨h1, h2, h3, h4, h5, h6, h7, h8, h9⟩ := u.resumePart_spec part
    rw [if_pos rfl]
    rw [hcut] at h2 h1 h3 h4 h5 h6 h7 h8 h9
    rw [hhg] at h1
    rw [hhall] at h3 h4 h6 h9
    rw [hsnap] at h7
    exact ⟨h1, fun hsmall => h2 15 (hraised hsmall), h3, h4, h5, h6, nofun, fun _ => ⟨h7, h8, h9⟩⟩

end Sys2Proof.Machine
end

section
/-! A changed live set (R498, R499, R495): it is acknowledged to its manager, and takes effect once every node of it did. -/
namespace Sys2Proof.Machine
open Sys2Proof.Claims

/-- A set that takes effect and lacks a live node of the part abandons the cut of a node that is done (R495). -/
theorem State.takeOffer_of_lost {s : State} (h : s.OfferStands) (hd : s.cut.st = .localDone)
    (hl : ∃ n ∈ s.hall.ofPart, n ≠ s.hall.nid ∧ n ∉ s.hall.offer) :
    s.takeOffer.cut.st = .abandoned ∧ s.takeOffer.evt.pend.getLsbD 19 = true := by
  obtain ⟨n, hn, hne, hout⟩ := hl
  have hlose := State.loseNodes_of_done (lost := fun n => !s.hall.offer.contains n) hd ⟨n, hn, hne, by simpa using hout⟩
  obtain ⟨x, e, -⟩ := State.setRoot_shape { s.abandonCut with hall := s.hall.under, tm := { s.tm with joining := false } }
    s.hall.under.part true
  have hunder : s.underOffer = { s.abandonCut with hall := s.hall.under, tm := x } := by
    rw [State.underOffer, hlose, e]
  have hst : s.underOffer.cut.st = .abandoned := by
    rw [hunder]
    exact congrArg Cut.st s.cut_abandonCut
  rw [State.takeOffer_of_stands h, State.tryCommit_of_not_done (by simp [hst])]
  refine ⟨hst, ?_⟩
  rw [hunder]
  exact s.pend_abandonCut

/-- The hall of a node that is offered a set, with the acknowledgements known of it. -/
def Hall.offering (h : Hall) (set acks : List (BitVec 12)) : Hall := { h with offer := set, acks := acks }

/-- The hall of a node under a set, before its manager is known (R498). -/
def Hall.within (h : Hall) (set : List (BitVec 12)) : Hall :=
  { h with live := set, cont := true, evald := [], offer := [], acks := [] }

theorem Hall.under_offering (h : Hall) (set acks : List (BitVec 12)) : (h.offering set acks).under
    = { h.within set with actMgr := h.manager (h.within set).part true } := rfl

/-- When a set that is offered takes effect (R498, R503, R505). -/
def State.TakesSet (s : State) (set known : List (BitVec 12)) : Prop :=
  s.cut.st ≠ .partFrozen ∧
    (s.tm.joining = false ∨ s.hall.manager (s.hall.within set).part true = s.hall.nid) ∧
    ∀ n ∈ set, n = s.hall.nid ∨ n ∈ known

/-- What becomes of a set that is offered, with what its offer and its acknowledgement had sent. -/
theorem State.takeOffer_of_offering {s u : State} {set acks known : List (BitVec 12)} (hset : set ≠ [])
    (hu : { s with hall := s.hall.offering set acks }.Passes u) (hacks : ∀ n, n ∈ acks ↔ n ∈ known) :
    let t := u.takeOffer
    (s.TakesSet set known → t.hall = (s.hall.offering set acks).under ∧ t.tm.joining = false ∧
      t.tm.tick = s.tm.tick) ∧
    (s.TakesSet set known → s.cut.st = .localDone → (∃ n ∈ s.hall.ofPart, n ≠ s.hall.nid ∧ n ∉ set) →
      t.cut.st = .abandoned ∧ t.evt.pend.getLsbD 19 = true) ∧
    (¬s.TakesSet set known → t.hall = s.hall.offering set acks ∧ t.tm = s.tm ∧ t.cut = s.cut) ∧
    t.out = u.out ∧ t.hg = s.hg ∧ t.rem = s.rem ∧ t.snap = s.snap := by
  obtain ⟨hhall, hcut, htm, hhg, hrem, hsnap⟩ : u.hall = s.hall.offering set acks ∧ u.cut = s.cut ∧ u.tm = s.tm ∧
      u.hg = s.hg ∧ u.rem = s.rem ∧ u.snap = s.snap := by
    obtain ⟨_, _, _, rfl⟩ := hu
    exact ⟨rfl, rfl, rfl, rfl, rfl, rfl⟩
  have hmgr : u.hall.under.actMgr = s.hall.manager (s.hall.within set).part true := by
    rw [hhall, Hall.under_offering]
  have hoffer : u.hall.offer = set := by rw [hhall]; rfl
  have hknown (n : BitVec 12) : n ∈ u.hall.acks ↔ n ∈ known := by rw [hhall]; exact hacks n
  have hself : u.hall.nid = s.hall.nid := by rw [hhall]; rfl
  have hpart : u.hall.ofPart = s.hall.ofPart := by rw [hhall]; rfl
  have hstands : s.TakesSet set known ↔ u.OfferStands := by
    constructor
    · rintro ⟨hruns, hloaded, hall⟩
      refine ⟨by rwa [hoffer], by rwa [hcut], by rwa [htm, hmgr, hself], fun n hn => ?_⟩
      rw [hself, hknown]
      exact hall n (hoffer ▸ hn)
    · rintro ⟨-, hruns, hloaded, hall⟩
      refine ⟨by rwa [← hcut], by rwa [← htm, ← hmgr, ← hself], fun n hn => ?_⟩
      rw [← hself, ← hknown]
      exact hall n (hoffer.symm ▸ hn)
  by_cases h : u.OfferStands
  · obtain ⟨x, hcuts, htick, -, hjoining⟩ := State.takeOffer_spec h
    obtain ⟨hhg', htm', hhall', -, hrem', hsnap', -, hout⟩ := hcuts.same
    refine ⟨fun _ => ⟨hhall'.trans (congrArg Hall.under hhall), (congrArg TimeUnit.joining htm').trans hjoining,
      (congrArg TimeUnit.tick htm').trans (htick.trans (congrArg TimeUnit.tick htm))⟩, fun _ hd hl => ?_,
      fun hn => absurd (hstands.mpr h) hn, hout, hhg'.trans hhg, hrem'.trans hrem, hsnap'.trans hsnap⟩
    exact State.takeOffer_of_lost h (hcut ▸ hd) (by rwa [hpart, hself, hoffer])
  · rw [State.takeOffer_of_not_stands h]
    exact ⟨fun hn => absurd (hstands.mp hn) h, fun hn => absurd (hstands.mp hn) h, fun _ => ⟨hhall, htm, hcut⟩, rfl, hhg,
      hrem, hsnap⟩

theorem mem_foldl_insertNew {α : Type} [DecidableEq α] {n : α} {l acks : List α} :
    n ∈ l.foldl (fun a x => insertNew x a) acks ↔ n ∈ l ++ acks := by
  induction l generalizing acks with
  | nil => rfl
  | cons x l ih =>
    rw [List.foldl_cons, ih]
    simp only [List.mem_append, mem_insertNew, List.mem_cons]
    tauto

/-- A set that does not hold this node, or a hall of one node, is not changed by an offer. -/
theorem execLiveSetChange_of_none {s : State} {set : List (BitVec 12)} (acked : List (BitVec 12)) (hc : Counting s)
    (h : s.hall.single = true ∨ s.hall.nid ∉ set) : execLiveSetChange set s acked = .next s := by
  unfold execLiveSetChange
  rw [State.sweep_of_counting hc]
  exact congrArg Host.Outcome.next (if_pos (by simpa using h))

/-- The set that stands offered brings acknowledgements (log 102). -/
theorem execLiveSetChange_of_same {s : State} {set : List (BitVec 12)} (acked : List (BitVec 12)) (hc : Counting s)
    (hsingle : s.hall.single = false) (hself : s.hall.nid ∈ set) (h : s.hall.offer = set) :
    execLiveSetChange set s acked = .next (State.takeOffer { s with
      hall := s.hall.offering set (acked.foldl (fun l n => insertNew n l) s.hall.acks) }) := by
  have hgoes : ¬(s.hall.single = true ∨ (!set.contains s.hall.nid) = true) := by simp [hsingle, hself]
  unfold execLiveSetChange
  rw [State.sweep_of_counting hc]
  subst h
  exact congrArg Host.Outcome.next ((if_neg hgoes).trans (if_pos rfl))

/-- The engine with its acknowledgement of an offered set sent to the set's manager, which it may be itself (R498). -/
def State.acknowledge (s : State) : State :=
  if s.hall.under.actMgr = s.hall.nid then s else (s.sluiceTo s.hall.under.actMgr (.liveAck s.hall.nid)).1

/-- Another set is acknowledged to its manager (R498). -/
theorem execLiveSetChange_of_new {s : State} {set : List (BitVec 12)} (acked : List (BitVec 12)) (hc : Counting s)
    (hsingle : s.hall.single = false) (hself : s.hall.nid ∈ set) (h : s.hall.offer ≠ set) :
    execLiveSetChange set s acked = .next
      (State.acknowledge { s with hall := s.hall.offering set acked }).takeOffer := by
  have hgoes : ¬(s.hall.single = true ∨ (!set.contains s.hall.nid) = true) := by simp [hsingle, hself]
  unfold execLiveSetChange
  rw [State.sweep_of_counting hc]
  exact congrArg Host.Outcome.next ((if_neg hgoes).trans (if_neg h))

theorem State.acknowledge_passes {s : State} (hc : Counting s) : s.Passes s.acknowledge :=
  .ite (.refl s) (State.sluiceTo_tells hc _ _).passes

/-- Where the manager can be reached, the acknowledgement goes out (R498). -/
theorem State.acknowledge_sent {s : State} (hc : Counting s) (hm : s.hall.under.actMgr ≠ s.hall.nid) {o : Fin 6}
    {g : Flit} (hr : s.route { dst := s.hall.under.actMgr } = .out o g) :
    .sluice o (.liveAck s.hall.nid) s.stamp ∈ s.acknowledge.out.links := by
  rw [State.acknowledge, if_neg hm,
    State.sluiceTo_of_out hr (hc o (by simp [Port.linked, State.usable_of_route hr])), State.links_putSluice]
  exact List.mem_append_right _ (List.mem_singleton.mpr rfl)

/-- What a changed live set leaves (R495, R498, R499). -/
theorem execLiveSetChange_spec {s : State} {set : List (BitVec 12)} (acked : List (BitVec 12)) (hc : Counting s)
    (hsingle : s.hall.single = false) (hself : s.hall.nid ∈ set) :
    let mgr := s.hall.manager (s.hall.within set).part true
    let known := if s.hall.offer = set then acked ++ s.hall.acks else acked
    ∃ t, execLiveSetChange set s acked = .next t ∧
      (s.TakesSet set known → t.hall = { s.hall.within set with actMgr := mgr } ∧ t.tm.joining = false ∧
        t.tm.tick = s.tm.tick) ∧
      (s.TakesSet set known → s.cut.st = .localDone → (∃ n ∈ s.hall.ofPart, n ≠ s.hall.nid ∧ n ∉ set) →
        t.cut.st = .abandoned ∧ t.evt.pend.getLsbD 19 = true) ∧
      (¬s.TakesSet set known → t.hall = s.hall.offering set t.hall.acks ∧
        (∀ n, n ∈ t.hall.acks ↔ n ∈ known) ∧ t.tm = s.tm ∧ t.cut = s.cut) ∧
      (s.hall.offer ≠ set → ∀ o g, mgr ≠ s.hall.nid → s.route { dst := mgr } = .out o g →
        .sluice o (.liveAck s.hall.nid) s.stamp ∈ t.out.links) ∧
      (s.hall.offer = set → t.out = s.out) ∧ t.hg = s.hg ∧ t.rem = s.rem ∧ t.snap = s.snap := by
  intro mgr known
  have hset : set ≠ [] := List.ne_nil_of_mem hself
  by_cases hsame : s.hall.offer = set
  · have hknown : known = acked ++ s.hall.acks := if_pos hsame
    have hacks (n) : n ∈ acked.foldl (fun l n => insertNew n l) s.hall.acks ↔ n ∈ known := by
      rw [hknown]
      exact mem_foldl_insertNew
    obtain ⟨htakes, hlost, hwaits, hout, hrest⟩ := State.takeOffer_of_offering hset
      (State.Passes.refl { s with hall := s.hall.offering set _ }) hacks
    refine ⟨_, execLiveSetChange_of_same acked hc hsingle hself hsame, htakes, hlost, fun h => ?_,
      fun h => absurd hsame h, fun _ => hout, hrest⟩
    obtain ⟨hhall, htm, hcut⟩ := hwaits h
    rw [hhall]
    exact ⟨rfl, hacks, htm, hcut⟩
  · have hknown : known = acked := if_neg hsame
    obtain ⟨htakes, hlost, hwaits, hout, hrest⟩ := State.takeOffer_of_offering hset
      (State.acknowledge_passes (s := { s with hall := s.hall.offering set acked }) hc) (known := known)
      fun n => by rw [hknown]
    refine ⟨_, execLiveSetChange_of_new acked hc hsingle hself hsame, htakes, hlost, fun h => ?_, fun _ o g hm hr => ?_,
      fun h => absurd h hsame, hrest⟩
    · obtain ⟨hhall, htm, hcut⟩ := hwaits h
      rw [hhall]
      exact ⟨rfl, fun n => by rw [hknown]; rfl, htm, hcut⟩
    · rw [hout]
      exact State.acknowledge_sent (s := { s with hall := s.hall.offering set acked }) hc hm (g := g) hr

end Sys2Proof.Machine
end

section
/-! Work that ends with its slots (R425, R426, R503, R527): what the end of slots leaves in flight, held and unacknowledged,
and that every slot is FREE. -/
namespace Sys2Proof.Machine
open Sys2Proof.Claims

/-- `t` is `s` as work of its slots ended: no pending event is lost, nothing comes into flight, nothing is held that was not,
the frozen sources stay, and what is not acknowledged yet was so before, in the same slot. -/
structure State.Winds (s t : State) : Prop where
  ends : s.Ends t
  pend : ∀ k, s.evt.pend.getLsbD k = true → t.evt.pend.getLsbD k = true
  flight : t.hg.flight ⊆ s.hg.flight
  frozen : t.rem.frozen = s.rem.frozen
  held : s.rem.heldReq = [] → t.rem.heldReq = []
  unacked : ∀ q ∈ t.rem.unacked, ∃ q' ∈ s.rem.unacked, q'.f = q.f ∧ q'.slot = q.slot

namespace State.Winds
variable {s a b : State}

theorem refl (s : State) : s.Winds s where
  ends := .refl s
  pend _ h := h
  flight := List.Subset.refl _
  frozen := rfl
  held h := h
  unacked q hq := ⟨q, hq, rfl, rfl⟩

theorem trans (h : s.Winds a) (k : a.Winds b) : s.Winds b where
  ends := by
    obtain ⟨_, _, _, _, _, _, _, _, rfl⟩ := h.ends
    obtain ⟨_, _, _, _, _, _, _, _, rfl⟩ := k.ends
    exact ⟨_, _, _, _, _, _, _, _, rfl⟩
  pend x hx := k.pend x (h.pend x hx)
  flight _ hf := h.flight (k.flight hf)
  frozen := k.frozen.trans h.frozen
  held he := k.held (h.held he)
  unacked q hq := by
    obtain ⟨q', hq', hf, hslot⟩ := k.unacked q hq
    obtain ⟨p, hp, hf', hslot'⟩ := h.unacked q' hq'
    exact ⟨p, hp, hf'.trans hf, hslot'.trans hslot⟩

/-- Memory, the trace, counters, responses and the headgate but for its flights may be replaced. -/
theorem fields (h : s.Winds a) {mem hg stw tr obs out} (hf : hg.flight ⊆ a.hg.flight := by exact fun _ h => h) :
    s.Winds { a with mem := mem, hg := hg, stw := stw, tr := tr, obs := obs, out := out } :=
  h.trans ⟨⟨_, _, _, _, _, _, _, _, rfl⟩, fun _ h => h, hf, rfl, id, fun q hq => ⟨q, hq, rfl, rfl⟩⟩

/-- The operands in the stores, and which gangs wait for theirs, may be replaced. -/
theorem waiting (h : s.Winds a) {resident resWait resFrom} : s.Winds { a with
    hg := { a.hg with resident := resident, resWait := resWait, resFrom := resFrom } } := h.fields

theorem notes (h : s.Winds a) (n : a.Notes b) : s.Winds b := by
  obtain ⟨_, _, _, _, rfl, -, -, -, hpend, -⟩ := n
  exact h.trans ⟨⟨_, _, _, _, _, _, _, _, rfl⟩, hpend, List.Subset.refl _, rfl, id, fun q hq => ⟨q, hq, rfl, rfl⟩⟩

theorem ite {c : Prop} [Decidable c] (h : s.Winds a) (k : s.Winds b) : s.Winds (if c then a else b) := by
  split <;> assumption

theorem foldl {α : Type} {f : State → α → State} {l : List α} (h : s.Winds a)
    (hf : ∀ {b x}, s.Winds b → s.Winds (f b x)) : s.Winds (l.foldl f a) :=
  List.foldlRecOn l f h fun _ hb _ _ => hf hb

theorem forN {f : State → Nat → State} {n : Nat} (h : s.Winds a) (hf : ∀ {b k}, s.Winds b → s.Winds (f b k)) :
    s.Winds (forN n a f) := h.foldl hf

theorem bump (h : s.Winds a) {x i n} : s.Winds (a.bump x i n) := by
  obtain ⟨_, e, -⟩ := a.bump_shape x i n
  rw [e]
  exact h.fields

theorem setWait (h : s.Winds a) {i n st wait waux wpeer} : s.Winds (a.setWait i n st wait waux wpeer) :=
  h.notes (a.setWait_writes i n st wait waux wpeer).notes

theorem countWaits (h : s.Winds a) : s.Winds a.countWaits := .ite h (h.forN fun h => .ite h.bump h).waiting

theorem setWaits (h : s.Winds a) {l} : s.Winds (a.setWaits l) := .ite h h.countWaits.waiting

theorem nowResident (h : s.Winds a) {i n} : s.Winds (a.nowResident i n) := setWaits (.ite h.setWait h)

theorem serveSpill (h : s.Winds a) : s.Winds a.serveSpill := by
  refine h.foldl fun {b r} h => .ite h ?_
  obtain ⟨o, e, -⟩ := b.bump_shape r.core.val 24 r.clk
  rw [e]
  exact h.fields.nowResident

theorem evict (h : s.Winds a) {drop} : s.Winds (a.evict drop) := h.waiting.serveSpill

theorem endWaits (h : s.Winds a) {i} : s.Winds (a.endWaits i) := h.setWaits

theorem setSlot (h : s.Winds a) {i x} : s.Winds (a.setSlot i x) := h.fields

theorem dropUse (h : s.Winds a) {w} : s.Winds (a.dropUse w) := by
  unfold State.dropUse
  refine .ite h ?_
  dsimp only
  split
  · exact h.fields
  · exact h

theorem raise (h : s.Winds a) {e w x y z} : s.Winds (a.raise e w x y z) := h.notes (a.raise_notes e w x y z)

theorem endSlot (h : s.Winds a) {i} : s.Winds (a.endSlot i) := by
  unfold State.endSlot
  extract_lets x s1 s2 _ s3 got keep _ s4 past _ s5
  have h3 : s.Winds s3 := (h.forN fun h => .ite h h.dropUse).evict.endWaits.fields fun _ => List.mem_of_mem_filter
  have h4 : s3.Winds s4 := ⟨⟨_, _, _, _, _, _, _, _, rfl⟩, fun _ h => h, List.Subset.refl _, rfl,
    fun he => congrArg (List.filter _) he, fun q hq => ⟨q, hq, rfl, rfl⟩⟩
  have hpast (q : Req) : q.f = (past q).f ∧ q.slot = (past q).slot := by
    dsimp only [past]
    split <;> exact ⟨rfl, rfl⟩
  have h5 : s4.Winds s5 := ⟨⟨_, _, _, _, _, _, _, _, rfl⟩, fun _ h => h, List.Subset.refl _, rfl,
    fun he => congrArg (List.map past) he, fun q hq => by
      obtain ⟨q', hq', rfl⟩ := List.mem_map.mp hq
      exact ⟨q', hq', hpast q'⟩⟩
  exact ((h3.trans h4).trans h5).setSlot.raise

theorem settle (h : s.Winds a) {i} : s.Winds (a.settle i) := .ite h.endSlot (.ite h.endSlot h)

theorem abandon (h : s.Winds a) {i} : s.Winds (a.abandon i) := by
  unfold State.abandon
  split
  · exact h
  · exact h
  · split
    · exact h.fields
    · exact h
  · exact (h.forN fun h => .ite h.dropUse h).endWaits.setSlot.settle
  · exact h.endSlot

end State.Winds

-- A loss.

theorem State.endAll_winds (s : State) : s.Winds s.endAll := by
  refine .foldl ?_ fun h => .ite h h.endSlot
  split
  · exact (State.Winds.refl s).abandon
  · exact .refl s

theorem mem_allSlots : ∀ i : Fin 16, i ∈ allSlots := by decide

/-- Every slot is FREE once all ended. -/
theorem State.slot_endAll (s : State) (i : Fin 16) : (s.endAll.slot i).st = .free := by
  refine foldl_establishes (P := fun _ : State => True) (Q := fun t : State => (t.slot i).st = .free) (mem_allSlots i)
    (fun _ _ _ _ => trivial) (fun t j _ _ ht => ?stay) (fun t _ => ?ends) trivial
  case stay =>
    split
    · exact ht
    · by_cases hj : i = j
      · rw [hj, State.slot_endSlot_same]
      · rw [State.slot_endSlot_other hj, ht]
  case ends =>
    split
    · assumption
    · rw [State.slot_endSlot_same]

/-- The engine without requests, reads and markers of work that is gone, and requests to lost nodes (R527). -/
def State.unburdened (s : State) (lost : List (BitVec 12)) : State := { s with
  stw := { s.stw with merged := [], formatted := [], ready := [] }
  rem := { s.rem with
    heldReq := [], reads := [], got := [], old := [], data := [], frozen := [], markers := [], owedEnds := []
    unacked := s.rem.unacked.filter fun q => !lost.contains q.f.dst } }

/-- The work of a node that stops for a rebuild: every slot ends, and requests and markers are discarded (R527). -/
theorem State.dropWork_eq (s : State) (lost : List (BitVec 12)) : s.dropWork lost = s.endAll.unburdened lost := by
  unfold State.dropWork State.endAll
  extract_lets s1 s2 _ _ t1
  have h1 : s1 = t1 := by
    dsimp only [s1, t1]
    cases s.hg.loading <;> rfl
  clear_value s1 t1
  subst h1
  change s2.unburdened lost = s2.unburdened lost
  rfl

/-- What the work of a node leaves when it stops for a rebuild (R527). -/
theorem State.dropWork_spec (s : State) (lost : List (BitVec 12)) :
    s.Ends (s.dropWork lost) ∧ (∀ k, s.evt.pend.getLsbD k = true → (s.dropWork lost).evt.pend.getLsbD k = true) ∧
    (∀ i, ((s.dropWork lost).slot i).st = .free) ∧ (s.dropWork lost).rem.heldReq = [] ∧
    (s.dropWork lost).rem.reads = [] ∧
    ∀ q ∈ (s.dropWork lost).rem.unacked, q.f.dst ∉ lost ∧ ∃ q' ∈ s.rem.unacked, q'.f = q.f ∧ q'.slot = q.slot := by
  have hwinds := s.endAll_winds
  have hslots := s.slot_endAll
  rw [State.dropWork_eq]
  generalize s.endAll = u at hwinds hslots ⊢
  refine ⟨hwinds.ends.fields, hwinds.pend, hslots, rfl, rfl, fun q hq => ?_⟩
  obtain ⟨hq, hdst⟩ := List.mem_filter.mp hq
  exact ⟨by simpa using hdst, hwinds.unacked q hq⟩

-- A node that rejoins.

section
variable {s : State} {i j : Fin 16}

/-- With nothing in flight, a slot that is not loading is FREE or halted once it is abandoned (R425). -/
theorem State.slot_abandon_same (hf : s.hg.flight = []) (h : (s.slot i).st ≠ .load) :
    ((s.abandon i).slot i).st = .free ∨ ((s.abandon i).slot i).st = .halt := by
  match hst : (s.slot i).st with
  | .free | .halt =>
    rw [State.abandon_of_idle (by simp [hst]), hst]
    simp
  | .load => exact absurd hst h
  | .run =>
    obtain ⟨u, -, e⟩ := State.abandon_of_running hst (by simp [State.slotBusy, hf])
    rw [e, State.slot_endSlot_same]
    exact .inl rfl
  | .saved =>
    have e : s.abandon i = s.endSlot i := by
      unfold State.abandon
      rw [hst]
    rw [e, State.slot_endSlot_same]
    exact .inl rfl

/-- Its abandonment leaves the other slots. -/
theorem State.slot_abandon_other (hf : s.hg.flight = []) (h : (s.slot i).st ≠ .load) (hj : j ≠ i) :
    (s.abandon i).slot j = s.slot j := by
  match hst : (s.slot i).st with
  | .free | .halt => rw [State.abandon_of_idle (by simp [hst])]
  | .load => exact absurd hst h
  | .run =>
    obtain ⟨u, hu, e⟩ := State.abandon_of_running hst (by simp [State.slotBusy, hf])
    rw [e, State.slot_endSlot_other hj, hu j hj]
  | .saved =>
    have e : s.abandon i = s.endSlot i := by
      unfold State.abandon
      rw [hst]
    rw [e, State.slot_endSlot_other hj]

/-- With nothing in flight, a slot that is FREE or halted is FREE once it is settled (R425). -/
theorem State.slot_settle_same (hf : s.hg.flight = []) (h : (s.slot i).st = .free ∨ (s.slot i).st = .halt) :
    ((s.settle i).slot i).st = .free := by
  obtain h | h := h
  · have e : s.settle i = s := by simp [State.settle, h]
    rw [e, h]
  · rw [State.settle_of_halted h (by simp [State.slotBusy, hf]), State.slot_endSlot_same]

theorem State.slot_settle_other (hj : j ≠ i) : (s.settle i).slot j = s.slot j := by
  unfold State.settle
  extract_lets x
  split
  · exact State.slot_endSlot_other hj
  · split
    · exact State.slot_endSlot_other hj
    · rfl

end

theorem State.Winds.flight_nil {s t : State} (h : s.Winds t) (hf : s.hg.flight = []) : t.hg.flight = [] :=
  List.subset_nil.mp (hf ▸ h.flight)

/-- Abandoning every slot of a node with nothing in flight and no slot in LOAD leaves each FREE or halted. -/
theorem State.slot_abandonAll {s : State} (hf : s.hg.flight = []) (h : ∀ i, (s.slot i).st ≠ .load) (i : Fin 16) :
    ((allSlots.foldl (fun s i => s.abandon i) s).slot i).st = .free ∨
      ((allSlots.foldl (fun s i => s.abandon i) s).slot i).st = .halt := by
  refine foldl_establishes (P := fun t : State => t.hg.flight = [] ∧ ∀ j, (t.slot j).st ≠ .load)
    (Q := fun t => (t.slot i).st = .free ∨ (t.slot i).st = .halt) (mem_allSlots i) (fun t j _ ⟨hf, h⟩ => ?keep)
    (fun t j _ ⟨hf, h⟩ ht => ?stay) (fun t ⟨hf, h⟩ => State.slot_abandon_same hf (h i)) ⟨hf, h⟩
  case keep =>
    refine ⟨(State.Winds.refl t).abandon.flight_nil hf, fun k => ?_⟩
    by_cases hk : k = j
    · rw [hk]
      rcases State.slot_abandon_same hf (h j) with e | e <;> simp [e]
    · rw [State.slot_abandon_other hf (h j) hk]
      exact h k
  case stay =>
    by_cases hi : i = j
    · rw [hi]
      exact State.slot_abandon_same hf (h j)
    · rwa [State.slot_abandon_other hf (h j) hi]

/-- Settling every slot of a node with nothing in flight and each FREE or halted leaves each FREE. -/
theorem State.slot_settleAll {s : State} (hf : s.hg.flight = []) (h : ∀ i, (s.slot i).st = .free ∨ (s.slot i).st = .halt)
    (i : Fin 16) : ((allSlots.foldl (fun s i => s.settle i) s).slot i).st = .free := by
  refine foldl_establishes (P := fun t : State => t.hg.flight = [] ∧ ∀ j, (t.slot j).st = .free ∨ (t.slot j).st = .halt)
    (Q := fun t => (t.slot i).st = .free) (mem_allSlots i) (fun t j _ ⟨hf, h⟩ => ?keep)
    (fun t j _ ⟨hf, h⟩ ht => ?stay) (fun t ⟨hf, h⟩ => State.slot_settle_same hf (h i)) ⟨hf, h⟩
  case keep =>
    refine ⟨(State.Winds.refl t).settle.flight_nil hf, fun k => ?_⟩
    by_cases hk : k = j
    · rw [hk]
      exact .inl (State.slot_settle_same hf (h j))
    · rw [State.slot_settle_other hk]
      exact h k
  case stay =>
    by_cases hi : i = j
    · rw [hi]
      exact State.slot_settle_same hf (h j)
    · rwa [State.slot_settle_other hi]

end Sys2Proof.Machine
end

section
/-! The loss of nodes (R495, R525, R527, R528, R533): what the snapshot unit keeps of its books as it discards, asks for and
rebuilds images, and the declaration as a whole. -/
namespace Sys2Proof.Machine
open Sys2Proof.Claims

/-- What is on record of the losses and of the rebuild after them. -/
structure Snap.Ledger where
  rb : RbSt
  target : BitVec 32
  durStore : BitVec 32
  lost : List (BitVec 12)
  lastLoss : BitVec 64

def Snap.ledger (x : Snap) : Snap.Ledger := ⟨x.rb, x.target, x.durStore, x.lost, x.lastLoss⟩

/-- `t` is `s` after work of the snapshot unit that left its ledger: the headgate, requests, the hall, the time unit and the
cut are as they were, and no pending event is lost. -/
structure State.Pages (s t : State) : Prop where
  hg : t.hg = s.hg
  rem : t.rem = s.rem
  hall : t.hall = s.hall
  tm : t.tm = s.tm
  cut : t.cut = s.cut
  pend : ∀ k, s.evt.pend.getLsbD k = true → t.evt.pend.getLsbD k = true
  ledger : t.snap.ledger = s.snap.ledger

namespace State.Pages
variable {s a b : State}

theorem refl (s : State) : s.Pages s := ⟨rfl, rfl, rfl, rfl, rfl, fun _ h => h, rfl⟩

theorem trans (h : s.Pages a) (k : a.Pages b) : s.Pages b where
  hg := k.hg.trans h.hg
  rem := k.rem.trans h.rem
  hall := k.hall.trans h.hall
  tm := k.tm.trans h.tm
  cut := k.cut.trans h.cut
  pend x hx := k.pend x (h.pend x hx)
  ledger := k.ledger.trans h.ledger

/-- Whatever the snapshots become that leaves the ledger, on both sides. -/
theorem setSnap (h : s.Pages a) {x y : Snap} (hxy : y.ledger = x.ledger) : { s with snap := x }.Pages { a with snap := y } :=
  ⟨h.hg, h.rem, h.hall, h.tm, h.cut, h.pend, hxy⟩

theorem snap (h : s.Pages a) {x : Snap} (hx : x.ledger = a.snap.ledger := by rfl) :
    s.Pages { a with snap := x } :=
  h.trans ⟨rfl, rfl, rfl, rfl, rfl, fun _ h => h, hx⟩

/-- The ledgers stay equal with another state and target of the rebuild. -/
theorem ledgerWith (h : s.Pages a) (rb : RbSt) (target : BitVec 32) :
    ({ a.snap with rb := rb, target := target } : Snap).ledger = { s.snap with rb := rb, target := target }.ledger :=
  congrArg (fun x : Snap.Ledger => { x with rb := rb, target := target }) h.ledger

theorem notes (h : s.Pages a) (n : a.Notes b) : s.Pages b := by
  obtain ⟨_, _, _, _, rfl, -, -, -, hpend, -⟩ := n
  exact h.trans ⟨rfl, rfl, rfl, rfl, rfl, hpend, rfl⟩

theorem passes (h : s.Pages a) (n : a.Passes b) : s.Pages b := by
  obtain ⟨_, _, _, rfl⟩ := n
  exact h.trans ⟨rfl, rfl, rfl, rfl, rfl, fun _ h => h, rfl⟩

theorem ite {c : Prop} [Decidable c] (h : s.Pages a) (k : s.Pages b) : s.Pages (if c then a else b) := by
  split <;> assumption

theorem foldl {α : Type} {f : State → α → State} {l : List α} (h : s.Pages a)
    (hf : ∀ {b x}, s.Pages b → s.Pages (f b x)) : s.Pages (l.foldl f a) :=
  List.foldlRecOn l f h fun _ hb _ _ => hf hb

theorem raise (h : s.Pages a) {e w x y z} : s.Pages (a.raise e w x y z) := h.notes (a.raise_notes ..)

theorem setBuf (h : s.Pages a) {b x} : s.Pages (a.setBuf b x) := h.snap

theorem dropPages (h : s.Pages a) : s.Pages a.dropPages := h.foldl fun h => .ite (h.setBuf.snap) h

theorem hostPages (h : s.Pages a) : s.Pages a.hostPages := h.setBuf.snap

theorem askLost (h : s.Pages a) : s.Pages a.askLost := by
  refine .ite h ?_
  dsimp only
  exact (h.hostPages.snap).raise

theorem askLoad (h : s.Pages a) {snum} : s.Pages (a.askLoad snum) := by
  unfold State.askLoad
  split
  · exact h
  · exact h.setBuf.raise

end State.Pages

/-- Snapshots that are newer are discarded in the snapshot unit alone, and its ledger stays (R527, R528). -/
theorem State.discardNewer_shape (s : State) (r : BitVec 32) :
    ∃ x, s.discardNewer r = { s with snap := x } ∧ x.ledger = s.snap.ledger := by
  unfold State.discardNewer
  extract_lets a held tick
  have ha : ∃ x, a = { s with snap := x } ∧ x.ledger = s.snap.ledger := by
    refine List.foldlRecOn (motive := fun t : State => ∃ x, t = { s with snap := x } ∧ x.ledger = s.snap.ledger) _ _
      ⟨_, rfl, rfl⟩ fun t ht b _ => ?_
    split
    · obtain ⟨x, rfl, hx⟩ := ht
      exact ⟨_, rfl, hx⟩
    · exact ht
  obtain ⟨x, ha, hx⟩ := ha
  clear_value a
  subst ha
  exact ⟨_, rfl, hx⟩

theorem State.Pages.discardNewer {s a : State} (h : s.Pages a) {r} : s.Pages (a.discardNewer r) := by
  obtain ⟨x, e, hx⟩ := a.discardNewer_shape r
  rw [e]
  exact h.snap hx

/-- The loss enters the history with the tick, and what its change sends to other nodes (R525). -/
theorem State.lossHistory_pages {s : State} (hr : Roomy s (s.others.length + 1)) :
    { s with snap := { s.snap with lastLoss := s.tm.tick } }.Pages s.lossHistory := by
  have changed (u : State) (hu : Roomy u (u.others.length + 1)) : u.Pages u.historyChanged := by
    unfold State.historyChanged
    extract_lets v to_
    have hlen : to_.length ≤ u.others.length + 1 := by
      dsimp only [to_]
      split
      · exact Nat.le_succ _
      · exact Nat.le_of_eq (List.length_cons ..)
    exact (State.Pages.snap (.refl u)).passes
      (State.foldl_sluiceTo_tells (s := v) (Roomy.mono hu hlen) fun s n => .history n s.snap.costs s.snap.intervals).passes
  unfold State.lossHistory
  dsimp only
  refine .ite (.refl _) (.ite (changed _ hr) (.trans (.snap (.refl _)) (changed _ hr)))

/-- A fallback that a loss brings: to the newest snapshot in the store, where there is one (R533). -/
theorem State.fallback_spec (s : State) : ∃ x : Snap, { s with snap := x }.Pages s.fallback ∧ x.rb ≠ .idle ∧
    x.target ∈ [s.snap.target, s.snap.durStore] ∧ x.lost = s.snap.lost ∧ x.lastLoss = s.snap.lastLoss := by
  unfold State.fallback
  split
  · exact ⟨{ s.snap with rb := .lost }, .refl _, nofun, List.mem_cons_self, rfl, rfl⟩
  · extract_lets r a _ b
    have ha : s.Pages a := (State.Pages.refl s).discardNewer
    have hb : { s with snap := { s.snap with rb := .fallback, target := r } }.Pages b := ha.setSnap (ha.ledgerWith _ _)
    refine ⟨{ s.snap with rb := .fallback, target := r }, ?_, nofun, by simp [r], rfl, rfl⟩
    split
    · exact hb.askLost
    · exact .askLoad (.snap hb)

/-- A loss sets the rebuild going, from the snapshot with parity or in a fallback (R528, R529, R533). -/
theorem State.startRebuild_spec (s : State) (r : BitVec 32) (worse : Bool) : ∃ x : Snap,
    { s with snap := x }.Pages (s.startRebuild r worse) ∧ x.rb ≠ .idle ∧
    x.target ∈ [s.snap.target, s.snap.durStore] ∧ x.lost = s.snap.lost ∧ x.lastLoss = s.snap.lastLoss := by
  unfold State.startRebuild
  split
  · obtain ⟨x, hx, hrb, htarget, hlost, hlast⟩ := s.dropPages.fallback_spec
    have hdrop := (State.Pages.refl s).dropPages
    obtain ⟨-, ht, hd, hl, hla⟩ := Snap.Ledger.mk.inj hdrop.ledger
    rw [ht, hd] at htarget
    exact ⟨x, (hdrop.setSnap rfl).trans hx, hrb, htarget, hlost.trans hl, hlast.trans hla⟩
  · have hhost := (State.Pages.refl s).hostPages
    exact ⟨{ s.snap with rb := .running }, hhost.setSnap (hhost.ledgerWith .running s.snap.target), nofun,
      List.mem_cons_self, rfl, rfl⟩

-- The declaration.

theorem mem_foldl_snoc {α : Type} [DecidableEq α] {n : α} {l known : List α} :
    n ∈ l.foldl (fun l n => if l.contains n then l else l ++ [n]) known ↔ n ∈ l ∨ n ∈ known := by
  induction l generalizing known with
  | nil => simp
  | cons a l ih =>
    rw [List.foldl_cons, ih, List.mem_cons]
    split
    · next h =>
      have ha : a ∈ known := by simpa using h
      constructor
      · tauto
      · rintro ((rfl | h) | h) <;> tauto
    · simp only [List.mem_append, List.mem_singleton]
      tauto

/-- The engine with nodes on record as lost, and the snapshot that the rebuild goes back to. -/
def State.withLost (s : State) (lost : List (BitVec 12)) (r : BitVec 32) : State :=
  { s.loseNodes lost.contains with snap := { s.snap with
    lost := lost.foldl (fun l n => if l.contains n then l else l ++ [n]) s.snap.lost, target := r } }

/-- The first loss of a node that rebuilds nothing yet: back to the newest snapshot with parity (R528). -/
theorem State.lossDeclared_of_first {s : State} (lost : List (BitVec 12)) (hrun : s.snap.rb ≠ .running)
    (hfall : s.snap.rb ≠ .fallback) : s.lossDeclared lost
      = (((((s.withLost lost s.snap.durPar).raiseRebuild 0 s.snap.durPar).dropWork lost).discardNewer
          s.snap.durPar).lossHistory).startRebuild s.snap.durPar false := by
  have hidle : s.rebuilding = false := by simp [State.rebuilding, hrun, hfall]
  have hsnap : (s.loseNodes lost.contains).snap = s.snap := by
    obtain ⟨-, -, -, -, -, h, -⟩ := ((State.Cuts.refl s).loseNodes (lost := lost.contains)).same
    exact h
  have hworse : (s.snap.rb == .running && s.holderLost lost) = false := by simp [hrun]
  unfold State.lossDeclared State.withLost
  dsimp only
  rw [hidle, hsnap, hworse]
  rfl

/-- The node's work once it stopped for the rebuild (R495, R527). -/
structure State.StoppedFor (s : State) (lost : List (BitVec 12)) (u : State) : Prop where
  hall : u.hall = s.hall
  tm : u.tm = s.tm
  ports : u.ports = s.ports
  cut : u.cut = (s.loseNodes lost.contains).cut
  snap : u.snap = (s.withLost lost s.snap.durPar).snap
  pend : ∀ k, (s.loseNodes lost.contains).evt.pend.getLsbD k = true → u.evt.pend.getLsbD k = true
  rebuild : u.evt.pend.getLsbD 16 = true
  free : ∀ i, (u.slot i).st = .free
  held : u.rem.heldReq = []
  reads : u.rem.reads = []
  unacked : ∀ q ∈ u.rem.unacked, q.f.dst ∉ lost ∧ ∃ q' ∈ s.rem.unacked, q'.f = q.f ∧ q'.slot = q.slot

theorem State.stoppedFor (s : State) (lost : List (BitVec 12)) : s.StoppedFor lost
    (((s.withLost lost s.snap.durPar).raiseRebuild 0 s.snap.durPar).dropWork lost) := by
  obtain ⟨-, htm, hhall, hports, hrem, -⟩ := ((State.Cuts.refl s).loseNodes (lost := lost.contains)).same
  have hraised : ((s.withLost lost s.snap.durPar).raiseRebuild 0 s.snap.durPar).evt.pend.getLsbD 16 = true :=
    State.raise_pend _ .rebuild ..
  have hnotes : (s.withLost lost s.snap.durPar).Notes ((s.withLost lost s.snap.durPar).raiseRebuild 0 s.snap.durPar) :=
    State.raise_notes ..
  generalize (s.withLost lost s.snap.durPar).raiseRebuild 0 s.snap.durPar = a at hraised hnotes
  obtain ⟨hends, hpend, hfree, hheld, hreads, hunacked⟩ := a.dropWork_spec lost
  generalize a.dropWork lost = u at *
  obtain ⟨_, _, _, _, rfl, -, -, -, hnoted, -⟩ := hnotes
  obtain ⟨_, _, _, _, _, _, _, _, rfl⟩ := hends
  exact {
    hall := hhall, tm := htm, ports := hports, cut := rfl, snap := rfl
    pend := fun k hk => hpend k (hnoted k hk)
    rebuild := hpend 16 hraised
    free := hfree, held := hheld, reads := hreads
    unacked := fun q hq => hrem ▸ hunacked q hq }

/-- The snapshot unit after a loss (R525, R528, R529, R533). -/
theorem State.afterLoss_spec {u : State} (hr : Roomy u (u.others.length + 1)) (r : BitVec 32) (worse : Bool) : ∃ x : Snap,
    { u with snap := x }.Pages ((u.discardNewer r).lossHistory.startRebuild r worse) ∧ x.rb ≠ .idle ∧
    x.target ∈ [u.snap.target, u.snap.durStore] ∧ x.lost = u.snap.lost ∧ x.lastLoss = u.tm.tick := by
  obtain ⟨y, e, hy⟩ := u.discardNewer_shape r
  rw [e]
  have hpages := State.lossHistory_pages (s := { u with snap := y }) hr
  obtain ⟨x, hx, hrb, htarget, hlost, hlast⟩ := State.startRebuild_spec (State.lossHistory { u with snap := y }) r worse
  obtain ⟨-, ht, hd, hl, hla⟩ := Snap.Ledger.mk.inj hpages.ledger
  obtain ⟨-, ht', hd', hl', -⟩ := Snap.Ledger.mk.inj hy
  rw [ht, hd] at htarget
  exact ⟨x, (hpages.setSnap rfl).trans hx, hrb, by rw [← ht', ← hd']; exact htarget, hlost.trans (hl.trans hl'),
    hlast.trans hla⟩

/-- A declaration of lost nodes (R495, R525, R527, R528). -/
theorem execLossDeclaration_spec {s : State} {lost : List (BitVec 12)} (hne : lost ≠ []) (hcont : s.hall.cont = true)
    (hrun : s.snap.rb ≠ .running) (hfall : s.snap.rb ≠ .fallback) (hr : Roomy s (s.others.length + 1)) :
    ∃ t, execLossDeclaration lost s = .next t ∧ t.evt.pend.getLsbD 16 = true ∧
      (∀ i, (t.slot i).st = .free) ∧ (∀ n, n ∈ t.snap.lost ↔ n ∈ lost ∨ n ∈ s.snap.lost) ∧
      t.snap.target ∈ [s.snap.durPar, s.snap.durStore] ∧ t.rem.heldReq = [] ∧ t.rem.reads = [] ∧
      (∀ q ∈ t.rem.unacked, q.f.dst ∉ lost ∧ ∃ q' ∈ s.rem.unacked, q'.f = q.f ∧ q'.slot = q.slot) ∧
      (s.cut.st = .localDone → (∃ n ∈ s.hall.ofPart, n ≠ s.hall.nid ∧ n ∈ lost) →
        t.cut.st = .abandoned ∧ t.evt.pend.getLsbD 19 = true) ∧
      t.snap.rb ≠ .idle ∧ t.hall = s.hall ∧ t.tm = s.tm ∧ t.snap.lastLoss = s.tm.tick := by
  have hdeclared : ¬(lost = [] ∨ (!s.hall.cont) = true) := by simp [hne, hcont]
  have hexec : execLossDeclaration lost s = .next (s.lossDeclared lost) := by
    unfold execLossDeclaration
    rw [State.sweep_of_counting (counting_of_roomy hr)]
    exact congrArg Host.Outcome.next (if_neg hdeclared)
  have hstop := s.stoppedFor lost
  rw [hexec, State.lossDeclared_of_first lost hrun hfall]
  generalize ((s.withLost lost s.snap.durPar).raiseRebuild 0 s.snap.durPar).dropWork lost = u at *
  have hroom : Roomy u (u.others.length + 1) := by
    rw [State.others, hstop.hall]
    intro p
    rw [State.port, hstop.ports]
    exact hr p
  obtain ⟨x, hpages, hrb, htarget, hlost, hlast⟩ := State.afterLoss_spec hroom s.snap.durPar false
  generalize (u.discardNewer s.snap.durPar).lossHistory.startRebuild s.snap.durPar false = t at *
  obtain ⟨hhg, hrem, hhall, htm, hcut, hpend, hledger⟩ := hpages
  obtain ⟨hrb', htarget', -, hlost', hlast'⟩ := Snap.Ledger.mk.inj hledger
  refine ⟨t, rfl, hpend 16 hstop.rebuild, fun i => ?free, fun n => ?lost, ?target, by rw [hrem, hstop.held],
    by rw [hrem, hstop.reads], fun q hq => hstop.unacked q (hrem ▸ hq), fun hd hl => ?cut, fun h => hrb (hrb'.symm.trans h),
    hhall.trans hstop.hall, htm.trans hstop.tm, by rw [hlast', hlast, hstop.tm]⟩
  case free =>
    rw [State.slot, hhg]
    exact hstop.free i
  case lost =>
    rw [hlost', hlost, hstop.snap]
    exact mem_foldl_snoc
  case target =>
    rw [hstop.snap] at htarget
    rw [htarget']
    exact htarget
  case cut =>
    have hlose := State.loseNodes_of_done (lost := lost.contains) hd (by simpa using hl)
    refine ⟨?_, hpend 19 (hstop.pend 19 ?_)⟩
    · rw [hcut, hstop.cut, hlose, State.cut_abandonCut]
    · rw [hlose]
      exact s.pend_abandonCut

/-- No nodes, or a node of a part that is frozen. -/
theorem execLossDeclaration_of_none {s : State} {lost : List (BitVec 12)} (hc : Counting s)
    (h : lost = [] ∨ s.hall.cont = false) : execLossDeclaration lost s = .next s := by
  unfold execLossDeclaration
  rw [State.sweep_of_counting hc]
  exact congrArg Host.Outcome.next (if_pos (by simpa using h))

end Sys2Proof.Machine
end

section
/-! REJOIN (R503, R505): a node that was frozen or restarted comes back with its parent's count and nothing of its work. -/
namespace Sys2Proof.Machine
open Sys2Proof.Claims

/-- A node that was no root becomes it where it is the acting manager, and has LOCK then (R481, R485). -/
theorem State.setRoot_of_not_root {s : State} (hroot : s.tm.root = false) (hlock : s.tm.lock = false)
    (part : List (BitVec 12)) : ∃ x : TimeUnit, s.setRoot part true = { s with tm := x } ∧ x.tick = s.tm.tick ∧
      x.stepped = s.tm.stepped ∧ (x.root = true ↔ s.hall.actMgr = s.hall.nid) ∧ x.lock = x.root := by
  by_cases hm : s.hall.actMgr = s.hall.nid
  · exact ⟨_, State.setRoot_of_manager hm part, rfl, rfl, iff_of_true rfl hm, rfl⟩
  · exact ⟨s.tm, State.setRoot_of_child hm hroot part, rfl, rfl, iff_of_false (by simp [hroot]) hm,
      hlock.trans hroot.symm⟩

/-- A set takes effect on a node whose cut runs and that was no root (R485, R498). -/
theorem State.takeOffer_of_run {v : State} (h : v.OfferStands) (hrun : v.cut.st = .run) (hroot : v.tm.root = false)
    (hlock : v.tm.lock = false) : ∃ x : TimeUnit, v.takeOffer = { v with hall := v.hall.under, tm := x } ∧
      x.tick = v.tm.tick ∧ x.stepped = v.tm.stepped ∧ (x.root = true ↔ v.hall.under.actMgr = v.hall.nid) ∧
      x.lock = x.root := by
  obtain ⟨x, e, hx⟩ := State.setRoot_of_not_root
    (s := { v with hall := v.hall.under, tm := { v.tm with joining := false } }) hroot hlock v.hall.under.part
  refine ⟨x, ?_, hx⟩
  rw [State.takeOffer_of_stands h, State.underOffer, State.loseNodes_of_run hrun, e]
  exact State.tryCommit_of_not_done (by simp [hrun])

/-- The engine with its slots abandoned and settled, and what it held for others discarded (R503). -/
def State.emptied (s : State) : State :=
  allSlots.foldl (fun s i => s.settle i) (allSlots.foldl (fun s i => s.abandon i) s).discardHeld

/-- What a node's work leaves as the node rejoins. -/
theorem State.emptied_spec (s : State) : s.Ends s.emptied ∧ s.emptied.rem.heldReq = [] ∧ s.emptied.rem.frozen = [] ∧
    (s.hg.flight = [] → (∀ i, (s.slot i).st ≠ .load) → ∀ i, (s.emptied.slot i).st = .free) := by
  have habandon : s.Winds (allSlots.foldl (fun s i => s.abandon i) s) := (State.Winds.refl s).foldl fun h => h.abandon
  have hslots := s.slot_abandonAll
  unfold State.emptied
  generalize allSlots.foldl (fun s i => s.abandon i) s = a at *
  have hsettle : a.discardHeld.Winds (allSlots.foldl (fun s i => s.settle i) a.discardHeld) :=
    (State.Winds.refl a.discardHeld).foldl fun h => h.settle
  refine ⟨?_, hsettle.held rfl, hsettle.frozen, fun hf h => ?_⟩
  · obtain ⟨_, _, _, _, _, _, _, _, rfl⟩ := habandon.ends
    obtain ⟨_, _, _, _, _, _, _, _, e⟩ := hsettle.ends
    rw [e]
    exact ⟨_, _, _, _, _, _, _, _, rfl⟩
  · have hidle : a.discardHeld.hg.flight = [] := congrArg (List.filter _) (habandon.flight_nil hf)
    exact State.slot_settleAll hidle (hslots hf h)

/-- A node alone, or one that is not frozen, does not rejoin. -/
theorem execRejoin_of_none {s : State} (hc : Counting s) (h : s.hall.single = true ∨ s.hall.cont = true)
    (count : BitVec 64) (lost : List (BitVec 12)) : execRejoin count s lost = .next s := by
  unfold execRejoin
  rw [State.sweep_of_counting hc]
  exact congrArg Host.Outcome.next (if_pos h)

/-- What a node that rejoins is, before it takes an offered set (R503, R504). -/
theorem execRejoin_of_frozen {s : State} (hc : Counting s) (hsingle : s.hall.single = false) (hcont : s.hall.cont = false)
    (count : BitVec 64) (lost : List (BitVec 12)) :
    ∃ v : State, execRejoin count s lost = .next v.takeOffer ∧ v.hall = { s.hall with cont := true, evald := [] } ∧
      v.cut.st = .run ∧ v.tm.tick = count ∧ v.tm.stepped = true ∧ v.tm.joining = false ∧ v.tm.root = false ∧
      v.tm.lock = false ∧ v.snap = { s.snap.emptied with lost := lost } ∧ v.rem.heldReq = [] ∧ v.rem.frozen = [] ∧
      (s.hg.flight = [] → (∀ i, (s.slot i).st ≠ .load) → ∀ i, (v.slot i).st = .free) := by
  have hrejoins : ¬(s.hall.single = true ∨ s.hall.cont = true) := by simp [hsingle, hcont]
  have hwaits : s.Winds (s.setWaits []) := (State.Winds.refl s).setWaits
  have hslots : (s.setWaits []).hg.slots = s.hg.slots := ((State.Spares.refl s).setWaits).slots
  unfold execRejoin
  rw [State.sweep_of_counting hc]
  extract_lets s0 w x loaded a u
  obtain ⟨p, n, e⟩ := State.chooseParent_shape { u with
    snap := { u.snap.emptied with lost := lost }, cut := u.cut.clear .run, hall := { u.hall with cont := true, evald := [] } }
  refine ⟨_, congrArg Host.Outcome.next ((if_neg hrejoins).trans (congrArg State.takeOffer e)), ?_⟩
  have hu : loaded.emptied = u := rfl
  obtain ⟨hends, hheld, hfrozen, hfree⟩ := loaded.emptied_spec
  rw [hu] at hends hheld hfrozen hfree
  clear_value u
  clear e
  have hidle (hf : s.hg.flight = []) : loaded.hg.flight = [] := hwaits.flight_nil hf
  have hslot (i : Fin 16) : loaded.slot i = s.slot i := congrArg (·[i]) hslots
  obtain ⟨hhall, hsnap, htm⟩ : loaded.hall = s.hall ∧ loaded.snap = s.snap ∧ loaded.tm = { w.tm with
      tick := count, stepped := true, joining := false, slew := 0, lock := false, root := false, good := 0, bad := 0 } := by
    obtain ⟨_, _, _, _, _, _, _, _, hw⟩ := hwaits.ends
    exact ⟨(congrArg State.hall hw).trans rfl, (congrArg State.snap hw).trans rfl, rfl⟩
  clear_value loaded
  obtain ⟨_, _, _, _, _, _, _, _, rfl⟩ := hends
  dsimp only at *
  rw [hhall, hsnap, htm]
  exact ⟨rfl, rfl, rfl, rfl, rfl, rfl, rfl, rfl, hheld, hfrozen, fun hf h => hfree (hidle hf) fun i => by rw [hslot]; exact h i⟩

end Sys2Proof.Machine
end

section
/-! Partitions, offered live sets, losses and rejoining: the statement as a whole. -/
namespace Sys2Proof.Machine
open Sys2Proof.Claims

/-- A node that rejoins steps its count, has nothing of its work, and takes the set that it was offered where every node of it
acknowledged (R498, R503, R504). -/
theorem execRejoin_spec {s : State} (hc : Counting s) (hsingle : s.hall.single = false) (hcont : s.hall.cont = false)
    (count : BitVec 64) (lost : List (BitVec 12)) :
    let takes := s.hall.offer ≠ [] ∧ ∀ n ∈ s.hall.offer, n = s.hall.nid ∨ n ∈ s.hall.acks
    ∃ t, execRejoin count s lost = .next t ∧ t.tm.tick = count ∧ t.tm.stepped = true ∧ t.cut.st = .run ∧
      (takes → t.hall = s.hall.under ∧ (t.tm.root = true ↔ s.hall.under.actMgr = s.hall.nid) ∧ t.tm.lock = t.tm.root) ∧
      (¬takes → t.hall = { s.hall with cont := true, evald := [] } ∧ t.tm.root = false ∧ t.tm.lock = false) ∧
      t.snap.lost = lost ∧
      t.snap.rb = .idle ∧ (∀ b : Fin 2, t.snap.buf[b] = .empty) ∧ t.rem.heldReq = [] ∧ t.rem.frozen = [] ∧
      (s.hg.flight = [] → s.hg.loading = none → (∀ i, (s.slot i).st ≠ .load) → ∀ i, (t.slot i).st = .free) := by
  intro takes
  obtain ⟨v, hexec, hhall, hrun, htick, hstepped, hjoining, hroot, hlock, hsnap, hheld, hfrozen, hfree⟩ :=
    execRejoin_of_frozen hc hsingle hcont count lost
  have hlost : v.snap.lost = lost := by rw [hsnap]
  have hidle : v.snap.rb = .idle := by rw [hsnap]; rfl
  have hempty (b : Fin 2) : v.snap.buf[b] = .empty := by
    rw [hsnap]
    exact Vector.getElem_replicate b.isLt
  have hstands : v.OfferStands ↔ takes := by
    have hoffer : v.hall.offer = s.hall.offer := by rw [hhall]
    constructor
    · rintro ⟨hne, -, -, hall⟩
      rw [Hall.Acknowledged, hhall] at hall
      exact ⟨hoffer ▸ hne, hall⟩
    · rintro ⟨hne, hall⟩
      refine ⟨hoffer ▸ hne, by simp [hrun], .inl hjoining, ?_⟩
      rw [Hall.Acknowledged, hhall]
      exact hall
  by_cases h : takes
  · obtain ⟨x, htake, hxtick, hxstepped, hxroot, hxlock⟩ := State.takeOffer_of_run (hstands.mpr h) hrun hroot hlock
    have hunder : v.hall.under = s.hall.under := by rw [hhall]; rfl
    have hnid : v.hall.nid = s.hall.nid := by rw [hhall]
    rw [hunder, hnid] at hxroot
    refine ⟨_, hexec, ?_⟩
    rw [htake]
    exact ⟨hxtick.trans htick, hxstepped.trans hstepped, hrun, fun _ => ⟨hunder, hxroot, hxlock⟩, fun hn => absurd h hn,
      hlost, hidle, hempty, hheld, hfrozen, fun hf _ hl => hfree hf hl⟩
  · refine ⟨_, hexec, ?_⟩
    rw [State.takeOffer_of_not_stands (mt hstands.mp h)]
    exact ⟨htick, hstepped, hrun, fun ht => absurd ht h, fun _ => ⟨hhall, hroot, hlock⟩, hlost, hidle, hempty, hheld, hfrozen,
      fun hf _ hl => hfree hf hl⟩

/-- What the evaluation of a node with a part of the whole live set leaves (R481, R485, R498, R503). -/
theorem execPartitionEvaluation_whole_spec {s : State} (near : Bool) (hlive : s.hall.nid ∈ s.hall.live)
    (hruns : s.cut.st ≠ .partFrozen) (hwhole : s.hall.live.length ≤ s.hall.part.length)
    (hr : Roomy s (s.hall.part ++ s.hall.admissible s.hall.part).length) :
    let part := s.hall.part
    let m := s.hall.manager part true
    let new := s.hall.admissible part
    ∃ t, execPartitionEvaluation s near = .next t ∧
      t = { s with
        hall := { s.hall with evald := part, actMgr := m }
        tm := t.tm, ports := t.ports, obs := t.obs, out := { s.out with links := t.out.links } } ∧
      t.tm.tick = s.tm.tick ∧
      (m = s.hall.nid → t.tm.root = true ∧ t.tm.lock = true) ∧
      (m ≠ s.hall.nid → t.tm.root = false ∧ (s.tm.root = false → t.tm = s.tm) ∧ (s.tm.root = true → t.tm.lock = false)) ∧
      (new = [] ∨ s.hall.cont = false ∨ m ≠ s.hall.nid → t.ports = s.ports ∧ t.out = s.out ∧ t.obs = s.obs) ∧
      (new ≠ [] → s.hall.cont = true → m = s.hall.nid →
        ∀ n ∈ part ++ new, n ≠ s.hall.nid → ∀ o g, s.route { dst := n } = .out o g →
          .sluice o (.liveSet (s.hall.live ++ new)) s.stamp ∈ t.out.links) := by
  intro part m new
  obtain ⟨x, e, htick, hmanager, hchild⟩ := s.knowPart_spec part
  have hexec := execPartitionEvaluation_of_whole near (counting_of_roomy hr) hlive hruns hwhole
  rw [e] at hexec
  have hpasses := (State.offerSet_tells (s := { s with hall := s.hall.knowing part, tm := x }) hr).passes
  refine ⟨_, hexec, ?_, ?_, ?_, ?_, fun hnone => ?none, fun hnew hcont hm n hn hne o g hroute => ?sent⟩
  case none =>
    rw [State.offerSet_of_none (s := { s with hall := s.hall.knowing part, tm := x }) hnone]
    exact ⟨rfl, rfl, rfl⟩
  case sent =>
    rw [State.offerSet_of_new (s := { s with hall := s.hall.knowing part, tm := x }) hnew hcont hm]
    have hstamp : State.stamp { s with hall := s.hall.knowing part, tm := x } = s.stamp := by
      simp only [State.stamp, htick]
    rw [← hstamp]
    exact State.tell_sent (s := { s with hall := s.hall.knowing part, tm := x }) hr _ hn hne (g := g) hroute
  all_goals
    obtain ⟨_, _, _, e⟩ := hpasses
    rw [e]
  · rfl
  · exact htick
  · exact hmanager
  · exact hchild

/-- Settles O49: each command by what its specification says of the case. -/
theorem hallMembership : Obligations.HallMembership := by
  unfold Obligations.HallMembership
  intro s hc part m new
  refine ⟨fun near h => execPartitionEvaluation_of_idle hc h,
    fun near hlive hruns hwhole hr => execPartitionEvaluation_whole_spec near hlive hruns hwhole hr,
    fun near h hlive => execPartitionEvaluation_cut_off_spec hc h hlive,
    fun set acked hsingle hself => execLiveSetChange_spec acked hc hsingle hself,
    fun set acked h => execLiveSetChange_of_none acked hc h,
    fun lost hne hcont hrun hfall hr => execLossDeclaration_spec hne hcont hrun hfall hr,
    fun lost h => execLossDeclaration_of_none hc h,
    fun count lost h => execRejoin_of_none hc h count lost,
    fun count lost hsingle hcont => execRejoin_spec hc hsingle hcont count lost⟩

end Sys2Proof.Machine
end

section
/-! The step, and the registers of events and of the trace ring (R3, R591, R592, R603, R614). -/
namespace Sys2Proof.Machine
open Sys2Proof.Claims

/-- Settles O1: the queue's front is what the step's match takes. -/
theorem stepRunsFront : Obligations.StepRunsFront := by
  unfold Obligations.StepRunsFront
  intro s c r h
  rw [step, h]

-- Commands that write one field of a register.

theorem State.write64_of_not_held {off : Nat} (h : heldInDeep off = false) (s : State) (v : Nat) :
    s.write64 off v = answered (s.writeNow off (writeOf none (BitVec.ofNat 64 v))) :=
  s.write_none_of_not_held h _

theorem toNat_ofNat_toNat {n : Nat} (h : n ≤ 64) (b : BitVec n) : (BitVec.ofNat 64 b.toNat).toNat = b.toNat :=
  (BitVec.toNat_ofNat ..).trans (Nat.mod_eq_of_lt (b.isLt.trans_le (Nat.pow_le_pow_right (by decide) h)))

theorem setWidth_ofNat_toNat {n : Nat} (h : n ≤ 64) (b : BitVec n) : (BitVec.ofNat 64 b.toNat).setWidth n = b := by
  apply BitVec.eq_of_toNat_eq
  rw [BitVec.toNat_setWidth, toNat_ofNat_toNat h, Nat.mod_eq_of_lt b.isLt]

theorem fld_ofNat_toNat {n : Nat} (h : n ≤ 64) (b : BitVec n) : fld (BitVec.ofNat 64 b.toNat).toNat 0 n = b.toNat := by
  rw [fld, toNat_ofNat_toNat h, Nat.shiftRight_zero, Nat.mod_eq_of_lt b.isLt]

theorem exec_eventClear (b : BitVec 26) (s : State) :
    exec (.eventClear b) s = .next (answered { s with evt := { s.evt with pend := s.evt.pend &&& ~~~b } }) := by
  change Host.Outcome.next (s.write64 0x200 b.toNat) = _
  rw [State.write64_of_not_held rfl]
  change Host.Outcome.next (answered { s with evt := { s.evt with
    pend := s.evt.pend &&& ~~~(BitVec.ofNat 64 b.toNat &&& BitVec.allOnes 64 &&& BitVec.allOnes 64).setWidth 26 } }) = _
  rw [BitVec.and_allOnes, BitVec.and_allOnes, setWidth_ofNat_toNat (by decide)]

theorem exec_maskWrite (b : BitVec 26) (s : State) :
    exec (.maskWrite b) s = .next (answered { s with evt := { s.evt with mask := b } }) := by
  change Host.Outcome.next (s.write64 0x208 b.toNat) = _
  rw [State.write64_of_not_held rfl]
  change Host.Outcome.next (answered { s with evt := { s.evt with
    mask := BitVec.ofNat 26 ((writeOf none (BitVec.ofNat 64 b.toNat)).get 0 26 s.evt.mask.toNat) } }) = _
  rw [Wr.get_writeOf_none, fld_ofNat_toNat (by decide), BitVec.ofNat_toNat, BitVec.setWidth_eq]

theorem exec_traceRdWrite (r : BitVec 40) (s : State) :
    exec (.traceRdWrite r) s = .next (answered (s.setTraceRd r.toNat)) := by
  change Host.Outcome.next (s.write64 0xB20 r.toNat) = _
  rw [State.write64_of_not_held rfl]
  change Host.Outcome.next (answered (s.setTraceRd
    ((writeOf none (BitVec.ofNat 64 r.toNat)).get 0 40 s.tr.rd.toNat))) = _
  rw [Wr.get_writeOf_none, fld_ofNat_toNat (by decide)]

-- The trace ring's indices and its count of lost records.

theorem State.setTraceRd_of_outside {s : State} {r : Nat}
    (h : s.tr.wr.toNat < r ∨ r + 2048 * s.tr.live.size.toNat < s.tr.wr.toNat) : s.setTraceRd r = s := if_pos h

theorem State.setTraceRd_of_inside {s : State} {r : BitVec 40}
    (h : r.toNat ≤ s.tr.wr.toNat ∧ s.tr.wr.toNat ≤ r.toNat + 2048 * s.tr.live.size.toNat) :
    s.setTraceRd r.toNat = { s with tr := { s.tr with rd := r } } := by
  rw [State.setTraceRd, if_neg (by unfold TraceRegs.records; omega), BitVec.ofNat_toNat, BitVec.setWidth_eq]

/-- A commit that places the ring afresh sets its indices to zero (R598, R614). -/
theorem State.commit_of_moved {s : State} (h : s.commitBad = false)
    (hm : s.tr.pend.base ≠ s.tr.live.base ∨ s.tr.pend.size ≠ s.tr.live.size) : s.commit = { s with
      stw := { s.stw with set := some s.stw.pend }, tr := { s.tr with live := s.tr.pend, wr := 0, rd := 0 } } := by
  have hmoved : (s.tr.pend.base != s.tr.live.base || s.tr.pend.size != s.tr.live.size) = true := by
    simpa using hm
  rw [State.commit, h, if_neg Bool.false_ne_true]
  dsimp only
  rw [if_pos hmoved]

/-- A count of 32 bits lies in the lower half of its register (R3). -/
theorem halfOf_lower (v : BitVec 32) : halfOf (some false) (v.setWidth 64) = v.setWidth 64 := by
  simp [halfOf]

theorem halfOf_upper (v : BitVec 32) : halfOf (some true) (v.setWidth 64) = 0 := by
  apply BitVec.eq_of_toNat_eq
  simp [halfOf, Nat.shiftRight_eq_div_pow]
  omega

/-- Settles O29: each command by the write or read that it is. -/
theorem eventAndTraceRegisters : Obligations.EventAndTraceRegisters := by
  unfold Obligations.EventAndTraceRegisters
  intro b r s
  refine ⟨exec_eventClear b s, exec_maskWrite b s, fun h => ?_, fun h => ?_,
    fun ha hb hm => ⟨_, exec_go_of_awake ha, ?_⟩, fun half h => ?_, ?_⟩
  · rw [exec_traceRdWrite, State.setTraceRd_of_outside h]
  · rw [exec_traceRdWrite, State.setTraceRd_of_inside h]
  · rw [State.commit_of_moved hb hm]
    exact ⟨rfl, rfl, rfl⟩
  · match half, h with
    | none, _ => rfl
    | some false, _ =>
      exact congrArg (fun v => Host.Outcome.next ({ s with tr := { s.tr with lost := 0 } }.answer v))
        (halfOf_lower s.tr.lost)
  · exact congrArg (fun v => Host.Outcome.next (s.answer v)) (halfOf_upper s.tr.lost)

end Sys2Proof.Machine
end

section
/-! Cold reset: the invariants and the reset column of the register map (R443, R589), and what a reset of a running engine
leaves (R12, R544). -/
namespace Sys2Proof.Machine
open Sys2Proof.Claims

theorem State.reads_of_column {s : State} {column : List (Nat × BitVec 64)}
    (h : ∀ x ∈ column, s.readReg x.1 = x.2) (off : Nat) (v : BitVec 64) (hm : (off, v) ∈ column) :
    s.readReg off = v := h (off, v) hm

/-- Settles O5: the registers of the reset state are read one by one. -/
theorem resetMeetsInvariants : Obligations.ResetMeetsInvariants := by
  unfold Obligations.ResetMeetsInvariants
  exact ⟨rfl, .inl ⟨rfl, rfl⟩, rfl, State.reads_of_column (by decide)⟩

theorem State.diagOf_eq (s : State) {n : Nat} (h : n < 32) : s.diagOf n = s.st.diag[n] := by
  simp [State.diagOf, h]

/-- What a cold reset reads of an array's record: its fuses (R544). -/
def Diag.fuses (d : Diag) : Diag := { frow := d.frow, fcol := d.fcol, fuseOff := d.fuseOff }

/-- The engine as cold reset leaves it, before its grade follows its fuses (R16, R544, R589). -/
def State.cold (s : State) : State :=
  { ({} : State) with
    pending := s.pending, mem := s.mem, phase := .fuse, out := s.out, free := s.free
    scanAsked := s.phase == .power && s.scanAsked
    st := { ({} : SelfTest) with diag := s.st.diag.map Diag.fuses } }

theorem exec_coldReset (s : State) : exec .coldReset s = .next (s.cold.regrade s.cold.unfused) := rfl

theorem State.diagOf_cold (s : State) {n : Nat} (h : n < 32) : s.cold.diagOf n = (s.diagOf n).fuses := by
  rw [s.diagOf_eq h, State.diagOf_eq _ h]
  exact Vector.getElem_map ..

theorem State.unfused_cold (s : State) : s.cold.unfused = s.unfused :=
  List.filter_congr fun n hn => by rw [s.diagOf_cold (List.mem_range.mp hn)]; rfl

theorem State.unfused_of_intact {s : State} (h : ∀ n, n < 32 → (s.diagOf n).fuseOff = false) :
    s.unfused = List.range 32 :=
  List.filter_eq_self.mpr fun n hn => by rw [h n (List.mem_range.mp hn)]; rfl

/-- Settles O33: cold reset keeps the fuses, so that the arrays that are not fused off are those of before. -/
theorem coldResetLeavesResetValues : Obligations.ColdResetLeavesResetValues := by
  unfold Obligations.ColdResetLeavesResetValues
  intro s
  have hgrade : (s.cold.regrade s.cold.unfused).grade = BitVec.ofNat 4 (gradeOf s.unfused).1 := by
    rw [State.regrade_grade, s.unfused_cold]
  have hpresent : (s.cold.regrade s.cold.unfused).present = arrayBits (gradeOf s.unfused).2 := by
    rw [State.regrade_present, s.unfused_cold]
  refine ⟨_, exec_coldReset s, rfl, rfl, rfl, rfl, rfl, rfl, rfl, rfl, rfl, rfl, rfl, rfl, rfl, rfl, rfl, rfl, rfl, rfl,
    rfl, rfl, rfl, rfl, rfl, fun n hn => s.diagOf_cold hn, rfl, rfl, rfl, rfl, rfl, ⟨hgrade, hpresent⟩, fun h => ?_⟩
  rw [hgrade, hpresent, State.unfused_of_intact h]
  decide

end Sys2Proof.Machine
end

section
/-! Power targets (R560, R561), and the throttle level (R567, R568). -/
namespace Sys2Proof.Machine
open Sys2Proof.Claims

theorem exec_targetRun (s : State) : exec .targetRun s = .next (answered (s.setTarget 0)) := rfl

/-- Settles O39: of the three targets only RUN looks at the power state. -/
theorem powerTargets : Obligations.PowerTargets := by
  unfold Obligations.PowerTargets
  intro s
  refine ⟨fun hn hd => ?_, fun h => ?_, rfl, rfl⟩
  · rw [exec_targetRun]
    simp [State.setTarget, hn, hd]
  · rw [exec_targetRun]
    simp [State.setTarget, h, State.wake]

-- The throttle level.

theorem exec_throttleLevelUpdate (s : State) :
    exec .throttleLevelUpdate s = .next (s.setLevel s.gov.next.1 s.gov.next.2) := rfl

theorem Governor.next_of_critical {g : Governor} (h : g.above g.tcrit = true) : g.next.1 = g.top := by
  simp [Governor.next, h]

theorem Governor.next_of_hot {g : Governor} (hc : g.above g.tcrit = false)
    (h : g.above g.tlim = true ∨ g.overPower = true) : g.next.1 = min g.top (min g.level.toNat g.top + 1) := by
  simp [Governor.next, hc, h]

/-- Otherwise the level stays, or falls by one (R568). -/
theorem Governor.next_of_calm {g : Governor} (hc : g.above g.tcrit = false) (ht : g.above g.tlim = false)
    (hp : g.overPower = false) : min g.level.toNat g.top - 1 ≤ g.next.1 ∧ g.next.1 ≤ min g.level.toNat g.top := by
  simp only [Governor.next, hc, ht, hp, Bool.false_eq_true, if_false, Bool.or_false]
  split
  · split
    · exact ⟨Nat.sub_le _ _, le_rfl⟩
    · exact ⟨le_rfl, Nat.sub_le _ _⟩
  · exact ⟨Nat.sub_le _ _, le_rfl⟩

theorem Governor.next_le_top (g : Governor) : g.next.1 ≤ g.top := by
  cases hc : g.above g.tcrit
  · by_cases hh : g.above g.tlim = true ∨ g.overPower = true
    · rw [Governor.next_of_hot hc hh]
      exact Nat.min_le_left ..
    · rw [not_or, Bool.not_eq_true, Bool.not_eq_true] at hh
      exact (Governor.next_of_calm hc hh.1 hh.2).2.trans (Nat.min_le_right ..)
  · exact (Governor.next_of_critical hc).le

/-- Settles O43: the level after the period by the three cases of R568. -/
theorem throttleFollowsTemperature : Obligations.ThrottleFollowsTemperature := by
  unfold Obligations.ThrottleFollowsTemperature
  intro s
  obtain ⟨m, x, e, f, ht, -⟩ := s.setLevel_notes s.gov.next.1 s.gov.next.2
  have htop : s.gov.top ≤ 12 := Nat.min_le_left ..
  have hlevel : (s.setLevel s.gov.next.1 s.gov.next.2).gov.level.toNat = s.gov.next.1 := by
    rw [ht]
    exact Nat.mod_eq_of_lt (s.gov.next_le_top.trans_lt (htop.trans_lt (by decide)))
  refine ⟨_, exec_throttleLevelUpdate s, hlevel.trans_le s.gov.next_le_top,
    fun h => hlevel.trans (Governor.next_of_critical h), fun h k => hlevel.trans (Governor.next_of_hot h k),
    fun h1 h2 h3 => by rw [hlevel]; exact Governor.next_of_calm h1 h2 h3,
    fun h0 hpos => State.setLevel_pend h0 (hlevel ▸ hpos) _, ?_⟩
  rw [ht]
  exact ⟨rfl, rfl, rfl, rfl, rfl⟩

end Sys2Proof.Machine
end

section
/-! Scan access in a self-test that waits for its wake (R554, R555): the test waits no more. -/
namespace Sys2Proof.Machine
open Sys2Proof.Claims

/-- What START makes of an engine in NAP: it wakes, and the first batch waits for that (R554, log 108). -/
def State.wakingForTest : State :=
  { phase := .selftest, pwr := { st := .waking, wakeFrom := .nap, startAfter := true }, st := { busy := true } }

theorem exec_start_napping :
    exec .start { phase := .ready, pwr := { target := 1, st := .nap } } = .next State.wakingForTest := rfl

theorem exec_scanRequest_of_up {s : State} (h : s.phase ≠ .power) (k : s.phase ≠ .fuse) :
    exec .scanRequest s = .next s.grantScan :=
  congrArg Host.Outcome.next (if_neg (not_or.mpr ⟨h, k⟩))

theorem State.grantScan_startAfter (s : State) : s.grantScan.pwr.startAfter = false := rfl

/-- Refutes O35: the self-test of `State.wakingForTest` waits for the wake, and with scan access it no longer does, so that
the power unit is not as it was. -/
theorem not_scanErasesSecrets : ¬ Obligations.ScanErasesSecrets := by
  unfold Obligations.ScanErasesSecrets
  intro h
  obtain ⟨t, ht, -, -, -, -, -, -, -, hpwr, -⟩ := (h State.wakingForTest).2 (by decide) (by decide)
  rw [exec_scanRequest_of_up (by decide) (by decide)] at ht
  obtain rfl := Host.Outcome.next.inj ht
  have hwaits : State.wakingForTest.pwr.startAfter = true := rfl
  rw [← hpwr, State.grantScan_startAfter] at hwaits
  exact Bool.false_ne_true hwaits

end Sys2Proof.Machine
end

section
/-! Start-up and the self-test (R544, R545, R548, R551, R554): INIT and its end, the beginning of a run, and a batch without
findings. -/
namespace Sys2Proof.Machine
open Sys2Proof.Claims

-- INIT.

theorem State.trainNext_onlyLinks (s : State) (p : Fin 6) : s.OnlyLinks (s.trainNext p) := by
  have htrain : s.OnlyLinks (s.train p) := by
    unfold State.train
    split
    · exact .refl s
    · exact s.onlyLinks_setPort ..
  have hannounced : s.OnlyLinks ((s.train p).announce p) := htrain.trans (State.Relays.refl _).announce.onlyLinks
  unfold State.trainNext State.startTraining
  split_ifs
  · exact .refl s
  · exact hannounced
  · exact .refl s

theorem State.foldl_trainNext_onlyLinks (l : List (Fin 6)) (s : State) : s.OnlyLinks (l.foldl State.trainNext s) := by
  induction l generalizing s with
  | nil => exact .refl s
  | cons p l ih => exact (s.trainNext_onlyLinks p).trans (ih _)

/-- INIT begins beside the headgate, the self-test and the stacks (R485, R499, R547). -/
theorem State.enterInit_spec (s : State) : s.enterInit.phase = .init ∧ s.enterInit.st = s.st ∧ s.enterInit.hg = s.hg ∧
    s.enterInit.mem = s.mem := by
  obtain ⟨h, t, e, -⟩ := s.inInit_shape
  obtain ⟨_, _, _, _, _, _, e'⟩ := State.foldl_trainNext_onlyLinks allPorts s.inInit
  rw [s.enterInit_eq, e', e]
  exact ⟨rfl, rfl, rfl, rfl⟩

theorem exec_startupPhaseEnd_of_fuse {s : State} (hp : s.phase = .fuse) (hs : s.scanAsked = false) :
    exec .startupPhaseEnd s = .next s.enterInit := by
  change execStartupPhaseEnd s = _
  rw [execStartupPhaseEnd, hp]
  dsimp only
  rw [hs, if_neg Bool.false_ne_true]

theorem exec_startupPhaseEnd_of_init {s : State} (hp : s.phase = .init) : exec .startupPhaseEnd s
    = .next (if s.warm && !s.st.warmSt then { s with phase := .ready } else s.beginRun) := by
  change execStartupPhaseEnd s = _
  rw [execStartupPhaseEnd, hp]

-- START.

theorem exec_start (s : State) : exec .start s = .next (answered s.startTest) := rfl

/-- What keeps a START from beginning a run (R554). -/
def State.startBad (s : State) : Prop :=
  s.phase ≠ .ready ∨ (∃ i, (s.slot i).st ≠ .free) ∨ s.rebuilding = true ∨ s.pwr.st = .waking ∨ s.pwr.st = .entering

theorem State.allFree_eq_false_iff (s : State) :
    (allSlots.all fun i => (s.slot i).st == .free) = false ↔ ∃ i, (s.slot i).st ≠ .free := by
  rw [List.all_eq_false]
  simp only [beq_iff_eq]
  exact ⟨fun ⟨i, _, hi⟩ => ⟨i, hi⟩, fun ⟨i, hi⟩ => ⟨i, (by decide : ∀ i : Fin 16, i ∈ allSlots) i, hi⟩⟩

theorem State.startTest_of_bad {s : State} (h : s.startBad) :
    s.startTest = { s with st := { s.st with stErr := true } } := by
  refine if_pos ?_
  rwa [Bool.not_eq_true', s.allFree_eq_false_iff]

theorem State.startTest_of_good {s : State} (h : ¬s.startBad) : s.startTest
    = if s.pwr.st = .nap ∨ s.pwr.st = .deep then { s with pwr := { s.pwr with
        wakeFrom := s.pwr.st, st := .waking, target := 0, pending := false, startAfter := true } }.beginRun
      else s.beginRun := by
  refine if_neg ?_
  rwa [Bool.not_eq_true', s.allFree_eq_false_iff]

theorem State.not_startBad {s : State} (hp : s.phase = .ready) (hf : ∀ i, (s.slot i).st = .free)
    (hr : s.rebuilding = false) (hw : s.pwr.st ≠ .waking) (he : s.pwr.st ≠ .entering) : ¬s.startBad := by
  simp [State.startBad, hp, hf, hr, hw, he]

-- A batch without findings.

/-- What a test without findings records of an array (R551, R554). -/
def Diag.passed (d : Diag) : Diag := { d with srow := none, scol := none, unrep := false, nfail := 0, retFail := false }

/-- An array without failing plots needs no repair (R551). -/
theorem covers2_nil (frow fcol : Option Nat) : covers2 [] frow fcol = [(none, none)] := by
  cases frow <;> cases fcol <;> rfl

theorem State.testArray_clean (s : State) (n : Nat) : s.testArray n [] false = s.setDiag n (s.diagOf n).passed := by
  unfold State.testArray
  dsimp only [List.filter_nil, List.eraseDups_nil]
  rw [if_pos ⟨rfl, rfl⟩, if_neg Bool.false_ne_true, covers2_nil]
  rfl

theorem State.setDiag_eq (s : State) {n : Nat} (h : n < 32) (d : Diag) :
    s.setDiag n d = { s with st := { s.st with diag := s.st.diag.set n d } } := dif_pos h

theorem State.diagOf_setDiag (s : State) {n m : Nat} (hn : n < 32) (hm : m < 32) (d : Diag) :
    (s.setDiag n d).diagOf m = if m = n then d else s.diagOf m := by
  rw [State.diagOf_eq _ hm, s.setDiag_eq hn, s.diagOf_eq hm]
  simp only [Vector.getElem_set, eq_comm]

theorem State.foldl_testArray_clean {l : List Nat} (hl : ∀ n ∈ l, n < 32) (s : State) :
    (∃ d, l.foldl (fun s n => s.testArray n [] false) s = { s with st := { s.st with diag := d } }) ∧
    ∀ m, m < 32 → (l.foldl (fun s n => s.testArray n [] false) s).diagOf m
      = if m ∈ l then (s.diagOf m).passed else s.diagOf m := by
  induction l generalizing s with
  | nil => exact ⟨⟨s.st.diag, rfl⟩, fun m _ => by simp⟩
  | cons n l ih =>
    have hn := hl n List.mem_cons_self
    obtain ⟨⟨d, e⟩, hd⟩ := ih (fun k hk => hl k (List.mem_cons_of_mem _ hk)) (s.testArray n [] false)
    refine ⟨⟨d, ?_⟩, fun m hm => ?_⟩
    · rw [List.foldl_cons, e, s.testArray_clean, s.setDiag_eq hn]
    · rw [List.foldl_cons, hd m hm, s.testArray_clean, s.diagOf_setDiag hn hm]
      by_cases hmn : m = n <;> simp [hmn, Diag.passed]

/-- The arrays of a batch (R548). -/
def State.batchArrays (s : State) : List Nat := s.unfused.filter fun n => n / 4 == s.st.batch

theorem State.mem_batchArrays {s : State} {n : Nat} :
    n ∈ s.batchArrays ↔ n < 32 ∧ (s.diagOf n).fuseOff = false ∧ n / 4 = s.st.batch := by
  rw [State.batchArrays, List.mem_filter, State.unfused, List.mem_filter, List.mem_range, Bool.not_eq_true', beq_iff_eq,
    and_assoc]

theorem exec_selftestBatchEnd_clean {s : State} (hp : s.phase = .selftest) (hs : s.pwr.startAfter = false)
    (hb : s.st.batch < 8) : ∃ d, exec (.selftestBatchEnd []) s
      = .next { s with st := { s.st with diag := d, batch := s.st.batch + 1 } } ∧
    ∀ m (h : m < 32), d[m] = if m ∈ s.batchArrays then (s.diagOf m).passed else s.diagOf m := by
  obtain ⟨⟨d, e⟩, hd⟩ := s.foldl_testArray_clean fun n hn => (State.mem_batchArrays.mp hn).1
  refine ⟨d, ?_, fun m hm => ?_⟩
  · have hgo : ¬(s.phase ≠ .selftest ∨ s.pwr.startAfter = true) := by simp [hp, hs]
    change execSelftestBatchEnd [] s = _
    rw [execSelftestBatchEnd, if_neg hgo]
    dsimp only
    rw [if_pos hb]
    exact congrArg (fun t : State => Host.Outcome.next { t with st := { t.st with batch := s.st.batch + 1 } }) e
  · rw [← hd m hm, State.diagOf_eq _ hm, e]

/-- Settles O36: each phase's end, START and a batch by their equations. -/
theorem startUpRunsItsPhases : Obligations.StartUpRunsItsPhases := by
  unfold Obligations.StartUpRunsItsPhases
  intro s
  refine ⟨fun hp hs => ⟨_, exec_startupPhaseEnd_of_fuse hp hs, s.enterInit_spec⟩, fun hp h => ?_, fun hp hw hs => ?_,
    fun hp hf hr hst => ?_, fun hp hf hr hst => ?_, fun h => ?_, fun hp hs hb => ?_⟩
  · rw [exec_startupPhaseEnd_of_init hp, if_neg (by simpa using h)]
    rfl
  · rw [exec_startupPhaseEnd_of_init hp, if_pos (by simp [hw, hs])]
  · have hgood := State.not_startBad hp hf hr (fun h => by simp [h] at hst) (fun h => by simp [h] at hst)
    rw [exec_start, State.startTest_of_good hgood, if_neg (by rcases hst with h | h <;> simp [h])]
    rfl
  · have hgood := State.not_startBad hp hf hr (fun h => by simp [h] at hst) (fun h => by simp [h] at hst)
    rw [exec_start, State.startTest_of_good hgood, if_pos hst]
    rfl
  · rw [exec_start, State.startTest_of_bad h]
  · obtain ⟨d, e, hd⟩ := exec_selftestBatchEnd_clean hp hs hb
    have hdiag : ∀ n (hn : n < 32), State.diagOf { s with st := { s.st with diag := d, batch := s.st.batch + 1 } } n
        = if n ∈ s.batchArrays then (s.diagOf n).passed else s.diagOf n :=
      fun n hn => (State.diagOf_eq _ hn).trans (hd n hn)
    refine ⟨_, e, rfl, rfl, rfl, fun n hn hc hf => ?_, fun n hn hc => ?_, rfl, rfl⟩
    · rw [hdiag n hn, if_pos (State.mem_batchArrays.mpr ⟨hn, hf, hc⟩)]
      exact ⟨rfl, rfl, rfl, rfl⟩
    · rw [hdiag n hn, if_neg fun h => hc (State.mem_batchArrays.mp h).2.2]

end Sys2Proof.Machine
end

section
/-! The entry of IDLE, NAP and DEEP (R461, R557 to R561, R570). -/
namespace Sys2Proof.Machine
open Sys2Proof.Claims

-- Banks that no port counts in.

/-- The banks of the cores and of the stack adapters, which a flit that goes out leaves as they are (R570). -/
def State.SameBanks (s t : State) : Prop := ∀ k : Fin 15, k.val < 9 → t.obs.banks[k] = s.obs.banks[k]

theorem State.SameBanks.refl (s : State) : s.SameBanks s := fun _ _ => rfl

theorem State.SameBanks.trans {s t u : State} (h : s.SameBanks t) (k : t.SameBanks u) : s.SameBanks u :=
  fun b hb => (k b hb).trans (h b hb)

theorem State.bump_sameBanks (s : State) (p : Fin 6) (i n : Nat) : s.SameBanks (s.bump (9 + p.val) i n) := by
  intro k hk
  unfold State.bump
  split
  · exact Vector.getElem_set_ne ‹_› k.isLt (by omega)
  · rfl

theorem State.sluiceOn_sameBanks (s : State) (p : Fin 6) (m : Sluice) : s.SameBanks (s.sluiceOn p m) := by
  unfold State.sluiceOn
  dsimp only
  split
  · exact State.bump_sameBanks (s.setPort p ((s.port p).took (.inr m) s.stamp)) p 5 1
  · exact .refl s

theorem State.sluiceAll_sameBanks (s : State) (m : Sluice) : s.SameBanks (s.sluiceAll m) := by
  unfold State.sluiceAll
  generalize allPorts = l
  induction l generalizing s with
  | nil => exact .refl s
  | cons p l ih =>
    rw [List.foldl_cons, if_neg List.not_mem_nil]
    exact (s.sluiceOn_sameBanks p m).trans (ih _)

theorem State.announce_sameBanks (s : State) (p : Fin 6) : s.SameBanks (s.announce p) :=
  State.sluiceAll_sameBanks (s.noteOwnPort p) _

-- Ports that keep one lane alive (R461).

/-- The step of `State.allKeepAlive` at one port. -/
def State.keepNext (s : State) (p : Fin 6) : State :=
  if (s.port p).st = .up then (s.setPort p ((s.port p).keepAlive false)).announce p
  else if (s.port p).st = .keepalive then s.setPort p { s.port p with farDeep := false } else s

theorem State.allKeepAlive_eq (s : State) : s.allKeepAlive = allPorts.foldl State.keepNext s := rfl

/-- `t` is `s` with the ports of `l` that were UP keeping one lane alive. -/
def State.KeepsAlive (l : List (Fin 6)) (s t : State) : Prop :=
  s.OnlyLinks t ∧ s.SameBanks t ∧
    ∀ p, (t.port p).st = if p ∈ l ∧ (s.port p).st = .up then .keepalive else (s.port p).st

theorem State.keepNext_keepsAlive (s : State) (p : Fin 6) : s.KeepsAlive [p] (s.keepNext p) := by
  have hst : ∀ (q : Port) (o : Fin 6), ((s.setPort p q).port o).st = if o = p then q.st else (s.port o).st := by
    intro q o
    by_cases ho : o = p
    · rw [ho, State.port_setPort_same, if_pos rfl]
    · rw [s.port_setPort_other _ ho, if_neg ho]
  unfold State.keepNext
  split_ifs with hup hkeep
  · have hrel := (State.Relays.refl (s.setPort p ((s.port p).keepAlive false))).announce (p := p)
    refine ⟨(s.onlyLinks_setPort ..).trans hrel.onlyLinks, State.announce_sameBanks (s.setPort p _) p, fun o => ?_⟩
    rw [hrel.st o, hst]
    by_cases ho : o = p
    · simp [ho, hup, Port.keepAlive]
    · simp [ho]
  · refine ⟨s.onlyLinks_setPort .., .refl s, fun o => ?_⟩
    rw [hst]
    by_cases ho : o = p
    · simp [ho, hkeep]
    · simp [ho]
  · refine ⟨.refl s, .refl s, fun o => (if_neg ?_).symm⟩
    rintro ⟨ho, hs⟩
    exact hup (List.mem_singleton.mp ho ▸ hs)

theorem State.foldl_keepNext (l : List (Fin 6)) (s : State) : s.KeepsAlive l (l.foldl State.keepNext s) := by
  induction l generalizing s with
  | nil => exact ⟨.refl s, .refl s, fun p => by simp⟩
  | cons o l ih =>
    obtain ⟨h1, h2, h3⟩ := s.keepNext_keepsAlive o
    obtain ⟨k1, k2, k3⟩ := ih (s.keepNext o)
    refine ⟨h1.trans k1, h2.trans k2, fun p => (k3 p).trans ?_⟩
    rw [h3 p]
    by_cases hs : (s.port p).st = .up
    · by_cases hp : p = o
      · subst hp
        simp [hs]
      · simp [hs, hp]
    · simp [hs]

theorem State.allKeepAlive_keepsAlive (s : State) : s.KeepsAlive allPorts s.allKeepAlive := State.foldl_keepNext allPorts s

-- The commands.

theorem exec_autoidle (s : State) : exec .autoidle s = .next
    (if s.pwr.st = .run ∧ s.pwr.autoIdle ∧ s.coresFree then { s with pwr := { s.pwr with st := .idle } } else s) := rfl

theorem exec_napEnter (s : State) : exec .napEnter s = .next
    (if s.pwr.pending ∧ s.pwr.target = 1 ∧ (s.pwr.st = .run ∨ s.pwr.st = .idle) ∧ s.coresFree then
      { s.crossActive with pwr := { s.pwr with st := .nap, pending := false } } else s) := by
  obtain ⟨c, e⟩ := crossActive_shape s
  have hpwr : s.crossActive.pwr = s.pwr := by rw [e]
  exact congrArg (fun w : Power => Host.Outcome.next (if s.pwr.pending ∧ s.pwr.target = 1 ∧
    (s.pwr.st = .run ∨ s.pwr.st = .idle) ∧ s.coresFree then
      { s.crossActive with pwr := { w with st := .nap, pending := false } } else s)) hpwr

/-- The engine as DEEP leaves it, before its ports keep one lane alive (R557, R558, R570). -/
def State.deepened (s : State) : State := { s with
  pwr := { s.pwr with st := .deep, pending := false }
  hg := { s.hg with resident := [] }
  obs := { s.obs with banks := s.obs.banks.map fun b => { b with vals := List.replicate 32 0 } } }

theorem exec_deepEnter (s : State) : exec .deepEnter s = .next
    (if s.pwr.pending ∧ s.pwr.target = 2 ∧ (s.pwr.st = .run ∨ s.pwr.st = .idle ∨ s.pwr.st = .nap) ∧ s.deepReady then
      s.sweep.crossActive.deepened.allKeepAlive else s) := rfl

/-- Settles O40: the entries by their conditions, DEEP by what its ports' keeping alive leaves as it was. -/
theorem powerStatesEntered : Obligations.PowerStatesEntered := by
  unfold Obligations.PowerStatesEntered
  intro s
  refine ⟨fun h1 h2 h3 => ?_, fun h1 h2 h3 h4 => ?_, fun h1 h2 h3 h4 hc => ⟨s.crossActive.deepened.allKeepAlive, ?_, ?_⟩, fun h => ?_, fun h => ?_,
    fun h => ?_⟩
  · rw [exec_autoidle, if_pos ⟨h1, h2, h3⟩]
  · rw [exec_napEnter, if_pos ⟨h1, h2, h3, h4⟩]
  · rw [exec_deepEnter, if_pos ⟨h1, h2, h3, h4⟩, State.sweep_of_counting hc]
  · obtain ⟨c, e⟩ := crossActive_shape s
    obtain ⟨⟨q, o, r, l, n, v, ht⟩, hbanks, hst⟩ := s.crossActive.deepened.allKeepAlive_keepsAlive
    have hport : ∀ p, s.crossActive.deepened.port p = s.port p := fun p => by rw [e]; rfl
    have hall : ∀ p, p ∈ allPorts := by decide
    refine ⟨?_, ?_, ?_, ?_, ?_, ?_, ?_, ?_, ?_, ?_, fun b hb => ?_, fun p hp => ?_, fun p hp => ?_⟩
    case refine_11 =>
      have hk := hbanks ⟨b, by omega⟩ hb
      have hlen : b < 15 := by omega
      simp only [List.getD_eq_getElem?_getD, Vector.getElem?_toList, Vector.getElem?_eq_getElem hlen, Option.getD_some]
      exact (congrArg Bank.vals hk).trans (by simp [State.deepened])
    case refine_12 => rw [hst, hport, if_pos ⟨hall p, hp⟩]
    case refine_13 => rw [hst, hport, if_neg fun h => hp h.2]
    all_goals
      rw [ht, e]
      rfl
  · rw [exec_autoidle, if_neg (by rintro ⟨k1, k2, k3⟩; simp [k1, k2, k3] at h)]
  · rw [exec_napEnter, if_neg (by rintro ⟨k1, k2, k3, k4⟩; rcases k3 with k3 | k3 <;> simp [k1, k2, k3, k4] at h)]
  · rw [exec_deepEnter,
      if_neg (by rintro ⟨k1, k2, k3, k4⟩; rcases k3 with k3 | k3 | k3 <;> simp [k1, k2, k3, k4] at h)]

end Sys2Proof.Machine
end

section
/-! The trace ring and the counter banks (R571, R574 to R579, R584): what writing records leaves as it was, records that the
ring takes, and banks that are replaced one by one. -/
namespace Sys2Proof.Machine
open Sys2Proof.Claims

-- Trace records.

/-- `t` is `s` after trace records: the stacks and the ring's state may differ, and where trace is off nothing does. -/
def State.Logs (s t : State) : Prop :=
  ∃ m x, t = { s with mem := m, tr := x } ∧ x.live = s.tr.live ∧ (s.tr.live.en = false → m = s.mem ∧ x = s.tr)

theorem State.Logs.refl (s : State) : s.Logs s := ⟨_, _, rfl, rfl, fun _ => ⟨rfl, rfl⟩⟩

theorem State.Logs.trans {s t u : State} (h : s.Logs t) (k : t.Logs u) : s.Logs u := by
  obtain ⟨m, x, rfl, hl, ho⟩ := h
  obtain ⟨m', x', rfl, hl', ho'⟩ := k
  refine ⟨m', x', rfl, hl'.trans hl, fun he => ?_⟩
  obtain ⟨k1, k2⟩ := ho' ((congrArg TraceRegs.en hl).trans he)
  exact ⟨k1.trans (ho he).1, k2.trans (ho he).2⟩

/-- With trace on, the ring's state changes but for its registers. -/
theorem State.logs_of_en {s : State} (h : s.tr.live.en = true) (m : Memory) {x : Trace} (hx : x.live = s.tr.live) :
    s.Logs { s with mem := m, tr := x } := ⟨m, x, rfl, hx, fun he => absurd (h.symm.trans he) (by decide)⟩

theorem State.putRec_shape (s : State) (r : Nat) :
    ∃ m x, s.putRec r = { s with mem := m, tr := x } ∧ x.live = s.tr.live := by
  unfold State.putRec
  dsimp only
  split
  · exact ⟨_, _, rfl, rfl⟩
  · exact ⟨_, _, rfl, rfl⟩

theorem State.foldl_putRec_shape (l : List Nat) (s : State) :
    ∃ m x, l.foldl State.putRec s = { s with mem := m, tr := x } ∧ x.live = s.tr.live := by
  induction l generalizing s with
  | nil => exact ⟨_, _, rfl, rfl⟩
  | cons r l ih =>
    obtain ⟨m, x, e, h⟩ := s.putRec_shape r
    obtain ⟨m', x', e', h'⟩ := ih (s.putRec r)
    refine ⟨m', x', by rw [List.foldl_cons, e', e], h'.trans ?_⟩
    rw [e]
    exact h

/-- The ring's state as records of this tick find it: a new window of 1 µs counts from zero (R584). -/
def State.windowed (s : State) : Trace :=
  if s.tr.winId = s.tm.tick.toNat / 4000 then s.tr else { s.tr with winId := s.tm.tick.toNat / 4000, winCount := 0 }

theorem State.windowed_eq (s : State) : s.windowed = { s.tr with
    winId := s.tm.tick.toNat / 4000
    winCount := if s.tr.winId = s.tm.tick.toNat / 4000 then s.tr.winCount else 0 } := by
  unfold State.windowed
  split
  · rename_i h
    rw [← h]
  · rfl

/-- The records of a happening, after the one of what was lost before (R579). -/
def State.withLostBefore (s : State) (recs : List Nat) : List Nat :=
  if s.tr.lostSince = 0 then recs
  else (recHeader 0x08 0 s.stamp { unit := 13 } 0 + put 144 32 s.tr.lostSince) :: recs

/-- The ring has no room for a number of records, or this window's share is spent (R579, R584). -/
def State.ringFull (s : State) (n : Nat) : Bool :=
  s.windowed.live.stopFull && decide (s.windowed.live.records < s.windowed.wr.toNat - s.windowed.rd.toNat + n)
    || decide (18000 < s.windowed.winCount + n)

theorem State.trace_of_en {s : State} (h : s.tr.live.en = true) (recs : List Nat) : s.trace recs
    = if s.ringFull (s.withLostBefore recs).length then { s with tr := { s.windowed with
        lost := BitVec.ofNat 32 (satAdd 0xFFFFFFFF s.windowed.lost.toNat recs.length)
        lostSince := s.windowed.lostSince + recs.length } }
      else (s.withLostBefore recs).foldl State.putRec { s with tr := { s.windowed with lostSince := 0 } } := by
  have hlost : s.windowed.lostSince = s.tr.lostSince := by rw [s.windowed_eq]
  have hall : (if s.windowed.lostSince = 0 then recs else
      (recHeader 0x08 0 s.stamp { unit := 13 } 0 + put 144 32 s.windowed.lostSince) :: recs) = s.withLostBefore recs := by
    rw [hlost]
    rfl
  rw [← hall]
  exact if_neg (by rw [h]; decide)

theorem State.trace_logs (s : State) (recs : List Nat) : s.Logs (s.trace recs) := by
  cases he : s.tr.live.en
  · rw [State.trace, if_pos he]
    exact .refl s
  · have hlive : s.windowed.live = s.tr.live := by rw [s.windowed_eq]
    rw [State.trace_of_en he]
    split
    · exact State.logs_of_en he _ hlive
    · obtain ⟨m, x, e, hx⟩ := State.foldl_putRec_shape (s.withLostBefore recs) { s with tr := { s.windowed with lostSince := 0 } }
      rw [e]
      exact State.logs_of_en he m (hx.trans hlive)

-- Records that the ring takes.

/-- How many records this window has taken (R584). -/
def State.winUsed (s : State) : Nat := if s.tr.winId = s.tm.tick.toNat / 4000 then s.tr.winCount else 0

/-- The ring's state after `n` records that it takes. -/
def State.ringAfter (s : State) (n : Nat) : Trace := { s.tr with
  wr := s.tr.wr + BitVec.ofNat 40 n, winId := s.tm.tick.toNat / 4000, winCount := s.winUsed + n }

theorem State.foldl_putRec {s : State} (h : s.tr.live.records ≠ 0) (l : List Nat) :
    ∃ m, l.foldl State.putRec s = { s with mem := m, tr := { s.tr with
      wr := s.tr.wr + BitVec.ofNat 40 l.length, winCount := s.tr.winCount + l.length } } := by
  induction l generalizing s with
  | nil => exact ⟨s.mem, by simp⟩
  | cons r l ih =>
    have hput : s.putRec r = { s with
        mem := Mem.setN s.mem (s.tr.live.recLoc (s.tr.wr.toNat % s.tr.live.records)) 64 r
        tr := { s.tr with wr := s.tr.wr + 1, winCount := s.tr.winCount + 1 } } := if_neg h
    have hput' : (s.putRec r).tr.live.records ≠ 0 := by
      rw [hput]
      exact h
    obtain ⟨m, e⟩ := ih hput'
    refine ⟨m, e.trans ?_⟩
    have hwr : s.tr.wr + 1 + BitVec.ofNat 40 l.length = s.tr.wr + BitVec.ofNat 40 (r :: l).length := by
      rw [List.length_cons, BitVec.add_assoc, Nat.add_comm, BitVec.ofNat_add]
      rfl
    have hcount : s.tr.winCount + 1 + l.length = s.tr.winCount + (r :: l).length := by
      rw [List.length_cons]
      omega
    rw [hput]
    simp only [hwr, hcount]

theorem RingTakes.records_ne {s : State} {n : Nat} (h : RingTakes s n) : s.tr.live.records ≠ 0 := by
  obtain ⟨-, hsize, -⟩ := h
  have : s.tr.live.size.toNat ≠ 0 := fun e => hsize (BitVec.eq_of_toNat_eq e)
  simpa [TraceRegs.records] using this

/-- A ring that takes the records of a happening writes them at its write index. -/
theorem RingTakes.trace_eq_foldl {s : State} {recs : List Nat} (h : RingTakes s recs.length) :
    s.trace recs = recs.foldl State.putRec { s with tr := s.ringAfter 0 } := by
  obtain ⟨hen, -, hlost, hwin, hroom⟩ := h
  have hall : s.withLostBefore recs = recs := if_pos hlost
  have hfull : s.ringFull recs.length = false := by
    unfold State.ringFull
    rw [s.windowed_eq, Bool.or_eq_false_iff, decide_eq_false_iff_not, Bool.and_eq_false_iff, decide_eq_false_iff_not]
    refine ⟨?_, Nat.not_lt.mpr hwin⟩
    cases hs : s.tr.live.stopFull
    · exact .inl rfl
    · exact .inr (Nat.not_lt.mpr (hroom hs))
  have hring : ({ s.windowed with lostSince := 0 } : Trace) = s.ringAfter 0 := by
    simp [s.windowed_eq, State.ringAfter, State.winUsed, hlost]
  rw [State.trace_of_en hen, hall, if_neg (by rw [hfull]; decide), hring]

theorem RingTakes.trace_eq {s : State} {recs : List Nat} (h : RingTakes s recs.length) :
    ∃ m, s.trace recs = { s with mem := m, tr := s.ringAfter recs.length } := by
  obtain ⟨m, e⟩ := State.foldl_putRec (s := { s with tr := s.ringAfter 0 })
    (show s.tr.live.records ≠ 0 from RingTakes.records_ne h) recs
  refine ⟨m, ((RingTakes.trace_eq_foldl h).trans e).trans ?_⟩
  simp [State.ringAfter]

/-- The place of record `k` after the write index (R577). -/
def State.ringLoc (s : State) (k : Nat) : Nat :=
  s.tr.live.recLoc ((s.tr.wr + BitVec.ofNat 40 k).toNat % s.tr.live.records)

theorem RingTakes.trace_one {s : State} (h : RingTakes s 1) (r : Nat) :
    s.trace [r] = { s with mem := Mem.setN s.mem (s.ringLoc 0) 64 r, tr := s.ringAfter 1 } := by
  refine (RingTakes.trace_eq_foldl (recs := [r]) h).trans ((if_neg (RingTakes.records_ne h)).trans ?_)
  simp [State.ringAfter, State.ringLoc]

theorem RingTakes.mono {s : State} {n k : Nat} (h : RingTakes s n) (hk : k ≤ n) : RingTakes s k := by
  obtain ⟨h1, h2, h3, h4, h5⟩ := h
  exact ⟨h1, h2, h3, by omega, fun hs => by have := h5 hs; omega⟩

/-- What the ring takes it takes in parts. -/
theorem RingTakes.after {s t : State} {n k : Nat} (h : RingTakes s (n + k)) (ht : t.tr = s.ringAfter n)
    (htick : t.tm.tick = s.tm.tick) : RingTakes t k := by
  obtain ⟨h1, h2, h3, h4, h5⟩ := h
  unfold RingTakes
  rw [ht, htick]
  refine ⟨h1, h2, h3, ?_, fun hs => ?_⟩
  · have hused : (if s.tm.tick.toNat / 4000 = s.tm.tick.toNat / 4000 then s.winUsed + n else 0) = s.winUsed + n :=
      if_pos rfl
    have hwin : s.winUsed + (n + k) ≤ 18000 := h4
    exact (congrArg (· + k) hused).trans_le (by omega)
  · have hroom := h5 hs
    have hwr : (s.tr.wr + BitVec.ofNat 40 n).toNat ≤ s.tr.wr.toNat + n := by
      rw [BitVec.toNat_add, BitVec.toNat_ofNat]
      exact (Nat.mod_le _ _).trans (Nat.add_le_add_left (Nat.mod_le _ _) _)
    change (s.tr.wr + BitVec.ofNat 40 n).toNat - s.tr.rd.toNat + k ≤ s.tr.live.records
    omega

theorem State.ringAfter_add {s t : State} {n : Nat} (ht : t.tr = s.ringAfter n) (htick : t.tm.tick = s.tm.tick) (k : Nat) :
    t.ringAfter k = s.ringAfter (n + k) := by
  unfold State.ringAfter
  have hused : t.winUsed = s.winUsed + n := by
    unfold State.winUsed
    rw [ht, htick]
    exact if_pos rfl
  rw [hused, ht, htick]
  simp only [State.ringAfter, BitVec.ofNat_add, BitVec.add_assoc, Nat.add_assoc]

end Sys2Proof.Machine
end

section
/-! Counter commands (R571, R574 to R576, R592, R612): banks replaced one by one, the waits that are counted first, samples and
resets, and the latch entry that a read selects. -/
namespace Sys2Proof.Machine
open Sys2Proof.Claims

-- Banks.

/-- One bank replaced. -/
def State.onBank (s : State) (f : Bank → Bank) (b : Nat) : State :=
  if h : b < 15 then { s with obs := { s.obs with banks := s.obs.banks.set b (f s.obs.banks[b]) } } else s

/-- The banks `q` are `o` with those of `l` replaced. -/
def BanksAfter (l : List Nat) (f : Bank → Bank) (o q : Vector Bank 15) : Prop :=
  ∀ k (h : k < 15), q[k] = if k ∈ l then f o[k] else o[k]

theorem BanksAfter.cons {b : Nat} {l : List Nat} {f : Bank → Bank} {o q : Vector Bank 15} (hb : b ∉ l) (h : b < 15)
    (hq : BanksAfter l f (o.set b (f o[b])) q) : BanksAfter (b :: l) f o q := by
  intro k hk
  rw [hq k hk, Vector.getElem_set]
  by_cases hkb : b = k
  · subst hkb
    simp [hb]
  · simp [hkb, Ne.symm hkb]

theorem State.foldl_onBank {l : List Nat} (hn : l.Nodup) (hl : ∀ b ∈ l, b < 15) (f : Bank → Bank) (s : State) :
    ∃ q, l.foldl (fun s b => s.onBank f b) s = { s with obs := { s.obs with banks := q } } ∧
      BanksAfter l f s.obs.banks q := by
  induction l generalizing s with
  | nil => exact ⟨s.obs.banks, rfl, fun k _ => by simp⟩
  | cons b l ih =>
    obtain ⟨hb, hn⟩ := List.nodup_cons.mp hn
    have hb15 := hl b List.mem_cons_self
    have hone : s.onBank f b = { s with obs := { s.obs with banks := s.obs.banks.set b (f s.obs.banks[b]) } } :=
      dif_pos hb15
    obtain ⟨q, e, hq⟩ := ih hn (fun k hk => hl k (List.mem_cons_of_mem _ hk)) (s.onBank f b)
    rw [hone] at hq
    refine ⟨q, ?_, hq.cons hb hb15⟩
    rw [List.foldl_cons, e, hone]

-- Waits for operands.

/-- The counter of waits for operands, in a bank (R571). -/
def Bank.waited (clk : Nat) (k : Bank) : Bank := { k with vals := k.vals.set 7 (min ctrMax (nth k.vals 7 0 + clk)) }

/-- The cores at which a gang waits. -/
def State.waitCores (s : State) : List Nat := (List.range 8).filter fun c => s.hg.resWait.any fun x => x.2.val == c

/-- Clk since the waits were last counted (R540). -/
def State.waitClk (s : State) : Nat := s.tm.tick.toNat * 27 / 40 - s.hg.resFrom.toNat * 27 / 40

theorem State.bump_waited (s : State) (c clk : Nat) : s.bump c 7 clk = s.onBank (Bank.waited clk) c := rfl

/-- The step of `State.countWaits` at one core. -/
def State.countNext (clk : Nat) (s : State) (c : Nat) : State :=
  if s.hg.resWait.any fun x => x.2.val == c then s.bump c 7 clk else s

/-- The cores that have a wait are counted at, one after the other. -/
theorem State.foldl_countNext (clk : Nat) (l : List Nat) (s : State) : l.foldl (State.countNext clk) s
    = (l.filter fun c => s.hg.resWait.any fun x => x.2.val == c).foldl (fun s c => s.onBank (Bank.waited clk) c) s := by
  induction l generalizing s with
  | nil => rfl
  | cons c l ih =>
    have hwait : (s.countNext clk c).hg = s.hg := by
      obtain ⟨_, e, -⟩ := s.bump_shape c 7 clk
      unfold State.countNext
      rw [e]
      split <;> rfl
    rw [List.foldl_cons, ih, hwait, List.filter_cons]
    unfold State.countNext
    split <;> rfl

theorem State.countWaits_of_none {s : State} (h : s.hg.resWait = []) : s.countWaits = s := if_pos h

/-- Waits are counted up to now. -/
def State.countedNow (s : State) : State := { s with hg := { s.hg with resFrom := s.tm.tick } }

theorem State.countWaits_eq {s : State} (h : s.hg.resWait ≠ []) :
    s.countWaits = ((List.range 8).foldl (State.countNext s.waitClk) s).countedNow := by
  have hfold : (forN 8 s fun t c => if t.hg.resWait.any fun x => x.2.val == c
      then t.bump c 7 (s.tm.tick.toNat * 27 / 40 - s.hg.resFrom.toNat * 27 / 40) else t)
      = (List.range 8).foldl (State.countNext s.waitClk) s := rfl
  exact (if_neg h).trans (congrArg State.countedNow hfold)

/-- Waits are counted where there are any, at each core once (R571). -/
theorem State.countWaits_of_some {s : State} (h : s.hg.resWait ≠ []) : ∃ q, s.countWaits = { s with
      hg := { s.hg with resFrom := s.tm.tick }, obs := { s.obs with banks := q } } ∧
    BanksAfter s.waitCores (Bank.waited s.waitClk) s.obs.banks q := by
  obtain ⟨q, e, hq⟩ := State.foldl_onBank (l := s.waitCores) (List.nodup_range.filter _)
    (fun b hb => (List.mem_range.mp (List.mem_filter.mp hb).1).trans (by decide)) (Bank.waited s.waitClk) s
  have hfold : (List.range 8).foldl (State.countNext s.waitClk) s = { s with obs := { s.obs with banks := q } } :=
    (State.foldl_countNext s.waitClk (List.range 8) s).trans e
  refine ⟨q, ?_, hq⟩
  rw [State.countWaits_eq h, hfold]
  rfl

/-- What counting leaves as it was: all but the banks, and the tick up to which waits are counted. -/
theorem State.countWaits_shape (s : State) : ∃ n q, s.countWaits = { s with
    hg := { s.hg with resFrom := n }, obs := { s.obs with banks := q } } := by
  by_cases h : s.hg.resWait = []
  · exact ⟨_, _, State.countWaits_of_none h⟩
  · obtain ⟨q, e, -⟩ := State.countWaits_of_some h
    exact ⟨_, q, e⟩

theorem State.mem_waitCores {s : State} {k : Nat} : k ∈ s.waitCores ↔ ∃ x ∈ s.hg.resWait, x.2.val = k := by
  rw [State.waitCores, List.mem_filter, List.any_eq_true]
  simp only [beq_iff_eq, List.mem_range]
  exact ⟨fun h => h.2, fun ⟨x, hx, e⟩ => ⟨e ▸ x.2.isLt, x, hx, e⟩⟩

-- Samples and resets.

/-- A bank with its values and tags in its latch (R576). -/
def Bank.latched (stamp : BitVec 40) (k : Bank) : Bank := { k with latch := ⟨k.vals, k.tags, stamp⟩ }

/-- A bank whose counters a command set to zero (R575). -/
def Bank.zeroed (id : BitVec 16) (k : Bank) : Bank :=
  { k with vals := List.replicate 32 0, tags := List.replicate 32 id.toNat }

/-- A sample is a latch and six records (R576, R581). -/
theorem State.sampleBank_eq (s : State) {b : Nat} (h : b < 15) :
    ∃ recs, recs.length = 6 ∧ s.sampleBank b = (s.onBank (Bank.latched s.stamp) b).trace recs := by
  unfold State.sampleBank State.onBank
  rw [dif_pos h, dif_pos h]
  exact ⟨_, rfl, rfl⟩

theorem State.resetBank_eq (s : State) (b : Nat) (id : BitVec 16) : s.resetBank b id = s.onBank (Bank.zeroed id) b := rfl

/-- Samples latch their banks and write six records each. -/
theorem State.foldl_sampleBank {l : List Nat} (hn : l.Nodup) (hl : ∀ b ∈ l, b < 15) (s : State) :
    ∃ q, State.Logs { s with obs := { s.obs with banks := q } } (l.foldl (fun s b => s.sampleBank b) s) ∧
      BanksAfter l (Bank.latched s.stamp) s.obs.banks q ∧
      (RingTakes s (6 * l.length) →
        (l.foldl (fun s b => s.sampleBank b) s).tr.wr = s.tr.wr + BitVec.ofNat 40 (6 * l.length) ∧
        (l.foldl (fun s b => s.sampleBank b) s).tr.lost = s.tr.lost) := by
  induction l generalizing s with
  | nil => exact ⟨s.obs.banks, .refl s, fun k _ => by simp, fun _ => by simp⟩
  | cons b l ih =>
    obtain ⟨hb, hn⟩ := List.nodup_cons.mp hn
    have hb15 := hl b List.mem_cons_self
    have hone : s.onBank (Bank.latched s.stamp) b = { s with obs := { s.obs with
        banks := s.obs.banks.set b (s.obs.banks[b].latched s.stamp) } } := dif_pos hb15
    obtain ⟨recs, hrecs, hsample⟩ := s.sampleBank_eq hb15
    rw [hone] at hsample
    obtain ⟨m, x, e, hlive, hoff⟩ := State.trace_logs { s with obs := { s.obs with
      banks := s.obs.banks.set b (s.obs.banks[b].latched s.stamp) } } recs
    obtain ⟨q, hlogs, hq, hring⟩ := ih hn (fun k hk => hl k (List.mem_cons_of_mem _ hk)) (s.sampleBank b)
    have hbanks : (s.sampleBank b).obs.banks = s.obs.banks.set b (s.obs.banks[b].latched s.stamp) := by
      rw [hsample, e]
    have htick : (s.sampleBank b).tm = s.tm := by
      rw [hsample, e]
    have hfirst : State.Logs { s with obs := { s.obs with banks := q } }
        { s.sampleBank b with obs := { (s.sampleBank b).obs with banks := q } } := by
      rw [hsample, e]
      exact ⟨m, x, rfl, hlive, hoff⟩
    have hstamp : (s.sampleBank b).stamp = s.stamp := congrArg (fun t : TimeUnit => t.tick.setWidth 40) htick
    rw [hbanks, hstamp] at hq
    refine ⟨q, hfirst.trans hlogs, hq.cons hb hb15, fun h => ?_⟩
    have htakes : RingTakes s (6 + 6 * l.length) := by
      rwa [List.length_cons, Nat.mul_add, Nat.mul_one, Nat.add_comm] at h
    have htr : (s.sampleBank b).tr = s.ringAfter 6 := by
      obtain ⟨m', e'⟩ := RingTakes.trace_eq (s := { s with obs := { s.obs with
        banks := s.obs.banks.set b (s.obs.banks[b].latched s.stamp) } }) (recs := recs)
        (show RingTakes s recs.length from RingTakes.mono htakes (by omega))
      rw [hsample, e', hrecs]
      rfl
    obtain ⟨hwr, hlost⟩ := hring (RingTakes.after htakes htr (congrArg TimeUnit.tick htick))
    rw [htr] at hwr hlost
    refine ⟨hwr.trans ?_, hlost⟩
    have hlen : 6 * (b :: l).length = 6 + 6 * l.length := by rw [List.length_cons, Nat.mul_add, Nat.add_comm]
    rw [hlen, BitVec.ofNat_add, ← BitVec.add_assoc]
    rfl

-- The banks that a command names.

theorem nodup_banksOf (b : BitVec 4) : (banksOf b).Nodup := by
  unfold banksOf
  split
  · exact List.nodup_range
  · exact List.nodup_singleton _

theorem lt_of_mem_banksOf {b : BitVec 4} {k : Nat} (h : k ∈ banksOf b) : k < 15 := by
  unfold banksOf at h
  have := b.isLt
  split at h
  · exact List.mem_range.mp h
  · have := List.mem_singleton.mp h
    omega

/-- The bank that a command names, or with 0xF every bank, replaced (R574). -/
def namedBanks (b : BitVec 4) (f : Bank → Bank) (o : Vector Bank 15) : Vector Bank 15 :=
  if h : b.toNat < 15 then o.set b.toNat (f o[b.toNat]) else o.map f

theorem BanksAfter.eq_named {b : BitVec 4} {f : Bank → Bank} {o q : Vector Bank 15} (h : BanksAfter (banksOf b) f o q) :
    q = namedBanks b f o := by
  have hb := b.isLt
  refine Vector.ext fun k hk => (h k hk).trans ?_
  unfold namedBanks
  by_cases hb15 : b.toNat < 15
  · have hone : banksOf b = [b.toNat] := if_neg (by omega)
    rw [hone, dif_pos hb15, Vector.getElem_set]
    by_cases hkb : b.toNat = k
    · subst hkb
      simp
    · simp [hkb, Ne.symm hkb]
  · have hall : banksOf b = List.range 15 := if_pos (by omega)
    rw [hall, dif_neg hb15, Vector.getElem_map, if_pos (List.mem_range.mpr hk)]

theorem namedBanks_comp (b : BitVec 4) (f g : Bank → Bank) (o : Vector Bank 15) :
    namedBanks b g (namedBanks b f o) = namedBanks b (fun k => g (f k)) o := by
  unfold namedBanks
  split
  · simp
  · simp

/-- A sample command outside DEEP, where waits are counted (R574, R576). -/
theorem State.sampleBanks_logs (s : State) (b : BitVec 4) : State.Logs
    { s with obs := { s.obs with banks := namedBanks b (Bank.latched s.stamp) s.obs.banks } }
    ((banksOf b).foldl (fun s b => s.sampleBank b) s) := by
  obtain ⟨q, hlogs, hq, -⟩ := State.foldl_sampleBank (nodup_banksOf b) (fun _ => lt_of_mem_banksOf) s
  rwa [hq.eq_named] at hlogs

theorem State.resetBanks_eq (s : State) (b : BitVec 4) (id : BitVec 16) : (banksOf b).foldl (fun s b => s.resetBank b id) s
    = { s with obs := { s.obs with banks := namedBanks b (Bank.zeroed id) s.obs.banks } } := by
  obtain ⟨q, e, hq⟩ := State.foldl_onBank (nodup_banksOf b) (fun _ => lt_of_mem_banksOf) (Bank.zeroed id) s
  rw [← hq.eq_named]
  exact e

-- The commands.

theorem exec_counterSample (b : BitVec 4) (id : BitVec 16) (s : State) :
    exec (.counterSample b id) s = .next (answered (s.counterCmd b 0 id)) := rfl

theorem exec_counterReset (b : BitVec 4) (id : BitVec 16) (s : State) :
    exec (.counterReset b id) s = .next (answered (s.counterCmd b 1 id)) := rfl

theorem exec_sampleAndReset (b : BitVec 4) (id : BitVec 16) (s : State) :
    exec (.sampleAndReset b id) s = .next (answered (s.counterCmd b 2 id)) := rfl

/-- A counter command in DEEP is ignored (R592). -/
theorem State.counterCmd_of_deep {s : State} (h : s.pwr.st = .deep) (b : BitVec 4) (op : Nat) (id : BitVec 16) :
    s.counterCmd b op id = s := if_pos h

theorem State.counterCmd_sample {s : State} (h : s.pwr.st ≠ .deep) (b : BitVec 4) (id : BitVec 16) :
    s.counterCmd b 0 id = (banksOf b).foldl (fun s b => s.sampleBank b) s.countWaits := if_neg h

theorem State.counterCmd_reset {s : State} (h : s.pwr.st ≠ .deep) (b : BitVec 4) (id : BitVec 16) :
    s.counterCmd b 1 id = (banksOf b).foldl (fun s b => s.resetBank b id) s.countWaits := if_neg h

/-- The reset comes after the sample (R575). -/
theorem State.counterCmd_both {s : State} (h : s.pwr.st ≠ .deep) (b : BitVec 4) (id : BitVec 16) : s.counterCmd b 2 id
    = (banksOf b).foldl (fun s b => s.resetBank b id)
      ((banksOf b).foldl (fun s b => s.sampleBank b) s.countWaits) := if_neg h

theorem exec_cntTagRead (half : Option Bool) (s : State) : exec (.cntTagRead half) s
    = .next ({ s with obs := { s.obs with hold := s.obs.entry.2 } }.answer (halfOf half s.obs.entry.1)) := rfl

theorem halfOf_lower_mask (v : BitVec 64) : halfOf (some false) v = v &&& 0xFFFFFFFF := by
  refine BitVec.eq_of_getLsbD_eq fun i hi => ?_
  have hmask : (0xFFFFFFFF : BitVec 64).getLsbD i = decide (i < 32) := by
    revert i
    decide
  rw [BitVec.getLsbD_and, hmask]
  simp [halfOf, hi, Bool.and_comm]

/-- Settles O44: the waits that are counted, then the sample, the reset, or both. -/
theorem counterCommands : Obligations.CounterCommands := by
  unfold Obligations.CounterCommands
  intro s b id latched zeroed a named
  obtain ⟨n, q, ha⟩ := s.countWaits_shape
  have hstamp : a.stamp = s.stamp := by
    simp only [a, ha]
    rfl
  have htr : a.tr = s.tr := by
    simp only [a, ha]
  have hmem : a.mem = s.mem := by
    simp only [a, ha]
  obtain ⟨m, x, hsample, hlive, hoff⟩ := a.sampleBanks_logs b
  rw [hstamp] at hsample
  rw [htr] at hlive
  rw [htr, hmem] at hoff
  refine ⟨State.countWaits_of_none, fun h => ?_, fun h => ?_, fun h c f hc => ?_, fun h => ?_, fun half => ?_⟩
  · obtain ⟨q, e, hq⟩ := State.countWaits_of_some h
    refine ⟨?_, fun k => ⟨fun hk => ?_, fun hk => ?_⟩⟩
    · simp only [a, e]
    · simp only [a, e]
      exact (hq k k.isLt).trans (if_pos (State.mem_waitCores.mpr hk))
    · simp only [a, e]
      exact (hq k k.isLt).trans (if_neg fun h => by obtain ⟨x, hx, e⟩ := State.mem_waitCores.mp h; exact hk x hx e)
  · rw [exec_counterSample, exec_counterReset, exec_sampleAndReset, State.counterCmd_of_deep h, State.counterCmd_of_deep h,
      State.counterCmd_of_deep h]
    exact ⟨rfl, rfl, rfl⟩
  · refine ⟨answered { a with obs := { a.obs with banks := named f }, mem := m, tr := x }, ?_, rfl, hlive, hoff⟩
    obtain ⟨rfl, rfl⟩ | ⟨rfl, rfl⟩ := hc
    · rw [exec_counterSample, State.counterCmd_sample h, hsample]
      rfl
    · rw [exec_sampleAndReset, State.counterCmd_both h, hsample, State.resetBanks_eq]
      exact congrArg (fun q => Host.Outcome.next
        (answered { a with obs := { a.obs with banks := q }, mem := m, tr := x }))
        (namedBanks_comp b (Bank.latched s.stamp) (Bank.zeroed id) a.obs.banks)
  · rw [exec_counterReset, State.counterCmd_reset h, State.resetBanks_eq]
    rfl
  · rw [exec_cntTagRead]
    match half with
    | none | some true => rfl
    | some false =>
      rw [halfOf_lower_mask]
      rfl

end Sys2Proof.Machine
end

section
/-! Records of the trace ring (R577, R580, R582, R583): their fields, and where records lie that are written one after the
other. -/
namespace Sys2Proof.Machine
open Sys2Proof.Claims

-- Fields of a record.

theorem fld_add_put_below {l w lo : Nat} (h : l + w ≤ lo) (a w' b : Nat) : fld (a + put lo w' b) l w = fld a l w := by
  obtain ⟨k, rfl⟩ := Nat.exists_eq_add_of_le h
  rw [fld, fld, put, Nat.shiftLeft_eq, Nat.shiftRight_eq_div_pow, Nat.shiftRight_eq_div_pow]
  have hsplit : b % 2 ^ w' * 2 ^ (l + w + k) = 2 ^ l * (2 ^ w * (b % 2 ^ w' * 2 ^ k)) := by ring
  rw [hsplit, Nat.add_mul_div_left _ _ (by positivity), Nat.add_mul_mod_self_left]

theorem fld_add_put_at {a lo : Nat} (h : a < 2 ^ lo) (w b : Nat) : fld (a + put lo w b) lo w = b % 2 ^ w := by
  rw [fld, put, Nat.shiftLeft_eq, Nat.shiftRight_eq_div_pow, Nat.mul_comm, Nat.add_mul_div_left _ _ (by positivity),
    Nat.div_eq_of_lt h, Nat.zero_add, Nat.mod_mod]

theorem lt_two_pow_add_put {a lo w k : Nat} (h : a < 2 ^ lo) (hk : lo + w ≤ k) (b : Nat) : a + put lo w b < 2 ^ k :=
  (add_put_lt h rfl b).trans_le (Nat.pow_le_pow_right (by decide) hk)

/-- The header of a record: its bits, and the fields that say what the record is about (R580). -/
theorem recHeader_fields (rtype rmore : Nat) (stamp : BitVec 40) (w : Who) (ecode : Nat) :
    let h := recHeader rtype rmore stamp w ecode
    h < 2 ^ 140 ∧ fld h 0 8 = rtype % 2 ^ 8 ∧ fld h 12 4 = w.unit % 2 ^ 4 ∧ fld h 16 4 = w.slot % 2 ^ 4 ∧
      fld h 20 40 = stamp.toNat ∧ fld h 132 8 = ecode % 2 ^ 8 := by
  intro h
  have h0 : put 0 8 rtype < 2 ^ 8 := by rw [put, Nat.shiftLeft_zero]; exact Nat.mod_lt _ (by decide)
  have h8 := lt_two_pow_add_put h0 (by decide : 8 + 4 ≤ 12) rmore
  have h12 := lt_two_pow_add_put h8 (by decide : 12 + 4 ≤ 16) w.unit
  have h16 := lt_two_pow_add_put h12 (by decide : 16 + 4 ≤ 20) w.slot
  have h20 := lt_two_pow_add_put h16 (by decide : 20 + 40 ≤ 64) stamp.toNat
  have h64 := lt_two_pow_add_put h20 (by decide : 64 + 16 ≤ 80) w.layer
  have h80 := lt_two_pow_add_put h64 (by decide : 80 + 16 ≤ 96) w.opid
  have h96 := lt_two_pow_add_put h80 (by decide : 96 + 16 ≤ 112) w.ubatch
  have h112 := lt_two_pow_add_put h96 (by decide : 112 + 20 ≤ 132) w.node
  have htype : fld (put 0 8 rtype) 0 8 = rtype % 2 ^ 8 := by
    rw [put, fld, Nat.shiftLeft_zero, Nat.shiftRight_zero, Nat.mod_mod]
  refine ⟨lt_two_pow_add_put h112 (by decide) ecode, ?_, ?_, ?_, ?_, fld_add_put_at h112 8 ecode⟩
  all_goals
    simp only [h, recHeader]
    simp (disch := decide) only [fld_add_put_below, fld_add_put_at h8, fld_add_put_at h12, fld_add_put_at h16, htype]
  exact Nat.mod_eq_of_lt stamp.isLt

/-- A field that lies in the low `n` bytes. -/
theorem fld_mod_bytes {l w n : Nat} (h : l + w ≤ 8 * n) (x : Nat) : fld (x % 256 ^ n) l w = fld x l w := by
  have hbits : 256 ^ n = 2 ^ (8 * n) := (Nat.pow_mul 2 8 n).symm
  refine Nat.eq_of_testBit_eq fun i => ?_
  simp only [hbits, fld, Nat.testBit_mod_two_pow, Nat.testBit_shiftRight]
  by_cases hi : i < w
  · simp [hi, show l + i < 8 * n by omega]
  · simp [hi]

-- Where records lie.

/-- Two places of 64 bytes that share no byte. -/
def Apart64 (a b : Nat) : Prop := a + 64 ≤ b ∨ b + 64 ≤ a

/-- Records of one ring that lie in one page, or in two pages next to each other, share no byte (R577). -/
theorem TraceRegs.recLoc_apart (t : TraceRegs) {x y : Nat} (h : x ≠ y)
    (hp : y / 64 = x / 64 ∨ y / 64 = x / 64 + 1 ∨ x / 64 % 32 = 31 ∧ y / 64 = 0) : Apart64 (t.recLoc x) (t.recLoc y) := by
  unfold Apart64 TraceRegs.recLoc put
  simp only [Nat.shiftLeft_eq]
  omega

/-- Two steps of up to seven places in a ring of pages by 32 stacks: the later place is in the page of the first or the next
one, or the ring or the index began anew (R577). -/
theorem ring_near {n z j k : Nat} (hn : n < 2 ^ 40) (hz : 0 < z) (hjk : j < k) (hk : k < 8) :
    let x := (n + j) % 2 ^ 40 % (2048 * z)
    let y := (n + k) % 2 ^ 40 % (2048 * z)
    x ≠ y ∧ (y / 64 = x / 64 ∨ y / 64 = x / 64 + 1 ∨ x / 64 % 32 = 31 ∧ y / 64 = 0) := by
  intro x y
  have hx : (n + j) % 2 ^ 40 = 2048 * (z * ((n + j) % 2 ^ 40 / (2048 * z))) + x := by
    rw [← Nat.mul_assoc]
    exact (Nat.div_add_mod _ _).symm
  have hlt : x < 2048 * z := Nat.mod_lt _ (by omega)
  generalize hu : z * ((n + j) % 2 ^ 40 / (2048 * z)) = u at hx
  by_cases hwrap : (n + k) % 2 ^ 40 = (n + j) % 2 ^ 40 + (k - j)
  · have hy : y = (x + (k - j)) % (2048 * z) := by
      have hb : (n + k) % 2 ^ 40 = 2048 * z * ((n + j) % 2 ^ 40 / (2048 * z)) + (x + (k - j)) := by
        rw [hwrap, Nat.mul_assoc, hu]
        omega
      exact (congrArg (· % (2048 * z)) hb).trans (Nat.mul_add_mod ..)
    by_cases hring : x + (k - j) < 2048 * z
    · rw [Nat.mod_eq_of_lt hring] at hy
      omega
    · rw [Nat.mod_eq_sub_mod (by omega), Nat.mod_eq_of_lt (by omega)] at hy
      omega
  · have hy : y = (n + k) % 2 ^ 40 := Nat.mod_eq_of_lt (by omega)
    omega

/-- The places of eight records in a row share no byte. -/
theorem State.ringLoc_apart {s : State} (h : s.tr.live.size ≠ 0) {j k : Nat} (hjk : j < k) (hk : k < 8) :
    Apart64 (s.ringLoc j) (s.ringLoc k) := by
  have hz : 0 < s.tr.live.size.toNat := Nat.pos_of_ne_zero fun e => h (BitVec.eq_of_toNat_eq e)
  have hplace : ∀ i, i < 8 → (s.tr.wr + BitVec.ofNat 40 i).toNat = (s.tr.wr.toNat + i) % 2 ^ 40 := fun i hi => by
    rw [BitVec.toNat_add, BitVec.toNat_ofNat, Nat.mod_eq_of_lt (show i < 2 ^ 40 by omega)]
  obtain ⟨hne, hpage⟩ := ring_near s.tr.wr.isLt hz hjk hk
  unfold State.ringLoc
  rw [hplace j (by omega), hplace k hk]
  exact s.tr.live.recLoc_apart hne hpage

/-- A record is read as it was written (R577). -/
theorem fld_getN_setN {m : Memory} (hm : Memory.wf m = true) (a r : Nat) {l w : Nat} (h : l + w ≤ 512) :
    fld (Mem.getN (Mem.setN m a 64 r) a 64) l w = fld r l w := by
  rw [Mem.getN_setN hm, fld_mod_bytes h]

theorem Mem.getN_setN_apart {m : Memory} (hm : Memory.wf m = true) {a b : Nat} (h : Apart64 a b) (r : Nat) :
    Mem.getN (Mem.setN m b 64 r) a 64 = Mem.getN m a 64 :=
  Mem.getN_congr fun c h1 h2 => Mem.get_setN_other hm r (by unfold Apart64 at h; omega)

end Sys2Proof.Machine
end

section
/-! What is observed from time to time (R526, R581, R582, R588): automatic samples, position records, HANG and SNAPDUE. -/
namespace Sys2Proof.Machine
open Sys2Proof.Claims

-- Automatic samples.

theorem exec_automaticSample {s : State} (hc : s.tr.live.cper ≠ 0) (hp : s.pwr.st ≠ .deep) :
    exec .automaticSample s = .next ((List.range 15).foldl (fun s b => s.sampleBank b) s.countWaits) :=
  congrArg Host.Outcome.next (if_neg (not_or.mpr ⟨hc, hp⟩))

theorem exec_automaticSample_off {s : State} (h : s.tr.live.cper = 0 ∨ s.pwr.st = .deep) :
    exec .automaticSample s = .next s := congrArg Host.Outcome.next (if_pos h)

theorem BanksAfter.eq_map {f : Bank → Bank} {o q : Vector Bank 15} (h : BanksAfter (List.range 15) f o q) :
    q = o.map f :=
  Vector.ext fun k hk => by rw [h k hk, if_pos (List.mem_range.mpr hk), Vector.getElem_map]

/-- A sample of every bank after waits are counted (R581). -/
theorem State.sampleAll_spec (s : State) :
    let a := s.countWaits
    let t := (List.range 15).foldl (fun s b => s.sampleBank b) a
    State.Logs { a with obs := { a.obs with banks := a.obs.banks.map (Bank.latched s.stamp) } } t ∧
      t.tr.live = s.tr.live ∧ (s.tr.live.en = false → t.mem = s.mem ∧ t.tr = s.tr) ∧
      (RingTakes s 90 → t.tr.wr = s.tr.wr + 90 ∧ t.tr.lost = s.tr.lost) := by
  intro a t
  obtain ⟨n, q, ha⟩ := s.countWaits_shape
  obtain ⟨q', hlogs, hq', hring⟩ := State.foldl_sampleBank List.nodup_range (fun b hb => List.mem_range.mp hb) a
  have hstamp : a.stamp = s.stamp := by
    simp only [a, ha]
    rfl
  have htr : a.tr = s.tr := by simp only [a, ha]
  have hmem : a.mem = s.mem := by simp only [a, ha]
  have htakes : RingTakes s 90 → RingTakes a 90 := fun h => by
    simp only [a, ha]
    exact h
  rw [hq'.eq_map, hstamp] at hlogs
  refine ⟨hlogs, ?_, fun he => ?_, fun h => ?_⟩
  · obtain ⟨m, x, e, hlive, -⟩ := hlogs
    exact (congrArg (fun u : State => u.tr.live) e).trans (hlive.trans (congrArg Trace.live htr))
  · obtain ⟨m, x, e, -, hoff⟩ := hlogs
    obtain ⟨h1, h2⟩ := hoff ((congrArg (fun y : Trace => y.live.en) htr).trans he)
    exact ⟨(congrArg State.mem e).trans (h1.trans hmem), (congrArg State.tr e).trans (h2.trans htr)⟩
  · obtain ⟨h1, h2⟩ := hring (htakes h)
    exact ⟨h1.trans (by rw [htr]; rfl), h2.trans (by rw [htr])⟩

-- Position records (R582).

/-- What a position record says of a core: the stamp, the level, and the gang on the core or that there is none. -/
def PositionRecord (s : State) (c : Fin 8) (r : Nat) : Prop :=
  fld r 0 8 = 5 ∧ fld r 12 4 = c.val ∧ fld r 20 40 = s.stamp.toNat ∧ fld r 196 4 = s.gov.level.toNat ∧
    (s.gangOn c = none → fld r 16 4 = 0 ∧ fld r 152 20 = 0xFFFFF ∧ fld r 172 20 = 0 ∧ fld r 192 4 = 0) ∧
    (∀ f, s.gangOn c = some f → fld r 16 4 = f.slot.val ∧ fld r 152 20 = f.node % 2 ^ 20)

/-- A position record's number (R582). -/
def State.positionNumber (s : State) (c : Fin 8) (slot stall node step arrays : Nat) : Nat :=
  recHeader 0x05 0 s.stamp { unit := c.val, slot := slot } 0 + put 144 8 stall + put 152 20 node
    + put 172 20 step + put 192 4 arrays + put 196 4 s.gov.level.toNat

theorem State.positionNumber_fields (s : State) (c : Fin 8) (slot stall node step arrays : Nat) :
    let r := s.positionNumber c slot stall node step arrays
    fld r 0 8 = 5 ∧ fld r 12 4 = c.val ∧ fld r 16 4 = slot % 2 ^ 4 ∧ fld r 20 40 = s.stamp.toNat ∧
      fld r 152 20 = node % 2 ^ 20 ∧ fld r 172 20 = step % 2 ^ 20 ∧ fld r 192 4 = arrays % 2 ^ 4 ∧
      fld r 196 4 = s.gov.level.toNat := by
  intro r
  obtain ⟨hlt, htype, hunit, hslot, hstamp, -⟩ := recHeader_fields 0x05 0 s.stamp { unit := c.val, slot := slot } 0
  rw [show 5 % 2 ^ 8 = 5 from rfl] at htype
  have h144 := hlt.trans_le (Nat.pow_le_pow_right (by decide) (by decide : 140 ≤ 144))
  have h152 := lt_two_pow_add_put h144 (by decide : 144 + 8 ≤ 152) stall
  have h172 := lt_two_pow_add_put h152 (by decide : 152 + 20 ≤ 172) node
  have h192 := lt_two_pow_add_put h172 (by decide : 172 + 20 ≤ 192) step
  have h196 := lt_two_pow_add_put h192 (by decide : 192 + 4 ≤ 196) arrays
  have hcore : c.val % 2 ^ 4 = c.val := Nat.mod_eq_of_lt (c.isLt.trans (by decide))
  have hlevel : s.gov.level.toNat % 2 ^ 4 = s.gov.level.toNat := Nat.mod_eq_of_lt s.gov.level.isLt
  simp only [r, State.positionNumber]
  simp (disch := decide) only [fld_add_put_below, fld_add_put_at h152, fld_add_put_at h172, fld_add_put_at h192,
    fld_add_put_at h196, htype, hunit, hslot, hstamp, hcore, hlevel, and_self]

theorem State.positionNumber_of_none {s : State} {c : Fin 8} (h : s.gangOn c = none) (stall : Nat) :
    PositionRecord s c (s.positionNumber c 0 stall 0xFFFFF 0 0) := by
  obtain ⟨h1, h2, h3, h4, h5, h6, h7, h8⟩ := s.positionNumber_fields c 0 stall 0xFFFFF 0 0
  exact ⟨h1, h2, h4, h8, fun _ => ⟨h3, h5, h6, h7⟩, fun f hf => absurd (h.symm.trans hf) (by simp)⟩

theorem State.positionNumber_of_some {s : State} {c : Fin 8} {f : Flight} (h : s.gangOn c = some f)
    (stall step arrays : Nat) : PositionRecord s c (s.positionNumber c f.slot.val stall f.node step arrays) := by
  obtain ⟨h1, h2, h3, h4, h5, -, -, h8⟩ := s.positionNumber_fields c f.slot.val stall f.node step arrays
  refine ⟨h1, h2, h4, h8, fun hn => absurd (h.symm.trans hn) (by simp), fun g hg => ?_⟩
  obtain rfl := Option.some.inj (h.symm.trans hg)
  exact ⟨h3.trans (Nat.mod_eq_of_lt f.slot.isLt), h5⟩

/-- The position record of a core, with a free value drawn for a gang on it. -/
theorem State.positionOf_eq (s : State) (c : Fin 8) : ∃ r n, s.positionOf c = State.trace { s with free := n } [r] ∧
    s.free ≤ n ∧ n ≤ s.free + 1 ∧ PositionRecord s c r := by
  unfold State.positionOf
  dsimp only
  cases hg : s.gangOn c with
  | none => exact ⟨_, s.free, rfl, le_rfl, Nat.le_succ _, State.positionNumber_of_none hg _⟩
  | some f =>
    dsimp only [State.draw]
    have hone := State.positionNumber_of_some hg
    split
    · exact ⟨_, s.free + 1, rfl, Nat.le_succ _, le_rfl, hone _ _ _⟩
    · split
      · exact ⟨_, s.free + 1, rfl, Nat.le_succ _, le_rfl, hone _ _ _⟩
      · exact ⟨_, s.free + 1, rfl, Nat.le_succ _, le_rfl, hone _ _ _⟩

/-- Position records change the stacks, the ring's state and the draws of free values. -/
theorem State.foldl_positionOf_shape (l : List (Fin 8)) (s : State) : ∃ n,
    State.Logs { s with free := n } (l.foldl (fun s c => s.positionOf c) s) ∧ s.free ≤ n ∧ n ≤ s.free + l.length := by
  induction l generalizing s with
  | nil => exact ⟨s.free, .refl s, le_rfl, le_rfl⟩
  | cons c l ih =>
    obtain ⟨r, n, e, hlo, hhi, -⟩ := s.positionOf_eq c
    obtain ⟨m, x, e', hlive, hoff⟩ := State.trace_logs { s with free := n } [r]
    obtain ⟨n', hlogs, hlo', hhi'⟩ := ih (s.positionOf c)
    have hfree : (s.positionOf c).free = n := by rw [e, e']
    have hfirst : State.Logs { s with free := n' } { s.positionOf c with free := n' } := by
      rw [e, e']
      exact ⟨m, x, rfl, hlive, hoff⟩
    rw [hfree] at hlo' hhi'
    refine ⟨n', hfirst.trans hlogs, hlo.trans hlo', ?_⟩
    rw [List.length_cons]
    omega

/-- `t` is `s` after the position records of the first `k` cores, which the ring takes. -/
structure State.Positions (s t : State) (k : Nat) : Prop where
  frame : ∃ m x n, t = { s with mem := m, tr := x, free := n }
  takes : RingTakes t (8 - k)
  live : t.tr.live = s.tr.live
  wr : t.tr.wr = s.tr.wr + BitVec.ofNat 40 k
  lost : t.tr.lost = s.tr.lost
  wf : s.MemOk → t.MemOk
  recs : s.MemOk → ∀ c : Fin 8, c.val < k → PositionRecord s c (Mem.getN t.mem (s.ringLoc c.val) 64)

/-- A record that the ring takes after `k` others lies at the place of record `k`. -/
theorem State.Positions.ringLoc {s t : State} {k : Nat} (h : s.Positions t k) : t.ringLoc 0 = s.ringLoc k := by
  rw [State.ringLoc, State.ringLoc, h.live, h.wr]
  simp

/-- What a position record says is in the low 25 bytes. -/
theorem PositionRecord.stored {s : State} {c : Fin 8} {r : Nat} (h : PositionRecord s c r) {m : Memory}
    (hm : Memory.wf m = true) (a : Nat) : PositionRecord s c (Mem.getN (Mem.setN m a 64 r) a 64) := by
  unfold PositionRecord at h ⊢
  have hf : ∀ lo w, lo + w ≤ 512 → fld (Mem.getN (Mem.setN m a 64 r) a 64) lo w = fld r lo w :=
    fun _ _ => fld_getN_setN hm a r
  simpa (disch := decide) only [hf] using h

theorem State.Positions.next {s t : State} {c : Fin 8} (h : s.Positions t c.val) :
    s.Positions (t.positionOf c) (c.val + 1) := by
  obtain ⟨r, n, e, -, -, hr⟩ := t.positionOf_eq c
  have hloc := h.ringLoc
  obtain ⟨⟨m0, x0, n0, ht⟩, htakes, hlive, hwr, hlost, hwf, hrecs⟩ := h
  have htakes' : RingTakes t (1 + (8 - (c.val + 1))) := by
    have : 1 + (8 - (c.val + 1)) = 8 - c.val := by omega
    rwa [this]
  have hone : RingTakes { t with free := n } 1 := RingTakes.mono htakes (by omega)
  have hafter : t.positionOf c = { t with
      free := n, mem := Mem.setN t.mem (s.ringLoc c.val) 64 r, tr := t.ringAfter 1 } := by
    rw [e, RingTakes.trace_one hone, ← hloc]
    rfl
  have htr : (t.positionOf c).tr = t.ringAfter 1 := by rw [hafter]
  have hmem : (t.positionOf c).mem = Mem.setN t.mem (s.ringLoc c.val) 64 r := by rw [hafter]
  have hsize : s.tr.live.size ≠ 0 := by
    obtain ⟨-, hz, -⟩ := htakes
    rwa [hlive] at hz
  have hposition : PositionRecord s c r := by
    rw [ht] at hr
    exact hr
  refine ⟨⟨Mem.setN t.mem (s.ringLoc c.val) 64 r, t.ringAfter 1, n, by rw [hafter, ht]⟩,
    RingTakes.after (n := 1) (k := 8 - (c.val + 1)) htakes' htr (by rw [hafter]), by rw [htr]; exact hlive, ?_, by rw [htr]; exact hlost,
    fun hm => ?_, fun hm d hd => ?_⟩
  · rw [htr, BitVec.ofNat_add, ← BitVec.add_assoc, ← hwr]
    rfl
  · rw [State.MemOk, hmem]
    exact Memory.wf_setN (hwf hm) (s.ringLoc c.val) 64 r
  · rw [hmem]
    by_cases hdc : d.val = c.val
    · obtain rfl := Fin.ext hdc
      exact PositionRecord.stored hposition (hwf hm) _
    · have hlt : d.val < c.val := by omega
      rw [Mem.getN_setN_apart (hwf hm) (State.ringLoc_apart hsize hlt c.isLt)]
      exact hrecs hm d hlt

theorem exec_positionSample {s : State} (hc : s.tr.live.pper ≠ 0) (hp : s.pwr.st ≠ .deep) : exec .positionSample s
    = .next (([0, 1, 2, 3, 4, 5, 6, 7] : List (Fin 8)).foldl (fun s c => s.positionOf c) s) :=
  congrArg Host.Outcome.next (if_neg (not_or.mpr ⟨hc, hp⟩))

theorem exec_positionSample_off {s : State} (h : s.tr.live.pper = 0 ∨ s.pwr.st = .deep) :
    exec .positionSample s = .next s := congrArg Host.Outcome.next (if_pos h)

/-- The position records of all cores, which the ring takes. -/
theorem State.positions_all {s : State} (h : RingTakes s 8) :
    s.Positions (([0, 1, 2, 3, 4, 5, 6, 7] : List (Fin 8)).foldl (fun s c => s.positionOf c) s) 8 := by
  have h0 : s.Positions s 0 := ⟨⟨_, _, _, rfl⟩, h, rfl, by simp, rfl, id, fun _ _ hc => absurd hc (Nat.not_lt_zero _)⟩
  have h1 := h0.next (c := 0)
  have h2 := h1.next (c := 1)
  have h3 := h2.next (c := 2)
  have h4 := h3.next (c := 3)
  have h5 := h4.next (c := 4)
  have h6 := h5.next (c := 5)
  have h7 := h6.next (c := 6)
  simp only [List.foldl_cons, List.foldl_nil]
  exact h7.next (c := 7)

-- Events with their records (R583).

/-- The event is pending, its record still to come. -/
def State.pended (s : State) (e : Ev) : State :=
  { s with evt := { s.evt with pend := s.evt.pend ||| BitVec.ofNat 26 (2 ^ e.code) } }

/-- The record of an event with its words (R583). -/
def State.eventNumber (s : State) (e : Ev) (w : Who) (w0 w1 w2 : Nat) : Nat :=
  recHeader 0x03 0 s.stamp w e.code + put 144 32 w0 + put 176 32 w1 + put 208 64 w2

theorem State.raise_eq (s : State) (e : Ev) (w : Who) (w0 w1 w2 : Nat) : s.raise e w w0 w1 w2
    = if s.tr.live.evt then (s.pended e).trace [s.eventNumber e w w0 w1 w2] else s.pended e := rfl

theorem State.raise_logs (s : State) (e : Ev) (w : Who) (w0 w1 w2 : Nat) :
    ∃ m x, s.raise e w w0 w1 w2 = { s.pended e with mem := m, tr := x } ∧ x.live = s.tr.live ∧
      (s.tr.live.en = false ∨ s.tr.live.evt = false → m = s.mem ∧ x = s.tr) := by
  rw [State.raise_eq]
  split
  · rename_i hevt
    obtain ⟨m, x, ht, hlive, hoff⟩ := (s.pended e).trace_logs [s.eventNumber e w w0 w1 w2]
    exact ⟨m, x, ht, hlive, fun h => hoff (h.resolve_right fun hn => by simp [hn] at hevt)⟩
  · exact ⟨_, _, rfl, rfl, fun _ => ⟨rfl, rfl⟩⟩

/-- The record of an event that the ring takes, as it stands there. -/
theorem State.raise_record {s t : State} {e : Ev} {w : Who} {w0 w1 w2 : Nat} (ht : t = s.raise e w w0 w1 w2)
    (h : RingTakes s 1) (hevt : s.tr.live.evt = true) (hm : s.MemOk) : t.tr.wr = s.tr.wr + 1 ∧
      fld (recordAt s t 0) 132 8 = e.code ∧ fld (recordAt s t 0) 144 32 = w0 % 2 ^ 32 ∧
      fld (recordAt s t 0) 208 64 = w2 % 2 ^ 64 := by
  have htrace : t = { s.pended e with
      mem := Mem.setN s.mem (s.ringLoc 0) 64 (s.eventNumber e w w0 w1 w2), tr := s.ringAfter 1 } := by
    rw [ht, State.raise_eq, if_pos hevt]
    exact RingTakes.trace_one (s := s.pended e) h _
  obtain ⟨hlt, -, -, -, -, hcode⟩ := recHeader_fields 0x03 0 s.stamp w e.code
  have h144 := hlt.trans_le (Nat.pow_le_pow_right (by decide) (by decide : 140 ≤ 144))
  have h176 := lt_two_pow_add_put h144 (by decide : 144 + 32 ≤ 176) w0
  have h208 := lt_two_pow_add_put h176 (by decide : 176 + 32 ≤ 208) w1
  have hcode' : e.code % 2 ^ 8 = e.code := Nat.mod_eq_of_lt (e.code_lt.trans (by decide))
  have hrecord : recordAt s t 0 = Mem.getN t.mem (s.ringLoc 0) 64 := rfl
  rw [hrecord, htrace]
  refine ⟨rfl, ?_, ?_, ?_⟩
  all_goals
    rw [fld_getN_setN hm _ _ (by decide), State.eventNumber]
    simp (disch := decide) only [fld_add_put_below, fld_add_put_at h144, fld_add_put_at h208, hcode, hcode']

-- HANG (R588).

/-- A slot in RUN that made no progress for its time, which was not yet reported. -/
def State.hangs (s : State) (i : Fin 16) : Prop :=
  ¬((s.slot i).st ≠ .run ∨ (s.slot i).hung = true ∨ s.tr.live.hangt = 0 ∨
    (s.tm.tick - (s.slot i).lastProg).toNat < s.tr.live.hangt.toNat * 4000000)

theorem exec_hang_of_hangs {s : State} {i : Fin 16} (h : s.hangs i) : exec (.hang i) s
    = .next ((s.setSlot i { s.slot i with hung := true }).raise .hang { unit := 8, slot := i.val } i.val 0
      (s.slot i).lastProg.toNat) := congrArg Host.Outcome.next (if_neg h)

theorem exec_hang_of_not {s : State} {i : Fin 16} (h : ¬s.hangs i) : exec (.hang i) s = .next s :=
  congrArg Host.Outcome.next (if_pos (not_not.mp h))

-- SNAPDUE (R526).

/-- A newest snapshot as old as `INTERVAL`, which was not yet reported. -/
def State.snapIsDue (s : State) : Prop :=
  ¬(s.snap.newest = 0 ∨ s.snap.newest ∈ s.snap.dueFor ∨
    (s.tm.tick - s.snap.newestTick).toNat < s.snap.interval.toNat * 4000000000)

theorem exec_snapdue_of_due {s : State} (h : s.snapIsDue) : exec .snapdue s
    = .next (State.raise { s with snap := { s.snap with dueFor := s.snap.newest :: s.snap.dueFor } } .snapdue
      { unit := 12 } s.snap.newest.toNat 0 0) := congrArg Host.Outcome.next (if_neg h)

theorem exec_snapdue_of_not {s : State} (h : ¬s.snapIsDue) : exec .snapdue s = .next s :=
  congrArg Host.Outcome.next (if_pos (not_not.mp h))

/-- Settles O45: samples and position records one after the other, HANG and SNAPDUE by their event and its record. -/
theorem periodicObservations : Obligations.PeriodicObservations := by
  unfold Obligations.PeriodicObservations
  intro s
  refine ⟨fun hc hp => ⟨_, exec_automaticSample hc hp, ?_⟩, exec_automaticSample_off,
    fun hc hp => ⟨_, exec_positionSample hc hp, ?_⟩, exec_positionSample_off, fun i h1 h2 h3 h4 => ?_,
    fun i h => exec_hang_of_not (not_not.mpr h), fun h1 h2 h3 => ?_, fun h => exec_snapdue_of_not (not_not.mpr h)⟩
  · obtain ⟨⟨m, x, e, -⟩, hlive, hoff, hring⟩ := s.sampleAll_spec
    refine ⟨?_, hlive, hoff, hring⟩
    rw [e]
    rfl
  · obtain ⟨n, ⟨m, x, e, hlive, hoff⟩, hlo, hhi⟩ :=
      s.foldl_positionOf_shape ([0, 1, 2, 3, 4, 5, 6, 7] : List (Fin 8))
    have hpositions := State.positions_all (s := s)
    generalize ([0, 1, 2, 3, 4, 5, 6, 7] : List (Fin 8)).foldl (fun s c => s.positionOf c) s = t at *
    subst e
    exact ⟨rfl, hlo, hhi, hlive, hoff, fun h => ⟨(hpositions h).wr, (hpositions h).lost⟩,
      fun h hm c => (hpositions h).recs hm c c.isLt⟩
  · have hhangs : s.hangs i := by
      unfold State.hangs
      simp only [h1, h2, h3, ne_eq, not_true_eq_false, Bool.false_eq_true, false_or, Nat.not_lt]
      exact h4
    obtain ⟨m, x, e, -, hoff⟩ := (s.setSlot i { s.slot i with hung := true }).raise_logs .hang
      { unit := 8, slot := i.val } i.val 0 (s.slot i).lastProg.toNat
    have hrecord := State.raise_record (s := s.setSlot i { s.slot i with hung := true }) e.symm
    have hslot := s.slot_setSlot_same i { s.slot i with hung := true }
    refine ⟨_, (exec_hang_of_hangs hhangs).trans (congrArg _ e), rfl, hslot, fun j hj => s.slot_setSlot_other _ hj, hoff,
      fun hr hevt hm => ?_, exec_hang_of_not (not_not.mpr (.inr (.inl (congrArg Slot.hung hslot))))⟩
    obtain ⟨hwr, hcode, h0, h2⟩ := hrecord hr hevt hm
    exact ⟨hwr, hcode, h0.trans (Nat.mod_eq_of_lt (i.isLt.trans (by decide))), h2.trans (Nat.mod_eq_of_lt (BitVec.isLt _))⟩
  · have hdue : s.snapIsDue := by
      unfold State.snapIsDue
      simp only [h1, h2, false_or, Nat.not_lt]
      exact h3
    obtain ⟨m, x, e, -, hoff⟩ := State.raise_logs { s with snap := { s.snap with
      dueFor := s.snap.newest :: s.snap.dueFor } } .snapdue { unit := 12 } s.snap.newest.toNat 0 0
    have hrecord := State.raise_record (s := { s with snap := { s.snap with
      dueFor := s.snap.newest :: s.snap.dueFor } }) e.symm
    refine ⟨_, (exec_snapdue_of_due hdue).trans (congrArg _ e), rfl, hoff, fun hr hevt hm => ?_,
      exec_snapdue_of_not (not_not.mpr (.inr (.inl List.mem_cons_self)))⟩
    obtain ⟨hwr, hcode, h0, -⟩ := hrecord hr hevt hm
    exact ⟨hwr, hcode, h0.trans (Nat.mod_eq_of_lt (BitVec.isLt _))⟩

end Sys2Proof.Machine
end
section
/-! SUPPORT. Bytes as elements of GF(2⁸) (R513): the model's product on bytes, its doubling, and the inverses that a
solved group divides by. -/
namespace Sys2Proof.Machine

/-- Product by g, reduced by x⁸ + x⁴ + x³ + x² + 1. -/
def gfDouble (x : Byte) : Byte := (x <<< 1) ^^^ (if x.msb then 0x1D#8 else 0#8)

/-- Sum of gᵏ a over the set bits k of b below n. -/
def gfTimesBelow (a b : Byte) : Nat → Byte
  | 0 => 0#8
  | n + 1 => gfTimesBelow a b n ^^^ (if b.getLsbD n then gfDouble^[n] a else 0#8)

/-- Product of two bytes. -/
def gfTimes (a b : Byte) : Byte := gfTimesBelow a b 8

/-- gᵏ as a byte. -/
def gfPower (k : Nat) : Byte := gfDouble^[k] 1

/-- Adding a byte under either of two conditions is adding it under just one of them. -/
theorem ite_xor_ite (p q : Bool) (d : Byte) :
    (if (p ^^ q) then d else 0#8) = (if p then d else 0#8) ^^^ (if q then d else 0#8) := by
  cases p <;> cases q <;> simp

theorem gfDouble_xor (x y : Byte) : gfDouble (x ^^^ y) = gfDouble x ^^^ gfDouble y := by
  unfold gfDouble
  rw [BitVec.shiftLeft_xor_distrib, BitVec.msb_xor, ite_xor_ite]
  ac_rfl

theorem gfDouble_iterate_xor (k : Nat) (x y : Byte) :
    gfDouble^[k] (x ^^^ y) = gfDouble^[k] x ^^^ gfDouble^[k] y := by
  induction k generalizing x y with
  | zero => rfl
  | succ k ih => simp only [Function.iterate_succ_apply, gfDouble_xor, ih]

theorem gfDouble_iterate_zero (k : Nat) : gfDouble^[k] 0#8 = 0#8 := Function.iterate_fixed rfl k

/-- The model's doubling step on a byte. -/
theorem toNat_gfDouble (x : Byte) :
    (gfDouble x).toNat = if 256 ≤ 2 * x.toNat then Nat.xor (2 * x.toNat) 0x11D else 2 * x.toNat := by
  revert x; decide +kernel

theorem bit_toNat (x : Byte) (k : Nat) : bit x.toNat k = x.getLsbD k := by
  unfold bit fld
  rw [BitVec.getLsbD, Nat.testBit_eq_decide_div_mod_eq, Nat.shiftRight_eq_div_pow]
  rfl

/-- What the model's product has after n bits of the second factor. -/
theorem gfMul_steps (a b : Byte) (n : Nat) :
    (forN n (0, a.toNat) fun (x : Nat × Nat) k =>
      let acc := if bit b.toNat k then Nat.xor x.1 x.2 else x.1
      let d := 2 * x.2
      (acc, if 256 ≤ d then Nat.xor d 0x11D else d)) = ((gfTimesBelow a b n).toNat, (gfDouble^[n] a).toNat) := by
  induction n with
  | zero => rfl
  | succ n ih =>
    unfold forN at ih ⊢
    rw [List.range_succ, List.foldl_append, ih]
    simp only [List.foldl_cons, List.foldl_nil, bit_toNat, gfTimesBelow, Function.iterate_succ_apply',
      toNat_gfDouble, Prod.mk.injEq, and_true]
    split
    · exact (BitVec.toNat_xor ..).symm
    · rw [BitVec.xor_zero]

/-- The model's product of two bytes is `gfTimes`. -/
theorem gfMul_toNat (a b : Byte) : gfMul a.toNat b.toNat = (gfTimes a b).toNat := by
  unfold gfMul
  rw [gfMul_steps]
  rfl

/-- A map that adds and commutes with doubling goes through the first factor. -/
theorem map_gfTimesBelow {F : Byte → Byte} (hadd : ∀ x y, F (x ^^^ y) = F x ^^^ F y) (hzero : F 0#8 = 0#8)
    (hdbl : ∀ x, F (gfDouble x) = gfDouble (F x)) (a b : Byte) (n : Nat) :
    F (gfTimesBelow a b n) = gfTimesBelow (F a) b n := by
  have hit : ∀ k x, F (gfDouble^[k] x) = gfDouble^[k] (F x) := fun k =>
    Function.Semiconj.iterate_right (f := F) (ga := gfDouble) (gb := gfDouble) hdbl k
  induction n with
  | zero => exact hzero
  | succ n ih =>
    unfold gfTimesBelow
    rw [hadd, ih]
    split
    · rw [hit]
    · rw [hzero]

theorem gfTimes_zero (a : Byte) : gfTimes a 0#8 = 0#8 := by
  simp [gfTimes, gfTimesBelow]

theorem gfTimes_one (b : Byte) : gfTimes 1 b = b := by
  revert b; decide +kernel

theorem one_gfTimes (a : Byte) : gfTimes a 1 = a := by
  simp [gfTimes, gfTimesBelow]

theorem gfTimesBelow_xor_right (a b c : Byte) (n : Nat) :
    gfTimesBelow a (b ^^^ c) n = gfTimesBelow a b n ^^^ gfTimesBelow a c n := by
  induction n with
  | zero => exact (BitVec.xor_self (x := 0#8)).symm
  | succ n ih =>
    unfold gfTimesBelow
    rw [ih, BitVec.getLsbD_xor, ite_xor_ite]
    ac_rfl

theorem gfTimes_xor_right (a b c : Byte) : gfTimes a (b ^^^ c) = gfTimes a b ^^^ gfTimes a c :=
  gfTimesBelow_xor_right a b c 8

theorem gfTimesBelow_xor_left (a b c : Byte) (n : Nat) :
    gfTimesBelow (a ^^^ b) c n = gfTimesBelow a c n ^^^ gfTimesBelow b c n := by
  induction n with
  | zero => exact (BitVec.xor_self (x := 0#8)).symm
  | succ n ih =>
    unfold gfTimesBelow
    rw [ih, gfDouble_iterate_xor]
    split
    · ac_rfl
    · simp only [BitVec.xor_zero]

theorem gfTimes_xor_left (a b c : Byte) : gfTimes (a ^^^ b) c = gfTimes a c ^^^ gfTimes b c :=
  gfTimesBelow_xor_left a b c 8

theorem gfTimes_gfDouble (a b : Byte) : gfTimes (gfDouble a) b = gfDouble (gfTimes a b) :=
  (map_gfTimesBelow gfDouble_xor rfl (fun _ => rfl) a b 8).symm

theorem gfTimes_gfDouble_iterate (k : Nat) (a b : Byte) :
    gfTimes (gfDouble^[k] a) b = gfDouble^[k] (gfTimes a b) :=
  Function.Semiconj.iterate_right (f := (gfTimes · b)) (ga := gfDouble) (gb := gfDouble)
    (fun x => gfTimes_gfDouble x b) k a

theorem gfPower_gfTimes (k : Nat) (b : Byte) : gfTimes (gfPower k) b = gfDouble^[k] b := by
  rw [gfPower, gfTimes_gfDouble_iterate, gfTimes_one]

theorem zero_gfTimes (b : Byte) : gfTimes 0#8 b = 0#8 := by
  have h := gfTimes_xor_left 0#8 0#8 b
  rwa [BitVec.xor_self, BitVec.xor_self] at h

/-- A map that adds and commutes with doubling is the product by what it makes of 1. -/
theorem eq_gfTimes_of_linear {F : Byte → Byte} (hadd : ∀ x y, F (x ^^^ y) = F x ^^^ F y) (hzero : F 0#8 = 0#8)
    (hdbl : ∀ x, F (gfDouble x) = gfDouble (F x)) (b : Byte) : F b = gfTimes (F 1) b := by
  conv => lhs; rw [← gfTimes_one b]
  exact map_gfTimesBelow hadd hzero hdbl 1 b 8

theorem gfTimes_comm (a b : Byte) : gfTimes a b = gfTimes b a := by
  rw [eq_gfTimes_of_linear (F := (gfTimes · b)) (fun x y => gfTimes_xor_left x y b) (zero_gfTimes b)
    (fun x => gfTimes_gfDouble x b) a, gfTimes_one]

/-- g has an order that divides 255. -/
theorem gfDouble_iterate_255 (b : Byte) : gfDouble^[255] b = b := by
  have h1 : gfPower 255 = 1 := by decide +kernel
  rw [← gfPower_gfTimes, h1, gfTimes_one]

theorem gfPow_eq (k : Nat) : gfPow k = (gfPower k).toNat := by
  unfold gfPow forN
  induction k with
  | zero => rfl
  | succ k ih =>
    rw [List.range_succ, List.foldl_append, ih]
    calc gfMul (gfPower k).toNat (gfPower 1).toNat = (gfTimes (gfPower 1) (gfPower k)).toNat := by
          rw [gfMul_toNat, gfTimes_comm]
      _ = (gfPower (k + 1)).toNat := by
          rw [gfPower_gfTimes, gfPower, gfPower, ← Function.iterate_add_apply, Nat.add_comm]

/-- The model's inverse of a power of g. -/
theorem gfInv_gfPower (e : Nat) : gfInv (gfPower e).toNat = (gfPower (e * 254)).toNat := by
  have step : ∀ n, (forN n 1 fun x _ => gfMul x (gfPower e).toNat) = (gfPower (e * n)).toNat := by
    intro n
    unfold forN
    induction n with
    | zero => rfl
    | succ n ih =>
      rw [List.range_succ, List.foldl_append, ih]
      simp only [List.foldl_cons, List.foldl_nil]
      rw [gfMul_toNat, gfTimes_comm, gfPower_gfTimes, gfPower, gfPower, ← Function.iterate_add_apply]
      rw [show e + e * n = e * (n + 1) by rw [Nat.mul_succ, Nat.add_comm]]
  exact step 254

/-- Dividing by a power of g undoes the product by it. -/
theorem gfInv_cancel (e : Nat) (b : Byte) : gfTimes (gfPower (e * 254)) (gfTimes (gfPower e) b) = b := by
  rw [gfPower_gfTimes, gfPower_gfTimes, ← Function.iterate_add_apply, ← Nat.mul_succ, Nat.mul_comm,
    Function.iterate_mul]
  exact Function.iterate_fixed (gfDouble_iterate_255 b) e

/-- Exponents of 1 + gᵈ for d below 8. -/
def gfSumLog (d : Nat) : Nat := nth [0, 25, 50, 223, 100, 138, 191, 112] d 0

theorem one_xor_gfPower : ∀ d : Fin 8, d ≠ 0 → 1 ^^^ gfPower d = gfPower (gfSumLog d) := by decide +kernel

/-- The sum of two different low powers of g is a power of g. -/
theorem gfPower_xor {j k : Nat} (hjk : j < k) (hk : k < 8) :
    gfPower j ^^^ gfPower k = gfPower (j + gfSumLog (k - j)) := by
  have h := one_xor_gfPower ⟨k - j, by omega⟩ (fun he => by
    have := congrArg Fin.val he
    simp only [Fin.val_zero] at this
    omega)
  calc gfPower j ^^^ gfPower k = gfDouble^[j] (1 ^^^ gfPower (k - j)) := by
        rw [gfDouble_iterate_xor, gfPower, gfPower, gfPower, ← Function.iterate_add_apply,
          show j + (k - j) = k by omega]
    _ = gfPower (j + gfSumLog (k - j)) := by
        simp only [] at h
        rw [h, gfPower, gfPower, ← Function.iterate_add_apply]

end Sys2Proof.Machine
end
section
/-! SUPPORT. Images added byte by byte (R513), the parity of a group, and O59: a group solved for one or two lost images. -/
namespace Sys2Proof.Machine

theorem Memory.wf_addCells {acc : Memory} (k : Nat) (hacc : Memory.wf acc = true) (cells : Memory) :
    Memory.wf (addCells k acc cells) = true := by
  unfold addCells
  induction cells generalizing acc with
  | nil => exact hacc
  | cons c r ih => exact ih (Memory.wf_set hacc _ _)

theorem ofNat_xor_gfMul (a k v : Byte) :
    BitVec.ofNat 8 (Nat.xor a.toNat (gfMul k.toNat v.toNat)) = a ^^^ gfTimes k v := by
  rw [gfMul_toNat]
  exact BitVec.eq_of_toNat_eq (by
    rw [BitVec.toNat_ofNat, BitVec.toNat_xor]
    exact Nat.mod_eq_of_lt (Nat.xor_lt_two_pow a.isLt (gfTimes k v).isLt))

/-- A byte of a memory whose first listed byte is known. -/
theorem Mem.get_cons (b : Nat) (v : Byte) (r : Memory) (h : Memory.wf ((b, v) :: r) = true) (x : Nat) :
    Mem.get ((b, v) :: r) x = if x = b then v else Mem.get r x := by
  rw [Mem.get.eq_def]
  dsimp only
  split
  · rfl
  · split
    · next hx => exact (Mem.get_below fun c hc => Nat.lt_trans hx (Memory.wf_lt h c hc)).symm
    · rfl

/-- Adding k times an image adds k times each of its bytes. -/
theorem Mem.get_addCells {acc cells : Memory} (k : Byte) (hacc : Memory.wf acc = true)
    (hcells : Memory.wf cells = true) (x : Nat) :
    Mem.get (addCells k.toNat acc cells) x = Mem.get acc x ^^^ gfTimes k (Mem.get cells x) := by
  induction cells generalizing acc with
  | nil => exact (show Mem.get acc x = Mem.get acc x ^^^ gfTimes k 0#8 by rw [gfTimes_zero, BitVec.xor_zero])
  | cons c r ih =>
    obtain ⟨b, v⟩ := c
    have hset := Memory.wf_set hacc b (Mem.get acc b ^^^ gfTimes k v)
    have hstep : addCells k.toNat acc ((b, v) :: r)
        = addCells k.toNat (Mem.set acc b (Mem.get acc b ^^^ gfTimes k v)) r := by
      unfold addCells
      rw [List.foldl_cons, ofNat_xor_gfMul]
    rw [hstep, ih hset (Memory.wf_tail hcells), Mem.get_cons b v r hcells]
    by_cases hx : x = b
    · subst hx
      rw [Mem.get_set_same hacc, if_pos rfl, Mem.get_below (Memory.wf_lt hcells),
        show gfTimes k Config.unwritten = 0#8 from gfTimes_zero k, BitVec.xor_zero]
    · rw [Mem.get_set_other hacc _ hx, if_neg hx]

theorem Mem.get_scaleCells {cells : Memory} (k : Byte) (h : Memory.wf cells = true) (x : Nat) :
    Mem.get (scaleCells k.toNat cells) x = gfTimes k (Mem.get cells x) := by
  rw [scaleCells, Mem.get_addCells k rfl h]
  exact BitVec.zero_xor

/-- What a place of a parity group takes a member's image by: 1 for P, a power of g for Q. -/
def parityFactor (place i : Nat) : Byte := if place = 0 then 1 else gfPower i

theorem parityFactor_toNat (place i : Nat) :
    (if place = 0 then 1 else gfPow i) = (parityFactor place i).toNat := by
  unfold parityFactor
  split
  · rfl
  · exact gfPow_eq i

/-- The byte at x of the sum of images, each with its place in the group. -/
def paritySum (place x : Nat) : List (Memory × Nat) → Byte
  | [] => 0#8
  | m :: l => gfTimes (parityFactor place m.2) (Mem.get m.1 x) ^^^ paritySum place x l

/-- Images added onto a memory, as parity and the solving of a group do it. -/
def addImages (place : Nat) (acc : Memory) (l : List (Memory × Nat)) : Memory :=
  l.foldl (fun a m => addCells (if place = 0 then 1 else gfPow m.2) a m.1) acc

theorem Memory.wf_addImages (place : Nat) {acc : Memory} (hacc : Memory.wf acc = true) (l : List (Memory × Nat)) :
    Memory.wf (addImages place acc l) = true := by
  unfold addImages
  induction l generalizing acc with
  | nil => exact hacc
  | cons m l ih => exact ih (Memory.wf_addCells _ hacc m.1)

theorem Mem.get_addImages (place : Nat) {acc : Memory} (hacc : Memory.wf acc = true) (l : List (Memory × Nat))
    (hl : ∀ m ∈ l, Memory.wf m.1 = true) (x : Nat) :
    Mem.get (addImages place acc l) x = Mem.get acc x ^^^ paritySum place x l := by
  induction l generalizing acc with
  | nil => exact BitVec.xor_zero.symm
  | cons m l ih =>
    have hstep : addImages place acc (m :: l) = addImages place (addCells (parityFactor place m.2).toNat acc m.1) l := by
      unfold addImages
      rw [List.foldl_cons, parityFactor_toNat]
    rw [hstep, ih (Memory.wf_addCells _ hacc m.1) fun q hq => hl q (List.mem_cons_of_mem _ hq),
      Mem.get_addCells _ hacc (hl m List.mem_cons_self), paritySum, BitVec.xor_assoc]

/-- A sum is that of the images with a property and that of the others. -/
theorem paritySum_filter (place x : Nat) (p : Memory × Nat → Bool) (l : List (Memory × Nat)) :
    paritySum place x l = paritySum place x (l.filter p) ^^^ paritySum place x (l.filter fun m => !p m) := by
  induction l with
  | nil => exact (BitVec.xor_self (x := 0#8)).symm
  | cons m l ih =>
    rw [List.filter_cons, List.filter_cons, paritySum, ih]
    cases p m
    · simp only [Bool.false_eq_true, if_false, Bool.not_false, if_true, paritySum]
      ac_rfl
    · simp only [if_true, Bool.not_true, Bool.false_eq_true, if_false, paritySum, BitVec.xor_assoc]

theorem filter_zipIdx_none {α : Type} (l : List α) (n j : Nat) (hj : j < n) :
    (l.zipIdx n).filter (fun m => m.2 == j) = [] := by
  rw [List.filter_eq_nil_iff]
  intro m hm
  have h := List.le_snd_of_mem_zipIdx hm
  rw [beq_iff_eq]
  omega

/-- Of a numbered list one entry has a given number. -/
theorem filter_zipIdx_eq {α : Type} (l : List α) (n j : Nat) (hj : j < l.length) :
    (l.zipIdx n).filter (fun m => m.2 == n + j) = [(l[j], n + j)] := by
  induction l generalizing n j with
  | nil => exact absurd hj (Nat.not_lt_zero j)
  | cons a t ih =>
    rw [List.zipIdx_cons, List.filter_cons]
    cases j with
    | zero =>
      rw [Nat.add_zero, if_pos (beq_iff_eq.mpr rfl), filter_zipIdx_none t (n + 1) n (Nat.lt_succ_self n)]
      rfl
    | succ j =>
      have h := ih (n + 1) j (Nat.lt_of_succ_lt_succ hj)
      rw [show n + 1 + j = n + (j + 1) by omega] at h
      rw [if_neg (by rw [beq_iff_eq]; omega), h]
      rfl

section
variable (imgs : List Memory)

/-- The members of a group that are not lost, numbered. -/
def keptImages (gone : List Nat) : List (Memory × Nat) := imgs.zipIdx.filter fun m => !gone.contains m.2

theorem paritySum_kept_one (place x : Nat) {j : Nat} (hj : j < imgs.length) :
    paritySum place x imgs.zipIdx ^^^ paritySum place x (keptImages imgs [j])
      = gfTimes (parityFactor place j) (Mem.get imgs[j] x) := by
  rw [paritySum_filter place x (fun m => [j].contains m.2) imgs.zipIdx, keptImages, BitVec.xor_assoc, BitVec.xor_self,
    BitVec.xor_zero]
  have hone := filter_zipIdx_eq imgs 0 j hj
  rw [Nat.zero_add] at hone
  simp only [List.contains_cons, List.contains_nil, Bool.or_false, hone, paritySum, BitVec.xor_zero]

theorem paritySum_kept_two (place x : Nat) {j k : Nat} (hjk : j < k) (hk : k < imgs.length) :
    paritySum place x imgs.zipIdx ^^^ paritySum place x (keptImages imgs [j, k])
      = gfTimes (parityFactor place j) (Mem.get (imgs[j]'(Nat.lt_trans hjk hk)) x)
        ^^^ gfTimes (parityFactor place k) (Mem.get imgs[k] x) := by
  have hone := fun i (h : i < imgs.length) => Nat.zero_add i ▸ filter_zipIdx_eq imgs 0 i h
  rw [paritySum_filter place x (fun m => [j, k].contains m.2) imgs.zipIdx, keptImages, BitVec.xor_assoc,
    BitVec.xor_self, BitVec.xor_zero, paritySum_filter place x (fun m => m.2 == j), List.filter_filter,
    List.filter_filter]
  have h1 : imgs.zipIdx.filter (fun m => (m.2 == j) && [j, k].contains m.2) = imgs.zipIdx.filter (·.2 == j) :=
    List.filter_congr fun m _ => by by_cases h : m.2 = j <;> simp [h]
  have h2 : imgs.zipIdx.filter (fun m => !(m.2 == j) && [j, k].contains m.2) = imgs.zipIdx.filter (·.2 == k) :=
    List.filter_congr fun m _ => by
      by_cases h : m.2 = j
      · simp [h, Nat.ne_of_lt hjk]
      · simp [h, Bool.beq_eq_decide_eq]
  rw [h1, h2, hone j (Nat.lt_trans hjk hk), hone k hk]
  simp only [paritySum, BitVec.xor_zero]

variable (hwf : ∀ m ∈ imgs, Memory.wf m = true)
include hwf

theorem wf_of_mem_zipIdx {m : Memory × Nat} (hm : m ∈ imgs.zipIdx) : Memory.wf m.1 = true :=
  hwf m.1 (List.fst_mem_of_mem_zipIdx hm)

/-- A parity image with the kept members taken off again. -/
def syndrome (place : Nat) (gone : List Nat) : Memory :=
  addImages place (parityOf2 place imgs) (keptImages imgs gone)

omit hwf in
theorem Memory.wf_parityOf2 (place : Nat) : Memory.wf (parityOf2 place imgs) = true :=
  Memory.wf_addImages place (acc := []) rfl imgs.zipIdx

omit hwf in
theorem Memory.wf_syndrome (place : Nat) (gone : List Nat) : Memory.wf (syndrome imgs place gone) = true :=
  Memory.wf_addImages place (Memory.wf_parityOf2 imgs place) _

theorem Mem.get_syndrome (place : Nat) (gone : List Nat) (x : Nat) :
    Mem.get (syndrome imgs place gone) x
      = paritySum place x imgs.zipIdx ^^^ paritySum place x (keptImages imgs gone) := by
  have hp : Mem.get (parityOf2 place imgs) x = paritySum place x imgs.zipIdx := by
    have h := Mem.get_addImages place (acc := []) rfl imgs.zipIdx (fun _ => wf_of_mem_zipIdx imgs hwf) x
    rwa [show Mem.get [] x = 0#8 from rfl, BitVec.zero_xor] at h
  rw [syndrome, Mem.get_addImages place (Memory.wf_parityOf2 imgs place) (keptImages imgs gone)
    (fun m hm => wf_of_mem_zipIdx imgs hwf (List.mem_of_mem_filter hm)), hp]

/-- What P lacks of one lost member is its image. -/
theorem syndrome_p_one {j : Nat} (hj : j < imgs.length) : syndrome imgs 0 [j] = imgs[j] :=
  Mem.ext (Memory.wf_syndrome imgs 0 [j]) (hwf _ (List.getElem_mem hj)) fun x => by
    rw [Mem.get_syndrome imgs hwf, paritySum_kept_one imgs 0 x hj]
    exact gfTimes_one _

/-- What Q lacks of one lost member, divided by its power of g, is its image. -/
theorem syndrome_q_one {j : Nat} (hj : j < imgs.length) :
    scaleCells (gfInv (gfPow j)) (syndrome imgs 1 [j]) = imgs[j] :=
  Mem.ext (Memory.wf_addCells _ rfl _) (hwf _ (List.getElem_mem hj)) fun x => by
    rw [gfPow_eq, gfInv_gfPower, Mem.get_scaleCells _ (Memory.wf_syndrome imgs 1 [j]), Mem.get_syndrome imgs hwf,
      paritySum_kept_one imgs 1 x hj]
    exact gfInv_cancel j _

/-- What P and Q lack of two lost members gives the second of them. -/
theorem syndrome_two_second {j k : Nat} (hjk : j < k) (hk : k < imgs.length) (hlen : imgs.length ≤ 8) :
    scaleCells (gfInv (Nat.xor (gfPow j) (gfPow k)))
      (addCells (gfPow j) (syndrome imgs 1 [j, k]) (syndrome imgs 0 [j, k])) = imgs[k] :=
  Mem.ext (Memory.wf_addCells _ rfl _) (hwf _ (List.getElem_mem hk)) fun x => by
    have hp := Memory.wf_syndrome imgs 0 [j, k]
    have hq := Memory.wf_syndrome imgs 1 [j, k]
    have hxor : Nat.xor (gfPow j) (gfPow k) = (gfPower (j + gfSumLog (k - j))).toNat := by
      rw [← gfPower_xor hjk (Nat.lt_of_lt_of_le hk hlen), gfPow_eq, gfPow_eq]
      exact (BitVec.toNat_xor ..).symm
    have hsum : Mem.get (addCells (gfPow j) (syndrome imgs 1 [j, k]) (syndrome imgs 0 [j, k])) x
        = gfTimes (gfPower (j + gfSumLog (k - j))) (Mem.get imgs[k] x) := by
      rw [gfPow_eq, Mem.get_addCells _ hq hp, Mem.get_syndrome imgs hwf, Mem.get_syndrome imgs hwf,
        paritySum_kept_two imgs 1 x hjk hk, paritySum_kept_two imgs 0 x hjk hk,
        ← gfPower_xor hjk (Nat.lt_of_lt_of_le hk hlen), gfTimes_xor_left]
      simp only [parityFactor, if_true, Nat.one_ne_zero, if_false, gfTimes_one, gfTimes_xor_right]
      rw [show ∀ a b c : Byte, (a ^^^ b) ^^^ (a ^^^ c) = (a ^^^ a) ^^^ (c ^^^ b) by intros; ac_rfl, BitVec.xor_self,
        BitVec.zero_xor]
    rw [hxor, gfInv_gfPower, Mem.get_scaleCells _ (Memory.wf_addCells _ hq _), hsum]
    exact gfInv_cancel _ _

/-- The second of two lost members gives the first from P. -/
theorem syndrome_two_first {j k : Nat} (hjk : j < k) (hk : k < imgs.length) :
    addCells 1 imgs[k] (syndrome imgs 0 [j, k]) = imgs[j]'(Nat.lt_trans hjk hk) :=
  Mem.ext (Memory.wf_addCells _ (hwf _ (List.getElem_mem hk)) _) (hwf _ (List.getElem_mem _)) fun x => by
    rw [show (1 : Nat) = (1 : Byte).toNat from rfl, Mem.get_addCells _ (hwf _ (List.getElem_mem hk))
      (Memory.wf_syndrome imgs 0 [j, k]), Mem.get_syndrome imgs hwf, paritySum_kept_two imgs 0 x hjk hk]
    simp only [parityFactor, if_true, gfTimes_one]
    rw [show ∀ a b : Byte, a ^^^ (b ^^^ a) = (a ^^^ a) ^^^ b by intros; ac_rfl, BitVec.xor_self, BitVec.zero_xor]

omit hwf in
/-- The solving of a group takes the kept members off a parity image. -/
theorem foldl_kept_eq_syndrome (place : Nat) (gone : List Nat) :
    (((imgs.zipIdx.filter fun m => !gone.contains m.2).map fun m => (m.2, m.1)).foldl
      (fun a d => addCells (if place = 0 then 1 else gfPow d.1) a d.2) (parityOf2 place imgs))
      = syndrome imgs place gone := by
  rw [List.foldl_map]
  rfl

end

/-- Two lost members from what P and Q lack of them, as `solveGroup` computes them. -/
def solvedPair (j k : Nat) (p q : Memory) : List (Nat × Memory) :=
  let dk := scaleCells (gfInv (Nat.xor (gfPow j) (gfPow k))) (addCells (gfPow j) q p)
  [(j, addCells 1 dk p), (k, dk)]

/-- Settles O59: the kept members taken off P and Q leave the sums of the lost ones, one by P or a division, two by
a division in the byte field and P. -/
theorem parityRecoversLostImages : Obligations.ParityRecoversLostImages := by
  unfold Obligations.ParityRecoversLostImages
  intro imgs hlen hwf P Q kept
  have hp : ∀ gone, (kept gone).foldl (fun a d => addCells (if 0 = 0 then 1 else gfPow d.1) a d.2) P
      = syndrome imgs 0 gone := foldl_kept_eq_syndrome imgs 0
  have hq : ∀ gone, (kept gone).foldl (fun a d => addCells (if 1 = 0 then 1 else gfPow d.1) a d.2) Q
      = syndrome imgs 1 gone := foldl_kept_eq_syndrome imgs 1
  refine ⟨fun j hj => ⟨?_, ?_, ?_⟩, fun j k hjk hk => ?_⟩
  · exact congrArg (fun m => [(j, m)]) ((hp [j]).trans (syndrome_p_one imgs hwf hj))
  · refine (congrArg (fun m => [(j, scaleCells (gfInv (gfPow j)) m)]) (hq [j])).trans ?_
    rw [syndrome_q_one imgs hwf hj]
  · exact congrArg (fun m => [(j, m)]) ((hp [j]).trans (syndrome_p_one imgs hwf hj))
  · refine (congrArg₂ (fun p q => solvedPair j k p q) (hp [j, k]) (hq [j, k])).trans ?_
    rw [solvedPair, syndrome_two_second imgs hwf hjk hk hlen, syndrome_two_first imgs hwf hjk hk]

end Sys2Proof.Machine
end
section
/-! SUPPORT. Counter values and the waits of gangs for their operands are read by nothing that a fetch works out: what a
graph's task words, descriptors and tables say, the units that a gang reads, its checks and its room (R77 to R79, R571). -/
namespace Sys2Proof.Machine

/-- The state with other counter values, other gangs that wait, and another tick up to which waits are counted. -/
def State.noted (s : State) (o : Observe) (w : List ((Fin 16 × Nat) × Fin 8)) (r : BitVec 64) : State :=
  { s with obs := o, hg := { s.hg with resWait := w, resFrom := r } }

variable (s : State) (o : Observe) (w : List ((Fin 16 × Nat) × Fin 8)) (r : BitVec 64)
@[simp] theorem noted_mem : (s.noted o w r).mem = s.mem := rfl
@[simp] theorem noted_hall : (s.noted o w r).hall = s.hall := rfl
@[simp] theorem noted_rem : (s.noted o w r).rem = s.rem := rfl
@[simp] theorem noted_stw : (s.noted o w r).stw = s.stw := rfl
@[simp] theorem noted_snap : (s.noted o w r).snap = s.snap := rfl
@[simp] theorem noted_slots : (s.noted o w r).hg.slots = s.hg.slots := rfl
@[simp] theorem noted_flight : (s.noted o w r).hg.flight = s.hg.flight := rfl
@[simp] theorem noted_resident : (s.noted o w r).hg.resident = s.hg.resident := rfl
@[simp] theorem noted_verBase : (s.noted o w r).hg.verBase = s.hg.verBase := rfl

-- What is read of a graph.

@[simp] theorem away_noted : (s.noted o w r).away = s.away := rfl
@[simp] theorem missing_noted : (s.noted o w r).missing = s.missing := rfl
@[simp] theorem stwHome_noted : (s.noted o w r).stwHome = s.stwHome := rfl

@[simp] theorem homeEntry_noted : (s.noted o w r).homeEntry = s.homeEntry := by
  funext l
  simp only [State.homeEntry, State.stwAddr, stwHome_noted, noted_stw]

@[simp] theorem rdN_noted : (s.noted o w r).rdN = s.rdN := by
  funext h k
  induction k generalizing h with
  | zero => rfl
  | succ k ih => exact congrArg ((s.byteAt h).toNat + 256 * ·) (ih (h + 1))

@[simp] theorem slot_noted : (s.noted o w r).slot = s.slot := rfl

@[simp] theorem descAt_noted : (s.noted o w r).descAt = s.descAt := by
  funext i n
  simp only [State.descAt, rdN_noted, slot_noted]

@[simp] theorem under_noted : (s.noted o w r).under = s.under := by
  funext i t
  simp only [State.under, descAt_noted]

@[simp] theorem verRec_noted : (s.noted o w r).verRec = s.verRec := by
  funext rec
  simp only [State.verRec, State.verAddr, rdN_noted, noted_verBase]

@[simp] theorem memberDesc_noted : (s.noted o w r).memberDesc = s.memberDesc := by
  funext w
  simp only [State.memberDesc, State.verBuf, verRec_noted]

@[simp] theorem allocOf_noted : (s.noted o w r).allocOf = s.allocOf := by
  funext i t
  simp only [State.allocOf, rdN_noted, slot_noted]

@[simp] theorem smapOf_noted : (s.noted o w r).smapOf = s.smapOf := by
  funext i t
  simp only [State.smapOf, slot_noted]

@[simp] theorem owner_noted : (s.noted o w r).owner = s.owner := by
  funext i t c
  simp only [State.owner, rdN_noted, smapOf_noted, noted_hall]

@[simp] theorem rowLen_noted : (s.noted o w r).rowLen = s.rowLen := by
  funext i t c
  simp only [State.rowLen, rdN_noted, smapOf_noted]

@[simp] theorem place_noted : (s.noted o w r).place = s.place := by
  funext i t f c
  simp only [State.place, allocOf_noted, owner_noted, rowLen_noted]

@[simp] theorem tensor_noted : (s.noted o w r).tensor = s.tensor := by
  funext i n
  simp only [State.tensor, descAt_noted]

@[simp] theorem side_noted : (s.noted o w r).side = s.side := by
  funext i t n
  simp only [State.side, tensor_noted]

@[simp] theorem listUnits_noted : (s.noted o w r).listUnits = s.listUnits := by
  funext i w
  simp only [State.listUnits, memberDesc_noted, place_noted, side_noted, tensor_noted]

@[simp] theorem taskWord_noted : (s.noted o w r).taskWord = s.taskWord := by
  funext i n
  simp only [State.taskWord, rdN_noted, slot_noted]

@[simp] theorem gangFirst_noted : (s.noted o w r).gangFirst = s.gangFirst := by
  funext i n g names
  simp only [State.gangFirst, State.firstUnits, State.stewardUnits, State.unread, away_noted, listUnits_noted,
    taskWord_noted, missing_noted, homeEntry_noted, stwHome_noted, under_noted, noted_hall, noted_rem, noted_stw]

@[simp] theorem posBlock_noted : (s.noted o w r).posBlock = s.posBlock := by
  funext l
  simp only [State.posBlock, homeEntry_noted, rdN_noted]

@[simp] theorem fmtOf_noted : (s.noted o w r).fmtOf = s.fmtOf := by
  funext i t
  simp only [State.fmtOf, descAt_noted, posBlock_noted, noted_stw]

@[simp] theorem operandFmt_noted : (s.noted o w r).operandFmt = s.operandFmt := by
  funext i t
  simp only [State.operandFmt, fmtOf_noted]

@[simp] theorem prodClass_noted : (s.noted o w r).prodClass = s.prodClass := by
  funext i w
  simp only [State.prodClass, memberDesc_noted, operandFmt_noted, tensor_noted]

@[simp] theorem extents_noted : (s.noted o w r).extents = s.extents := by
  funext i t
  simp only [State.extents, descAt_noted]

@[simp] theorem drainResidual_noted : (s.noted o w r).drainResidual = s.drainResidual := by
  funext i w
  simp only [State.drainResidual, State.sink, State.movedFor, fmtOf_noted, tensor_noted, extents_noted, side_noted,
    posBlock_noted, noted_stw]

@[simp] theorem group_noted : (s.noted o w r).group = s.group := by
  funext g
  simp only [State.group, rdN_noted, noted_snap]

@[simp] theorem scaleTensor_noted : (s.noted o w r).scaleTensor = s.scaleTensor := by
  funext i t
  simp only [State.scaleTensor, side_noted]

@[simp] theorem resolve_noted : (s.noted o w r).resolve = s.resolve := by
  funext i t c
  simp only [State.resolve, State.viewElem, descAt_noted]

@[simp] theorem sideCoord_noted : (s.noted o w r).sideCoord = s.sideCoord := by
  funext i d x k
  simp only [State.sideCoord, extents_noted]

@[simp] theorem outliers_noted : (s.noted o w r).outliers = s.outliers := by
  funext i l
  simp only [State.outliers, State.indexAt, State.readPlace, place_noted, rdN_noted]

@[simp] theorem usedOutliers_noted : (s.noted o w r).usedOutliers = s.usedOutliers := by
  funext i w d mark
  simp only [State.usedOutliers, State.outliersIn, outliers_noted, side_noted]

@[simp] theorem zpTensor_noted : (s.noted o w r).zpTensor = s.zpTensor := by
  funext i t
  simp only [State.zpTensor, side_noted]

@[simp] theorem sides_noted : (s.noted o w r).sides = s.sides := by
  funext i w
  simp only [State.sides, memberDesc_noted, operandFmt_noted, tensor_noted]

@[simp] theorem gangBytes_noted : (s.noted o w r).gangBytes = s.gangBytes := by
  funext i g ok
  simp only [State.gangBytes, State.sideRoom, State.sideElems, State.sideGroups, drainResidual_noted, sides_noted,
    taskWord_noted, scaleTensor_noted, under_noted, usedOutliers_noted, zpTensor_noted, resolve_noted,
    sideCoord_noted]

@[simp] theorem heldDescs_noted : (s.noted o w r).heldDescs = s.heldDescs := by
  funext w
  simp only [State.heldDescs, verRec_noted]

@[simp] theorem steerFail_noted : (s.noted o w r).steerFail = s.steerFail := by
  funext i w t written
  simp only [State.steerFail, fmtOf_noted, under_noted]

@[simp] theorem prod2_noted : (s.noted o w r).prod2 = s.prod2 := by
  funext i w
  simp only [State.prod2, State.operandFormat, State.outputFormat, State.sideFormat, State.residualFail,
    State.badOutliers, extents_noted, heldDescs_noted, memberDesc_noted, operandFmt_noted, prodClass_noted,
    tensor_noted, fmtOf_noted, side_noted, steerFail_noted, under_noted, descAt_noted, scaleTensor_noted,
    zpTensor_noted, outliers_noted]

@[simp] theorem ext_noted : (s.noted o w r).ext = s.ext := by
  funext i t d
  simp only [State.ext, extents_noted]

@[simp] theorem useFail_noted : (s.noted o w r).useFail = s.useFail := by
  funext i t plain
  simp only [State.useFail, under_noted]

@[simp] theorem gangChecks_noted : (s.noted o w r).gangChecks = s.gangChecks := by
  funext i g
  simp only [State.gangChecks, State.gangAgrees, State.memberFail, State.prod45, State.residualUse, State.sideUse,
    State.prod1, State.prod3, State.agreeKey, gangBytes_noted, taskWord_noted, fmtOf_noted, memberDesc_noted,
    scaleTensor_noted, tensor_noted, useFail_noted, side_noted, prod2_noted, ext_noted, extents_noted,
    prodClass_noted, heldDescs_noted]

@[simp] theorem fetchNodes_noted : (s.noted o w r).fetchNodes = s.fetchNodes := by
  funext i g
  simp only [State.fetchNodes, State.flightOf, State.gangLive, gangChecks_noted, taskWord_noted, noted_flight]

@[simp] theorem spillwayWork_noted : (s.noted o w r).spillwayWork = s.spillwayWork := by
  funext i live
  simp only [State.spillwayWork, sides_noted, taskWord_noted, usedOutliers_noted]

@[simp] theorem outCoord_noted : (s.noted o w r).outCoord = s.outCoord := by
  funext i w c m n
  simp only [State.outCoord, extents_noted]

@[simp] theorem packed_noted : (s.noted o w r).packed = s.packed := by
  funext i t
  simp only [State.packed, fmtOf_noted]

@[simp] theorem recPlace_noted : (s.noted o w r).recPlace = s.recPlace := by
  funext i t c
  simp only [State.recPlace, allocOf_noted, owner_noted]

@[simp] theorem sideUnits_noted : (s.noted o w r).sideUnits = s.sideUnits := by
  funext i t c
  simp only [State.sideUnits, place_noted, recPlace_noted, scaleTensor_noted, zpTensor_noted]

@[simp] theorem dataUnits_noted : (s.noted o w r).dataUnits = s.dataUnits := by
  funext i t f c
  simp only [State.dataUnits, allocOf_noted, owner_noted, place_noted, recPlace_noted, rowLen_noted]

@[simp] theorem prodUnits_noted : (s.noted o w r).prodUnits = s.prodUnits := by
  funext i w
  simp only [State.prodUnits, State.drainUnits, State.fetchUnits, State.sideFetch, State.readUnits, State.segments,
    State.spillPlaces, State.writeUnits, State.residualUnits, State.runEnds, State.endsGroups, State.groupEnds,
    away_noted, drainResidual_noted, listUnits_noted, outCoord_noted, place_noted, sides_noted, tensor_noted,
    side_noted, sideCoord_noted, usedOutliers_noted, dataUnits_noted, packed_noted, resolve_noted, sideUnits_noted,
    prodClass_noted, descAt_noted, ext_noted, scaleTensor_noted]

@[simp] theorem storeUsed_noted : (s.noted o w r).storeUsed = s.storeUsed := rfl

end Sys2Proof.Machine
end
section
/-! SUPPORT. What initialises the layers of a gang's tensors (R251), with the store to the acting manager that it may send
(R263, R469, R470), does alike under other counter values and waits. -/
namespace Sys2Proof.Machine

variable (s : State) (o : Observe) (w : List ((Fin 16 × Nat) × Fin 8)) (r : BitVec 64)

theorem ite_noted {c : Prop} [Decidable c] {a b a' b' : State} (ha : a' = a.noted o w r) (hb : b' = b.noted o w r) :
    (if c then a' else b') = (if c then a else b).noted o w r := by
  split <;> assumption

/-- Steps that leave counts and waits alone do so in a row. -/
theorem foldl_noted {α : Type} {f : State → α → State} (hf : ∀ s x, f (s.noted o w r) x = (f s x).noted o w r)
    (l : List α) (s : State) : l.foldl f (s.noted o w r) = (l.foldl f s).noted o w r := by
  induction l generalizing s with
  | nil => rfl
  | cons x l ih => rw [List.foldl_cons, hf, ih, List.foldl_cons]

theorem tr_noted : (s.noted o w r).tr = s.tr := rfl
theorem windowed_noted : (s.noted o w r).windowed = s.windowed := rfl
theorem ringFull_noted (n : Nat) : (s.noted o w r).ringFull n = s.ringFull n := rfl
theorem withLostBefore_noted (recs : List Nat) : (s.noted o w r).withLostBefore recs = s.withLostBefore recs := rfl

/-- Memory and the ring's state may be replaced. -/
theorem logged_noted (m : Memory) (x : Trace) :
    { s.noted o w r with mem := m, tr := x } = State.noted { s with mem := m, tr := x } o w r := rfl

theorem putRec_noted (x : Nat) : (s.noted o w r).putRec x = (s.putRec x).noted o w r := by
  unfold State.putRec
  simp only [tr_noted, noted_mem]
  exact ite_noted o w r rfl (logged_noted s o w r _ _)

theorem trace_noted (recs : List Nat) : (s.noted o w r).trace recs = (s.trace recs).noted o w r := by
  cases h : s.tr.live.en with
  | false => exact (if_pos h).trans (congrArg (State.noted · o w r) (if_pos h).symm)
  | true =>
    rw [State.trace_of_en (s := s.noted o w r) h, State.trace_of_en h, windowed_noted, ringFull_noted,
      withLostBefore_noted]
    exact ite_noted o w r rfl (foldl_noted o w r (fun s x => putRec_noted s o w r x) _
      { s with tr := { s.windowed with lostSince := 0 } })

theorem raise_noted (e : Ev) (who : Who) (w0 w1 w2 : Nat) :
    (s.noted o w r).raise e who w0 w1 w2 = (s.raise e who w0 w1 w2).noted o w r := by
  unfold State.raise
  exact ite_noted o w r (trace_noted (s.pended e) o w r _) rfl

theorem stwAddr_noted (l : Nat) : (s.noted o w r).stwAddr l = s.stwAddr l := rfl

theorem ladder_noted (l : Nat) : (s.noted o w r).ladder l = s.ladder l := by
  simp only [State.ladder, rdN_noted, homeEntry_noted]

theorem ladderFormat_noted (l : Nat) : (s.noted o w r).ladderFormat l = (s.ladderFormat l).noted o w r := by
  unfold State.ladderFormat
  rw [ladder_noted, raise_noted]
  exact ite_noted o w r rfl rfl

theorem freshPos_noted (l : Nat) : (s.noted o w r).freshPos l = s.freshPos l := by
  simp only [State.freshPos, ladder_noted, posBlock_noted]
  rfl

theorem setWait_noted (i : Fin 16) (n st wait waux wpeer : Nat) :
    (s.noted o w r).setWait i n st wait waux wpeer = (s.setWait i n st wait waux wpeer).noted o w r := by
  simp only [State.setWait, State.setDep, State.depWord, rdN_noted, slot_noted]
  rfl

theorem showHeld_noted (q : Req) : (s.noted o w r).showHeld q = (s.showHeld q).noted o w r := by
  unfold State.showHeld
  refine ite_noted o w r rfl (foldl_noted o w r (fun s f => ?_) _ s)
  exact ite_noted o w r (setWait_noted s o w r q.slot q.node 2 0x0A 0 q.f.dst.toNat)
    (ite_noted o w r (setWait_noted s o w r q.slot f.node 2 0x0A 0 q.f.dst.toNat) rfl)

/-- The requests may be replaced. -/
theorem rem_noted (x : Remote) : { s.noted o w r with rem := x } = State.noted { s with rem := x } o w r := rfl

theorem hold_noted (q : Req) : (s.noted o w r).hold q = (s.hold q).noted o w r := by
  unfold State.hold
  rw [rem_noted, showHeld_noted]
  rfl

theorem route_noted (f : Flit) : (s.noted o w r).route f = s.route f := by
  unfold State.route State.routeDim
  rfl

/-- `t` is `s` with other counts and waits. -/
def State.Noted (s t : State) : Prop := ∃ o w r, t = s.noted o w r

variable {s} {t : State}

theorem State.Noted.ite {c : Prop} [Decidable c] {a b a' b' : State} (ha : a.Noted a') (hb : b.Noted b') :
    (if c then a else b).Noted (if c then a' else b') := by
  split <;> assumption

theorem State.Noted.bump (h : s.Noted t) (b i n : Nat) : (s.bump b i n).Noted (t.bump b i n) := by
  obtain ⟨o, w, r, rfl⟩ := h
  obtain ⟨o1, h1, -⟩ := s.bump_shape b i n
  obtain ⟨o2, h2, -⟩ := (s.noted o w r).bump_shape b i n
  exact ⟨o2, w, r, by rw [h1, h2]; rfl⟩

theorem State.Noted.setPort (h : s.Noted t) (p : Fin 6) (q : Port) : (s.setPort p q).Noted (t.setPort p q) := by
  obtain ⟨o, w, r, rfl⟩ := h
  exact ⟨o, w, r, rfl⟩

theorem State.Noted.sends (h : s.Noted t) (m : List Sent) :
    ({ s with out := { s.out with links := s.out.links ++ m } } : State).Noted
      { t with out := { t.out with links := t.out.links ++ m } } := by
  obtain ⟨o, w, r, rfl⟩ := h
  exact ⟨o, w, r, rfl⟩

theorem State.Noted.sendsStamped (h : s.Noted t) (p : Fin 6) (m : Sluice) :
    ({ s with out := { s.out with links := s.out.links ++ [.sluice p m s.stamp] } } : State).Noted
      { t with out := { t.out with links := t.out.links ++ [.sluice p m t.stamp] } } := by
  obtain ⟨o, w, r, rfl⟩ := h
  exact ⟨o, w, r, rfl⟩

theorem State.Noted.putSluice (h : s.Noted t) (p : Fin 6) (m : Sluice) : (s.putSluice p m).Noted (t.putSluice p m) := by
  obtain ⟨o, w, r, rfl⟩ := h
  unfold State.putSluice
  exact ((State.Noted.setPort (s := s) ⟨o, w, r, rfl⟩ p _).bump (9 + p.val) 5 1).sendsStamped p m

theorem State.Noted.sluiceOn (h : s.Noted t) (p : Fin 6) (m : Sluice) : (s.sluiceOn p m).Noted (t.sluiceOn p m) := by
  have hp := h.putSluice p m
  obtain ⟨o, w, r, rfl⟩ := h
  exact State.Noted.ite hp ⟨o, w, r, rfl⟩

theorem State.Noted.transmit (h : s.Noted t) (p : Fin 6) (f : Flit) (wake : Bool) :
    (s.transmit p f none none wake).Noted (t.transmit p f none none wake) := by
  obtain ⟨o, w, r, rfl⟩ := h
  unfold State.transmit
  refine State.Noted.ite ?_ ?_
  · exact ((State.Noted.setPort (s := s) ⟨o, w, r, rfl⟩ p _).bump (9 + p.val) 3 1).sends _
  · exact State.Noted.ite ((State.Noted.setPort (s := s) ⟨o, w, r, rfl⟩ p _).sluiceOn p .wake)
      (State.Noted.setPort (s := s) ⟨o, w, r, rfl⟩ p _)

theorem State.Noted.hold (h : s.Noted t) (q : Req) : (s.hold q).Noted (t.hold q) := by
  obtain ⟨o, w, r, rfl⟩ := h
  exact ⟨o, w, r, hold_noted s o w r q⟩

theorem State.Noted.launch (h : s.Noted t) (f : Flit) :
    (s.launch f).1.Noted (t.launch f).1 ∧ (t.launch f).2 = (s.launch f).2 := by
  have ht := fun p g => h.transmit p g true
  obtain ⟨o, w, r, rfl⟩ := h
  unfold State.launch
  rw [route_noted]
  split
  · exact ⟨ht _ _, rfl⟩
  · exact ⟨⟨o, w, r, rfl⟩, rfl⟩

/-- A request to another node as it is sent (R470). -/
def State.addressed (s : State) (i : Fin 16) (f : Flit) : Flit := { f with
  src := s.hall.nid, sslot := BitVec.ofNat 4 i.val, stamp := s.stamp
  eseq := BitVec.ofNat 32 (s.rem.nextEseq f.dst) }

/-- The state that keeps a request as it is sent (R470). -/
def State.tracked (s : State) (i : Fin 16) (n : Nat) (f : Flit) : State :=
  { s with rem := { s.rem.bumpEseq f.dst with
    unacked := (s.rem.bumpEseq f.dst).unacked ++ [Req.mk (s.addressed i f) i n] } }

theorem State.sendWrite_eq (s : State) (i : Fin 16) (n : Nat) (f : Flit) : s.sendWrite i n f =
    if s.rem.windowFull f.dst then s.hold (Req.mk f i n)
    else if ((s.tracked i n f).launch (s.addressed i f)).2 then ((s.tracked i n f).launch (s.addressed i f)).1
    else ((s.tracked i n f).launch (s.addressed i f)).1.hold (Req.mk (s.addressed i f) i n) := by
  rfl

theorem State.Noted.sendWrite (h : s.Noted t) (i : Fin 16) (n : Nat) (f : Flit) :
    (s.sendWrite i n f).Noted (t.sendWrite i n f) := by
  rw [State.sendWrite_eq, State.sendWrite_eq]
  have hh := h.hold (Req.mk f i n)
  obtain ⟨o, w, r, rfl⟩ := h
  have hl := State.Noted.launch (s := s.tracked i n f) (t := (s.noted o w r).tracked i n f) ⟨o, w, r, rfl⟩
    (s.addressed i f)
  rw [show (s.noted o w r).addressed i f = s.addressed i f from rfl, hl.2]
  exact State.Noted.ite hh (State.Noted.ite hl.1 (hl.1.hold _))

theorem State.Noted.wrN (h : s.Noted t) (a n v : Nat) : (s.wrN a n v).Noted (t.wrN a n v) := by
  obtain ⟨o, w, r, rfl⟩ := h
  exact ⟨o, w, r, rfl⟩

theorem State.Noted.follow (h : s.Noted t) (a : Nat) (bytes : List Byte) :
    (s.follow a bytes).Noted (t.follow a bytes) := by
  obtain ⟨o, w, r, rfl⟩ := h
  exact ⟨o, w, r, rfl⟩

theorem State.Noted.initLayer (h : s.Noted t) (l : Nat) : (s.initLayer l).Noted (t.initLayer l) := by
  obtain ⟨o, w, r, rfl⟩ := h
  unfold State.initLayer
  simp only [posBlock_noted, stwHome_noted, ladderFormat_noted, homeEntry_noted, freshPos_noted, stwAddr_noted]
  have h0 : s.Noted (s.noted o w r) := ⟨o, w, r, rfl⟩
  have h1 : (s.ladderFormat l).Noted ((s.ladderFormat l).noted o w r) := ⟨o, w, r, rfl⟩
  exact State.Noted.ite h0 (State.Noted.ite (((h1.wrN _ 48 emptyBlock).wrN _ 48 emptyBlock).wrN _ 32 _)
    ((h0.follow _ _).sendWrite 0 stewardNode _))

/-- What initialises the layers of tensors does not see counts and waits. -/
theorem State.Noted.initFor (h : s.Noted t) (i : Fin 16) (ts : List Tensor) : (s.initFor i ts).Noted (t.initFor i ts) := by
  unfold State.initFor
  induction ts generalizing s t with
  | nil => exact h
  | cons x ts ih =>
    refine ih ?_
    have hi := h.initLayer (s.under i x).slayer
    obtain ⟨o, w, r, rfl⟩ := h
    dsimp only
    rw [under_noted]
    exact State.Noted.ite hi ⟨o, w, r, rfl⟩

end Sys2Proof.Machine
end
section
/-! O13: a fetch takes a gang's operands in, ends or keeps its wait, and shows why. -/
namespace Sys2Proof.Machine
open Sys2Proof.Claims
variable {s : State} {i : Fin 16} {n : Nat} {core : Fin 8}

theorem State.setWaits_eq (s : State) (l : List ((Fin 16 × Nat) × Fin 8)) : ∃ o r, s.setWaits l = s.noted o l r := by
  unfold State.setWaits
  split
  · next h => exact ⟨s.obs, s.hg.resFrom, by rw [h]; rfl⟩
  · obtain ⟨r, q, e⟩ := s.countWaits_shape
    refine ⟨{ s.obs with banks := q }, s.tm.tick, ?_⟩
    rw [e]
    rfl

/-- `t` is `s` with another dependence word of a node. -/
def State.Redeps (s t : State) (i : Fin 16) (n : Nat) : Prop :=
  ∃ m, t = { s with mem := m } ∧ (s.MemOk → ∀ a, a < hallLoc ((s.slot i).hdr.depAddr n) ∨
    hallLoc ((s.slot i).hdr.depAddr n) + 8 ≤ a → Mem.get m a = Mem.get s.mem a)

theorem State.redeps_refl (s : State) : s.Redeps s i n := ⟨s.mem, rfl, fun _ _ _ => rfl⟩

theorem State.setWait_redeps (s : State) (st wait waux wpeer : Nat) :
    s.Redeps (s.setWait i n st wait waux wpeer) i n :=
  ⟨_, rfl, fun hm _ ha => Mem.get_setN_other hm _ ha⟩

theorem State.clearWait_redeps (s : State) (wait : Nat) : s.Redeps (s.clearWait i n wait) i n := by
  unfold State.clearWait
  dsimp only
  split
  · exact s.setWait_redeps ..
  · exact s.redeps_refl

theorem State.clearWait_of_ne {wait : Nat} (h : depWait (s.depWord i n) ≠ wait) : s.clearWait i n wait = s :=
  if_neg fun k => h k.1

theorem State.showReason_redeps (s : State) : s.Redeps (s.showReason i n) i n := by
  unfold State.showReason
  dsimp only
  split
  · split
    · exact s.redeps_refl
    · exact s.setWait_redeps ..
  · exact s.redeps_refl

/-- What comes into a core's store for a gang whose layers `a` has initialised. -/
def State.incoming (s a : State) (i : Fin 16) (n : Nat) (g : Span) (core : Fin 8) (skew : Option TagSkew) : Resident :=
  let nodes := a.fetchNodes i g
  let w := a.spillwayWork i nodes
  let waits := w.1 != 0 && decide (2 ≤ (s.hg.resident.filter fun r => r.core == core && r.spill).length)
  ⟨i, n, core, a.gangBytes i g nodes, skew, w.1 != 0 && !waits, waits, if waits then cdiv (w.1 * w.2) 10368 else 0⟩

/-- The state with operands put into a store. -/
def State.storing (s : State) (o : Observe) (r : Resident) : State :=
  { s with obs := o, hg := { s.hg with resident := s.hg.resident ++ [r] } }

/-- The counts of a fetch: its units, and the clk of a spill plane that it fills (R191, R571). -/
def State.fetchCounted (s a : State) (i : Fin 16) (g : Span) (core : Fin 8) (waits : Bool) : State :=
  let nodes := a.fetchNodes i g
  let w := a.spillwayWork i nodes
  let c := s.bump core.val 8 (nodes.foldl (fun us m => unite us (a.fetchUnits i (a.taskWord i m))) []).length
  if waits then c else c.bump core.val 24 (cdiv (w.1 * w.2) 10368)

theorem State.fetchCounted_shape (s a : State) (i : Fin 16) (g : Span) (core : Fin 8) (waits : Bool) :
    ∃ o, s.fetchCounted a i g core waits = { s with obs := o } := by
  unfold State.fetchCounted
  dsimp only
  obtain ⟨o, e, -⟩ := s.bump_shape core.val 8
    ((a.fetchNodes i g).foldl (fun us m => unite us (a.fetchUnits i (a.taskWord i m))) []).length
  split
  · exact ⟨o, e⟩
  · obtain ⟨q, k, -⟩ := State.bump_shape { s with obs := o } core.val 24
      (cdiv ((a.spillwayWork i (a.fetchNodes i g)).1 * (a.spillwayWork i (a.fetchNodes i g)).2) 10368)
    exact ⟨q, by rw [e, k]⟩

theorem State.gangFetch_eq {g : Span} {skew : Option TagSkew} {a : State}
    (ha : s.initFor i (g.nodes.flatMap fun m => s.prodNames i (s.taskWord i m)) = a)
    (hfirst : s.gangFirst i n g (g.nodes.flatMap fun m => s.prodNames i (s.taskWord i m)) = [])
    (hnodes : a.fetchNodes i g ≠ [])
    (hus : s.missing i n ((a.fetchNodes i g).foldl (fun us m => unite us (a.prodUnits i (a.taskWord i m))) []) = [])
    (hroom : s.storeUsed core + a.gangBytes i g (a.fetchNodes i g) ≤ storeRoom) :
    ∃ o, s.gangFetch i n g core skew = if (s.incoming a i n g core skew).waits then s.storing o (s.incoming a i n g core skew)
      else (s.storing o (s.incoming a i n g core skew)).nowResident i n := by
  obtain ⟨o, e⟩ := s.fetchCounted_shape a i g core (s.incoming a i n g core skew).waits
  have hstore : ({ s.fetchCounted a i g core (s.incoming a i n g core skew).waits with
      hg := { (s.fetchCounted a i g core (s.incoming a i n g core skew).waits).hg with
        resident := (s.fetchCounted a i g core (s.incoming a i n g core skew).waits).hg.resident
          ++ [s.incoming a i n g core skew] } } : State) = s.storing o (s.incoming a i n g core skew) := by
    rw [e]
    rfl
  refine ⟨o, ?_⟩
  rw [← hstore]
  unfold State.gangFetch
  dsimp only
  rw [ha, if_neg (not_not.mpr hfirst), if_neg hnodes, if_neg (not_not.mpr hus), if_neg (Nat.not_lt.mpr hroom)]
  rfl

/-- Operands that come in end a gang's wait, where they do not wait themselves. -/
theorem State.stored_eq {o : Observe} {r : Resident} :
    ∃ m q f, (if r.waits then s.storing o r else (s.storing o r).nowResident i n) = { s with
        hg := { s.hg with
          resident := s.hg.resident ++ [r]
          resWait := s.hg.resWait.filter fun x => r.waits || x.1 != (i, n)
          resFrom := f }
        mem := m, obs := q } ∧
      (r.waits = true ∨ depWait (s.depWord i n) ≠ 0x02 → m = s.mem) ∧
      (s.MemOk → ∀ a, a < hallLoc ((s.slot i).hdr.depAddr n) ∨ hallLoc ((s.slot i).hdr.depAddr n) + 8 ≤ a →
        Mem.get m a = Mem.get s.mem a) := by
  cases hw : r.waits with
  | true =>
    refine ⟨s.mem, o, s.hg.resFrom, ?_, fun _ => rfl, fun _ _ _ => rfl⟩
    rw [if_pos rfl]
    simp only [Bool.true_or, List.filter_true]
    rfl
  | false =>
    obtain ⟨m, e, hm⟩ := (s.storing o r).clearWait_redeps (i := i) (n := n) 0x02
    have hsame : depWait (s.depWord i n) ≠ 0x02 → m = s.mem := fun h => by
      have hd : (s.storing o r).depWord i n = s.depWord i n := State.depWord_congr rfl rfl rfl rfl n
      have hc := e.symm.trans (State.clearWait_of_ne (s := s.storing o r) (by rw [hd]; exact h))
      exact congrArg State.mem hc
    obtain ⟨q, f, hq⟩ := ((s.storing o r).clearWait i n 0x02).setWaits_eq
      (((s.storing o r).clearWait i n 0x02).hg.resWait.filter fun x => x.1 != (i, n))
    refine ⟨m, q, f, ?_, fun h => hsame (h.resolve_left Bool.false_ne_true), hm⟩
    rw [if_neg Bool.false_ne_true]
    refine Eq.trans hq ?_
    rw [e]
    simp only [Bool.false_or]
    rfl

/-- A fetch that may not start changes nothing. -/
theorem State.fetch_of_closed {skew : Option TagSkew} (h : s.fetchOpen (depSt (s.depWord i n) == 4) = false) :
    s.fetch i n core skew = s :=
  if_pos (by rw [h]; simp)

theorem State.fetch_of_open {skew : Option TagSkew} {g : Span} (hf : s.fetchable i n = true)
    (hr : (s.hg.resident.any fun r => r.slot == i && r.node == n) = false) (hp : s.phase = .ready)
    (ho : s.fetchOpen (depSt (s.depWord i n) == 4) = true) (hprod : isProduct (twOpc (s.taskWord i n)) = true)
    (hg : s.gangAt i n = some g) : s.fetch i n core skew = (s.waitAt i n core).gangFetch i n g core skew := by
  unfold State.fetch
  dsimp only
  rw [hf, hr, hp, ho, if_neg (by decide), if_pos hprod, hg]

/-- The list of the gangs that wait, with one at another core. -/
def waitsAt (l : List ((Fin 16 × Nat) × Fin 8)) (i : Fin 16) (n : Nat) (core : Fin 8) : List ((Fin 16 × Nat) × Fin 8) :=
  l.map fun x => if x.1 = (i, n) then (x.1, core) else x

/-- What a fetch that starts, with room and all it needs, leaves: the operands in the store. -/
theorem State.fetch_eq {skew : Option TagSkew} {g : Span} (hf : s.fetchable i n = true)
    (hr : (s.hg.resident.any fun r => r.slot == i && r.node == n) = false) (hp : s.phase = .ready)
    (ho : s.fetchOpen (depSt (s.depWord i n) == 4) = true) (hprod : isProduct (twOpc (s.taskWord i n)) = true)
    (hg : s.gangAt i n = some g) {a : State}
    (ha : s.initFor i (g.nodes.flatMap fun m => s.prodNames i (s.taskWord i m)) = a)
    (hfirst : s.gangFirst i n g (g.nodes.flatMap fun m => s.prodNames i (s.taskWord i m)) = [])
    (hnodes : a.fetchNodes i g ≠ [])
    (hus : s.missing i n ((a.fetchNodes i g).foldl (fun us m => unite us (a.prodUnits i (a.taskWord i m))) []) = [])
    (hroom : s.storeUsed core + a.gangBytes i g (a.fetchNodes i g) ≤ storeRoom) :
    ∃ m q f, s.fetch i n core skew = { s with
        hg := { s.hg with
          resident := s.hg.resident ++ [s.incoming a i n g core skew]
          resWait := (waitsAt s.hg.resWait i n core).filter fun x =>
            (s.incoming a i n g core skew).waits || x.1 != (i, n)
          resFrom := f }
        mem := m, obs := q } ∧
      ((s.incoming a i n g core skew).waits = true ∨ depWait (s.depWord i n) ≠ 0x02 → m = s.mem) ∧
      (s.MemOk → ∀ a, a < hallLoc ((s.slot i).hdr.depAddr n) ∨ hallLoc ((s.slot i).hdr.depAddr n) + 8 ≤ a →
        Mem.get m a = Mem.get s.mem a) := by
  obtain ⟨o, r, hw⟩ := s.setWaits_eq (waitsAt s.hg.resWait i n core)
  have hwait : s.waitAt i n core = s.noted o (waitsAt s.hg.resWait i n core) r := hw
  generalize hl : waitsAt s.hg.resWait i n core = l at hwait ⊢
  have hnames : (g.nodes.flatMap fun m => (s.noted o l r).prodNames i ((s.noted o l r).taskWord i m))
      = g.nodes.flatMap fun m => s.prodNames i (s.taskWord i m) := by
    simp only [State.prodNames, taskWord_noted, memberDesc_noted, tensor_noted]
  obtain ⟨o', l', r', hinit⟩ := State.Noted.initFor (s := s) (t := s.noted o l r) ⟨o, l, r, rfl⟩ i
    (g.nodes.flatMap fun m => s.prodNames i (s.taskWord i m))
  rw [ha] at hinit
  have hin : (s.noted o l r).incoming (a.noted o' l' r') i n g core skew = s.incoming a i n g core skew := by
    unfold State.incoming
    rw [fetchNodes_noted, spillwayWork_noted, gangBytes_noted]
    rfl
  obtain ⟨q, hq⟩ := State.gangFetch_eq (s := s.noted o l r) (i := i) (n := n) (core := core) (g := g) (skew := skew)
    (by rw [hnames, hinit]) (by rw [hnames, gangFirst_noted, hfirst]) (by rw [fetchNodes_noted]; exact hnodes)
    (by simp only [fetchNodes_noted, missing_noted, prodUnits_noted, taskWord_noted]; exact hus)
    (by simp only [fetchNodes_noted, storeUsed_noted, gangBytes_noted]; exact hroom)
  rw [hin] at hq
  obtain ⟨m, q', f, he, hm, hout⟩ := State.stored_eq (s := s.noted o l r) (i := i) (n := n) (o := q)
    (r := s.incoming a i n g core skew)
  refine ⟨m, q', f, ?_, fun h => hm (h.imp_right ?_), hout⟩
  · rw [State.fetch_of_open hf hr hp ho hprod hg, hwait, hq, he]
    rfl
  · rw [State.depWord_congr (t := s.noted o l r) rfl rfl rfl rfl n]
    exact id

/-- Operands that wait for a spill plane leave their gang among those that wait; the others leave none. -/
theorem not_waits_of_filter (l : List ((Fin 16 × Nat) × Fin 8)) :
    ((l.filter fun x => false || x.1 != (i, n)).any fun x => x.1 == (i, n)) = false := by
  rw [List.any_eq_false]
  intro x hx
  have h := (List.mem_filter.mp hx).2
  simpa using h

/-- OPERAND_FETCH that may not start changes nothing. -/
theorem State.operandFetch_closed {skew : Option TagSkew} (hc : Counting s)
    (h : s.fetchOpen (depSt (s.depWord i n) == 4) = false) : Machine.exec (.operandFetch i n core skew) s = .next s := by
  have hlt : ¬s.hg.resident.length < s.hg.resident.length := Nat.lt_irrefl _
  show execOperandFetch i n core skew s = .next s
  unfold execOperandFetch
  rw [State.sweep_of_counting hc]
  dsimp only
  rw [State.fetch_of_closed h, if_neg hlt, bne_self_eq_false]
  simp only [Bool.false_and, Bool.false_eq_true, if_false, ite_self]

/-- OPERAND_FETCH in the order of R431 that takes operands in: the slot takes its turn, and a gang that still waits shows
why. -/
theorem State.operandFetch_open {skew : Option TagSkew} {t : State} (hc : Counting s)
    (hprod : isProduct (twOpc (s.taskWord i n)) = true) (hy : s.fetchYields i = false)
    (ht : s.fetch i n core skew = t) (hlt : s.hg.resident.length < t.hg.resident.length) :
    ∃ m, Machine.exec (.operandFetch i n core skew) s = .next { t with
        hg := { t.hg with fetchTurn := s.nextTurn s.hg.fetchTurn i }, mem := m } ∧
      ((t.hg.resWait.any fun x => x.1 == (i, n)) = false → m = t.mem) ∧
      (t.MemOk → ∀ a, a < hallLoc ((t.slot i).hdr.depAddr n) ∨ hallLoc ((t.slot i).hdr.depAddr n) + 8 ≤ a →
        Mem.get m a = Mem.get t.mem a) := by
  have he : Machine.exec (.operandFetch i n core skew) s = .next
      (if (t.hg.resWait != s.hg.resWait && t.hg.resWait.any fun x => x.1 == (i, n)) = true then
        State.showReason { t with hg := { t.hg with fetchTurn := s.nextTurn s.hg.fetchTurn i } } i n
      else { t with hg := { t.hg with fetchTurn := s.nextTurn s.hg.fetchTurn i } }) := by
    show execOperandFetch i n core skew s = _
    unfold execOperandFetch
    rw [State.sweep_of_counting hc]
    dsimp only
    rw [if_pos hprod, hy, if_neg Bool.false_ne_true, ht, if_pos hlt]
  split at he
  · next hshow =>
    obtain ⟨m, e, hm⟩ := State.showReason_redeps (i := i) (n := n)
      { t with hg := { t.hg with fetchTurn := s.nextTurn s.hg.fetchTurn i } }
    refine ⟨m, by rw [he, e], fun h => ?_, hm⟩
    rw [h, Bool.and_false] at hshow
    exact absurd hshow (by decide)
  · exact ⟨t.mem, he, fun _ => rfl, fun _ _ _ => rfl⟩

theorem SameRegisters.of_fetch {resident fetchTurn resWait resFrom m q} : SameRegisters s { s with
    hg := { s.hg with resident := resident, fetchTurn := fetchTurn, resWait := resWait, resFrom := resFrom }
    mem := m, obs := q } := by
  constructor <;> rfl

/-- Settles O13: a fetch that may not start is no step; one that takes operands in computes them as on the state before,
since nothing it reads depends on counts and waits, and writes at most its dependence word. -/
theorem operandsBecomeResident : Obligations.OperandsBecomeResident := by
  unfold Obligations.OperandsBecomeResident
  intro i n core skew s g hf hr hp hc
  refine ⟨fun h => State.operandFetch_closed hc ?_, fun ho hprod hg hy => ?_⟩
  · rcases h with ⟨hcut, hst⟩ | h
    · have hne : (depSt (s.depWord i n) == 4) = false := beq_eq_false_iff_ne.mpr hst
      rw [hne, State.fetchOpen, hcut]
      rfl
    · exact h
  intro names hfirst a nodes
  rcases hw : a.spillwayWork i nodes with ⟨h, p⟩
  intro hnodes hus hroom
  obtain ⟨m, q, f, he, hm, hout⟩ := State.fetch_eq (core := core) (skew := skew) hf hr hp ho hprod hg (a := a) rfl hfirst
    hnodes hus hroom
  have hin : ∀ waits, (h != 0 && decide (2 ≤ (s.hg.resident.filter fun r => r.core == core && r.spill).length)) = waits →
      s.incoming a i n g core skew = Resident.mk i n core (a.gangBytes i g nodes) skew (h != 0 && !waits) waits
        (if waits then cdiv (h * p) 10368 else 0) := by
    intro waits hwaits
    unfold State.incoming
    dsimp only
    rw [show a.fetchNodes i g = nodes from rfl, hw, hwaits]
  generalize hwaits : (h != 0 && decide (2 ≤ (s.hg.resident.filter fun r => r.core == core && r.spill).length)) = waits
  rw [hin waits hwaits] at he hm
  obtain ⟨m', hexec, hsame, hshown⟩ := State.operandFetch_open hc hprod hy he (by simp)
  refine ⟨_, hexec, rfl, fun hk hd => ?_, fun hs a ha => ?_, SameRegisters.of_fetch⟩
  · subst hk
    exact (hsame (not_waits_of_filter _)).trans (hm (.inr hd))
  · cases waits with
    | false =>
      have h := hsame (not_waits_of_filter _)
      exact (congrArg (Mem.get · a) h).trans (hout hs a ha)
    | true =>
      have h := hm (.inl rfl)
      subst h
      exact hshown hs a ha

end Sys2Proof.Machine
end
section
/-! O58: parity, copies and their reports, loads and the cadence (R522, R523, R525, R533, R534). -/
namespace Sys2Proof.Machine
open Sys2Proof.Claims
variable {s : State}

/-- Without a SNAP or RESTORE in flight nothing is carried on. -/
theorem State.snapPump_of_none (h : s.snapFlight = none) : s.snapPump = s := by
  have hp : ∀ p, s.snapPhase p = s := fun p => by
    unfold State.snapPhase
    rw [h]
  rw [State.snapPump, hp, hp, hp, hp]

theorem State.toLive_of_alone (h : s.others = []) (m : Sluice) : s.toLive m = s := by
  rw [State.toLive, h]
  rfl

-- The report register.

/-- What software writes to `FGE_SNAP_ACK` (R523). -/
def ackWord (num : BitVec 32) (k : Nat) (buf fail : Bool) : Nat :=
  num.toNat + put 32 2 k + put 34 1 (b2n buf) + put 35 1 (b2n fail)

theorem b2n_mod (b : Bool) : b2n b % 2 ^ 1 = b2n b := by cases b <;> rfl

theorem ackWord_fields (num : BitVec 32) {k : Nat} (hk : k < 4) (buf fail : Bool) :
    ackWord num k buf fail < 2 ^ 64 ∧ fld (ackWord num k buf fail) 0 32 = num.toNat ∧
    fld (ackWord num k buf fail) 32 2 = k ∧ bit (ackWord num k buf fail) 34 = buf ∧
    bit (ackWord num k buf fail) 35 = fail := by
  have h0 : num.toNat < 2 ^ 32 := num.isLt
  have h1 : num.toNat + put 32 2 k < 2 ^ 34 := lt_two_pow_add_put h0 (by decide) k
  have h2 : num.toNat + put 32 2 k + put 34 1 (b2n buf) < 2 ^ 35 := lt_two_pow_add_put h1 (by decide) _
  have hbit : ∀ b, (b2n b == 1) = b := by decide
  unfold ackWord
  refine ⟨lt_two_pow_add_put h2 (by decide) _, ?_, ?_, ?_, ?_⟩
  · rw [fld_add_put_below (by decide), fld_add_put_below (by decide), fld_add_put_below (by decide), fld,
      Nat.shiftRight_zero, Nat.mod_eq_of_lt h0]
  · rw [fld_add_put_below (by decide), fld_add_put_below (by decide), fld_add_put_at h0]
    exact Nat.mod_eq_of_lt hk
  · rw [bit, fld_add_put_below (by decide), fld_add_put_at h1, b2n_mod, hbit]
  · rw [bit, fld_add_put_at h2, b2n_mod, hbit]

/-- A write of the report register on an engine that is awake. -/
theorem State.write64_snapAck (ha : Awake s) {v : Nat} (hv : v < 2 ^ 64) :
    s.write64 0x918 v = answered (s.snapAck v) := by
  rw [State.write64, State.write_of_awake ha]
  change answered (s.snapAck (writeOf none (BitVec.ofNat 64 v)).v.toNat) = _
  rw [writeOf_none_v, BitVec.toNat_ofNat, Nat.mod_eq_of_lt hv]

/-- A report on a copy to flash (1) or the store (2). -/
theorem State.exec_ackCopy (ha : Awake s) (hc : Counting s) (kind : Nat) (hkind : kind = 1 ∨ kind = 2) (num : BitVec 32)
    (fail : Bool) : exec (if kind = 1 then .ackFlash num fail else .ackStore num fail) s
      = .next (answered (s.ackCopy kind num fail).snapPump) := by
  have hlt : kind < 4 := by omega
  obtain ⟨hv, hnum, hk, -, hf⟩ := ackWord_fields num hlt false fail
  have hw : exec (if kind = 1 then .ackFlash num fail else .ackStore num fail) s
      = .next (s.write64 0x918 (ackWord num kind false fail)) := by
    rcases hkind with rfl | rfl <;> rfl
  rw [hw, State.write64_snapAck ha hv, State.snapAck, State.sweep_of_counting hc, hnum, hk, hf, BitVec.ofNat_toNat, BitVec.setWidth_eq]
  rcases hkind with rfl | rfl <;> rfl

theorem State.exec_ackLoad (ha : Awake s) (hc : Counting s) (num : BitVec 32) (buf fail : Bool) :
    exec (.ackLoad num buf fail) s = .next (answered (s.ackLoad num buf fail)) := by
  obtain ⟨hv, hnum, hk, hb, hf⟩ := ackWord_fields num (show 3 < 4 by decide) buf fail
  change Host.Outcome.next (s.write64 0x918 (ackWord num 3 buf fail)) = _
  rw [State.write64_snapAck ha hv, State.snapAck, State.sweep_of_counting hc, hnum, hk, hb, hf, BitVec.ofNat_toNat,
    BitVec.setWidth_eq]
  rfl

-- Copies.

/-- With every live node's copy the layer is durable. -/
theorem State.copied_eq {n : BitVec 12} {store : Bool} {num : BitVec 32}
    (h : ∀ m ∈ s.hall.nid :: s.others, m = n ∨ (m, num) ∈ (if store then s.snap.storeOk else s.snap.flashOk)) :
    ∃ so fo, s.copied n store num = { s with snap := { s.snap with
      storeOk := so, flashOk := fo
      durStore := if store ∧ s.snap.durStore.toNat ≤ num.toNat then num else s.snap.durStore
      durFlash := if store = false ∧ s.snap.durFlash.toNat ≤ num.toNat then num else s.snap.durFlash } } := by
  have hall : ((s.hall.nid :: s.others).all fun m =>
      ((n, num) :: (if store then s.snap.storeOk else s.snap.flashOk).filter (· != (n, num))).contains (m, num)) = true := by
    rw [List.all_eq_true]
    intro m hm
    rw [List.contains_iff_mem, List.mem_cons, List.mem_filter]
    by_cases hmn : m = n
    · exact .inl (by rw [hmn])
    · exact .inr ⟨(h m hm).resolve_left hmn, by simp [hmn]⟩
  have hguard : ∀ old : Nat, (!((s.hall.nid :: s.others).all fun m =>
      ((n, num) :: (if store then s.snap.storeOk else s.snap.flashOk).filter (· != (n, num))).contains (m, num))) = true
        ∨ num.toNat < old ↔ num.toNat < old := fun old => by
    rw [hall]
    simp
  cases store with
  | true =>
    refine ⟨(n, num) :: s.snap.storeOk.filter (· != (n, num)), s.snap.flashOk, ?_⟩
    rw [if_neg (c := true = false ∧ _) fun h => absurd h.1 (by decide)]
    by_cases hlt : num.toNat < s.snap.durStore.toNat
    · rw [if_neg fun h => Nat.not_le.mpr hlt h.2]
      exact if_pos ((hguard _).mpr hlt)
    · rw [if_pos ⟨rfl, Nat.not_lt.mp hlt⟩]
      exact if_neg (mt (hguard _).mp hlt)
  | false =>
    refine ⟨s.snap.storeOk, (n, num) :: s.snap.flashOk.filter (· != (n, num)), ?_⟩
    rw [if_neg (c := false = true ∧ _) fun h => absurd h.1 (by decide)]
    by_cases hlt : num.toNat < s.snap.durFlash.toNat
    · rw [if_neg fun h => Nat.not_le.mpr hlt h.2]
      exact if_pos ((hguard _).mpr hlt)
    · rw [if_pos ⟨rfl, Nat.not_lt.mp hlt⟩]
      exact if_neg (mt (hguard _).mp hlt)

/-- A layer's newest durable snapshot never goes back. -/
theorem if_layer_durable {p : Prop} [Decidable p] (hp : p) (num old : BitVec 32) :
    (if p ∧ old.toNat ≤ num.toNat then num else old) = if num.toNat < old.toNat then old else num := by
  by_cases h : num.toNat < old.toNat
  · rw [if_pos h, if_neg fun k => Nat.not_le.mpr h k.2]
  · rw [if_neg h, if_pos ⟨hp, Nat.not_lt.mp h⟩]

theorem find_buffer {p : Fin 2 → Bool} {b : Fin 2} (hb : p b = true) (ho : ∀ o, o ≠ b → p o = false) :
    ([0, 1] : List (Fin 2)).find? p = some b := by
  match b with
  | 0 => exact List.find?_cons_of_pos hb
  | 1 => rw [List.find?_cons_of_neg (by rw [ho 0 (by decide)]; decide), List.find?_cons_of_pos hb]

/-- A copy of a buffer ends: with the last, or with one that failed, the buffer is HELD (R523). -/
def State.copyEnded (s : State) (b : Fin 2) (kind : Nat) (fail : Bool) : State := { s with snap := { s.snap with
  copying := s.snap.copying.filter (· != (b, kind))
  buf := if fail = true ∨ ∀ c ∈ s.snap.copying, c.1 = b → c = (b, kind) then s.snap.buf.set b .held else s.snap.buf } }

theorem State.buf_copyEnded (s : State) (b : Fin 2) (kind : Nat) (fail : Bool) : (s.copyEnded b kind fail).snap.buf[b]
    = if fail = true ∨ ∀ c ∈ s.snap.copying, c.1 = b → c = (b, kind) then .held else s.snap.buf[b] := by
  unfold State.copyEnded
  dsimp only
  split
  · exact Vector.getElem_set_self ..
  · rfl

theorem State.ackCopy_of_found {kind : Nat} {num : BitVec 32} {fail : Bool} {b : Fin 2}
    (hmem : (b, kind) ∈ s.snap.copying) (hb : s.snap.bufSnum[b] = num)
    (ho : ∀ o : Fin 2, o ≠ b → s.snap.bufSnum[o] ≠ num) : s.ackCopy kind num fail =
      if fail then s.copyEnded b kind fail
      else ((s.copyEnded b kind fail).toLive (.copyDone s.hall.nid (kind == 2) num)).copied s.hall.nid (kind == 2) num := by
  have hfind : (([0, 1] : List (Fin 2)).find? fun b => s.snap.bufSnum[b] == num && s.snap.copying.contains (b, kind))
      = some b := by
    refine find_buffer ?_ fun o h => ?_
    · rw [Bool.and_eq_true, beq_iff_eq, List.contains_iff_mem]
      exact ⟨hb, hmem⟩
    · rw [Bool.and_eq_false_iff, beq_eq_false_iff_ne]
      exact .inl (ho o h)
  have hleft : (fail = true ∨ ((s.snap.copying.filter (· != (b, kind))).all fun c => c.1 != b) = true)
      ↔ (fail = true ∨ ∀ c ∈ s.snap.copying, c.1 = b → c = (b, kind)) := by
    refine or_congr_right ?_
    simp only [List.all_eq_true, List.mem_filter, bne_iff_ne, and_imp]
    exact forall₂_congr fun c _ => ⟨fun h hc => by_contra fun hn => h hn hc, fun h hn hc => hn (h hc)⟩
  have hended : (if fail = true ∨ ((s.snap.copying.filter (· != (b, kind))).all fun c => c.1 != b) = true then
      State.setBuf { s with snap := { s.snap with copying := s.snap.copying.filter (· != (b, kind)) } } b .held
      else { s with snap := { s.snap with copying := s.snap.copying.filter (· != (b, kind)) } })
        = s.copyEnded b kind fail := by
    unfold State.copyEnded
    by_cases h : fail = true ∨ ∀ c ∈ s.snap.copying, c.1 = b → c = (b, kind)
    · rw [if_pos (hleft.mpr h), if_pos h]
      rfl
    · rw [if_neg (mt hleft.mp h), if_neg h]
  unfold State.ackCopy
  rw [hfind]
  dsimp only
  rw [hended]
  rfl

theorem State.ackCopy_of_none {kind : Nat} {num : BitVec 32} {fail : Bool} (h : s.snap.copying = []) :
    s.ackCopy kind num fail = s := by
  have hfind : (([0, 1] : List (Fin 2)).find? fun b => s.snap.bufSnum[b] == num && s.snap.copying.contains (b, kind))
      = none := by
    rw [List.find?_eq_none]
    intro b _
    rw [h, List.contains_nil, Bool.and_false]
    exact Bool.false_ne_true
  rw [State.ackCopy, hfind]

-- Parity that is complete hall-wide.

/-- A buffer in PARITY whose snapshot's parity is complete: it is HELD, or its copies are asked for (R522, R523). -/
def State.parityEnds (num : BitVec 32) (s : State) (b : Fin 2) : State :=
  if s.snap.buf[b] = .parity ∧ s.snap.bufSnum[b] = num then
    let d : Nat := s.snap.bufDepth[b].toNat
    if d = 0 then s.setBuf b .held
    else
      let s : State := (s.setBuf b .copy).raise .snapcopy { unit := 12 } num.toNat b.val 1
      let s : State := if d = 2 then s.raise .snapcopy { unit := 12 } num.toNat b.val 2 else s
      let kinds : List (Fin 2 × Nat) := if d = 2 then [(b, 1), (b, 2)] else [(b, 1)]
      { s with snap := { s.snap with copying := s.snap.copying ++ kinds } }
  else s

/-- What is remembered of a snapshot whose parity is complete. -/
def State.parityNoted (s : State) (num : BitVec 32) : State := { s with snap := { s.snap with
  durPar := num, notices := s.snap.notices.filter fun n => n.2 != num
  lost := if s.snap.rb = .running ∨ s.snap.rb = .fallback then s.snap.lost else [] } }

theorem State.parityDone_eq (s : State) (num : BitVec 32) :
    s.parityDone num = ((s.parityNoted num).parityEnds num 0).parityEnds num 1 := rfl

theorem State.raise_events (s : State) (e : Ev) (w : Who) (w0 w1 w2 : Nat) :
    ∃ m x v, s.raise e w w0 w1 w2 = { s with mem := m, tr := x, evt := v } ∧
      (∀ k, s.evt.pend.getLsbD k = true → v.pend.getLsbD k = true) ∧ v.pend.getLsbD e.code = true := by
  obtain ⟨m, x, h, -⟩ := s.raise_logs e w w0 w1 w2
  have hp := s.raise_pend e w w0 w1 w2
  rw [h] at hp
  exact ⟨m, x, (s.pended e).evt, h, fun k hk => by simp [State.pended, BitVec.getLsbD_or, hk], hp⟩

/-- A buffer that is not the one in PARITY of the snapshot stays as it is. -/
theorem State.parityEnds_of_not {num : BitVec 32} {b : Fin 2}
    (h : ¬(s.snap.buf[b] = .parity ∧ s.snap.bufSnum[b] = num)) : s.parityEnds num b = s := if_neg h

theorem State.parityEnds_of_parity {num : BitVec 32} {b : Fin 2} (h : s.snap.buf[b] = .parity ∧ s.snap.bufSnum[b] = num) :
    ∃ m x e c, s.parityEnds num b = { s with mem := m, tr := x, evt := e, snap := { s.snap with
        buf := s.snap.buf.set b (if s.snap.bufDepth[b] = 0 then .held else .copy), copying := c } } ∧
      (∀ k, s.evt.pend.getLsbD k = true → e.pend.getLsbD k = true) ∧
      (s.snap.bufDepth[b] ≠ 0 → e.pend.getLsbD 20 = true) := by
  have hd : s.snap.bufDepth[b].toNat = 0 ↔ s.snap.bufDepth[b] = 0 := by
    rw [← BitVec.toNat_inj]
    rfl
  unfold State.parityEnds
  rw [if_pos h]
  dsimp only
  by_cases h0 : s.snap.bufDepth[b] = 0
  · rw [if_pos (hd.mpr h0), if_pos h0]
    exact ⟨s.mem, s.tr, s.evt, s.snap.copying, rfl, fun _ hk => hk, fun hn => absurd h0 hn⟩
  · rw [if_neg (mt hd.mp h0), if_neg h0]
    obtain ⟨m, x, e, h1, hkeep, hpend⟩ := (s.setBuf b .copy).raise_events .snapcopy { unit := 12 } num.toNat b.val 1
    rw [h1]
    split
    · obtain ⟨m', x', e', h2, hkeep', -⟩ := State.raise_events { s.setBuf b .copy with mem := m, tr := x, evt := e }
        .snapcopy { unit := 12 } num.toNat b.val 2
      rw [h2]
      exact ⟨m', x', e', _, rfl, fun k hk => hkeep' k (hkeep k hk), fun _ => hkeep' _ hpend⟩
    · exact ⟨m, x, e, _, rfl, hkeep, fun _ => hpend⟩

/-- What the end of a snapshot's parity leaves of one buffer and of the rest. -/
theorem State.parityEnds_buffer (s : State) (num : BitVec 32) (b : Fin 2) :
    ∃ m x e l c, s.parityEnds num b = { s with mem := m, tr := x, evt := e, snap := { s.snap with buf := l, copying := c } } ∧
      (∀ k, s.evt.pend.getLsbD k = true → e.pend.getLsbD k = true) ∧
      (∀ o, o ≠ b → l[o] = s.snap.buf[o]) ∧
      (¬(s.snap.buf[b] = .parity ∧ s.snap.bufSnum[b] = num) → l[b] = s.snap.buf[b]) ∧
      (s.snap.buf[b] = .parity ∧ s.snap.bufSnum[b] = num → l[b] = (if s.snap.bufDepth[b] = 0 then .held else .copy) ∧
        (s.snap.bufDepth[b] ≠ 0 → e.pend.getLsbD 20 = true)) := by
  by_cases h : s.snap.buf[b] = .parity ∧ s.snap.bufSnum[b] = num
  · obtain ⟨m, x, e, c, he, hkeep, hpend⟩ := State.parityEnds_of_parity h
    refine ⟨m, x, e, _, c, he, hkeep, fun o ho => ?_, fun hn => absurd h hn, fun _ => ⟨?_, hpend⟩⟩
    · exact Vector.getElem_set_ne (h := Fin.val_ne_of_ne (Ne.symm ho)) ..
    · exact Vector.getElem_set_self ..
  · exact ⟨s.mem, s.tr, s.evt, s.snap.buf, s.snap.copying, State.parityEnds_of_not h, fun _ hk => hk, fun _ _ => rfl,
      fun _ => rfl, fun hp => absurd hp h⟩

theorem State.parityDone_buffers (s : State) (num : BitVec 32) :
    ∃ m x e l c, s.parityDone num = { s.parityNoted num with mem := m, tr := x, evt := e, snap := {
        (s.parityNoted num).snap with buf := l, copying := c } } ∧
      ∀ b : Fin 2, (¬(s.snap.buf[b] = .parity ∧ s.snap.bufSnum[b] = num) → l[b] = s.snap.buf[b]) ∧
        (s.snap.buf[b] = .parity ∧ s.snap.bufSnum[b] = num →
          l[b] = (if s.snap.bufDepth[b] = 0 then .held else .copy) ∧
          (s.snap.bufDepth[b] ≠ 0 → e.pend.getLsbD 20 = true)) := by
  obtain ⟨m, x, e, l, c, h0, -, hother, hnot, his⟩ := (s.parityNoted num).parityEnds_buffer num 0
  obtain ⟨m', x', e', l', c', h1, hkeep, hother', hnot', his'⟩ := ((s.parityNoted num).parityEnds num 0).parityEnds_buffer num 1
  rw [h0] at h1 hkeep hother' hnot' his'
  refine ⟨m', x', e', l', c', by rw [State.parityDone_eq, h0, h1], fun b => ?_⟩
  match b with
  | 0 =>
    have hsame : l'[(0 : Fin 2)] = l[(0 : Fin 2)] := hother' 0 (by decide)
    rw [hsame]
    exact ⟨hnot, fun h => ⟨(his h).1, fun hd => hkeep _ ((his h).2 hd)⟩⟩
  | 1 =>
    have hsame : l[(1 : Fin 2)] = s.snap.buf[(1 : Fin 2)] := hother 1 (by decide)
    exact ⟨fun h => (hnot' (by rw [hsame]; exact h)).trans hsame, fun h => his' (by rw [hsame]; exact h)⟩

-- Loads.

theorem bufferOf (b : Fin 2) : (if decide (b = 1) = true then 1 else 0 : Fin 2) = b := by
  revert b; decide

/-- What goes on once a load ended: in fallback the lost images are asked for, and a RESTORE that waited goes on. -/
def State.afterLoad (s : State) : State :=
  let s := if s.snap.rb = .fallback then s.askLost else s
  match s.snapFlight with
  | some f => if f.phase = .waiting 2 then (s.restoreReady f).snapPump else s
  | none => s

theorem State.afterLoad_of_idle (hrb : s.snap.rb ≠ .fallback) (hflight : s.snapFlight = none) : s.afterLoad = s := by
  unfold State.afterLoad
  rw [if_neg hrb]
  dsimp only
  rw [hflight]

/-- Whether a SNAP or RESTORE is in flight is for the headgate to say. -/
theorem State.snapFlight_congr {t : State} (h : t.hg = s.hg) : t.snapFlight = s.snapFlight := by
  rw [State.snapFlight, h]
  rfl

/-- The firmware's report ends a load with an image that stands in its buffer, or with none (R523, R534). -/
def State.loadEnded (s : State) (b : Fin 2) (num : BitVec 32) (good : Bool) : State :=
  { s.setBuf b (if good then .held else .empty) with
    snap := { (s.setBuf b (if good then .held else .empty)).snap with
      loads := [], bufSnum := if good then s.snap.bufSnum.set b num else s.snap.bufSnum
      newestTick := if good && num == s.snap.newest then s.imageTick b else s.snap.newestTick
      ownImage := if good then some b else none } }

theorem State.ackLoad_of_last {num : BitVec 32} {buf fail : Bool} {b : Fin 2} (hb : (if buf then 1 else 0 : Fin 2) = b)
    {r : Nat} (hload : s.snap.loads = [r]) (hown : b = s.snap.loadBuf) (hbuf : s.snap.buf[b] = .load)
    (hcopy : (b, 4) ∉ s.snap.copying) (hrb : s.snap.rb ≠ .fallback) (hflight : s.snapFlight = none) {good : Bool}
    (hgood : (!fail && s.imageGood b num.toNat) = good) {u : State}
    (hu : (if good then s else if fail then { s with snap := { s.snap with loads := [] } }
      else State.raiseRebuild { s with snap := { s.snap with loads := [] } } 2 num) = u)
    (hurb : u.snap.rb = s.snap.rb) (huf : u.hg = s.hg) : s.ackLoad num buf fail = u.loadEnded b num good := by
  subst hb
  have hguard : ¬(s.snap.loads = [] ∨ (if buf then 1 else 0 : Fin 2) ≠ s.snap.loadBuf
      ∨ s.snap.buf[(if buf then 1 else 0 : Fin 2)] ≠ .load) := by
    rw [hload]
    rintro (h | h | h)
    exacts [List.cons_ne_nil _ _ h, h hown, h hbuf]
  have hend : (u.loadEnded (if buf then 1 else 0) num good).afterLoad = u.loadEnded (if buf then 1 else 0) num good :=
    State.afterLoad_of_idle (fun h => hrb (hurb.symm.trans h))
      ((State.snapFlight_congr (s := s) (t := u.loadEnded (if buf then 1 else 0) num good) huf).trans hflight)
  refine Eq.trans ?_ hend
  unfold State.ackLoad
  dsimp only
  rw [if_neg (mt List.contains_iff_mem.mp hcopy), if_neg hguard, hgood]
  cases good with
  | true =>
    have hus : s = u := hu
    subst hus
    rfl
  | false =>
    simp only [Bool.false_eq_true, if_false] at hu
    simp only [if_false, Bool.false_or, Bool.false_eq_true, hload, List.tail_cons, List.isEmpty_nil, Bool.not_true, hu]
    rfl

/-- What the report on the load of lost images leaves (R533). -/
def State.lostLoaded (s : State) (b : Fin 2) (fail : Bool) : State := { s with snap := { s.snap with
  copying := s.snap.copying.filter (· != (b, 4))
  buf := if fail then s.snap.buf.set b .empty else if s.snap.buf[b] = .load then s.snap.buf.set b .held
    else s.snap.buf } }

theorem State.ackLost_eq {b : Fin 2} {fail : Bool} (hflight : s.snapFlight = none) :
    s.ackLost b fail = s.lostLoaded b fail := by
  have hstate : (if fail = true then
        State.setBuf { s with snap := { s.snap with copying := s.snap.copying.filter (· != (b, 4)) } } b .empty
      else if s.snap.buf[b] = .load then
        State.setBuf { s with snap := { s.snap with copying := s.snap.copying.filter (· != (b, 4)) } } b .held
      else { s with snap := { s.snap with copying := s.snap.copying.filter (· != (b, 4)) } }) = s.lostLoaded b fail := by
    unfold State.lostLoaded
    cases fail with
    | true => rfl
    | false =>
      by_cases h : s.snap.buf[b] = .load
      · rw [if_neg Bool.false_ne_true, if_pos h, if_neg Bool.false_ne_true, if_pos h]
        rfl
      · rw [if_neg Bool.false_ne_true, if_neg h, if_neg Bool.false_ne_true, if_neg h]
  have hnone : (s.lostLoaded b fail).snapFlight = none := (State.snapFlight_congr (s := s) rfl).trans hflight
  unfold State.ackLost
  dsimp only
  rw [hstate, hnone]

theorem State.ackLoad_of_lost {num : BitVec 32} {buf fail : Bool}
    (hcopy : ((if buf then 1 else 0 : Fin 2), 4) ∈ s.snap.copying) :
    s.ackLoad num buf fail = s.ackLost (if buf then 1 else 0) fail :=
  if_pos (List.contains_iff_mem.mpr hcopy)

theorem State.ackLoad_of_none {num : BitVec 32} {buf fail : Bool} (hload : s.snap.loads = [])
    (hcopy : ((if buf then 1 else 0 : Fin 2), 4) ∉ s.snap.copying) : s.ackLoad num buf fail = s :=
  (if_neg (mt List.contains_iff_mem.mp hcopy)).trans (if_pos (.inl hload))

-- Parity.

/-- Parity over the images of a group's members. -/
def State.parityOver (s : State) (imgs : List Image) (g place : Nat) : Memory :=
  parityOf2 place ((gMembers (s.group g)).filterMap fun m => (imgs.find? fun x => x.node == m.1).map Image.cells)

/-- What a holder's new parity leaves of its node (R513, R522). -/
def State.parityWritten (s : State) (role : Fin 2) (cells : Memory) : State := { s with
  mem := Mem.paste s.mem (hallLoc (s.parAt role 0)) s.bufBytes cells
  snap := { s.snap with parSnum := s.snap.parSnum.set (2 * role.val % 4) s.snap.newest (Nat.mod_lt _ (by decide)) } }

theorem State.parSnum_parityWritten (role : Fin 2) (cells : Memory) :
    (s.parityWritten role cells).snap.parSnum[2 * role.val]? = some s.snap.newest := by
  have hlt : 2 * role.val < 4 := by omega
  have hmod : 2 * role.val % 4 = 2 * role.val := Nat.mod_eq_of_lt hlt
  simp only [State.parityWritten, hmod]
  rw [Vector.getElem?_eq_getElem hlt, Vector.getElem_set_self]

theorem State.counting_parityWritten (hc : Counting s) (role : Fin 2) (cells : Memory) :
    Counting (s.parityWritten role cells) := fun p h => hc p h

/-- A role's parity buffer of no snapshot. -/
theorem State.parSnum_of_zero (h : ∀ k : Fin 4, s.snap.parSnum[k] = 0) {k : Nat} (hk : k < 4) :
    s.snap.parSnum[k]? = some 0 ∧ s.snap.parSnum.toList.getD k 0 = 0 := by
  have hz : s.snap.parSnum[k] = 0 := h ⟨k, hk⟩
  refine ⟨by rw [Vector.getElem?_eq_getElem hk, hz], ?_⟩
  rw [List.getD_eq_getElem _ _ (by simpa using hk)]
  simpa using hz

theorem buffer_mem (b : Fin 2) : b ∈ ([0, 1] : List (Fin 2)) := by
  revert b; decide

theorem State.exec_parityComplete (hc : Counting s) {role : Fin 2} {imgs : List Image} {g place : Nat}
    (hrole : (s.rolesOf s.hall.nid)[role.val]? = some (g, place)) (hmgr : s.hall.actMgr ≠ s.hall.nid)
    (hdue : ∃ b : Fin 2, s.snap.buf[b] = .parity ∧ s.snap.bufSnum[b] = s.snap.newest) (hnew : s.snap.newest ≠ 0)
    (hpar : ∀ k : Fin 4, s.snap.parSnum[k] = 0) (himgs : ∀ m ∈ gMembers (s.group g), ∃ x ∈ imgs, x.node = m.1) :
    exec (.parityComplete role imgs) s = .next (((s.parityWritten role (s.parityOver imgs g place)).sluiceTo
      s.hall.actMgr (.parityDone s.hall.nid s.snap.newest)).1.snapPump) := by
  obtain ⟨h0, h0'⟩ := State.parSnum_of_zero hpar (k := 2 * role.val) (by omega)
  obtain ⟨h1, h1'⟩ := State.parSnum_of_zero hpar (k := 2 * role.val + 1) (by omega)
  have hne : (some 0 == some s.snap.newest) = false := by
    rw [beq_eq_false_iff_ne]
    exact fun h => hnew (Option.some.inj h).symm
  have hsome : (((gMembers (s.group g)).map fun m => imgs.find? fun x => x.node == m.1).any (·.isNone)) = false := by
    rw [List.any_eq_false]
    intro x hx
    obtain ⟨m, hm, rfl⟩ := List.mem_map.mp hx
    obtain ⟨y, hy, hym⟩ := himgs m hm
    rw [Option.isNone_iff_eq_none, List.find?_eq_none]
    exact fun h => h y hy (beq_iff_eq.mpr hym)
  have hready : (([0, 1] : List (Fin 2)).any fun b =>
      (s.snap.buf[b] == .parity || s.snap.buf[b] == .capture
        && s.snapFlight.any fun f => f.opc == 0x42 && f.phase == .waiting 6)
      && s.snap.bufSnum[b] == s.snap.newest) = true := by
    obtain ⟨b, hb, hn⟩ := hdue
    rw [List.any_eq_true]
    refine ⟨b, buffer_mem b, ?_⟩
    rw [hb, hn]
    simp
  have hcells : ((gMembers (s.group g)).map fun m => imgs.find? fun x => x.node == m.1).filterMap (·.map Image.cells)
      = (gMembers (s.group g)).filterMap fun m => (imgs.find? fun x => x.node == m.1).map Image.cells := by
    rw [List.filterMap_map]
    rfl
  show execParityComplete role imgs s = _
  unfold execParityComplete
  simp only [State.sweep_of_counting hc, hrole, h0, h1, hne, hsome, hready, hcells, h0', h1', Bool.not_true, Bool.or_false,
    Bool.false_eq_true, if_false, if_neg hmgr]
  rfl

/-- The history gives an interval from 30 s to four hours (R525). -/
theorem Snap.cadence_eq (x : Snap) : ∃ i m c, x.cadence = { x with interval := i, meanM := m, costC := c } ∧
    30 ≤ i.toNat ∧ i.toNat ≤ 14400 := by
  refine ⟨_, _, _, rfl, ?_⟩
  generalize Nat.sqrt _ = root
  rw [BitVec.toNat_ofNat, Nat.mod_eq_of_lt (by omega)]
  omega

theorem State.exec_parityNotice (hc : Counting s) (hflight : s.snapFlight = none) {n : BitVec 12} {num : BitVec 32}
    (hmgr : s.hall.actMgr ≠ s.hall.nid) :
    exec (.parityNotice n num) s = .next (if n = s.hall.actMgr then s.parityDone num else s) := by
  show execParityNotice n num s = _
  unfold execParityNotice
  rw [State.sweep_of_counting hc]
  dsimp only
  rw [if_neg hmgr, State.snapPump_of_none]
  split
  · obtain ⟨m, x, e, l, c, he, -⟩ := s.parityDone_buffers num
    rw [he]
    exact (State.snapFlight_congr (s := s) rfl).trans hflight
  · exact hflight

/-- Settles O58: each report or notice is the model's own operation on the state, as no SNAP or RESTORE is in flight. -/
theorem parityAndCopies : Obligations.ParityAndCopies := by
  unfold Obligations.ParityAndCopies
  intro s hflight hc
  have hstays : ∀ {t u : State}, t = u → u.hg = s.hg → t.snapPump = u := fun {t u} e h => by
    rw [e]
    exact State.snapPump_of_none ((State.snapFlight_congr h).trans hflight)
  refine ⟨fun role imgs g place hrole hmgr hdue hnew hpar himgs => ?_, fun role imgs hrole => ?_, fun n num hmgr hn => ?_,
    fun n num hmgr hn => ?_, fun num fail kind b ha hkind hmem hb ho hone => ?_, fun num fail ha hcopy => ?_,
    fun num r fail ha hload hbuf hrb hcopy => ?_, fun num b fail ha hcopy => ?_, fun num buf fail ha hload hcopy => ?_,
    fun n num store h => ?_, fun n num store => rfl, fun costs ivs => ?_⟩
  case refine_1 =>
    have hexec := State.exec_parityComplete hc hrole hmgr hdue hnew hpar himgs
    obtain ⟨q, o, l, e⟩ := (State.sluiceTo_tells (State.counting_parityWritten hc role (s.parityOver imgs g place))
      s.hall.actMgr (.parityDone s.hall.nid s.snap.newest)).passes
    have hpar' := s.parSnum_parityWritten role (s.parityOver imgs g place)
    unfold State.parityWritten at e hexec hpar'
    rw [hstays e (by simp only)] at hexec
    exact ⟨_, hexec, by simp only [State.parityOver], hpar', by simp only, by simp only⟩
  case refine_2 =>
    show execParityComplete role imgs s = _
    unfold execParityComplete
    simp only [State.sweep_of_counting hc, hrole, hstays (t := s) rfl rfl]
  case refine_3 =>
    obtain ⟨m, x, e, l, c, he, hbuf⟩ := s.parityDone_buffers num
    have hexec := State.exec_parityNotice hc hflight (n := n) (num := num) hmgr
    rw [if_pos hn, he] at hexec
    refine ⟨_, hexec, rfl, fun b hb hs => (hbuf b).2 ⟨hb, hs⟩, fun b hb => (hbuf b).1 fun h => ?_, rfl⟩
    exact hb.elim (fun k => k h.1) fun k => k h.2
  case refine_4 =>
    rw [State.exec_parityNotice hc hflight hmgr, if_neg hn]
  case refine_5 =>
    have hexec := State.exec_ackCopy ha hc kind hkind num fail
    have hfound := State.ackCopy_of_found (fail := fail) hmem hb ho
    have halone : ∀ m, (s.copyEnded b kind fail).toLive m = s.copyEnded b kind fail := State.toLive_of_alone hone
    rw [halone] at hfound
    have hnid : (s.copyEnded b kind false).hall.nid :: (s.copyEnded b kind false).others = [s.hall.nid] :=
      congrArg (s.hall.nid :: ·) hone
    cases fail with
    | true =>
      rw [if_pos rfl] at hfound
      rw [hstays hfound rfl] at hexec
      refine ⟨_, hexec, rfl, ?_, ?_, ?_, rfl, rfl⟩
      · exact (s.buf_copyEnded b kind true).trans (by simp)
      · exact (if_neg fun h => absurd h.2.1 (by decide)).symm
      · exact (if_neg fun h => absurd h.2.1 (by decide)).symm
    | false =>
      obtain ⟨so, fo, e⟩ := State.copied_eq (s := s.copyEnded b kind false) (n := s.hall.nid) (store := kind == 2)
        (num := num) fun m hm => .inl (by rwa [hnid, List.mem_singleton] at hm)
      rw [if_neg Bool.false_ne_true, e] at hfound
      rw [hstays hfound rfl] at hexec
      refine ⟨_, hexec, rfl, ?_, ?_, ?_, rfl, rfl⟩
      · exact s.buf_copyEnded b kind false
      · rcases hkind with rfl | rfl <;> simp [answered, State.copyEnded]
      · rcases hkind with rfl | rfl <;> simp [answered, State.copyEnded]
  case refine_6 =>
    have h := fun kind hk => State.exec_ackCopy ha hc kind hk num fail
    simp only [State.ackCopy_of_none hcopy, hstays (t := s) rfl rfl] at h
    exact ⟨h 1 (.inl rfl), h 2 (.inr rfl)⟩
  case refine_7 =>
    generalize hgood : (!fail && s.imageGood s.snap.loadBuf num.toNat) = good
    have hexec := State.exec_ackLoad ha hc num (decide (s.snap.loadBuf = 1)) fail
    have hlast := fun u hu => State.ackLoad_of_last (num := num) (buf := decide (s.snap.loadBuf = 1)) (fail := fail)
      (bufferOf s.snap.loadBuf) hload rfl hbuf hcopy hrb hflight hgood (u := u) hu
    cases good with
    | true =>
      rw [hlast s rfl rfl rfl] at hexec
      exact ⟨_, hexec, Vector.getElem_set_self .., Vector.getElem_set_self .., rfl, rfl, fun _ => ⟨rfl, rfl⟩,
        fun h => absurd h (by decide), rfl⟩
    | false =>
      cases fail with
      | true =>
        rw [hlast { s with snap := { s.snap with loads := [] } } rfl rfl rfl] at hexec
        exact ⟨_, hexec, Vector.getElem_set_self .., rfl, rfl, rfl, fun _ => ⟨rfl, rfl⟩,
          fun _ h => absurd h (by decide), rfl⟩
      | false =>
        obtain ⟨m, x, v, e, -, hpend⟩ := State.raise_events { s with snap := { s.snap with loads := [] } } .rebuild
          { unit := 12 } 2 num.toNat (lostWord s.snap.lost)
        rw [hlast _ e rfl rfl] at hexec
        exact ⟨_, hexec, Vector.getElem_set_self .., rfl, rfl, rfl,
          fun h => absurd h (by decide), fun _ _ => hpend, rfl⟩
  case refine_8 =>
    have hexec := State.exec_ackLoad ha hc num (decide (b = 1)) fail
    rw [State.ackLoad_of_lost (by rwa [bufferOf]), bufferOf, State.ackLost_eq hflight] at hexec
    refine ⟨_, hexec, rfl, ?_, rfl, rfl, rfl, rfl⟩
    simp only [answered, State.lostLoaded]
    cases fail with
    | true => exact Vector.getElem_set_self ..
    | false =>
      by_cases h : s.snap.buf[b] = .load
      · simp only [Bool.false_eq_true, if_false, h, if_true]
        exact Vector.getElem_set_self ..
      · simp only [Bool.false_eq_true, if_false, h]
  case refine_9 => rw [State.exec_ackLoad ha hc, State.ackLoad_of_none hload hcopy]
  case refine_10 =>
    obtain ⟨so, fo, e⟩ := State.copied_eq (s := s) (n := n) (store := store) (num := num) fun m hm =>
      (h m hm).imp_right fun k => by cases store <;> simp [k]
    refine ⟨s.copied n store num, rfl, ?_, ?_, ?_⟩
    · rw [e]
      cases store with
      | true => exact if_layer_durable rfl num s.snap.durStore
      | false => exact if_layer_durable rfl num s.snap.durFlash
    · rw [e]
    · rw [e]
  case refine_11 =>
    obtain ⟨i, m, c, he, hlo, hhi⟩ := Snap.cadence_eq { s.snap with costs := costs, intervals := ivs }
    refine ⟨{ s with snap := { s.snap with costs := costs, intervals := ivs }.cadence }, rfl, ?_⟩
    rw [he]
    exact ⟨rfl, rfl, hlo, hhi, rfl⟩

end Sys2Proof.Machine
end
section
/-! O57: the collective phases of SNAP and RESTORE, and the end of a rebuild (R516, R519, R530, R533, R534, R536). -/
namespace Sys2Proof.Machine
open Sys2Proof.Claims
variable {s t : State}

-- The SNAP or RESTORE in flight.

theorem State.snapFlight_opc {f : Flight} (h : s.snapFlight = some f) : (f.opc == 0x42 || f.opc == 0x43) = true := by
  have := List.find?_some h
  exact this

/-- The first member that `p` holds of, replaced with others by one that it holds of. -/
theorem find_map_replace {α : Type} {p c : α → Bool} {l : List α} {f g : α} (h : l.find? p = some f)
    (hc : c f = true) (hg : p g = true) : (l.map fun x => if c x = true then g else x).find? p = some g := by
  induction l with
  | nil => exact absurd h nofun
  | cons x l ih =>
    rw [List.map_cons]
    by_cases hx : c x = true
    · rw [if_pos hx, List.find?_cons_of_pos hg]
    · rw [if_neg hx]
      by_cases hp : p x = true
      · rw [List.find?_cons_of_pos hp] at h
        exact absurd (Option.some.inj h ▸ hc) hx
      · rw [List.find?_cons_of_neg hp] at h ⊢
        exact ih h

/-- Its entry replaced by one of the same kind is the SNAP or RESTORE in flight. -/
theorem State.snapFlight_setFlight {f g : Flight} (h : s.snapFlight = some f) (hslot : g.slot = f.slot)
    (hnode : g.node = f.node) (hopc : g.opc = f.opc) : (s.setFlight g).snapFlight = some g := by
  have hg : (g.opc == 0x42 || g.opc == 0x43) = true := hopc ▸ State.snapFlight_opc h
  exact find_map_replace (c := fun x => x.slot == g.slot && x.node == g.node) h (by simp [hslot, hnode]) hg

theorem State.snapPhase_of_other {f : Flight} (h : s.snapFlight = some f) {p : Nat} (hp : f.phase ≠ .waiting p) :
    s.snapPhase p = s := by
  unfold State.snapPhase
  rw [h]
  exact if_pos hp

/-- The capture and the writing go on by themselves. -/
theorem State.snapPump_of_capture {f : Flight} (h : s.snapFlight = some f) (hp : f.phase = .waiting 4) :
    s.snapPump = s := by
  have hid : ∀ p, p ≠ 4 → s.snapPhase p = s := fun p hne =>
    State.snapPhase_of_other h (by rw [hp]; exact fun e => hne (FPhase.waiting.inj e).symm)
  rw [State.snapPump, hid 1 (by decide), hid 2 (by decide), hid 3 (by decide), hid 5 (by decide)]

/-- A lone node waits for no other's done (R519). -/
theorem State.snapPump_of_done {f : Flight} (h : s.snapFlight = some f) (hp : f.phase = .waiting 5)
    (halone : s.others = []) : s.snapPump
      = { s.setFlight { f with phase := .waiting 6 } with snap := { s.snap with dones := [] } } := by
  have hid : ∀ p, p ≠ 5 → s.snapPhase p = s := fun p hne =>
    State.snapPhase_of_other h (by rw [hp]; exact fun e => hne (FPhase.waiting.inj e).symm)
  rw [State.snapPump, hid 1 (by decide), hid 2 (by decide), hid 3 (by decide)]
  have hdone : s.snapPhase 5 = s.donePump f := by
    unfold State.snapPhase
    rw [h]
    exact if_neg fun hn => hn hp
  rw [hdone, State.donePump, halone]
  rfl

/-- A lone node that ends its capture or writing is done at once (R519, R534). -/
theorem State.lone_done {f : Flight} (h : s.snapFlight = some f) (halone : s.others = []) (m : Sluice) :
    ∃ t, ((s.toLive m).setFlight { f with phase := .waiting 5 }).snapPump = t ∧
      t.snapFlight = some { f with phase := .waiting 6 } ∧
      t = { s with hg := { s.hg with flight := t.hg.flight }, snap := { s.snap with dones := [] } } := by
  rw [State.toLive_of_alone halone]
  have h5 : (s.setFlight { f with phase := .waiting 5 }).snapFlight = some { f with phase := .waiting 5 } :=
    State.snapFlight_setFlight h rfl rfl rfl
  have hlone : (s.setFlight { f with phase := .waiting 5 }).others = [] := halone
  exact ⟨_, State.snapPump_of_done h5 rfl hlone, State.snapFlight_setFlight h5 rfl rfl rfl, rfl⟩

-- Readies and dones of other nodes.

theorem State.exec_snapReady (hc : Counting s) (h : s.snapFlight = none) {n : BitVec 12} (hn : n ∈ s.others)
    (num : BitVec 32) (d : BitVec 2) (k : BitVec 8) : exec (.snapReady n num d k) s
      = .next { s with snap := { s.snap with readies := ⟨n, num, d, k⟩ :: s.snap.readies } } := by
  change execSnapReady n num d k s = _
  rw [execSnapReady, State.sweep_of_counting hc]
  dsimp only
  rw [if_neg (by simp [hn])]
  congr 1
  exact State.snapPump_of_none ((State.snapFlight_congr rfl).trans h)

theorem State.exec_snapReady_of_stranger (hc : Counting s) {n : BitVec 12} (hn : n ∉ s.others)
    (num : BitVec 32) (d : BitVec 2) (k : BitVec 8) : exec (.snapReady n num d k) s = .next s := by
  change execSnapReady n num d k s = _
  rw [execSnapReady, State.sweep_of_counting hc]
  dsimp only
  rw [if_pos (by simp [hn])]

theorem State.exec_captureDone (hc : Counting s) {f : Flight} (h : s.snapFlight = some f) (hp : f.phase = .waiting 4)
    {n : BitVec 12} {num : BitVec 32} (hnum : snNum f.word = num.toNat) (hn : n ∈ s.others) (hnew : n ∉ s.snap.dones) :
    exec (.captureDone n num) s = .next { s with snap := { s.snap with dones := n :: s.snap.dones } } := by
  change execCaptureDone n num s = _
  rw [execCaptureDone, State.sweep_of_counting hc]
  simp only [h]
  rw [if_pos (by simp [hnum, hn, hnew])]
  congr 1
  exact State.snapPump_of_capture ((State.snapFlight_congr rfl).trans h) hp

theorem State.exec_captureDone_of_none (hc : Counting s) (h : s.snapFlight = none) (n : BitVec 12) (num : BitVec 32) :
    exec (.captureDone n num) s = .next s := by
  change execCaptureDone n num s = _
  rw [execCaptureDone, State.sweep_of_counting hc]
  simp only [h]

-- Writing the image.

namespace State.Writes
variable {a : State}

theorem wrN (h : s.Writes a) {x n v} : s.Writes (a.wrN x n v) := h.trans (a.wrN_writes x n v)

theorem paste (h : s.Writes a) {x n cells} : s.Writes { a with mem := Mem.paste a.mem x n cells } :=
  h.trans ⟨_, rfl, fun hm => Memory.wf_paste hm _ _ _⟩

theorem ite {c : Prop} [Decidable c] {b : State} (h : s.Writes a) (k : s.Writes b) : s.Writes (if c then a else b) := by
  split <;> assumption

theorem each {α : Type} {f : State → α → State} {l : List α} (h : s.Writes a)
    (hf : ∀ (b : State) x, b.Writes (f b x)) : s.Writes (l.foldl f a) := h.trans (.foldl hf l a)

theorem eachFst {α β : Type} {f : State × β → α → State × β} {l : List α} {p : State × β} (h : s.Writes p.1)
    (hf : ∀ (p : State × β) x, p.1.Writes (f p x).1) : s.Writes (l.foldl f p).1 := by
  induction l generalizing p with
  | nil => exact h
  | cons x l ih => exact ih (h.trans (hf p x))

/-- The state of a pair, by the equation that names it. -/
theorem of_eq {β : Type} {p : State × β} {x : β} (e : p = (t, x)) (h : s.Writes p.1) : s.Writes t := by
  subst e
  exact h

theorem mem_wf (h : s.Writes t) (hm : Memory.wf s.mem = true) : Memory.wf t.mem = true := by
  obtain ⟨m, rfl, k⟩ := h
  exact k hm

theorem eq_mem (h : s.Writes t) : t = { s with mem := t.mem } := by
  obtain ⟨m, rfl, -⟩ := h
  rfl

theorem snap (h : s.Writes t) : t.snap = s.snap := by
  obtain ⟨m, rfl, -⟩ := h
  rfl

end State.Writes

theorem State.copyMem_writes (s : State) (src dst n : Nat) : s.Writes (s.copyMem src dst n) := (State.Writes.refl s).paste

theorem State.putIndex_writes (s : State) (i : Fin 16) (at_ e r : Nat) (q : Tensor) : s.Writes (s.putIndex i at_ e r q) := by
  have hfirst := (State.Writes.refl s).wrN (x := at_ + idxAt e r) (n := 8)
    (v := 1 + put 8 8 (s.holdTag i q) + put 16 16 q.ix) |>.wrN (x := at_ + idxAt e r + 64) (n := 64) (v := q.d)
  unfold State.putIndex
  exact .ite hfirst.wrN (hfirst.wrN.each fun b _ => (State.Writes.refl b).wrN)

theorem State.putElems_writes (s : State) (i : Fin 16) (at_ : Nat) (q : Tensor) : s.Writes (s.putElems i at_ q).1 := by
  have each : ∀ {α : Type} (l : List α) (x v : α → Nat) (n : Nat), s.Writes (l.foldl (fun b c => b.wrN (x c) n (v c)) s) :=
    fun l x v n => (State.Writes.refl s).each fun b _ => (State.Writes.refl b).wrN
  exact .ite (each ..) (.ite (each ..) (each ..))

/-- The first words of an image hold its number and, from bit 64 on, its capture tick (R514). -/
theorem imageHead_fields {num : Nat} (hnum : num < 2 ^ 32) (tick : BitVec 64) (node grp depth step pages len slot : Nat) :
    let hd := put 0 32 num + put 32 12 node + put 44 12 grp + put 56 2 depth + put 64 64 tick.toNat + put 128 32 step
      + put 160 28 pages + put 188 4 1 + put 192 16 len + put 208 4 slot
    fld hd 0 32 = num ∧ fld hd 64 64 = tick.toNat := by
  have h0 : put 0 32 num = num := by rw [put, Nat.shiftLeft_zero, Nat.mod_eq_of_lt hnum]
  have low : num + put 32 12 node + put 44 12 grp + put 56 2 depth < 2 ^ 64 :=
    lt_two_pow_add_put (lt_two_pow_add_put (k := 56) (lt_two_pow_add_put (k := 44) hnum (by decide) _) (by decide) _) (by decide) _
  intro hd
  constructor
  · iterate 9 rw [fld_add_put_below (by decide)]
    rw [h0, fld, Nat.shiftRight_zero, Nat.mod_eq_of_lt hnum]
  · iterate 5 rw [fld_add_put_below (by decide)]
    rw [h0, fld_add_put_at low, Nat.mod_eq_of_lt tick.isLt]

/-- `t` is `s` after writes to memory, the last of them the first words of an image at `base` and then its tag. -/
def State.Heads (s : State) (base num tick : Nat) (t : State) : Prop := ∃ u hd tag, s.Writes u ∧
  fld hd 0 32 = num ∧ fld hd 64 64 = tick ∧ t = (u.wrN base 64 hd).wrN (base + 32) 16 tag

/-- The image of a SNAP is written with its first words and then its tag last (R514, R516). -/
theorem State.writeImage_heads (s : State) (f : Flight) (b : Fin 2) (ovf : Memory) :
    s.Heads (s.bufAt b) (snNum f.word) s.snap.capTick.toNat (s.writeImage f b ovf) := by
  unfold State.writeImage
  extract_lets i w base ts n pages src s1 s2
  have h1 : s.Writes s1 := (State.Writes.refl s).paste
  have h2 : s.Writes s2 := h1.each fun b x => (State.Writes.refl b).each fun b r => by
    split
    · exact b.putIndex_writes ..
    · exact .refl b
  split
  rename_i t p e
  have h3 : s.Writes t := by
    refine .of_eq e (.eachFst h2 fun p x => .eachFst (.refl p.1) fun p r => ?_)
    split
    · exact p.1.putElems_writes ..
    · exact .refl p.1
  extract_lets s3 s4 st x top s5 s6 hdr
  have h4 : s.Writes s4 := (h3.trans (t.copyMem_writes ..)).trans (s3.copyMem_writes ..)
  have h5 : s.Writes s5 := h4.each fun b _ => (State.Writes.refl b).wrN
  have h6 : s.Writes s6 := h5.each fun b _ => (State.Writes.refl b).wrN
  split
  rename_i u q e'
  have hu : s.Writes u := .of_eq e' (.eachFst h6 fun p _ => .each (.refl p.1) fun b _ => (State.Writes.refl b).wrN)
  obtain ⟨hnum, htick⟩ := imageHead_fields (num := snNum w) (fld_lt _ _ _) u.snap.capTick u.hall.nid.toNat u.myGroup
    (snDepth w) u.hg.stepNo.toNat pages n i.val
  exact ⟨u, _, _, hu, hnum, htick.trans (congrArg (fun x => x.capTick.toNat) hu.snap), rfl⟩

theorem Mem.getN_add (m : Memory) (a j n : Nat) :
    Mem.getN m a (j + n) = Mem.getN m a j + 256 ^ j * Mem.getN m (a + j) n := by
  induction j generalizing a with
  | zero => simp [Mem.getN]
  | succ j ih =>
    rw [Nat.succ_add_eq_add_succ, Nat.add_succ, Mem.getN, Mem.getN, ih, Nat.succ_add_eq_add_succ a j, Nat.pow_succ]
    ring

/-- Bytes within a number in memory are some of its bits. -/
theorem Mem.getN_part (m : Memory) (a : Nat) {j n l : Nat} (h : j + n ≤ l) :
    Mem.getN m (a + j) n = fld (Mem.getN m a l) (8 * j) (8 * n) := by
  obtain ⟨r, rfl⟩ := Nat.exists_eq_add_of_le h
  have hpow : ∀ k, 2 ^ (8 * k) = 256 ^ k := fun k => Nat.pow_mul 2 8 k
  rw [fld, Nat.shiftRight_eq_div_pow, hpow, hpow, Nat.add_assoc, Mem.getN_add m a j, Mem.getN_add m (a + j) n,
    Nat.add_mul_div_left _ _ (Nat.pow_pos (by decide)), Nat.div_eq_of_lt (Mem.getN_lt m a j), Nat.zero_add,
    Nat.add_mul_mod_self_left, Nat.mod_eq_of_lt (Mem.getN_lt m (a + j) n)]

/-- The tag of an image lies past its number and its capture tick (R514). -/
theorem hallLoc_tag (h : Nat) : hallLoc h + 16 ≤ hallLoc (h + 32) ∨ hallLoc (h + 32) + 16 ≤ hallLoc h := by
  simp only [hallLoc, fld, Nat.shiftRight_zero]
  omega

/-- Words of which another number is written apart stay. -/
theorem Mem.getN_setN_part {m : Memory} (hm : Memory.wf m = true) {a b j n : Nat} (hj : j + n ≤ 16)
    (hab : a + 16 ≤ b ∨ b + 16 ≤ a) (x y : Nat) :
    Mem.getN (Mem.setN (Mem.setN m a 64 x) b 16 y) (a + j) n = fld x (8 * j) (8 * n) := by
  have hapart : ∀ c, a + j ≤ c → c < a + j + n → c < b ∨ b + 16 ≤ c := by omega
  rw [Mem.getN_congr fun c h1 h2 => Mem.get_setN_other (Memory.wf_setN hm a 64 x) y (hapart c h1 h2),
    Mem.getN_part _ _ (show j + n ≤ 64 by omega), fld_getN_setN hm _ _ (by omega)]

/-- The number and the capture tick of an image stand in memory. -/
theorem State.Heads.read {base num tick : Nat} (h : s.Heads base num tick t) (hm : Memory.wf s.mem = true) :
    Mem.getN t.mem (hallLoc base) 4 = num ∧ Mem.getN t.mem (hallLoc base + 8) 8 = tick := by
  obtain ⟨u, hd, tag, hu, hnum, htick, rfl⟩ := h
  have hwf := hu.mem_wf hm
  rw [State.wrN_mem, State.wrN_mem]
  constructor
  · exact (Mem.getN_setN_part (j := 0) hwf (by decide) (hallLoc_tag base) hd tag).trans hnum
  · exact (Mem.getN_setN_part (j := 8) hwf (by decide) (hallLoc_tag base) hd tag).trans htick

theorem State.Heads.writes {base num tick : Nat} (h : s.Heads base num tick t) : s.Writes t := by
  obtain ⟨u, hd, tag, hu, -, -, rfl⟩ := h
  exact hu.wrN.wrN

/-- What a SNAP's capture leaves, for a lone node (R514, R519). -/
theorem State.exec_snapCaptureEnd (hc : Counting s) (hm : Memory.wf s.mem = true) {f : Flight} (h : s.snapFlight = some f)
    (hopc : f.opc = 0x42) (hp : f.phase = .waiting 4) (halone : s.others = []) (ovf : Memory) :
    let num := BitVec.ofNat 32 (snNum f.word)
    ∃ t, exec (.snapCaptureEnd ovf) s = .next t ∧ t.snapFlight = some { f with phase := .waiting 6 } ∧
      Mem.getN t.mem (hallLoc (s.bufAt s.captureBuf)) 4 = snNum f.word ∧
      Mem.getN t.mem (hallLoc (s.bufAt s.captureBuf) + 8) 8 = s.snap.capTick.toNat ∧
      t = { s with
        mem := t.mem
        hg := { s.hg with flight := t.hg.flight }
        snap := { s.snap with
          maxSnum := num, first := if s.snap.first = 0 then num else s.snap.first, newest := num
          newestTick := s.snap.capTick, dones := [] } } := by
  intro num
  change ∃ t, execSnapCaptureEnd ovf s = _ ∧ _
  rw [execSnapCaptureEnd, State.sweep_of_counting hc]
  simp only [h]
  rw [if_pos ⟨hopc, hp⟩]
  have hhead := s.writeImage_heads f s.captureBuf ovf
  obtain ⟨hnum, htick⟩ := hhead.read hm
  obtain ⟨m, hw, -⟩ := hhead.writes
  generalize s.writeImage f s.captureBuf ovf = v at hnum htick hw ⊢
  subst hw
  obtain ⟨t, ht, hflight, hrest⟩ := State.lone_done (s := { s with
      mem := m
      snap := { s.snap with
        maxSnum := num, first := if s.snap.first = 0 then num else s.snap.first, newest := num
        newestTick := s.snap.capTick } }) ((State.snapFlight_congr rfl).trans h) halone (.captureDone s.hall.nid num)
  have hmem : t.mem = m := congrArg State.mem hrest
  refine ⟨t, congrArg _ ht, hflight, ?_⟩
  rw [hmem]
  exact ⟨hnum, htick, hrest⟩

end Sys2Proof.Machine
end
section
/-! O57, continued: what a RESTORE writes changes no register and no instruction in flight (R534, R536 to R538). -/
namespace Sys2Proof.Machine
open Sys2Proof.Claims

namespace State.Retains
variable {s a t : State}

theorem eachFst {α β : Type} {f : State × β → α → State × β} {l : List α} {p : State × β} (h : s.Retains p.1)
    (hf : ∀ {b x}, s.Retains b.1 → s.Retains (f b x).1) : s.Retains (l.foldl f p).1 := by
  induction l generalizing p with
  | nil => exact h
  | cons x l ih => exact ih (hf h)

/-- The state of a pair, by the equation that names it. -/
theorem of_eq {β : Type} {p : State × β} {x : β} (e : p = (t, x)) (h : s.Retains p.1) : s.Retains t := by
  subst e
  exact h

theorem writePlace (h : s.Retains a) {i n p v} : s.Retains (a.writePlace i n p v) := by
  have hfollow : ∀ x l, s.Retains (a.follow x l) := fun x l => h.sends (a.follow_sends x l)
  unfold State.writePlace
  extract_lets bytes new b
  have hb : s.Retains b := .ite h.wrN (.ite (h.wrAny.foldl fun h => h.wrAny) (hfollow ..).sendWrite)
  exact .ite hb hb.wrAny

theorem restoreTensor (h : s.Retains a) {f own e r q} : s.Retains (a.restoreTensor f own e r q) := by
  unfold State.restoreTensor
  extract_lets
  split
  · exact h
  · refine h.foldl fun h => ?_
    dsimp only
    split
    · exact h
    · exact .ite h.wrN (.ite h h.writePlace)

theorem restoreVersions (h : s.Retains a) {rd ver dt listed} : s.Retains (a.restoreVersions rd ver dt listed) :=
  h.foldl fun h => h.wrN

theorem restoreStash (h : s.Retains a) {i n rd st dt} : s.Retains (a.restoreStash i n rd st dt) := by
  unfold State.restoreStash
  extract_lets
  split
  · exact h
  · split
    rename_i b p off e
    have hovf : s.Retains b := by
      refine .of_eq e (.eachFst h fun h => ?_)
      split
      exact h.forN fun h => h.sendWrite
    split
    rename_i c p rg e'
    have hring : s.Retains c := by
      refine .of_eq e' (.eachFst hovf fun h => ?_)
      split
      exact h.forN fun h => h.wrN
    exact hring.setSlot

theorem stewardBack (h : s.Retains a) {own} : s.Retains (a.stewardBack own) := h.fields

theorem restoreAll (h : s.Retains a) {f} : s.Retains (a.restoreAll f) := by
  unfold State.restoreAll
  extract_lets
  split
  · exact h
  · extract_lets _ tensors _ _ tables _ versions _ steward
    have h1 : s.Retains tensors := by
      refine h.foldl fun h => h.foldl fun h => ?_
      split
      · exact h.restoreTensor
      · exact h
    have h2 : s.Retains tables := h1.fields
    have h3 : s.Retains versions := h2.restoreVersions
    have h4 : s.Retains steward := h3.fields.stewardBack
    exact h4.restoreStash

end State.Retains

variable {s : State}

/-- What a RESTORE's writing leaves, for a lone node (R534, R539). -/
theorem State.exec_restoreWriteEnd (hc : Counting s) {f : Flight} (h : s.snapFlight = some f) (hopc : f.opc = 0x43)
    (hp : f.phase = .waiting 4) (halone : s.others = []) (images : List Image) :
    let u := s.restoreAll { f with images := images ++ f.images }
    ∃ t, exec (.restoreWriteEnd images) s = .next t ∧ t.snapFlight = some { f with phase := .waiting 6 } ∧
      t = { u with hg := { u.hg with flight := t.hg.flight }, snap := { u.snap with dones := [] } } := by
  intro u
  obtain ⟨hregs, hflight⟩ : s.Retains u := (State.Retains.refl s).restoreAll
  have hu : u.snapFlight = some f := (congrArg (List.find? _) hflight).trans h
  have hlone : u.others = [] := by rw [State.others, hregs.hall]; exact halone
  obtain ⟨t, ht, hdone⟩ := State.lone_done hu hlone (.captureDone u.hall.nid (BitVec.ofNat 32 (snNum f.word)))
  refine ⟨t, ?_, hdone⟩
  change execRestoreWriteEnd images s = _
  rw [execRestoreWriteEnd, State.sweep_of_counting hc]
  simp only [h]
  rw [if_pos ⟨hopc, hp⟩]
  exact congrArg _ ht

theorem State.exec_restoreWriteEnd_of_none (hc : Counting s) (h : s.snapFlight = none) (images : List Image) :
    exec (.restoreWriteEnd images) s = .next s := by
  change execRestoreWriteEnd images s = _
  rw [execRestoreWriteEnd, State.sweep_of_counting hc]
  simp only [h]

theorem State.exec_snapCaptureEnd_of_none (hc : Counting s) (h : s.snapFlight = none) (ovf : Memory) :
    exec (.snapCaptureEnd ovf) s = .next s := by
  change execSnapCaptureEnd ovf s = _
  rw [execSnapCaptureEnd, State.sweep_of_counting hc]
  simp only [h]

-- The end of a rebuild.

/-- A rebuild ends: the buffer of its pages is HELD, and REBUILD is raised (R530, R533). -/
def State.rebuilt (s : State) : State :=
  let u := if s.snap.buf[s.captureBuf] = .rebuild then s.setBuf s.captureBuf .held else s
  (({ u with snap := { u.snap with rb := .done } }).raiseRebuild 1 u.snap.target).showReasons

/-- This node's pages change memory alone. -/
theorem State.takePages_writes (s : State) (mine : List (Memory × Nat)) : s.Writes (s.takePages mine) :=
  (State.Writes.refl s).each fun b _ => (State.Writes.refl b).paste

theorem State.takePages_nil (s : State) : s.takePages [] = s := by
  rw [State.takePages, List.take_nil]
  rfl

theorem State.rebuilt_eq (s : State) : ∃ m x v, s.rebuilt = { s with
      mem := m
      tr := x
      evt := v
      snap := { s.snap with
        rb := .done
        buf := if s.snap.buf[s.captureBuf] = .rebuild then s.snap.buf.set s.captureBuf .held else s.snap.buf } } ∧
    v.pend.getLsbD 16 = true := by
  unfold State.rebuilt State.raiseRebuild
  extract_lets u
  have hu : u = { s with snap := { s.snap with
      buf := if s.snap.buf[s.captureBuf] = .rebuild then s.snap.buf.set s.captureBuf .held else s.snap.buf } } := by
    unfold u
    split <;> rfl
  obtain ⟨m, x, v, hraise, -, hpend⟩ := State.raise_events { u with snap := { u.snap with rb := .done } } .rebuild
    { unit := 12 } 1 u.snap.target.toNat (lostWord u.snap.lost)
  obtain ⟨m', hshow, -⟩ := State.showReasons_writes { ({ u with snap := { u.snap with rb := .done } } : State) with
    mem := m, tr := x, evt := v }
  refine ⟨m', x, v, ?_, hpend⟩
  rw [hraise, hshow, hu]

/-- A rebuild of which this node takes pages ends (R530, R533). -/
theorem State.rebuilt_takePages (s : State) (mine : List (Memory × Nat)) :
    ∃ m x v, (s.takePages mine).rebuilt = { s with
      mem := m
      tr := x
      evt := v
      snap := { s.snap with
        rb := .done
        buf := if s.snap.buf[s.captureBuf] = .rebuild then s.snap.buf.set s.captureBuf .held else s.snap.buf } } ∧
    v.pend.getLsbD 16 = true := by
  obtain ⟨m, hm, -⟩ := s.takePages_writes mine
  rw [hm]
  exact State.rebuilt_eq { s with mem := m }

/-- What REBUILD_DONE does, by the phase of the rebuild. -/
theorem execRebuildDone_eq (imgs : List Image) (s : State) : execRebuildDone imgs s = .next (
    if s.snap.rb = .fallback then
      if s.snap.loads ≠ [] ∨ s.snap.copying.any (fun c => c.2 == 4) ∨ imgs.map Image.node ≠ s.snap.lost then s
      else if s.snap.buf[s.captureBuf] ≠ .rebuild then s.rebuilt
      else (s.takePages (s.dealt (imgs.map fun x => (x.node, x.cells))).1).rebuilt
    else if s.snap.rb ≠ .running ∨ imgs.map Image.node ≠ s.rebuildReads then s
    else if s.snap.imgpg.toNat < (s.dealt (s.solveAll imgs)).2 then s.dropPages.fallback
    else (s.takePages (s.dealt (s.solveAll imgs)).1).rebuilt) := by
  rfl

/-- The images of a rebuild are there, and no survivor's share exceeds a buffer (R530). -/
theorem State.exec_rebuildDone {imgs : List Image} (hrb : s.snap.rb = .running)
    (himgs : imgs.map Image.node = s.rebuildReads) (hfits : (s.dealt (s.solveAll imgs)).2 ≤ s.snap.imgpg.toNat) :
    exec (.rebuildDone imgs) s = .next (s.takePages (s.dealt (s.solveAll imgs)).1).rebuilt := by
  refine (execRebuildDone_eq imgs s).trans ?_
  rw [if_neg (by rw [hrb]; decide), if_neg (by simp [hrb, himgs]), if_neg (Nat.not_lt.mpr hfits)]

/-- The loads of a fallback are all acknowledged (R532). -/
theorem State.exec_rebuildDone_of_fallback {imgs : List Image} (hrb : s.snap.rb = .fallback) (hloads : s.snap.loads = [])
    (hcopies : ∀ c ∈ s.snap.copying, c.2 ≠ 4) (himgs : imgs.map Image.node = s.snap.lost) :
    ∃ mine, exec (.rebuildDone imgs) s = .next (s.takePages mine).rebuilt := by
  have hany : (s.snap.copying.any fun c => c.2 == 4) = false :=
    List.any_eq_false.mpr fun c hc => by simp [hcopies c hc]
  have hready : ¬ (s.snap.loads ≠ [] ∨ (s.snap.copying.any fun c => c.2 == 4) = true ∨ imgs.map Image.node ≠ s.snap.lost) := by
    simp [hloads, himgs, hany]
  rw [show exec (.rebuildDone imgs) s = _ from execRebuildDone_eq imgs s, if_pos hrb, if_neg hready]
  split
  · exact ⟨[], by rw [State.takePages_nil]⟩
  · exact ⟨_, rfl⟩

theorem State.exec_rebuildDone_of_none (hrun : s.snap.rb ≠ .running) (hfall : s.snap.rb ≠ .fallback)
    (imgs : List Image) : exec (.rebuildDone imgs) s = .next s := by
  refine (execRebuildDone_eq imgs s).trans ?_
  rw [if_neg hfall, if_pos (.inl hrun)]

/-- Settles O57: a node alone is done with its own capture or writing; the image ends with its first words and its tag; a
RESTORE's writing retains registers and flights; and the end of a rebuild but for REBUILD touches its buffer alone. -/
theorem snapshotPhases : Obligations.SnapshotPhases := by
  unfold Obligations.SnapshotPhases
  intro s hc
  refine ⟨fun n num d k hn h => State.exec_snapReady hc h hn num d k,
    fun n num d k hn => State.exec_snapReady_of_stranger hc hn num d k,
    fun n num f h hp hnum hn hnew => State.exec_captureDone hc h hp hnum hn hnew,
    fun n num h => State.exec_captureDone_of_none hc h n num, ?_, ?_,
    fun h => ⟨State.exec_restoreWriteEnd_of_none hc h, State.exec_snapCaptureEnd_of_none hc h []⟩, ?_, ?_,
    fun imgs hrun hfall => State.exec_rebuildDone_of_none hrun hfall imgs⟩
  · intro ovf f hm h hopc hp halone
    obtain ⟨t, ht, hflight, hnum, htick, hrest⟩ := State.exec_snapCaptureEnd hc hm h hopc hp halone ovf
    refine ⟨t, ht, hflight, (congrArg State.snap hrest :), hnum, fun _ => htick, ?_, (congrArg State.evt hrest :),
      (congrArg State.rem hrest :)⟩
    exact (congrArg (fun t => t.hg.slots) hrest :)
  · intro images f h hopc hp halone u
    obtain ⟨t, ht, hflight, hrest⟩ := State.exec_restoreWriteEnd hc h hopc hp halone images
    exact ⟨t, ht, hflight, (congrArg State.mem hrest :), (congrArg (fun t => t.hg.stepNo) hrest :),
      (congrArg (fun t => t.hg.slots) hrest :)⟩
  · intro imgs hrb himgs hfits
    obtain ⟨m, x, v, hend, hpend⟩ := s.rebuilt_takePages (s.dealt (s.solveAll imgs)).1
    exact ⟨_, (State.exec_rebuildDone hrb himgs hfits).trans (congrArg _ hend), rfl, hpend, rfl, rfl, rfl⟩
  · intro imgs hrb hloads hcopies himgs
    obtain ⟨mine, hexec⟩ := State.exec_rebuildDone_of_fallback hrb hloads hcopies himgs
    obtain ⟨m, x, v, hend, hpend⟩ := s.rebuilt_takePages mine
    refine ⟨_, hexec.trans (congrArg _ hend), rfl, fun hbuf => ?_, hpend, rfl, rfl⟩
    dsimp only
    rw [if_pos hbuf]
    exact Vector.getElem_set_self ..

end Sys2Proof.Machine
end
